-- ==== Sys2Proof/Word.lean ====
section
/-!
DEFINITION. Words of the T6 (R8, R9) and the sorted association lists that sparse state is kept in.
-/
namespace Sys2Proof

/-- A byte (R9). -/
abbrev Byte := BitVec 8
/-- A doubleword: a scalar register, an address, a system register (R9, R21). -/
abbrev Word := BitVec 64
/-- A vector register, lane k at bits [32k+31:32k] (R8, R21). -/
abbrev VReg := BitVec 2048

/-- The value of a flag as a number. -/
def bit (b : Bool) : Nat := if b then 1 else 0

/-- A Nat read as a word, modulo 2^64. -/
abbrev word (n : Nat) : Word := BitVec.ofNat 64 n

/-- Bits [hi:lo] of a number. -/
def bits (x hi lo : Nat) : Nat := (x >>> lo) % 2 ^ (hi + 1 - lo)

/-- Bit k of a number. -/
def bitAt (x k : Nat) : Bool := x.testBit k

/-- Replace bits [hi:lo] of x by v. -/
def setBits (x hi lo v : Nat) : Nat :=
  x - (bits x hi lo <<< lo) + ((v % 2 ^ (hi + 1 - lo)) <<< lo)

/-- The signed reading of the low w bits of x. -/
def toSigned (w x : Nat) : Int :=
  let y := x % 2 ^ w
  if y < 2 ^ (w - 1) then (y : Int) else (y : Int) - (2 ^ w : Nat)

/-- The low w bits of an integer, two's complement. -/
def ofSigned (w : Nat) (x : Int) : Nat := (x % ((2 ^ w : Nat) : Int)).toNat

/-- A sparse table keyed by a number, keys rising. -/
abbrev Map (α : Type) := List (Nat × α)

def Map.find {α : Type} : Map α → Nat → Option α
  | [], _ => none
  | (k, a) :: t, n => if k = n then some a else Map.find t n

def Map.put {α : Type} : Map α → Nat → α → Map α
  | [], n, a => [(n, a)]
  | (k, b) :: t, n, a =>
    if n < k then (n, a) :: (k, b) :: t
    else if n = k then (n, a) :: t
    else (k, b) :: Map.put t n a

def Map.del {α : Type} : Map α → Nat → Map α
  | [], _ => []
  | (k, b) :: t, n => if k = n then Map.del t n else (k, b) :: Map.del t n

/-- Serial comparison of 32-bit numbers: a is lower than b (R355). -/
def serialLt32 (a b : Nat) : Bool :=
  let d := (b + 2 ^ 32 - a % 2 ^ 32) % 2 ^ 32
  1 ≤ d && d < 2 ^ 31

end Sys2Proof
end

