-- ==== Sys2Proof/Config.lean ====
section
/-!
DEFINITION. What is fixed for the part (00 R4), and the free values: constants without a body, so that no proof can lean on a
value the manual leaves open (notes/assumptions/6.md, 9.md).
-/
namespace Sys2Proof.Config

/-- Compute cores of the package (Table 0.1). Numbers 6144 + k name translation service core k (R346). -/
def cores : Nat := 6144
def allCores : Nat := 6528
def clusters : Nat := 384
def dies : Nat := 6
def slices : Nat := 288
def partitions : Nat := 6

/-- Bytes of HBM (Table 2.2). -/
def hbmBytes : Nat := 0xC000000000

/-- Firmware's region of HBM (R441). -/
def firmwareLo : Nat := 0x00BF80000000
def firmwareHi : Nat := 0x00BFFFFFFFFF

/-- A byte that the manual leaves undefined (R69); the argument is State.freeCtr. -/
opaque freeByte : Nat → Byte
/-- A two-way choice that the manual leaves to the device, such as whether a copy has been replaced (R82). -/
opaque freeBool : Nat → Bool
/-- A number that the manual leaves to the device. -/
opaque freeNat : Nat → Nat

/-- Byte i of what a read under keys `new` returns of a line last written under keys `old` (R445): AES-256-XTS with the line's
physical address as tweak. `none` stands for ENC = 0. -/
opaque recryptByte (old new : Option (BitVec 512)) (line : Nat) (data : List Byte) (i : Nat) : Byte

/-- AES key unwrap of KEYDATA under the owner's wrapping key, which comes of an exchange with the report key (R445); `none` is an unwrap
failure. -/
opaque unwrapKey (keydata : List Word) (report : List Byte) : Option (BitVec 512)

/-- SHA-384, byte 0 of the digest lowest. -/
opaque sha384 : List Byte → BitVec 384
/-- ECDSA P-384 over a digest, and HSS/LMS over bytes: a signature verifies under a public key (R439). -/
opaque ecdsaVerifies (key : List Byte) (digest : BitVec 384) (signature : List Byte) : Bool
opaque lmsVerifies (key signed signature : List Byte) : Bool
/-- The images of the boot chain on the board: 0 stage 1, 1 the translation service firmware, 2 the helm supervisor. What each is, and what its
header says of it; the public keys that come with it (R439). -/
opaque imageBytes : Nat → List Byte
opaque imageDigest : Nat → BitVec 384
opaque imageSvn : Nat → BitVec 32
opaque imageEcdsa : Nat → List Byte
opaque imageLms : Nat → List Byte
opaque imageEcdsaKey : Nat → List Byte
opaque imageLmsKey : Nat → List Byte
/-- Fuses on die 0: the digests of the vendor's keys, and the minimum SVN (R439). -/
opaque fusedEcdsa : BitVec 384
opaque fusedLms : BitVec 384
opaque fusedSvn : BitVec 32
/-- SHA-384 of the configuration space as loaded at step 5 (Table 16.11, M3). -/
opaque configDigest : BitVec 384
/-- Where firmware places an area in its region (R441), in pages of 4096: by the kind of area and the number of its core, cluster or die; kind 5
gives the number of a die's request lines. -/
opaque firmwarePage (kind unit : Nat) : Nat

/-- Byte i of the ephemeral ECDH key of report number aseq (Table 16.11). -/
opaque ephemeralByte (aseq i : Nat) : Byte
/-- Byte i of the two signatures over bytes 0x000 to 0x187 of the report (R444). -/
opaque signatureByte (signed : List Byte) (i : Nat) : Byte
/-- The HSS key has no signature left when this report number is reached (R443). -/
opaque hssSignatures : Nat
/-- Bring-up step 3, the training, succeeds (Table 16.3). -/
opaque stepPasses : Nat → Bool
/-- What the self-test of step 4 finds failing: a cluster, a core, a way of a slice (Table 16.3). -/
opaque clusterFails : Nat → Bool
opaque coreFails : Nat → Bool
opaque wayFails : Nat → Nat → Bool
/-- What boot firmware puts into a supervisor's core before it starts it (R13, R346, R351): a byte of its local SRAM or constant bank, and
the entry point. -/
opaque firmwareByte (core off : Nat) : Byte
opaque firmwareEntry (core : Nat) : Word
/-- The unit kind that a RAS record names for a row of Table 16.5 (R447). -/
opaque unitKind : Nat → Nat

end Sys2Proof.Config
end

