-- ==== Sys2Proof/Syntax.lean ====
section
/-!
DEFINITION. The instruction set: one constructor of `Instr` per row of spec/opcode_table.json. The first 227 rows are the
scalar, vector and command operations (05 R158-R160), with the operand fields their encodings carry. The other rows are the
steps that the part's hardware, firmware, host and fabric take (spec/95); their arguments name the agent and hold the data that
the world outside the package brings to the step.
-/
namespace Sys2Proof

/-- W of Table 5.12: the width of a scalar integer operation. -/
inductive IntW | w64 | w32 | w16 | w8
deriving DecidableEq, Repr

/-- T of Table 5.12: the parts of a scalar floating-point operation (Table 6.2). -/
inductive FpT | f64 | f32 | f32x2
deriving DecidableEq, Repr

/-- The second source of a scalar operation (R173): the selector b, or the immediate of the scalar-wide form. -/
inductive Opb
  | sel (b : BitVec 8)
  | imm (v : BitVec 32)
deriving DecidableEq, Repr

/-- ORD (R155). -/
inductive Ord | relaxed | acq | rel | ar
deriving DecidableEq, Repr

/-- KIND of AMO, AMOW and VAMO (R156). -/
inductive AmoKind | add | and | or | xor | min | max | minn | maxn | swap
deriving DecidableEq, Repr

/-- KIND of AMOF and VAMOF (R156). -/
inductive AmofKind | add | min | max
deriving DecidableEq, Repr

/-- Table 5.13. -/
inductive BCond | z | nz | lt | ge | gt | le
deriving DecidableEq, Repr

/-- FCOND (R157). -/
inductive FCond | eq | lt | le | un
deriving DecidableEq, Repr

/-- Table 5.14. -/
inductive VCond | eq | ne | lt | le | gt | ge | un | or
deriving DecidableEq, Repr

/-- The FP element types, et 4 to 7 (Table 5.7). -/
inductive FpE | f16 | bf16 | f32 | f64
deriving DecidableEq, Repr

/-- The operand that vb names, or the immediate of the vector-wide form (R153). -/
inductive VSrc
  | reg (vb : BitVec 5)
  | imm (v : BitVec 16)
deriving DecidableEq, Repr

/-- A register operand doubleword of a command (Table 10.3). -/
structure RegOp where
  reg : BitVec 6
  disp : BitVec 58
deriving DecidableEq, Repr

/-- The fields of a command's word 0 other than cop (Tables 5.5, 10.1). -/
structure CmdHdr where
  we : Bool
  wsem : BitVec 8
  wthr : BitVec 16
  se : Bool
  ssem : BitVec 8
  sinc : BitVec 8
  token : BitVec 6
  scope : BitVec 4
  x0 : Bool
  x1 : Bool
deriving DecidableEq, Repr

/-- A thread or running command (R380): a wave slot, a run-queue entry, a running command. -/
inductive Tid
  | wave (core slot : Nat)
  | fibre (core entry : Nat)
  | cmd (core num : Nat)
deriving DecidableEq, Repr

/-- The three management masters (R437). -/
inductive Master | host | board | fabric
deriving DecidableEq, Repr

/-- What a host access asks of a line (R425): to read it, to hold it shared, to own it. -/
inductive HostHold | none | shared | owned
deriving DecidableEq, Repr

/-- A host CXL.mem access to this package's HBM (R114, R425): `data` holds the bytes of a write. -/
structure HostReq where
  addr : Nat
  n : Nat
  data : Option (List Byte)
  hold : HostHold
deriving DecidableEq, Repr

/-- The function that an atomic applies (R216). -/
inductive AtomFn
  | amo (k : AmoKind) (x : Nat)
  | amof (k : AmofKind) (x : Nat)
  | cas (x y : Nat)
deriving DecidableEq, Repr

/-- What a stay packet carries (R428): a request of up to one line, or a reply. -/
inductive StayBody
  | read (tag addr n : Nat)
  | write (tag addr : Nat) (data : List Byte)
  | atomic (tag addr n : Nat) (f : List AtomFn)
  | reply (tag : Nat) (data : List Byte)
deriving DecidableEq, Repr

/-- A packet that reaches one of this package's stay ports (R429, R430). -/
structure StayPacket where
  src : Nat
  lane : Nat
  burst : Nat
  seq : Nat
  start : Bool
  body : StayBody
deriving DecidableEq, Repr

/-- A storage or link error, by the rows of Table 16.5; `fixed` is the Corrected column. -/
inductive StorageErr
  | hbm (line : Nat) (fixed : Bool)
  | slice (slice way line : Nat) (fixed : Bool)
  | tcm (core off : Nat) (fixed : Bool)
  | scratch (cluster off : Nat) (fixed : Bool)
  | cache (core line : Nat) (fixed : Bool)
  | treelet (core id : Nat) (fixed : Bool)
  /-- an entry of a micro-TLB, and of a cluster's TLB -/
  | tlb (core entry : Nat) (fixed : Bool)
  | clusterTlb (cluster entry : Nat) (fixed : Bool)
  | coreParity (core : Nat)
  | clusterParity (cluster : Nat)
  | link (retried : Bool)
  | stayLink (port : Nat) (retried : Bool)
deriving DecidableEq, Repr

/-- The rows of spec/opcode_table.json. -/
inductive Instr where
  /-- BC (R186). Conditional branch to PC plus displacement when the signed test of sa against zero holds. -/
  | bc (sa : BitVec 6) (c : BCond) (imm : BitVec 32)
  /-- JMP (R186). Unconditional PC-relative jump. -/
  | jmp (imm : BitVec 32)
  /-- JMPI (R186). Indirect jump to sa plus opb. -/
  | jmpi (sa : BitVec 6) (b : BitVec 8)
  /-- CALL (R186). PC-relative call that writes PC plus 8 to the link register. -/
  | call (sd : BitVec 6) (imm : BitVec 32)
  /-- CALLI (R186). Indirect call to sa plus opb that writes the link register. -/
  | calli (sd sa : BitVec 6) (b : BitVec 8)
  /-- RET (R186). Returns to the address held in sa. -/
  | ret (sa : BitVec 6)
  /-- TRAP (R203). Takes the user trap USER with a 16-bit code. -/
  | trap (code : BitVec 16)
  /-- TRET (R204). Returns from a user trap to TRAPPC and clears TRAPCAUSE.ACTIVE. -/
  | tret
  /-- BRK (R203). Takes BREAK, or halts the slot when the debugger has set BRKHALT. -/
  | brk
  /-- MFSR (R189). Reads a system register into sd. -/
  | mfsr (sd : BitVec 6) (num : BitVec 16)
  /-- MTSR (R189). Writes sa to a system register under that register's own rules. -/
  | mtsr (sa : BitVec 6) (num : BitVec 16)
  /-- QWIDTH (R192). Extracts one level field of a WID, using the launch's packed widths in c181. -/
  | qwidth (sd sa : BitVec 6) (b : BitVec 8)
  /-- WAITLINE (R193). Suspends until the doubleword at sa differs from opb, then returns it. -/
  | waitline (sd sa : BitVec 6) (b : BitVec 8)
  /-- ADD (R176). Integer add at the selected width, optionally saturating. -/
  | add (sd sa : BitVec 6) (y : Opb) (zx sat : Bool) (w : IntW)
  /-- SUB (R176). Integer subtract at the selected width, optionally saturating. -/
  | sub (sd sa : BitVec 6) (y : Opb) (zx sat : Bool) (w : IntW)
  /-- MUL (R176). Integer multiply at the selected width, optionally saturating. -/
  | mul (sd sa : BitVec 6) (y : Opb) (zx sat : Bool) (w : IntW)
  /-- MULH (R176). High half of a signed product. -/
  | mulh (sd sa : BitVec 6) (y : Opb) (zx : Bool) (w : IntW)
  /-- MULHN (R176). High half of an unsigned product. -/
  | mulhn (sd sa : BitVec 6) (y : Opb) (zx : Bool) (w : IntW)
  /-- DIV (R117). Signed division truncating towards zero, with fixed corner cases; uses the special-function pipe. -/
  | div (sd sa : BitVec 6) (y : Opb) (zx : Bool) (w : IntW)
  /-- DIVN (R117). Unsigned division with fixed corner cases; uses the special-function pipe. -/
  | divn (sd sa : BitVec 6) (y : Opb) (zx : Bool) (w : IntW)
  /-- REM (R117). Signed remainder, taking the sign of the dividend. -/
  | rem (sd sa : BitVec 6) (y : Opb) (zx : Bool) (w : IntW)
  /-- REMN (R117). Unsigned remainder. -/
  | remn (sd sa : BitVec 6) (y : Opb) (zx : Bool) (w : IntW)
  /-- AND (R176). Bitwise AND. -/
  | and (sd sa : BitVec 6) (y : Opb) (zx : Bool) (w : IntW)
  /-- OR (R176). Bitwise OR. -/
  | or (sd sa : BitVec 6) (y : Opb) (zx : Bool) (w : IntW)
  /-- XOR (R176). Bitwise XOR. -/
  | xor (sd sa : BitVec 6) (y : Opb) (zx : Bool) (w : IntW)
  /-- ANDN (R176). Bitwise x AND NOT y. -/
  | andn (sd sa : BitVec 6) (y : Opb) (zx : Bool) (w : IntW)
  /-- SHL (R176). Shift left by y mod w. -/
  | shl (sd sa : BitVec 6) (y : Opb) (zx : Bool) (w : IntW)
  /-- SHR (R176). Logical shift right by y mod w. -/
  | shr (sd sa : BitVec 6) (y : Opb) (zx : Bool) (w : IntW)
  /-- SHA (R176). Arithmetic shift right by y mod w. -/
  | sha (sd sa : BitVec 6) (y : Opb) (zx : Bool) (w : IntW)
  /-- ROL (R176). Rotate left within w bits. -/
  | rol (sd sa : BitVec 6) (y : Opb) (zx : Bool) (w : IntW)
  /-- MIN (R176). Signed minimum. -/
  | min (sd sa : BitVec 6) (y : Opb) (zx : Bool) (w : IntW)
  /-- MAX (R176). Signed maximum. -/
  | max (sd sa : BitVec 6) (y : Opb) (zx : Bool) (w : IntW)
  /-- MINN (R176). Unsigned minimum. -/
  | minn (sd sa : BitVec 6) (y : Opb) (zx : Bool) (w : IntW)
  /-- MAXN (R176). Unsigned maximum. -/
  | maxn (sd sa : BitVec 6) (y : Opb) (zx : Bool) (w : IntW)
  /-- ABS (R176). Absolute value; the type minimum wraps to itself. -/
  | abs (sd sa : BitVec 6) (zx : Bool) (w : IntW)
  /-- CLZ (R176). Counts leading zero bits. -/
  | clz (sd sa : BitVec 6) (zx : Bool) (w : IntW)
  /-- CTZ (R176). Counts trailing zero bits. -/
  | ctz (sd sa : BitVec 6) (zx : Bool) (w : IntW)
  /-- POPC (R176). Counts one bits. -/
  | popc (sd sa : BitVec 6) (zx : Bool) (w : IntW)
  /-- BREV (R176). Reverses the bits within w bits. -/
  | brev (sd sa : BitVec 6) (zx : Bool) (w : IntW)
  /-- SEXT (R178). Sign-extends the low k+1 bits. -/
  | sext (sd sa : BitVec 6) (y : Opb) (zx : Bool) (w : IntW)
  /-- BFX (R178). Extracts a bit field at pos and len. -/
  | bfx (sd sa : BitVec 6) (y : Opb) (zx : Bool) (w : IntW)
  /-- BFI (R178). Inserts a bit field into the old sd. -/
  | bfi (sd sa : BitVec 6) (y : Opb) (zx : Bool) (w : IntW)
  /-- SEQ (R179). Sets sd to 1 when x equals y. -/
  | seq (sd sa : BitVec 6) (y : Opb) (w : IntW)
  /-- SNE (R179). Sets sd to 1 when x differs from y. -/
  | sne (sd sa : BitVec 6) (y : Opb) (w : IntW)
  /-- SLT (R179). Sets sd to 1 when x is below y, signed. -/
  | slt (sd sa : BitVec 6) (y : Opb) (w : IntW)
  /-- SLTN (R179). Sets sd to 1 when x is below y, unsigned. -/
  | sltn (sd sa : BitVec 6) (y : Opb) (w : IntW)
  /-- SEL (R179). Selects sa when the old sd is nonzero, and opb otherwise. -/
  | sel (sd sa : BitVec 6) (y : Opb)
  /-- LEA (R180). Computes sa plus opb shifted by SH. -/
  | lea (sd sa : BitVec 6) (y : Opb) (sh : BitVec 2)
  /-- LI (R180). Loads a sign-extended 32-bit immediate. -/
  | li (sd : BitVec 6) (imm : BitVec 32)
  /-- LIH (R180). Writes the immediate to bits [63:32] of sd. -/
  | lih (sd : BitVec 6) (imm : BitVec 32)
  /-- FADD (R182). Scalar floating-point add, rounded under FPMODE. -/
  | fadd (sd sa : BitVec 6) (y : Opb) (t : FpT)
  /-- FSUB (R182). Scalar floating-point subtract. -/
  | fsub (sd sa : BitVec 6) (y : Opb) (t : FpT)
  /-- FMUL (R182). Scalar floating-point multiply. -/
  | fmul (sd sa : BitVec 6) (y : Opb) (t : FpT)
  /-- FFMA (R182). Scalar fused multiply-add using the old sd as addend. -/
  | ffma (sd sa : BitVec 6) (y : Opb) (t : FpT)
  /-- FDIV (R182). Scalar floating-point divide on the special-function pipe. -/
  | fdiv (sd sa : BitVec 6) (y : Opb) (t : FpT)
  /-- FSQRT (R182). Scalar square root on the special-function pipe. -/
  | fsqrt (sd sa : BitVec 6) (t : FpT)
  /-- FMIN (R182). Scalar minimum by Table 4.6. -/
  | fmin (sd sa : BitVec 6) (y : Opb) (t : FpT)
  /-- FMAX (R182). Scalar maximum by Table 4.6. -/
  | fmax (sd sa : BitVec 6) (y : Opb) (t : FpT)
  /-- FSET (R183). Floating-point compare that writes integer 1 or 0. -/
  | fset (sd sa : BitVec 6) (y : Opb) (c : FCond) (t : FpT)
  /-- FCVT (R184). Scalar conversion selected by the CODE in mod. -/
  | fcvt (sd sa : BitVec 6) (code : BitVec 4)
  /-- FABS (R183). Clears the sign bit without raising any flag. -/
  | fabs (sd sa : BitVec 6) (t : FpT)
  /-- LDB (R210). Loads a sign-extended byte. -/
  | ldb (sd sa : BitVec 6) (y : Opb) (lax : Bool)
  /-- LDBN (R210). Loads a zero-extended byte. -/
  | ldbn (sd sa : BitVec 6) (y : Opb) (lax : Bool)
  /-- LDH (R210). Loads a sign-extended halfword. -/
  | ldh (sd sa : BitVec 6) (y : Opb) (lax : Bool)
  /-- LDHN (R210). Loads a zero-extended halfword. -/
  | ldhn (sd sa : BitVec 6) (y : Opb) (lax : Bool)
  /-- LDW (R210). Loads a sign-extended word. -/
  | ldw (sd sa : BitVec 6) (y : Opb) (lax : Bool)
  /-- LDWN (R210). Loads a zero-extended word. -/
  | ldwn (sd sa : BitVec 6) (y : Opb) (lax : Bool)
  /-- LDD (R210). Loads a doubleword. -/
  | ldd (sd sa : BitVec 6) (y : Opb) (lax : Bool)
  /-- STB (R210). Stores a byte through the store buffer. -/
  | stb (sd sa : BitVec 6) (y : Opb)
  /-- STH (R210). Stores a halfword. -/
  | sth (sd sa : BitVec 6) (y : Opb)
  /-- STW (R210). Stores a word. -/
  | stw (sd sa : BitVec 6) (y : Opb)
  /-- STD (R210). Stores a doubleword. -/
  | std (sd sa : BitVec 6) (y : Opb)
  /-- LDA (R212). Fresh doubleword load with an acquire at the encoded scope. -/
  | lda (sd sa : BitVec 6) (y : Opb) (scope : BitVec 4)
  /-- STL (R213). Doubleword store with a release at the encoded scope. -/
  | stl (sd sa : BitVec 6) (y : Opb) (scope : BitVec 4)
  /-- PREF (R214). Starts a line fetch into the home slice, or into the local cache with .lax. -/
  | pref (sa : BitVec 6) (y : Opb) (lax : Bool)
  /-- AMO (R216). 64-bit atomic read-modify-write at the line's home. -/
  | amo (sd sa vb : BitVec 6) (k : AmoKind) (o : Ord) (scope : BitVec 4)
  /-- AMOW (R216). 32-bit atomic read-modify-write. -/
  | amow (sd sa vb : BitVec 6) (k : AmoKind) (o : Ord) (scope : BitVec 4)
  /-- CAS (R216). 64-bit compare-and-swap. -/
  | cas (sd sa vb vc : BitVec 6) (o : Ord) (scope : BitVec 4)
  /-- CASW (R216). 32-bit compare-and-swap. -/
  | casw (sd sa vb vc : BitVec 6) (o : Ord) (scope : BitVec 4)
  /-- AMOF (R216). Floating-point atomic add, min or max, rounded to nearest even. -/
  | amof (sd sa vb : BitVec 6) (k : AmofKind) (single : Bool) (o : Ord) (scope : BitVec 4)
  /-- FENCE (R219). Acquire, release or both at a scope, ordering the thread's own accesses. -/
  | fence (o : Ord) (scope : BitVec 4)
  /-- BARC (R220). Arrives at the core barrier. -/
  | barc
  /-- BARG (R220). Arrives at the group barrier. -/
  | barg
  /-- DEVELOP (R220). Arrives at the gang barrier whose release merges the phase-buffered tiles. -/
  | develop
  /-- TRIM (R224). Checks a trim table and arrives at the trim barrier carrying it. -/
  | trim (sd sa : BitVec 6) (b : BitVec 8)
  /-- SEMW (R227). Waits until a semaphore reaches a threshold in serial comparison. -/
  | semw (sd sa : BitVec 6) (sem : BitVec 8) (thr : BitVec 16) (scope : BitVec 4)
  /-- SEMS (R228). Adds to a semaphore after release waits and returns the old count. -/
  | sems (sd sa : BitVec 6) (sem : BitVec 8) (inc : BitVec 16) (scope : BitVec 4)
  /-- TRAV (R272). Starts a traversal walk, or with PIN set rejects the candidate and resumes the walk. -/
  | trav
  /-- TRAV_ACC (R278). Accepts the routine's f5 and f6 and resumes the saved walk. -/
  | travAcc
  /-- TRAV_END (R278). Accepts the routine's f5 and f6 and ends the ray with DONE. -/
  | travEnd
  /-- TRAV_INST (R279). Enters an instance by rewriting the treelet stack, without walking. -/
  | travInst (b : BitVec 8)
  /-- HOP (R281). Sends the fibre to a core that holds its top treelet. -/
  | hop
  /-- GO (R286). Sends the fibre to the core beside the home of a target address. -/
  | go (sa : BitVec 6) (b : BitVec 8)
  /-- SPAWN (R288). Creates a fibre on the issuing core at a PC-relative entry. -/
  | spawn (sd : BitVec 6) (imm : BitVec 32)
  /-- FEND (R290). Releases and ends the issuing thread. -/
  | fend
  /-- FYIELD (R290). Releases the fibre slot; the fibre becomes ready again. -/
  | fyield
  /-- HQPUSH (R291). Sends a 64-byte hit record to a tray chosen through TRAYMAP. -/
  | hqpush (sa : BitVec 6)
  /-- RGEN (R288). Creates a ray fibre on the issuing core at sa plus opb. -/
  | rgen (sd sa : BitVec 6) (b : BitVec 8)
  /-- VADD (R235). Elementwise floating-point add. -/
  | vadd (vd va : BitVec 5) (y : VSrc) (ms : BitVec 6) (e : FpE)
  /-- VSUB (R235). Elementwise floating-point subtract. -/
  | vsub (vd va : BitVec 5) (y : VSrc) (ms : BitVec 6) (e : FpE)
  /-- VMUL (R235). Elementwise floating-point multiply. -/
  | vmul (vd va : BitVec 5) (y : VSrc) (ms : BitVec 6) (e : FpE)
  /-- VFMA (R235). Elementwise fused a·b+d. -/
  | vfma (vd va : BitVec 5) (y : VSrc) (ms : BitVec 6) (e : FpE)
  /-- VFMS (R235). Elementwise fused a·b-d. -/
  | vfms (vd va : BitVec 5) (y : VSrc) (ms : BitVec 6) (e : FpE)
  /-- VFNMA (R235). Elementwise fused -(a·b)+d. -/
  | vfnma (vd va : BitVec 5) (y : VSrc) (ms : BitVec 6) (e : FpE)
  /-- VMIN (R235). Elementwise minimum, NaN-ignoring. -/
  | vmin (vd va : BitVec 5) (y : VSrc) (ms : BitVec 6) (e : FpE)
  /-- VMAX (R235). Elementwise maximum, NaN-ignoring. -/
  | vmax (vd va : BitVec 5) (y : VSrc) (ms : BitVec 6) (e : FpE)
  /-- VMINP (R235). Elementwise minimum, NaN-propagating. -/
  | vminp (vd va : BitVec 5) (y : VSrc) (ms : BitVec 6) (e : FpE)
  /-- VMAXP (R235). Elementwise maximum, NaN-propagating. -/
  | vmaxp (vd va : BitVec 5) (y : VSrc) (ms : BitVec 6) (e : FpE)
  /-- VABS (R235). Clears each element's sign bit. -/
  | vabs (vd va : BitVec 5) (ms : BitVec 6) (e : FpE)
  /-- VNEG (R235). Inverts each element's sign bit. -/
  | vneg (vd va : BitVec 5) (ms : BitVec 6) (e : FpE)
  /-- VCMP (R241). Floating-point compare that writes a lane mask to s(32+vd). -/
  | vcmp (vd va : BitVec 5) (c : VCond) (y : VSrc) (ms : BitVec 6) (e : FpE)
  /-- VCLASS (R236). Writes a one-hot class code for each element. -/
  | vclass (vd va : BitVec 5) (ms : BitVec 6) (e : FpE)
  /-- VROUND (R237). Rounds each element to an integral value under a chosen mode. -/
  | vround (vd va : BitVec 5) (rm : BitVec 3) (ms : BitVec 6) (e : FpE)
  /-- VFRACT (R237). Computes a - floor(a). -/
  | vfract (vd va : BitVec 5) (ms : BitVec 6) (e : FpE)
  /-- VCOPYSIGN (R237). Gives each element of va the sign bit of vb. -/
  | vcopysign (vd va : BitVec 5) (y : VSrc) (ms : BitVec 6) (e : FpE)
  /-- VLDEXP (R237). Computes a·2^b. -/
  | vldexp (vd va : BitVec 5) (y : VSrc) (ms : BitVec 6) (e : FpE)
  /-- VFREXP (R237). Returns floor(log2 |a|) as an integer. -/
  | vfrexp (vd va : BitVec 5) (ms : BitVec 6) (e : FpE)
  /-- VDIV (R238). Elementwise division on the special-function pipe. -/
  | vdiv (vd va : BitVec 5) (y : VSrc) (ms : BitVec 6) (e : FpE)
  /-- VSQRT (R238). Elementwise square root. -/
  | vsqrt (vd va : BitVec 5) (ms : BitVec 6) (e : FpE)
  /-- VRCP (R238). Elementwise reciprocal. -/
  | vrcp (vd va : BitVec 5) (ms : BitVec 6) (e : FpE)
  /-- VRSQ (R238). Elementwise reciprocal square root. -/
  | vrsq (vd va : BitVec 5) (ms : BitVec 6) (e : FpE)
  /-- VEXP2 (R238). Elementwise 2^a. -/
  | vexp2 (vd va : BitVec 5) (ms : BitVec 6) (e : FpE)
  /-- VLOG2 (R238). Elementwise log2 a. -/
  | vlog2 (vd va : BitVec 5) (ms : BitVec 6) (e : FpE)
  /-- VSIN (R238). Elementwise sin(π·a). -/
  | vsin (vd va : BitVec 5) (ms : BitVec 6) (e : FpE)
  /-- VCOS (R238). Elementwise cos(π·a). -/
  | vcos (vd va : BitVec 5) (ms : BitVec 6) (e : FpE)
  /-- VTANH (R238). Elementwise tanh a. -/
  | vtanh (vd va : BitVec 5) (ms : BitVec 6) (e : FpE)
  /-- VIADD (R239). Elementwise integer add. -/
  | viadd (vd va : BitVec 5) (y : VSrc) (ms : BitVec 6) (et : BitVec 3)
  /-- VISUB (R239). Elementwise integer subtract. -/
  | visub (vd va : BitVec 5) (y : VSrc) (ms : BitVec 6) (et : BitVec 3)
  /-- VIMUL (R239). Low bits of the elementwise product. -/
  | vimul (vd va : BitVec 5) (y : VSrc) (ms : BitVec 6) (et : BitVec 3)
  /-- VIMULH (R239). High bits of the elementwise product. -/
  | vimulh (vd va : BitVec 5) (y : VSrc) (ms : BitVec 6) (et : BitVec 3)
  /-- VIMAD (R239). Elementwise integer a·b+d. -/
  | vimad (vd va : BitVec 5) (y : VSrc) (ms : BitVec 6) (et : BitVec 3)
  /-- VIMIN (R239). Elementwise integer minimum. -/
  | vimin (vd va : BitVec 5) (y : VSrc) (ms : BitVec 6) (et : BitVec 3)
  /-- VIMAX (R239). Elementwise integer maximum. -/
  | vimax (vd va : BitVec 5) (y : VSrc) (ms : BitVec 6) (et : BitVec 3)
  /-- VIABS (R239). Elementwise integer absolute value. -/
  | viabs (vd va : BitVec 5) (ms : BitVec 6) (et : BitVec 3)
  /-- VAND (R239). Elementwise bitwise AND. -/
  | vand (vd va : BitVec 5) (y : VSrc) (ms : BitVec 6) (et : BitVec 3)
  /-- VOR (R239). Elementwise bitwise OR. -/
  | vor (vd va : BitVec 5) (y : VSrc) (ms : BitVec 6) (et : BitVec 3)
  /-- VXOR (R239). Elementwise bitwise XOR. -/
  | vxor (vd va : BitVec 5) (y : VSrc) (ms : BitVec 6) (et : BitVec 3)
  /-- VANDN (R239). Elementwise a AND NOT b. -/
  | vandn (vd va : BitVec 5) (y : VSrc) (ms : BitVec 6) (et : BitVec 3)
  /-- VSHL (R239). Elementwise shift left. -/
  | vshl (vd va : BitVec 5) (y : VSrc) (ms : BitVec 6) (et : BitVec 3)
  /-- VSHR (R239). Elementwise logical shift right. -/
  | vshr (vd va : BitVec 5) (y : VSrc) (ms : BitVec 6) (et : BitVec 3)
  /-- VSHA (R239). Elementwise arithmetic shift right. -/
  | vsha (vd va : BitVec 5) (y : VSrc) (ms : BitVec 6) (et : BitVec 3)
  /-- VICMP (R241). Integer compare that writes a lane mask. -/
  | vicmp (vd va : BitVec 5) (c : VCond) (y : VSrc) (ms : BitVec 6) (et : BitVec 3)
  /-- VPOPC (R239). Counts the one bits of each element. -/
  | vpopc (vd va : BitVec 5) (ms : BitVec 6) (et : BitVec 3)
  /-- VCLZ (R239). Counts the leading zeros of each element. -/
  | vclz (vd va : BitVec 5) (ms : BitVec 6) (et : BitVec 3)
  /-- VSATADD (R239). Elementwise saturating add. -/
  | vsatadd (vd va : BitVec 5) (y : VSrc) (ms : BitVec 6) (et : BitVec 3)
  /-- VSATSUB (R239). Elementwise saturating subtract. -/
  | vsatsub (vd va : BitVec 5) (y : VSrc) (ms : BitVec 6) (et : BitVec 3)
  /-- VIDIV (R239). Elementwise integer quotient. -/
  | vidiv (vd va : BitVec 5) (y : VSrc) (ms : BitVec 6) (et : BitVec 3)
  /-- VIREM (R239). Elementwise integer remainder. -/
  | virem (vd va : BitVec 5) (y : VSrc) (ms : BitVec 6) (et : BitVec 3)
  /-- VBITSEL (R240). Bitwise select between va and the old vd under vb. -/
  | vbitsel (vd va vb : BitVec 5) (ms : BitVec 6) (et : BitVec 3)
  /-- VBFX (R240). Extracts a bit field from each element. -/
  | vbfx (vd va : BitVec 5) (y : VSrc) (ms : BitVec 6) (et : BitVec 3)
  /-- VBFI (R240). Inserts a bit field into each element. -/
  | vbfi (vd va : BitVec 5) (y : VSrc) (ms : BitVec 6) (et : BitVec 3)
  /-- VWHILE (R242). Builds a mask of the lanes for which x+k is below y. -/
  | vwhile (vd va vb : BitVec 5) (ms : BitVec 6) (et : BitVec 3)
  /-- VMATCH (R243). Marks the lanes whose value repeats a lower active lane. -/
  | vmatch (vd va : BitVec 5) (ms : BitVec 6) (et : BitVec 3)
  /-- VMOV (R244). Copies active elements. -/
  | vmov (vd va : BitVec 5) (ms : BitVec 6) (et : BitVec 3)
  /-- VSPLAT (R244). Broadcasts a scalar to every active element. -/
  | vsplat (vd va : BitVec 5) (ms : BitVec 6) (et : BitVec 3)
  /-- VMOVI (R244). Broadcasts a typed immediate. -/
  | vmovi (vd : BitVec 5) (imm : BitVec 16) (ms : BitVec 6) (et : BitVec 3)
  /-- VEXT (R244). Extracts one element to a scalar register. -/
  | vext (vd va vb : BitVec 5) (ms : BitVec 6) (et : BitVec 3)
  /-- VINS (R244). Inserts a scalar into one element. -/
  | vins (vd va vb : BitVec 5) (ms : BitVec 6) (et : BitVec 3)
  /-- VPERM (R244). Permutes elements by an index vector. -/
  | vperm (vd va vb : BitVec 5) (ms : BitVec 6) (et : BitVec 3)
  /-- VROT (R244). Rotates the elements. -/
  | vrot (vd va : BitVec 5) (y : VSrc) (ms : BitVec 6) (et : BitVec 3)
  /-- VSLIDEUP (R244). Slides the elements up, filling with zero. -/
  | vslideup (vd va : BitVec 5) (y : VSrc) (ms : BitVec 6) (et : BitVec 3)
  /-- VSLIDEDN (R244). Slides the elements down, filling with zero. -/
  | vslidedn (vd va : BitVec 5) (y : VSrc) (ms : BitVec 6) (et : BitVec 3)
  /-- VIOTA (R244). Writes to each element the count of active elements below it. -/
  | viota (vd : BitVec 5) (ms : BitVec 6) (et : BitVec 3)
  /-- VSEL (R244). Selects va in active elements and vb elsewhere. -/
  | vsel (vd va vb : BitVec 5) (ms : BitVec 6) (et : BitVec 3)
  /-- VCOMPRESS (R244). Packs the active elements to the bottom of vd. -/
  | vcompress (vd va : BitVec 5) (ms : BitVec 6) (et : BitVec 3)
  /-- VEXPAND (R244). Spreads consecutive elements into the active positions. -/
  | vexpand (vd va : BitVec 5) (ms : BitVec 6) (et : BitVec 3)
  /-- VSHFL (R244). Shuffles elements by an XOR index. -/
  | vshfl (vd va vb : BitVec 5) (ms : BitVec 6) (et : BitVec 3)
  /-- VREDADD (R246). Tree-ordered sum reduction into element 0. -/
  | vredadd (vd va : BitVec 5) (ms : BitVec 6) (et : BitVec 3)
  /-- VREDMIN (R246). Minimum reduction. -/
  | vredmin (vd va : BitVec 5) (ms : BitVec 6) (et : BitVec 3)
  /-- VREDMAX (R246). Maximum reduction. -/
  | vredmax (vd va : BitVec 5) (ms : BitVec 6) (et : BitVec 3)
  /-- VREDAND (R246). AND reduction. -/
  | vredand (vd va : BitVec 5) (ms : BitVec 6) (et : BitVec 3)
  /-- VREDOR (R246). OR reduction. -/
  | vredor (vd va : BitVec 5) (ms : BitVec 6) (et : BitVec 3)
  /-- VSCANADD (R247). Inclusive sum scan in doubling steps. -/
  | vscanadd (vd va : BitVec 5) (ms : BitVec 6) (et : BitVec 3)
  /-- VSCANMIN (R247). Inclusive minimum scan. -/
  | vscanmin (vd va : BitVec 5) (ms : BitVec 6) (et : BitVec 3)
  /-- VSCANMAX (R247). Inclusive maximum scan. -/
  | vscanmax (vd va : BitVec 5) (ms : BitVec 6) (et : BitVec 3)
  /-- VCVT (R248). Same-width conversion to a floating-point type. -/
  | vcvt (vd va : BitVec 5) (ty : BitVec 4) (sat : Bool) (ms : BitVec 6) (et : BitVec 3)
  /-- VCVTI (R248). Same-width conversion from floating point to integer. -/
  | vcvti (vd va : BitVec 5) (ty : BitVec 4) (sat : Bool) (ms : BitVec 6) (et : BitVec 3)
  /-- VNARROW (R249). Converts to a narrower type and packs the results. -/
  | vnarrow (vd va : BitVec 5) (ty : BitVec 4) (sat : Bool) (ms : BitVec 6) (et : BitVec 3)
  /-- VWIDEN (R249). Converts to a wider type. -/
  | vwiden (vd va : BitVec 5) (ty : BitVec 4) (sat : Bool) (ms : BitVec 6) (et : BitVec 3)
  /-- VQMX (R250). Quantises blocks of 32 elements to MX with E8M0 scales. -/
  | vqmx (vd va : BitVec 5) (ty : BitVec 4) (ms : BitVec 6) (et : BitVec 3)
  /-- VDQMX (R251). Dequantises an MX register image. -/
  | vdqmx (vd va : BitVec 5) (ty : BitVec 4) (ms : BitVec 6) (et : BitVec 3)
  /-- VLD (R252). Contiguous vector load. -/
  | vld (vd : BitVec 5) (base : BitVec 6) (imm : BitVec 16) (lax : Bool) (ms : BitVec 6) (et : BitVec 3)
  /-- VST (R255). Contiguous vector store. -/
  | vst (vd : BitVec 5) (base : BitVec 6) (imm : BitVec 16) (ms : BitVec 6) (et : BitVec 3)
  /-- VLDS (R252). Strided vector load. -/
  | vlds (vd : BitVec 5) (base stride : BitVec 6) (imm : BitVec 16) (lax : Bool) (ms : BitVec 6) (et : BitVec 3)
  /-- VSTS (R252). Strided vector store. -/
  | vsts (vd : BitVec 5) (base stride : BitVec 6) (imm : BitVec 16) (ms : BitVec 6) (et : BitVec 3)
  /-- VGATH (R252). Gather load through an offset vector. -/
  | vgath (vd va : BitVec 5) (base : BitVec 6) (imm : BitVec 16) (zx : Bool) (sc : BitVec 2) (lax : Bool) (ms : BitVec 6) (et : BitVec 3)
  /-- VSCAT (R252). Scatter store through an offset vector. -/
  | vscat (vd va : BitVec 5) (base : BitVec 6) (imm : BitVec 16) (zx : Bool) (sc : BitVec 2) (ms : BitVec 6) (et : BitVec 3)
  /-- VLDB (R252). Loads one value and broadcasts it. -/
  | vldb (vd : BitVec 5) (base : BitVec 6) (imm : BitVec 16) (lax : Bool) (ms : BitVec 6) (et : BitVec 3)
  /-- VAMO (R256). Vector integer atomic, with one event per distinct address. -/
  | vamo (vd va : BitVec 5) (base : BitVec 6) (imm : BitVec 16) (zx : Bool) (sc : BitVec 2) (k : AmoKind) (o : Ord) (scope : BitVec 4) (ms : BitVec 6) (et : BitVec 3)
  /-- VAMOF (R256). Vector floating-point atomic. -/
  | vamof (vd va : BitVec 5) (base : BitVec 6) (imm : BitVec 16) (zx : Bool) (sc : BitVec 2) (k : AmofKind) (o : Ord) (scope : BitVec 4) (ms : BitVec 6) (et : BitVec 3)
  /-- VHQPOP (R258). Pops hit records from the core's tray into 16 vector registers. -/
  | vhqpop (vd vb : BitVec 5) (ms : BitVec 6)
  /-- VRAYGEN (R259). Creates one ray fibre per active lane. -/
  | vraygen (vd va vb : BitVec 5) (ms : BitVec 6)
  /-- VACCRD (R260). Reads one accumulator tile row into vd after earlier matrix commands complete. -/
  | vaccrd (vd : BitVec 5) (tile : BitVec 2) (ctx : Bool) (vb : BitVec 5) (ms : BitVec 6) (et : BitVec 3)
  /-- VACCWR (R260). Writes one accumulator tile row from vd. -/
  | vaccwr (vd : BitVec 5) (tile : BitVec 2) (ctx : Bool) (vb : BitVec 5) (ms : BitVec 6) (et : BitVec 3)
  /-- VDOT4 (R261). Accumulates a four-way 8-bit dot product into each 32-bit lane. -/
  | vdot4 (vd va : BitVec 5) (y : VSrc) (ms : BitVec 6) (et : BitVec 3)
  /-- VBFDOT (R261). Accumulates a two-way bf16 dot product into f32. -/
  | vbfdot (vd va vb : BitVec 5) (ms : BitVec 6)
  /-- VHASH (R262). Writes the fixed mixing hash of a and b. -/
  | vhash (vd va vb : BitVec 5) (ms : BitVec 6) (et : BitVec 3)
  /-- CPY (R305). Copy engine copies LEN bytes. -/
  | cpy (h : CmdHdr) (src dst : RegOp) (len : BitVec 32)
  /-- CPY2 (R305). Two-dimensional strided copy. -/
  | cpy2 (h : CmdHdr) (src dst : RegOp) (rows rowb sstr dstr : BitVec 16)
  /-- CPYT (R305). Transposing copy. -/
  | cpyt (h : CmdHdr) (src dst : RegOp) (rows cols : BitVec 12) (sstr dstr : BitVec 18) (esz : BitVec 2)
  /-- CPYB (R306). Re-blocks a matrix into canonical panels. -/
  | cpyb (h : CmdHdr) (src dst : RegOp) (rows cols : BitVec 12) (sstr : BitVec 18) (bsz : BitVec 2) (role tr : Bool)
  /-- CPYM (R305). Multicasts a source to the scratchpads of the clusters named in a mask. -/
  | cpym (h : CmdHdr) (src : RegOp) (doff : BitVec 22) (die : BitVec 3) (len : BitVec 32) (cmask : BitVec 64)
  /-- CPYR (R307). Adds a source array into a destination array, element by element. -/
  | cpyr (h : CmdHdr) (src dst : RegOp) (len : BitVec 32) (ty : BitVec 3)
  /-- CPYG (R308). Gathers elements from a list of addresses. -/
  | cpyg (h : CmdHdr) (src dst : RegOp) (count : BitVec 32) (gsz : BitVec 3)
  /-- PREF2 (R305). Prefetches a range into home slices, and optionally into visitor ways. -/
  | pref2 (h : CmdHdr) (addr : RegOp) (len : BitVec 32)
  /-- FLUSH (R309). Writes back, and optionally invalidates, the HBM lines of a range. -/
  | flush (h : CmdHdr) (addr : RegOp) (len : BitVec 32)
  /-- FILLZ (R305). Fills a range with zero. -/
  | fillz (h : CmdHdr) (addr : RegOp) (len : BitVec 32)
  /-- MMA (R311). Matrix multiply-accumulate of register panels into an accumulator tile. -/
  | mma (h : CmdHdr) (va vb : BitVec 5) (tile : BitVec 2) (ctx : Bool) (ta tb : BitVec 4)
  /-- MMAX (R311). MX-scaled matrix multiply-accumulate. -/
  | mmax (h : CmdHdr) (va vb vs : BitVec 5) (tile : BitVec 2) (ctx : Bool) (ta tb : BitVec 4)
  /-- MZERO (R313). Zeroes the selected accumulator tiles. -/
  | mzero (h : CmdHdr) (tmask : BitVec 4) (ctx : Bool)
  /-- MLD (R313). Loads an accumulator tile from memory. -/
  | mld (h : CmdHdr) (addr : RegOp) (tile : BitVec 2) (ctx : Bool) (stride : BitVec 32)
  /-- MST (R313). Stores an accumulator tile to memory. -/
  | mst (h : CmdHdr) (addr : RegOp) (tile : BitVec 2) (ctx : Bool) (stride : BitVec 32)
  /-- RMMAK (R315). Arrives at a rig for a K-split rigged multiply. -/
  | rmmak (h : CmdHdr) (rseq : BitVec 32) (sreg : BitVec 6) (rig : BitVec 8) (kb : BitVec 6) (mx : Bool) (ta tb : BitVec 4) (ctx : Bool) (tile : BitVec 2) (apanel bpanel : RegOp)
  /-- RMMAN (R315). Arrives at a rig for an N-split rigged multiply. -/
  | rmman (h : CmdHdr) (rseq : BitVec 32) (sreg : BitVec 6) (rig : BitVec 8) (kb : BitVec 6) (mx : Bool) (ta tb : BitVec 4) (ctx : Bool) (tile : BitVec 2) (apanel bpanel : RegOp)
  /-- SEMOP (R318). Adds a value to a semaphore of a target core. -/
  | semop (h : CmdHdr) (core : BitVec 16) (sem : BitVec 8) (v : BitVec 16)
  /-- SEMSET (R318). Sets a semaphore of a target core. -/
  | semset (h : CmdHdr) (core : BitVec 16) (sem : BitVec 8) (v : BitVec 16)
  /-- MCAS (R319). Multi-word compare-and-swap over 2 to 8 entries. -/
  | mcas (h : CmdHdr) (block : RegOp) (count : BitVec 4) (o : Ord)
  /-- LAUNCH (R320). Asks the die's distributor to check and run a launch header. -/
  | launch (h : CmdHdr) (hdr : RegOp)
  /-- SPAWNT (R321). Adds a task record to the issuing core's deque. -/
  | spawnt (h : CmdHdr) (reg : BitVec 6)
  /-- LSTAT (R322). Queries the status of a launch by its LAUNCHID. -/
  | lstat (h : CmdHdr) (id : BitVec 32)
  /-- FPOST (R323). Publishes a frame as an output's latest complete frame when it is newer. -/
  | fpost (h : CmdHdr) (base : RegOp) (bytes fnum : BitVec 32) (out : BitVec 4)
  /-- FCLK (R324). Completes once the frame clock reaches T. -/
  | fclk (h : CmdHdr) (t : RegOp)
  /-- SCENEB (R325). Binds a scene table to the issuing launch. -/
  | sceneb (h : CmdHdr) (table : RegOp)
  /-- WAYCFG (R371). Converts slice ways between cache and slice scratch. -/
  | waycfg (h : CmdHdr) (slice : BitVec 9) (ways : BitVec 12) (mode : Bool)
  /-- PREEMPT (R369). Saves the selected wave slots of a core into the context cache. -/
  | preempt (h : CmdHdr) (core : BitVec 13) (slots : BitVec 8)
  /-- ISSUE_TURN (R16). On each clk the core reads its trim table entry and issues a bundle, or offers or withholds the turn. -/
  | issueTurn (core : Nat)
  /-- LONG_ACCESS_REPLY (R28). The reply of a long access writes its destination and makes the thread issuable or ready. -/
  | longAccessReply (t : Tid)
  /-- FIBRE_ARRIVAL (R35). The core removes one fibre message per clk from its arrival queue. -/
  | fibreArrival (core : Nat)
  /-- REFETCH_START (R38). When occupancy falls below FADMIT - 32 the core starts refetching the oldest spilled context. -/
  | refetchStart (core : Nat)
  /-- TASK_TAKE (R52). A core with vacant slots takes the best eligible record from its own deque and starts it. -/
  | taskTake (core : Nat)
  /-- TASK_COMPLETE (R49). A task completes and its tile buffers become EMPTY or FULL. -/
  | taskComplete (task : Nat)
  /-- STEAL_REQUEST (R53). An idle core sends a steal request to the next victim of its ring. -/
  | stealRequest (core : Nat)
  /-- STEAL_ANSWER (R364). A victim answers one steal request per clk with a record or a refusal. -/
  | stealAnswer (core : Nat)
  /-- STEAL_REPLY_ARRIVAL (R53). A stolen record starts on the held slots, or a refusal releases them. -/
  | stealReplyArrival (core : Nat)
  /-- STEAL_BACKOFF_EXPIRY (R53). After a whole ring refuses, the thief restarts the ring once 256 clk have passed. -/
  | stealBackoffExpiry (core : Nat)
  /-- GANG_START (R54). A gang task starts all its groups on one clk once the cluster has vacant slots for them. -/
  | gangStart (cluster : Nat)
  /-- BARRIER_ARRIVAL_COUNT (R221). An arrival counts at the barrier unit once its release waits are complete. -/
  | barrierArrivalCount (core slot : Nat)
  /-- SEMW_SATISFIED (R227). At the end of a clk, a suspended SEMW finds its condition holds and acquires. -/
  | semwSatisfied (t : Tid)
  /-- SEMAPHORE_UPDATE (R229). Per clk, a semaphore applies SEMSET, summed signals and one ready SEMS. -/
  | semaphoreUpdate (core sem : Nat)
  /-- SEMS_RELEASE_DONE (R228). A SEMS whose release waits complete becomes ready to apply its increment. -/
  | semsReleaseDone (t : Tid)
  /-- COMMAND_START (R298). A queued command starts once its wait, running limit and store waits allow. -/
  | commandStart (core : Nat)
  /-- COMMAND_COMPLETE (R302). A command whose writes have performed applies tile flags, writes its token and signals. -/
  | commandComplete (core num : Nat)
  /-- SLOT_RESTORE (R370). A saved thread is restored into its slot once the slot is vacant and not outranked. -/
  | slotRestore (core slot : Nat)
  /-- LAUNCH_DEFERRED (R354). A held LAUNCH is checked once the die or partition has room. -/
  | launchDeferred (core num : Nat)
  /-- FIBRE_QUANTUM_EXPIRY (R32). After 256 bundles a fibre is made ready again when another fibre is ready. -/
  | fibreQuantumExpiry (core slot : Nat)
  /-- REFETCH_COMPLETE (R38). A refetched context becomes ready when its read completes, in spill order. -/
  | refetchComplete (core : Nat)
  /-- WAITLINE_RELOAD (R193). A write to the watched line performs, and WAITLINE reloads and compares. -/
  | waitlineReload (t : Tid)
  /-- STORE_BUFFER_SEND (R208). A store-buffer entry leaves in order towards its home. -/
  | storeBufferSend (core : Nat)
  /-- HOME_WRITE_PERFORM (R88). A write performs at its home and takes its place in home order. -/
  | homeWritePerform (req : Nat)
  /-- HOME_READ (R91). A fresh read request reaching its home is answered with the current value. -/
  | homeRead (req : Nat)
  /-- RESERVATION_REQUEST (R217). An atomic's reservation request enters the line's FIFO at the home slice. -/
  | reservationRequest (req : Nat)
  /-- RESERVATION_GRANT (R217). A grant reaches the core, and the atomic unit applies the operation and sends the release. -/
  | reservationGrant (req : Nat)
  /-- ATOMIC_RELEASE (R217). The home performs the atomic's release as its event and grants the next request. -/
  | atomicRelease (req : Nat)
  /-- COMMAND_LINE_TAKE (R300). A running command takes ownership of its destination lines in ascending order. -/
  | commandLineTake (core num : Nat)
  /-- MATRIX_TILE_STEP (R310). A matrix engine context starts its next tile step, alternating between contexts. -/
  | matrixTileStep (core : Nat)
  /-- MATRIX_STEP_COMPLETE (R310). A tile step completes, records its MSTAT flags and frees the slot. -/
  | matrixStepComplete (core : Nat) (ctx : Bool)
  /-- RIG_RUN (R316). Once all members have arrived, the rig computes in chain order. -/
  | rigRun (part rig : Nat)
  /-- RIG_COMPLETE (R316). The last accumulator write of the rig completes every member. -/
  | rigComplete (part rig : Nat)
  /-- RIG_ABANDON (R317). A rig instruction is abandoned and its members reissue. -/
  | rigAbandon (part rig : Nat)
  /-- RIG_PREEMPT_TIMEOUT (R317). A pre-emption request that waits 65,536 clk at a member abandons the rig instruction. -/
  | rigPreemptTimeout (core slot : Nat)
  /-- LAUNCH_HEADER_CHECK (R44). The distributor checks the header it has read, and accepts or rejects the launch. -/
  | launchHeaderCheck (core num : Nat)
  /-- LAUNCH_FILL (R45). Constant bank binding and code fill of a participating core, waiting for banks and code regions. -/
  | launchFill (core lid : Nat)
  /-- DISTRIBUTOR_RECORD_WRITE (R358). The distributor writes one task record per clk towards a deque or gang queue. -/
  | distributorRecordWrite (die : Nat)
  /-- TASK_RECORD_ARRIVAL (R358). A task record from a distributor enters its deque or gang queue. -/
  | taskRecordArrival (msg : Nat)
  /-- LAUNCH_COMPLETE (R46). A launch completes when all its tasks and fibres are gone. -/
  | launchComplete (lid : Nat)
  /-- PRIORITY_AGING (R362). A waiting launch's effective priority rises with time under AGECFG. -/
  | priorityAging (lid : Nat)
  /-- SLOT_LEND (R390). A slot waiting on a recorded fault is saved and lent. -/
  | slotLend (core slot : Nat)
  /-- CLUSTER_TLB_FILL (R373). A micro-TLB miss that hits the cluster TLB fills the micro-TLB and resumes the thread. -/
  | clusterTlbFill (t : Tid)
  /-- MISS_ENTRY_OPEN (R381). A cluster TLB miss opens or joins a miss entry. -/
  | missEntryOpen (t : Tid)
  /-- PAGE_WALK (R378). The translation service core walks the page tables and inserts, faults or ends launches. -/
  | pageWalk (cluster asid vpage : Nat)
  /-- FAULT_RECORD_WRITE (R385). A held or unrecorded record is written once the trap queue has room. -/
  | faultRecordWrite (cluster : Nat)
  /-- WAKE (R383). A wake message makes a waiting thread reissue its bundle. -/
  | wake (t : Tid)
  /-- FAULT_REPLY_RETRY (R388). A RETRY reply restarts the walk of a recorded miss entry. -/
  | faultReplyRetry (die : Nat)
  /-- FAULT_REPLY_FAIL (R388). A FAIL reply frees the miss entry and ends its waiters' launches. -/
  | faultReplyFail (die : Nat)
  /-- FAULT_REPLY_INVAL (R388). An INVAL reply invalidates a page in the partition's TLBs. -/
  | faultReplyInval (die : Nat)
  /-- FAULT_REPLY_INVASID (R388). An INVASID reply invalidates every entry of an ASID. -/
  | faultReplyInvasid (die : Nat)
  /-- TLB_INSERT (R376). Inserts TLBENTHI and TLBENTLO into the cluster TLB, optionally waking waiters. -/
  | tlbInsert (t : Tid)
  /-- TLB_INVPAGE (R376). Removes the entries of a page across the partition. -/
  | tlbInvpage (t : Tid)
  /-- TLB_INVASID (R376). Removes every entry of an ASID. -/
  | tlbInvasid (t : Tid)
  /-- TLB_INVCLU (R376). Removes every entry of the issuing cluster. -/
  | tlbInvclu (t : Tid)
  /-- CTXSYNC_WRITEBACK (R394). Writes every on-chip saved image to the context area. -/
  | ctxsyncWriteback (cluster : Nat)
  /-- CTXSYNC_DROP (R394). After write-back, discards the on-chip image copies. -/
  | ctxsyncDrop (cluster : Nat)
  /-- DEBUG_HALTREQ (R395). Halts a user slot, saving it with REASON HALT and writing a HALTED notice. -/
  | debugHaltreq (core slot : Nat)
  /-- DEBUG_RESUME (R395). Changes a halted image's REASON to PREEMPT so it can be restored. -/
  | debugResume (core slot : Nat)
  /-- LSPLIT_WRITE (R69). Repartitions local SRAM, losing leaving treelets and invalidating the local cache. -/
  | lsplitWrite (core : Nat) (v : Word)
  /-- PHASEWIN_WRITE (R78). Declares phase-buffered tiles and clears all written bits. -/
  | phasewinWrite (cluster : Nat) (v : Word)
  /-- TRIMTAB_WRITE (R359). A supervisor write checks and installs a trim table from the next clk. -/
  | trimtabWrite (core : Nat) (hi : Bool) (v : Word)
  /-- STEALRING_LOAD (R363). Reads a steal-ring image from memory for the core. -/
  | stealringLoad (t : Tid)
  /-- SCOPE_WRITE (R365). Writes a named scope register and propagates it to every core of the partition. -/
  | scopeWrite (t : Tid)
  /-- RIGLOAD (R367). Installs rig-table entries into their member cores. -/
  | rigload (t : Tid)
  /-- SNAP (R455). Samples the die's counters at one clk and writes snapshot records. -/
  | snap (t : Tid)
  /-- PARTCFG_WRITE (R350). Writes a partition register, refused when the result breaks the partition rules. -/
  | partcfgWrite (m : Master) (p : Nat) (v : Word)
  /-- SLICECFG_WRITE (R407). Changes slice settings; a VISWAYS change discards copies in ways that change role. -/
  | slicecfgWrite (m : Master) (die : Nat) (v : Word)
  /-- OUTCFG_WRITE (R434). Configures an output; a write of W0 clears FREEZE. -/
  | outcfgWrite (m : Master) (out w : Nat) (v : Word)
  /-- CONFIG_WRITE (R401). An owner's write to a configuration word that has no behaviour of its own. -/
  | configWrite (m : Master) (die : Option Nat) (offset : Nat) (v : Word)
  /-- MESH_MESSAGE_DELIVERY (R406). A mesh message arrives at its destination router on its virtual channel. -/
  | meshMessageDelivery (msg : Nat)
  /-- SLICE_MISS_FILL (R410). An HBM read for a slice miss completes and answers the merged requests. -/
  | sliceMissFill (slice line : Nat)
  /-- SLICE_WRITEBACK (R411). A write-back arrives and updates a home way or is written around to HBM. -/
  | sliceWriteback (slice : Nat)
  /-- MULTICAST_WINDOW_EXPIRY (R412). At the end of MCWIN, the home answers all held marked reads with one reply. -/
  | multicastWindowExpiry (slice line : Nat)
  /-- HBM_REFRESH (R416). A bank refresh, which may split a copy-engine burst. -/
  | hbmRefresh (die : Nat) (split : Bool)
  /-- DIRECTORY_HOP (R282). A HOP reaches the treelet directory and is forwarded by the entry's state. -/
  | directoryHop (slice : Nat)
  /-- PAGING_COMPLETE (R283). A treelet copy completes, making it resident and its parked fibres ready. -/
  | pagingComplete (core : Nat)
  /-- EVICTION_REPORT (R420). An owner reports a completed eviction; Evicting becomes Cold and held HOPs are released. -/
  | evictionReport (slice : Nat)
  /-- DIRECTORY_WINDOW_EXPIRY (R420). At the end of a HOTWIN window, treelets gain or lose replicas. -/
  | directoryWindowExpiry (slice : Nat)
  /-- TRAV_EVENT_DELIVERY (R271). The traversal walk delivers an event, setting the PC and making the fibre ready. -/
  | travEventDelivery (core entry : Nat)
  /-- TRAY_RECORD_ARRIVAL (R292). A hit record enters a tray, or waits while the tray is full. -/
  | trayRecordArrival (core : Nat)
  /-- HOST_MEM_REQUEST (R425). A host CXL.mem access is served at the home slice, with back-invalidation tracking. -/
  | hostMemRequest (q : HostReq)
  /-- HOST_BACK_INVALIDATE_RESPONSE (R425). The host's back-invalidation response performs at the home and releases waiting accesses. -/
  | hostBackInvalidateResponse (line : Nat) (data : Option (List Byte))
  /-- HOST_WRITEBACK (R426). A full-line host write-back is accepted. -/
  | hostWriteback (line : Nat) (data : List Byte)
  /-- HOST_COMPLETION (R424). The host completes a device CXL.cache access, with an error ending the launch. -/
  | hostCompletion (req : Nat) (data : Option (List Byte))
  /-- HOST_SNOOP (R423). A host snoop is answered with a miss. -/
  | hostSnoop (addr : Nat)
  /-- STAY_PACKET_RECEIVE (R430). A stay packet is delivered in sequence, or discarded as a duplicate. -/
  | stayPacketReceive (p : StayPacket)
  /-- STAY_ACK_RECEIVE (R430). An acknowledgement frees the acknowledged packets of a context. -/
  | stayAckReceive (ctx upto : Nat)
  /-- STAY_RESEND_TIMEOUT (R430). An unacknowledged packet after 2 µs triggers a resend, a port change or a failure. -/
  | stayResendTimeout (ctx : Nat)
  /-- STAY_CONTEXT_IDLE (R430). After 4 µs idle, a delivery context is released. -/
  | stayContextIdle (ctx : Nat)
  /-- STAY_ACK_TIMER (R430). The receiver acknowledges within 1 µs of an unacknowledged packet. -/
  | stayAckTimer (rctx : Nat)
  /-- STAY_PORT_STATE_CHANGE (R428). A stay port's link state changes, raising vector 8. -/
  | stayPortStateChange (port : Nat) (st lanes : Nat)
  /-- FRAME_TIMING_SEND (R432). The master sends a timing message on every port in state up each microsecond. -/
  | frameTimingSend
  /-- FRAME_TIMING_RECEIVE (R433). A timing message locks, steps or slews the frame clock. -/
  | frameTimingReceive (time tier : Nat)
  /-- FRAME_HOLDOVER_TIMEOUT (R433). After 100 µs without timing messages, LOCK clears and HOLDOVER sets. -/
  | frameHoldoverTimeout
  /-- PRESENT_INSTANT (R435). At each present instant, an output picks a frame and writes a presentation record. -/
  | presentInstant (out : Nat)
  /-- MGMT_CLAIM (R438). A master claims management ownership. -/
  | mgmtClaim (m : Master)
  /-- MGMT_OFFER (R438). The owner offers ownership to a master for 100 ms. -/
  | mgmtOffer (m : Master) (p : Nat)
  /-- MGMT_RELEASE (R438). The owner releases ownership. -/
  | mgmtRelease (m : Master)
  /-- MGMT_OFFER_EXPIRY (R438). An offer lapses after 100 ms. -/
  | mgmtOfferExpiry
  /-- MGMT_OWNER_PATH_DOWN (R438). The owner's path down for 10 ms clears ownership. -/
  | mgmtOwnerPathDown (downFor : Nat)
  /-- ATTEST_GO (R443). Starts writing a signed attestation report. -/
  | attestGo (m : Master)
  /-- ATTEST_COMPLETE (R443). The report writes have performed and BUSY clears with a release. -/
  | attestComplete
  /-- KEY_LOAD (R445). Unwraps and loads a key pair into a key slot. -/
  | keyLoad (m : Master) (slot : Nat)
  /-- KEY_ERASE (R445). Erases a key slot. -/
  | keyErase (m : Master) (slot : Nat)
  /-- STORAGE_ERROR (R446). A detected storage or link error is corrected, poisons, disables a way or fences. -/
  | storageError (e : StorageErr)
  /-- FENCE_GO (R448). Fences a core or cluster, ending the launches that use it. -/
  | fenceGo (m : Master) (v : Word)
  /-- DRAIN_SET (R450). Setting PKGCTL.DRAIN starts draining the package. -/
  | drainSet (m : Master)
  /-- DRAIN_CLEAR (R450). Clearing DRAIN before DRAINED resumes service. -/
  | drainClear (m : Master)
  /-- DRAIN_COMPLETE (R450). After 4 µs idle, the package writes back, disables stay ports and sets DRAINED. -/
  | drainComplete
  /-- POWER_CONTROL_TICK (R451). Every 10 µs each die sets its withholding level for the cap and temperature. -/
  | powerControlTick (die level junction : Nat)
  /-- THERMAL_ALERT (R452). A junction reaching 95 °C raises vector 11. -/
  | thermalAlert (die : Nat)
  /-- THERMTRIP (R452). At 110 °C the package is held in reset until power cycles. -/
  | thermtrip (die : Nat)
  /-- RESET (R440). Reset runs the bring-up sequence from the root of trust to READY. -/
  | reset
  /-- CONTEXT_SAVE_COMPLETE (R391). A slot's save into the cluster's context cache completes, and on the next clk the slot becomes vacant and is counted as saved for PREEMPT. -/
  | contextSaveComplete (core slot : Nat)
  /-- NOP (R186). Scalar no-operation; does nothing in its slot. -/
  | nop
  /-- VNOP (R146). Vector no-operation. -/
  | vnop
deriving DecidableEq, Repr

end Sys2Proof
end

