-- ==== Sys2Proof/WellFormed.lean ====
section
/-!
DEFINITION. The checks on an instruction's fields that its types do not carry: those of Table 5.21 and Table 10.15 that need
neither the mode nor the state, and for the hardware steps the ranges of the numbers that name agents (Table 0.1).
-/
namespace Sys2Proof

/-- The width in bits of et (Table 5.7). -/
def etWidth (et : BitVec 3) : Nat :=
  match et.toNat with
  | 0 => 8 | 1 => 16 | 2 => 32 | 3 => 64 | 4 => 8 | 5 => 16 | 6 => 32 | _ => 64

/-- The width of a width-only et (Table 5.7): et 4 names a 16-bit type there. -/
def etWidthOnly (et : BitVec 3) : Nat :=
  match et.toNat with
  | 0 => 8 | 1 => 16 | 2 => 32 | 3 => 64 | 4 => 16 | 5 => 16 | 6 => 32 | _ => 64

/-- et names a 32-bit or 64-bit width. -/
def et3264 (et : BitVec 3) : Bool := et == 2 || et == 3 || et == 6 || et == 7

/-- imm[15:8] must be zero for 8-bit elements (Table 5.9). -/
def immFits (y : VSrc) (w : Nat) : Bool :=
  match y with
  | .reg _ => true
  | .imm v => w != 8 || v.toNat < 256

/-- An aligned branch displacement (Table 5.17). -/
def dispAligned (imm : BitVec 32) : Bool := imm.toNat % 8 == 0

/-- The type code is an FP type of Table 5.8. -/
def tyIsFp (ty : BitVec 4) : Bool := (4 ≤ ty.toNat && ty.toNat ≤ 7) || (12 ≤ ty.toNat && ty.toNat ≤ 14)

/-- The width of a type code (Table 5.8). -/
def tyWidth (ty : BitVec 4) : Nat :=
  match ty.toNat with
  | 0 => 8 | 1 => 16 | 2 => 32 | 3 => 64 | 4 => 16 | 5 => 16 | 6 => 32 | 7 => 64
  | 8 => 8 | 9 => 16 | 10 => 32 | 11 => 64 | 12 => 8 | 13 => 8 | _ => 4

def tyIsInt (ty : BitVec 4) : Bool := ty.toNat ≤ 3 || (8 ≤ ty.toNat && ty.toNat ≤ 11)

/-- The accepted pairs of Table 8.7 for VCVT: destination et (FP column), source type. -/
def vcvtPair (et : BitVec 3) (ty : BitVec 4) : Bool :=
  match et.toNat, ty.toNat with
  | 4, 5 => true | 4, 1 => true | 4, 9 => true
  | 5, 4 => true | 5, 1 => true | 5, 9 => true
  | 6, 2 => true | 6, 10 => true | 7, 3 => true | 7, 11 => true
  | _, _ => false

/-- For VCVTI: destination et (integer column), FP source. -/
def vcvtiPair (et : BitVec 3) (ty : BitVec 4) : Bool :=
  match et.toNat, ty.toNat with
  | 1, 4 => true | 1, 5 => true | 5, 4 => true | 5, 5 => true
  | 2, 6 => true | 6, 6 => true | 3, 7 => true | 7, 7 => true
  | _, _ => false

/-- The wide side and the narrow side of VNARROW and VWIDEN (Table 8.7): et in the FP column when the type is FP. -/
def resizePair (et : BitVec 3) (ty : BitVec 4) : Bool :=
  if tyIsFp ty then 4 ≤ et.toNat && tyWidth ty < etWidthOnly et
  else tyIsInt ty && 16 ≤ etWidth et && tyWidth ty < etWidth et

/-- SAT of VNARROW is allowed for e4m3, e5m2 and integers (Table 8.7). -/
def narrowSat (ty : BitVec 4) (sat : Bool) : Bool := !sat || tyIsInt ty || ty == 12 || ty == 13

/-- The operand pairs of MMA (Table 10.9). -/
def mmaPair (ta tb : BitVec 4) : Bool :=
  (ta == 4 && tb == 4) || (ta == 5 && tb == 5) ||
  ((ta == 12 || ta == 13) && (tb == 12 || tb == 13)) ||
  ((ta == 0 || ta == 8) && (tb == 0 || tb == 8))

/-- The operand pairs of MMAX (Table 10.9). -/
def mmaxPair (ta tb : BitVec 4) : Bool :=
  ((ta == 12 || ta == 13) && (tb == 12 || tb == 13)) || (ta == 14 && tb == 14)

def matInt (ta : BitVec 4) : Bool := ta == 0 || ta == 8

/-- Word 0 of a command (R144, R294): disabled fields are zero, and only the X bits of Table 10.2 are set. -/
def hdrOk (h : CmdHdr) (x0 x1 : Bool) : Bool :=
  (h.we || (h.wsem == 0 && h.wthr == 0)) && (h.se || (h.ssem == 0 && h.sinc == 0)) &&
  (x0 || !h.x0) && (x1 || !h.x1)

def rigOk (h : CmdHdr) (kb : BitVec 6) (mx : Bool) (ta tb : BitVec 4) : Bool :=
  hdrOk h true false && kb != 0 && (if mx then mmaxPair ta tb else mmaPair ta tb) &&
  (ta != 14 || kb.toNat % 2 == 0)

def coreOk (c : Nat) : Bool := c < 6528
def slotOk (c k : Nat) : Bool := c < 6528 && k < 8
def tidOk : Tid → Bool
  | .wave c k => c < 6528 && k < 8
  | .fibre c e => c < 6528 && e < 256
  | .cmd c n => c < 6528 && n < 128

/-- The unit of a storage error exists (Table 2.4, R407, R428). -/
def errOk : StorageErr → Bool
  | .hbm line _ => line < 0x300000000
  | .slice p w line _ => p < 288 && w < 12 && line < 0x300000000
  | .tcm c off _ => c < 6144 && off < 0x80000
  | .scratch k off _ => k < 384 && off < 0x400000
  | .cache c line _ => c < 6144 && line < 0x300000000
  | .treelet c _ _ | .tlb c _ _ | .coreParity c => c < 6144
  | .clusterTlb k _ _ | .clusterParity k => k < 384
  | .link _ => true
  | .stayLink p _ => p < 18

/-- A well-formed row. -/
def wellFormed : Instr → Bool
  | .bc _ _ imm | .jmp imm | .call _ imm | .spawn _ imm => dispAligned imm
  | .fence o _ => o != .relaxed
  | .vround _ _ rm _ _ => rm.toNat ≤ 4
  | .vexp2 _ _ _ e | .vlog2 _ _ _ e | .vsin _ _ _ e | .vcos _ _ _ e | .vtanh _ _ _ e => e != .f64
  | .viadd _ _ y _ et | .visub _ _ y _ et | .vimul _ _ y _ et | .vimulh _ _ y _ et | .vimad _ _ y _ et
  | .vimin _ _ y _ et | .vimax _ _ y _ et | .vand _ _ y _ et | .vor _ _ y _ et | .vxor _ _ y _ et
  | .vandn _ _ y _ et | .vshl _ _ y _ et | .vshr _ _ y _ et | .vsha _ _ y _ et | .vsatadd _ _ y _ et
  | .vsatsub _ _ y _ et | .vidiv _ _ y _ et | .virem _ _ y _ et => immFits y (etWidth et)
  | .vicmp _ _ c y _ et => c != .un && c != .or && immFits y (etWidth et)
  | .vwhile _ _ _ _ et | .vmatch _ _ _ et | .vhash _ _ _ _ et => et3264 et
  | .vgath _ _ _ _ _ _ _ _ et | .vscat _ _ _ _ _ _ _ et | .vamo _ _ _ _ _ _ _ _ _ _ et => et3264 et
  | .vamof _ _ _ _ _ _ _ _ _ _ et => et == 6 || et == 7
  | .vmovi _ imm _ et => immFits (.imm imm) (etWidthOnly et)
  | .vcvt _ _ ty sat _ et => vcvtPair et ty && !sat
  | .vcvti _ _ ty sat _ et => vcvtiPair et ty && !sat
  | .vnarrow _ _ ty sat _ et => resizePair et ty && narrowSat ty sat
  | .vwiden _ _ ty sat _ et => resizePair et ty && !sat
  | .vqmx _ _ ty _ et | .vdqmx _ _ ty _ et => 12 ≤ ty.toNat && ty.toNat ≤ 14 && (et == 5 || et == 6)
  | .vhqpop vd _ _ => vd.toNat ≤ 16
  | .vraygen _ va _ _ => va.toNat ≤ 16
  | .vaccrd _ _ _ _ _ et | .vaccwr _ _ _ _ _ et => et == 2 || et == 6
  | .vdot4 _ _ _ _ et => et == 0 || et == 1 || et == 2 || et == 4 || et == 5
  | .cpy h _ _ _ | .cpy2 h _ _ _ _ _ _ | .cpyt h _ _ _ _ _ _ _ => hdrOk h true true
  | .cpyb h _ _ _ _ _ bsz _ _ => hdrOk h true true && bsz != 3
  | .cpym h _ doff die len _ => hdrOk h true true && doff.toNat % 8 == 0 && len.toNat % 8 == 0 &&
      doff.toNat + len.toNat ≤ 0x400000 && die.toNat < 6
  | .cpyr h _ _ _ ty => hdrOk h true true && ty.toNat < 6
  | .cpyg h _ _ count _ => hdrOk h true true && count.toNat ≤ 2 ^ 24
  | .pref2 h _ _ | .flush h _ _ | .fillz h _ _ => hdrOk h true false
  | .mma h va vb _ _ ta tb => hdrOk h true false && va.toNat ≤ 24 && vb.toNat ≤ 24 && mmaPair ta tb && !(h.x0 && matInt ta)
  | .mmax h va vb _ _ _ ta tb => hdrOk h true false && va.toNat ≤ 24 && vb.toNat ≤ 24 && mmaxPair ta tb
  | .mzero h _ _ => hdrOk h false false
  | .mld h _ _ _ st | .mst h _ _ _ st => hdrOk h false false && st.toNat % 64 == 0 && 256 ≤ st.toNat
  | .rmmak h _ _ _ kb mx ta tb _ _ _ _ | .rmman h _ _ _ kb mx ta tb _ _ _ _ => rigOk h kb mx ta tb
  | .semop h _ _ _ | .semset h _ _ _ | .launch h _ | .spawnt h _ | .lstat h _ | .fclk h _ | .sceneb h _ => hdrOk h false false
  | .mcas h _ count _ => hdrOk h false false && 2 ≤ count.toNat && count.toNat ≤ 8
  | .fpost h _ bytes _ _ => hdrOk h false false && bytes != 0 && bytes.toNat % 4096 == 0
  | .waycfg h slice _ _ => hdrOk h false false && slice.toNat ≤ 287
  | .preempt h core slots => hdrOk h false false && core.toNat < 6144 && slots.toNat < 128
  | .issueTurn c | .fibreArrival c | .refetchStart c | .refetchComplete c | .taskTake c | .stealRequest c | .stealAnswer c
  | .stealReplyArrival c | .stealBackoffExpiry c | .storeBufferSend c | .commandStart c | .matrixTileStep c
  | .pagingComplete c | .trayRecordArrival c => coreOk c
  | .fibreQuantumExpiry c k | .barrierArrivalCount c k | .rigPreemptTimeout c k | .slotRestore c k | .slotLend c k
  | .debugHaltreq c k | .debugResume c k | .contextSaveComplete c k => slotOk c k
  | .longAccessReply t | .semwSatisfied t | .semsReleaseDone t | .waitlineReload t | .clusterTlbFill t | .missEntryOpen t
  | .wake t | .tlbInsert t | .tlbInvpage t | .tlbInvasid t | .tlbInvclu t | .stealringLoad t | .scopeWrite t | .rigload t
  | .snap t => tidOk t
  | .gangStart k | .ctxsyncWriteback k | .ctxsyncDrop k | .faultRecordWrite k | .phasewinWrite k _ => k < 384
  | .pageWalk k _ _ => k < 384
  | .semaphoreUpdate c q => coreOk c && q < 256
  | .matrixStepComplete c _ | .commandLineTake c _ | .commandComplete c _ | .launchHeaderCheck c _ | .launchDeferred c _
  | .launchFill c _ | .lsplitWrite c _ | .trimtabWrite c _ _ => coreOk c
  | .travEventDelivery c e => coreOk c && e < 256
  | .rigRun p r | .rigComplete p r | .rigAbandon p r => p < 6 && r < 256
  | .distributorRecordWrite d | .faultReplyRetry d | .faultReplyFail d | .faultReplyInval d | .faultReplyInvasid d => d < 6
  | .partcfgWrite _ p _ => p < 6
  | .slicecfgWrite _ d _ => d < 6
  | .outcfgWrite _ o w _ => o < 16 && w < 3
  | .configWrite _ d _ _ => match d with | none => true | some k => k < 6
  | .sliceMissFill s _ | .sliceWriteback s | .multicastWindowExpiry s _ | .directoryHop s | .evictionReport s
  | .directoryWindowExpiry s => s < 288
  | .hbmRefresh d _ => d < 6
  | .stayPortStateChange p st lanes => p < 18 && st < 4 && lanes ≤ 8
  | .presentInstant o => o < 16
  | .storageError e => errOk e
  | .keyLoad _ s | .keyErase _ s => s < 2048
  | .powerControlTick d l j => d < 6 && l ≤ 48 && j < 256
  | .thermalAlert d | .thermtrip d => d < 6
  | .hostWriteback _ data => data.length == 64
  | .hostBackInvalidateResponse _ data => match data with | none => true | some b => b.length == 64
  | .hostMemRequest q => match q.data with | none => true | some b => b.length == q.n
  | _ => true

end Sys2Proof
end

