-- ==== Sys2Proof/Decode.lean ====
section
/-!
DEFINITION. The decoder: bytes of a bundle or of a command to instructions, total, rejecting by name (05 R140-R162); after it
the encoder, from the same tables.
-/
namespace Sys2Proof

/-- Why a bundle is no instruction: the rows of Table 5.21 that the bits alone decide. The machine takes ILLEGAL for each. -/
inductive Reject
  /-- an unassigned opcode, or an opcode in a format that Table 5.17 or 5.19 does not allow it -/
  | unassigned
  /-- a must-be-zero bit or an unused field is nonzero -/
  | nonzero
  /-- a field value that its table does not define for the opcode -/
  | badField
  /-- both operations of a dual bundle write one scalar register (R152) -/
  | sameScalar
  /-- the scalar operation needs VNOP beside it (R203, R204, R220, R224, R290) -/
  | needsVnop
  /-- word 0 of a command where no command can start, or too few bytes -/
  | notHere
deriving DecidableEq, Repr

/-- The fields of one operation as a bundle carries them: a slot of a dual bundle (Table 5.2), a wide bundle (Tables 5.3, 5.4),
a command (Table 5.5). -/
inductive Raw
  | sc (op : BitVec 7) (sd sa : BitVec 6) (b : BitVec 8) (mod : BitVec 4)
  | scw (op : BitVec 7) (sd sa : BitVec 6) (mod : BitVec 4) (imm : BitVec 32)
  | ve (op : BitVec 7) (vd va vb : BitVec 5) (ms : BitVec 6) (et : BitVec 3)
  | vew (op : BitVec 7) (vd va : BitVec 5) (ms : BitVec 6) (et : BitVec 3) (x : BitVec 20) (imm : BitVec 16)
  | cm (cop : BitVec 6) (h : CmdHdr) (w1 w2 w3 : Word)
  | none
deriving DecidableEq, Repr

def chk (c : Bool) (i : Instr) : Except Reject Instr := if c then .ok i else .error .nonzero
def chkB (c : Bool) (r : Except Reject Instr) : Except Reject Instr := if c then r else .error .nonzero

/-! Fields of mod (Table 5.12). -/

def zxOf (mod : BitVec 4) : Bool := mod.getLsbD 3
def satOf (mod : BitVec 4) : Bool := mod.getLsbD 2
def wOf (mod : BitVec 4) : IntW :=
  match (mod.setWidth 2).toNat with | 0 => .w64 | 1 => .w32 | 2 => .w16 | _ => .w8
def withT (mod : BitVec 4) (k : FpT → Instr) : Except Reject Instr :=
  match mod.toNat with | 0 => .ok (k .f64) | 1 => .ok (k .f32) | 2 => .ok (k .f32x2) | _ => .error .badField
def withBCond (mod : BitVec 4) (k : BCond → Instr) : Except Reject Instr :=
  match mod.toNat with
  | 0 => .ok (k .z) | 1 => .ok (k .nz) | 2 => .ok (k .lt) | 3 => .ok (k .ge) | 4 => .ok (k .gt) | 5 => .ok (k .le)
  | _ => .error .badField
def fcondOf (mod : BitVec 4) : FCond :=
  match (mod.extractLsb' 2 2).toNat with | 0 => .eq | 1 => .lt | 2 => .le | _ => .un
def travOf (mod : BitVec 4) (b : BitVec 8) : Except Reject Instr :=
  match mod.toNat with
  | 0 => .ok .trav | 1 => .ok .travAcc | 2 => .ok .travEnd | 3 => .ok (.travInst b) | _ => .error .badField

/-! The FP class of et (Table 5.7), KIND and ORD (R155, R156). -/

def withE (et : BitVec 3) (k : FpE → Instr) : Except Reject Instr :=
  match et.toNat with
  | 4 => .ok (k .f16) | 5 => .ok (k .bf16) | 6 => .ok (k .f32) | 7 => .ok (k .f64) | _ => .error .badField
def withAmo (kind : BitVec 4) (k : AmoKind → Instr) : Except Reject Instr :=
  match kind.toNat with
  | 0 => .ok (k .add) | 1 => .ok (k .and) | 2 => .ok (k .or) | 3 => .ok (k .xor) | 4 => .ok (k .min)
  | 5 => .ok (k .max) | 6 => .ok (k .minn) | 7 => .ok (k .maxn) | 8 => .ok (k .swap) | _ => .error .badField
def withAmof (kind : BitVec 4) (k : AmofKind → Instr) : Except Reject Instr :=
  match kind.toNat with
  | 0 => .ok (k .add) | 4 => .ok (k .min) | 5 => .ok (k .max) | _ => .error .badField
def ordOf (o : BitVec 2) : Ord :=
  match o.toNat with | 0 => .relaxed | 1 => .acq | 2 => .rel | _ => .ar

/-! The control word of the atomics (Table 5.11). -/

def cwVB (imm : BitVec 32) : BitVec 6 := imm.extractLsb' 0 6
def cwVC (imm : BitVec 32) : BitVec 6 := imm.extractLsb' 6 6
def cwKind (imm : BitVec 32) : BitVec 4 := imm.extractLsb' 12 4
def cwOrd (imm : BitVec 32) : Ord := ordOf (imm.extractLsb' 16 2)
def cwScope (imm : BitVec 32) : BitVec 4 := imm.extractLsb' 18 4
def cwTop (imm : BitVec 32) : BitVec 10 := imm.extractLsb' 22 10
/-- Bits [15:8] of the immediate of SEMW. -/
def semMid (imm : BitVec 32) : BitVec 8 := imm.extractLsb' 8 8

/-! The extension field (Table 5.10); bit i of X is bit 16 + i of the bundle. -/

def xBase (x : BitVec 20) : BitVec 6 := x.extractLsb' 14 6
def xLax (x : BitVec 20) : Bool := x.getLsbD 13
def xZx (x : BitVec 20) : Bool := x.getLsbD 12
def xSc (x : BitVec 20) : BitVec 2 := x.extractLsb' 10 2
def xKind (x : BitVec 20) : BitVec 4 := x.extractLsb' 6 4
def xOrd (x : BitVec 20) : Ord := ordOf (x.extractLsb' 4 2)
/-- Bits [28:26] of the bundle. -/
def xMid (x : BitVec 20) : BitVec 3 := x.extractLsb' 10 3
def xStride (x : BitVec 20) : BitVec 6 := x.extractLsb' 4 6
def vcondOf (x : BitVec 20) : VCond :=
  match (x.extractLsb' 16 3).toNat with
  | 0 => .eq | 1 => .ne | 2 => .lt | 3 => .le | 4 => .gt | 5 => .ge | 6 => .un | _ => .or
def cmpSrc (x : BitVec 20) (imm : BitVec 16) : VSrc :=
  if x.getLsbD 15 then .reg (x.extractLsb' 0 5) else .imm imm
/-- COND 8 to 15 are not defined, [30:21] is zero, and imm or VB is zero by REG. -/
def cmpOk (x : BitVec 20) (imm : BitVec 16) : Bool :=
  !x.getLsbD 19 && x.extractLsb' 5 10 == 0 && (if x.getLsbD 15 then imm == 0 else x.extractLsb' 0 5 == 0)

/-- A register operand doubleword (Table 10.3). -/
def regOf (w : Word) : RegOp := ⟨w.extractLsb' 58 6, w.extractLsb' 0 58⟩

/-! The same fields, written. -/

def wCode : IntW → BitVec 2 | .w64 => 0 | .w32 => 1 | .w16 => 2 | .w8 => 3
def modInt (zx sat : Bool) (w : IntW) : BitVec 4 := BitVec.ofBool zx ++ BitVec.ofBool sat ++ wCode w
def modT : FpT → BitVec 4 | .f64 => 0 | .f32 => 1 | .f32x2 => 2
def fcondCode : FCond → BitVec 2 | .eq => 0 | .lt => 1 | .le => 2 | .un => 3
def modFset (c : FCond) (t : FpT) : BitVec 4 := fcondCode c ++ (modT t).setWidth 2
def modLax (lax : Bool) : BitVec 4 := if lax then 1 else 0
def bcondCode : BCond → BitVec 4 | .z => 0 | .nz => 1 | .lt => 2 | .ge => 3 | .gt => 4 | .le => 5
def amoCode : AmoKind → BitVec 4
  | .add => 0 | .and => 1 | .or => 2 | .xor => 3 | .min => 4 | .max => 5 | .minn => 6 | .maxn => 7 | .swap => 8
def amofCode : AmofKind → BitVec 4 | .add => 0 | .min => 4 | .max => 5
def ordCode : Ord → BitVec 2 | .relaxed => 0 | .acq => 1 | .rel => 2 | .ar => 3
def eCode : FpE → BitVec 3 | .f16 => 4 | .bf16 => 5 | .f32 => 6 | .f64 => 7
def vcondCode : VCond → BitVec 4
  | .eq => 0 | .ne => 1 | .lt => 2 | .le => 3 | .gt => 4 | .ge => 5 | .un => 6 | .or => 7
def cword (scope : BitVec 4) (o : Ord) (kind : BitVec 4) (vc vb : BitVec 6) : BitVec 32 :=
  (0 : BitVec 10) ++ scope ++ ordCode o ++ kind ++ vc ++ vb
def cmpX (c : VCond) (y : VSrc) : BitVec 20 :=
  match y with
  | .reg vb => vcondCode c ++ (1 : BitVec 1) ++ (0 : BitVec 10) ++ vb
  | .imm _ => vcondCode c ++ (0 : BitVec 16)
def cmpImm : VSrc → BitVec 16 | .reg _ => 0 | .imm v => v
def memX (base : BitVec 6) (lax zx : Bool) (sc : BitVec 2) (kind : BitVec 4) (o : BitVec 2) (scope : BitVec 4) : BitVec 20 :=
  base ++ BitVec.ofBool lax ++ BitVec.ofBool zx ++ sc ++ kind ++ o ++ scope
def strideX (base : BitVec 6) (lax : Bool) (stride : BitVec 6) : BitVec 20 :=
  base ++ BitVec.ofBool lax ++ (0 : BitVec 3) ++ stride ++ (0 : BitVec 4)
def regW (r : RegOp) : Word := r.reg ++ r.disp

def rawD (op : BitVec 7) (sd sa : BitVec 6) (b : BitVec 8) (mod : BitVec 4) : Raw := .sc op sd sa b mod
def rawW (op : BitVec 7) (sd sa : BitVec 6) (mod : BitVec 4) (imm : BitVec 32) : Raw := .scw op sd sa mod imm
def rawB (op : BitVec 7) (sd sa : BitVec 6) (y : Opb) (mod : BitVec 4) : Raw :=
  match y with | .sel b => .sc op sd sa b mod | .imm v => .scw op sd sa mod v
def rawV (op : BitVec 7) (vd va vb : BitVec 5) (ms : BitVec 6) (et : BitVec 3) : Raw := .ve op vd va vb ms et
def rawX (op : BitVec 7) (vd va : BitVec 5) (ms : BitVec 6) (et : BitVec 3) (x : BitVec 20) (imm : BitVec 16) : Raw :=
  .vew op vd va ms et x imm
def rawVB (op : BitVec 7) (vd va : BitVec 5) (y : VSrc) (ms : BitVec 6) (et : BitVec 3) : Raw :=
  match y with | .reg vb => .ve op vd va vb ms et | .imm v => .vew op vd va ms et 0 v
def rawC (cop : BitVec 6) (h : CmdHdr) (w1 w2 w3 : Word) : Raw := .cm cop h w1 w2 w3

/-- The scalar opcodes that Table 5.17 allows in the dual and in the scalar-wide format. -/
def decodeB (op : Nat) (sd sa : BitVec 6) (y : Opb) (mod : BitVec 4) : Except Reject Instr :=
  match op with
  | 0x10 => .ok (.add sd sa y (zxOf mod) (satOf mod) (wOf mod))
  | 0x11 => .ok (.sub sd sa y (zxOf mod) (satOf mod) (wOf mod))
  | 0x12 => .ok (.mul sd sa y (zxOf mod) (satOf mod) (wOf mod))
  | 0x13 => chk (!satOf mod) (.mulh sd sa y (zxOf mod) (wOf mod))
  | 0x14 => chk (!satOf mod) (.mulhn sd sa y (zxOf mod) (wOf mod))
  | 0x15 => chk (!satOf mod) (.div sd sa y (zxOf mod) (wOf mod))
  | 0x16 => chk (!satOf mod) (.divn sd sa y (zxOf mod) (wOf mod))
  | 0x17 => chk (!satOf mod) (.rem sd sa y (zxOf mod) (wOf mod))
  | 0x18 => chk (!satOf mod) (.remn sd sa y (zxOf mod) (wOf mod))
  | 0x19 => chk (!satOf mod) (.and sd sa y (zxOf mod) (wOf mod))
  | 0x1A => chk (!satOf mod) (.or sd sa y (zxOf mod) (wOf mod))
  | 0x1B => chk (!satOf mod) (.xor sd sa y (zxOf mod) (wOf mod))
  | 0x1C => chk (!satOf mod) (.andn sd sa y (zxOf mod) (wOf mod))
  | 0x1D => chk (!satOf mod) (.shl sd sa y (zxOf mod) (wOf mod))
  | 0x1E => chk (!satOf mod) (.shr sd sa y (zxOf mod) (wOf mod))
  | 0x1F => chk (!satOf mod) (.sha sd sa y (zxOf mod) (wOf mod))
  | 0x20 => chk (!satOf mod) (.rol sd sa y (zxOf mod) (wOf mod))
  | 0x21 => chk (!satOf mod) (.min sd sa y (zxOf mod) (wOf mod))
  | 0x22 => chk (!satOf mod) (.max sd sa y (zxOf mod) (wOf mod))
  | 0x23 => chk (!satOf mod) (.minn sd sa y (zxOf mod) (wOf mod))
  | 0x24 => chk (!satOf mod) (.maxn sd sa y (zxOf mod) (wOf mod))
  | 0x2A => chk (!satOf mod) (.sext sd sa y (zxOf mod) (wOf mod))
  | 0x2B => chk (!satOf mod) (.bfx sd sa y (zxOf mod) (wOf mod))
  | 0x2C => chk (!satOf mod) (.bfi sd sa y (zxOf mod) (wOf mod))
  | 0x2D => chk (!zxOf mod && !satOf mod) (.seq sd sa y (wOf mod))
  | 0x2E => chk (!zxOf mod && !satOf mod) (.sne sd sa y (wOf mod))
  | 0x2F => chk (!zxOf mod && !satOf mod) (.slt sd sa y (wOf mod))
  | 0x30 => chk (!zxOf mod && !satOf mod) (.sltn sd sa y (wOf mod))
  | 0x31 => chk (mod == 0) (.sel sd sa y)
  | 0x32 => chk (!zxOf mod && !satOf mod) (.lea sd sa y (mod.setWidth 2))
  | 0x40 => withT mod (fun t => .fadd sd sa y t)
  | 0x41 => withT mod (fun t => .fsub sd sa y t)
  | 0x42 => withT mod (fun t => .fmul sd sa y t)
  | 0x43 => withT mod (fun t => .ffma sd sa y t)
  | 0x44 => withT mod (fun t => .fdiv sd sa y t)
  | 0x46 => withT mod (fun t => .fmin sd sa y t)
  | 0x47 => withT mod (fun t => .fmax sd sa y t)
  | 0x48 => withT (mod &&& 3) (fun t => .fset sd sa y (fcondOf mod) t)
  | 0x50 => chk (mod.toNat < 2) (.ldb sd sa y (mod == 1))
  | 0x51 => chk (mod.toNat < 2) (.ldbn sd sa y (mod == 1))
  | 0x52 => chk (mod.toNat < 2) (.ldh sd sa y (mod == 1))
  | 0x53 => chk (mod.toNat < 2) (.ldhn sd sa y (mod == 1))
  | 0x54 => chk (mod.toNat < 2) (.ldw sd sa y (mod == 1))
  | 0x55 => chk (mod.toNat < 2) (.ldwn sd sa y (mod == 1))
  | 0x56 => chk (mod.toNat < 2) (.ldd sd sa y (mod == 1))
  | 0x57 => chk (mod == 0) (.stb sd sa y)
  | 0x58 => chk (mod == 0) (.sth sd sa y)
  | 0x59 => chk (mod == 0) (.stw sd sa y)
  | 0x5A => chk (mod == 0) (.std sd sa y)
  | 0x5B => .ok (.lda sd sa y mod)
  | 0x5C => .ok (.stl sd sa y mod)
  | 0x5D => chk (sd == 0 && mod.toNat < 2) (.pref sa y (mod == 1))
  | _ => .error .unassigned

/-- The scalar opcodes that Table 5.17 allows in the dual format only. -/
def decodeD (op : Nat) (sd sa : BitVec 6) (b : BitVec 8) (mod : BitVec 4) : Except Reject Instr :=
  match op with
  | 0x00 => chk (sd == 0 && sa == 0 && b == 0 && mod == 0) .nop
  | 0x03 => chk (sd == 0 && mod == 0) (.jmpi sa b)
  | 0x05 => chk (mod == 0) (.calli sd sa b)
  | 0x06 => chk (sd == 0 && b == 0 && mod == 0) (.ret sa)
  | 0x08 => chk (sd == 0 && sa == 0 && b == 0 && mod == 0) .tret
  | 0x09 => chk (sd == 0 && sa == 0 && b == 0 && mod == 0) .brk
  | 0x0C => chk (mod == 0) (.qwidth sd sa b)
  | 0x0D => chk (mod == 0) (.waitline sd sa b)
  | 0x25 => chk (b == 0 && !satOf mod) (.abs sd sa (zxOf mod) (wOf mod))
  | 0x26 => chk (b == 0 && !satOf mod) (.clz sd sa (zxOf mod) (wOf mod))
  | 0x27 => chk (b == 0 && !satOf mod) (.ctz sd sa (zxOf mod) (wOf mod))
  | 0x28 => chk (b == 0 && !satOf mod) (.popc sd sa (zxOf mod) (wOf mod))
  | 0x29 => chk (b == 0 && !satOf mod) (.brev sd sa (zxOf mod) (wOf mod))
  | 0x45 => chkB (b == 0) (withT mod (fun t => .fsqrt sd sa t))
  | 0x49 => chk (b == 0) (.fcvt sd sa mod)
  | 0x4A => chkB (b == 0) (withT mod (fun t => .fabs sd sa t))
  | 0x68 => chk (sd == 0 && sa == 0 && b == 0 && mod == 0) .barc
  | 0x69 => chk (sd == 0 && sa == 0 && b == 0 && mod == 0) .barg
  | 0x6A => chk (sd == 0 && sa == 0 && b == 0 && mod == 0) .develop
  | 0x6B => chk (mod == 0) (.trim sd sa b)
  | 0x70 => chkB (sd == 0 && sa == 0 && (b == 0 || mod == 3)) (travOf mod b)
  | 0x71 => chk (sd == 0 && sa == 0 && b == 0 && mod == 0) .hop
  | 0x72 => chk (sd == 0 && mod == 0) (.go sa b)
  | 0x74 => chk (sd == 0 && sa == 0 && b == 0 && mod == 0) .fend
  | 0x75 => chk (sd == 0 && sa == 0 && b == 0 && mod == 0) .fyield
  | 0x76 => chk (sd == 0 && b == 0 && mod == 0) (.hqpush sa)
  | 0x77 => chk (mod == 0) (.rgen sd sa b)
  | _ => .error .unassigned

/-- The scalar opcodes that Table 5.17 allows in the scalar-wide format only. -/
def decodeW (op : Nat) (sd sa : BitVec 6) (mod : BitVec 4) (imm : BitVec 32) : Except Reject Instr :=
  match op with
  | 0x01 => chkB (sd == 0) (withBCond mod (fun c => .bc sa c imm))
  | 0x02 => chk (sd == 0 && sa == 0 && mod == 0) (.jmp imm)
  | 0x04 => chk (sa == 0 && mod == 0) (.call sd imm)
  | 0x07 => chk (sd == 0 && sa == 0 && mod == 0 && imm.toNat < 0x10000) (.trap (imm.setWidth 16))
  | 0x0A => chk (sa == 0 && mod == 0 && imm.toNat < 0x10000) (.mfsr sd (imm.setWidth 16))
  | 0x0B => chk (sd == 0 && mod == 0 && imm.toNat < 0x10000) (.mtsr sa (imm.setWidth 16))
  | 0x33 => chk (sa == 0 && mod == 0) (.li sd imm)
  | 0x34 => chk (sa == 0 && mod == 0) (.lih sd imm)
  | 0x60 => chkB (mod == 0 && cwTop imm == 0 && cwVC imm == 0) (withAmo (cwKind imm) (fun k => .amo sd sa (cwVB imm) k (cwOrd imm) (cwScope imm)))
  | 0x61 => chkB (mod == 0 && cwTop imm == 0 && cwVC imm == 0) (withAmo (cwKind imm) (fun k => .amow sd sa (cwVB imm) k (cwOrd imm) (cwScope imm)))
  | 0x62 => chk (mod == 0 && cwTop imm == 0 && cwKind imm == 0) (.cas sd sa (cwVB imm) (cwVC imm) (cwOrd imm) (cwScope imm))
  | 0x63 => chk (mod == 0 && cwTop imm == 0 && cwKind imm == 0) (.casw sd sa (cwVB imm) (cwVC imm) (cwOrd imm) (cwScope imm))
  | 0x64 => chkB (mod.toNat < 2 && cwTop imm == 0 && cwVC imm == 0) (withAmof (cwKind imm) (fun k => .amof sd sa (cwVB imm) k (mod == 1) (cwOrd imm) (cwScope imm)))
  | 0x65 => chk (sd == 0 && sa == 0 && mod == 0 && cwTop imm == 0 && cwKind imm == 0 && cwVC imm == 0 && cwVB imm == 0) (.fence (cwOrd imm) (cwScope imm))
  | 0x6C => chk (semMid imm == 0) (.semw sd sa (imm.setWidth 8) (imm.extractLsb' 16 16) mod)
  | 0x6D => chk (imm.extractLsb' 24 8 == 0) (.sems sd sa (imm.setWidth 8) (imm.extractLsb' 8 16) mod)
  | 0x73 => chk (sa == 0 && mod == 0) (.spawn sd imm)
  | _ => .error .unassigned

/-- The vector opcodes that Table 5.19 allows in both formats. -/
def decodeVB (op : Nat) (vd va : BitVec 5) (y : VSrc) (ms : BitVec 6) (et : BitVec 3) : Except Reject Instr :=
  match op with
  | 0x01 => withE et (fun e => .vadd vd va y ms e)
  | 0x02 => withE et (fun e => .vsub vd va y ms e)
  | 0x03 => withE et (fun e => .vmul vd va y ms e)
  | 0x04 => withE et (fun e => .vfma vd va y ms e)
  | 0x05 => withE et (fun e => .vfms vd va y ms e)
  | 0x06 => withE et (fun e => .vfnma vd va y ms e)
  | 0x07 => withE et (fun e => .vmin vd va y ms e)
  | 0x08 => withE et (fun e => .vmax vd va y ms e)
  | 0x09 => withE et (fun e => .vminp vd va y ms e)
  | 0x0A => withE et (fun e => .vmaxp vd va y ms e)
  | 0x12 => withE et (fun e => .vcopysign vd va y ms e)
  | 0x13 => withE et (fun e => .vldexp vd va y ms e)
  | 0x18 => withE et (fun e => .vdiv vd va y ms e)
  | 0x28 => .ok (.viadd vd va y ms et)
  | 0x29 => .ok (.visub vd va y ms et)
  | 0x2A => .ok (.vimul vd va y ms et)
  | 0x2B => .ok (.vimulh vd va y ms et)
  | 0x2C => .ok (.vimad vd va y ms et)
  | 0x2D => .ok (.vimin vd va y ms et)
  | 0x2E => .ok (.vimax vd va y ms et)
  | 0x30 => .ok (.vand vd va y ms et)
  | 0x31 => .ok (.vor vd va y ms et)
  | 0x32 => .ok (.vxor vd va y ms et)
  | 0x33 => .ok (.vandn vd va y ms et)
  | 0x34 => .ok (.vshl vd va y ms et)
  | 0x35 => .ok (.vshr vd va y ms et)
  | 0x36 => .ok (.vsha vd va y ms et)
  | 0x3A => .ok (.vsatadd vd va y ms et)
  | 0x3B => .ok (.vsatsub vd va y ms et)
  | 0x3C => .ok (.vidiv vd va y ms et)
  | 0x3D => .ok (.virem vd va y ms et)
  | 0x41 => .ok (.vbfx vd va y ms et)
  | 0x42 => .ok (.vbfi vd va y ms et)
  | 0x4E => .ok (.vrot vd va y ms et)
  | 0x4F => .ok (.vslideup vd va y ms et)
  | 0x50 => .ok (.vslidedn vd va y ms et)
  | 0x7C => .ok (.vdot4 vd va y ms et)
  | _ => .error .unassigned

/-- The vector opcodes that Table 5.19 allows in the dual format only. -/
def decodeVD (op : Nat) (vd va vb : BitVec 5) (ms : BitVec 6) (et : BitVec 3) : Except Reject Instr :=
  match op with
  | 0x00 => chk (vd == 0 && va == 0 && vb == 0 && ms == 0 && et == 0) .vnop
  | 0x0B => chkB (vb == 0) (withE et (fun e => .vabs vd va ms e))
  | 0x0C => chkB (vb == 0) (withE et (fun e => .vneg vd va ms e))
  | 0x0E => chkB (vb == 0) (withE et (fun e => .vclass vd va ms e))
  | 0x10 => chkB (vb.toNat < 8) (withE et (fun e => .vround vd va (vb.setWidth 3) ms e))
  | 0x11 => chkB (vb == 0) (withE et (fun e => .vfract vd va ms e))
  | 0x14 => chkB (vb == 0) (withE et (fun e => .vfrexp vd va ms e))
  | 0x19 => chkB (vb == 0) (withE et (fun e => .vsqrt vd va ms e))
  | 0x1A => chkB (vb == 0) (withE et (fun e => .vrcp vd va ms e))
  | 0x1B => chkB (vb == 0) (withE et (fun e => .vrsq vd va ms e))
  | 0x1C => chkB (vb == 0) (withE et (fun e => .vexp2 vd va ms e))
  | 0x1D => chkB (vb == 0) (withE et (fun e => .vlog2 vd va ms e))
  | 0x1E => chkB (vb == 0) (withE et (fun e => .vsin vd va ms e))
  | 0x1F => chkB (vb == 0) (withE et (fun e => .vcos vd va ms e))
  | 0x20 => chkB (vb == 0) (withE et (fun e => .vtanh vd va ms e))
  | 0x2F => chk (vb == 0) (.viabs vd va ms et)
  | 0x38 => chk (vb == 0) (.vpopc vd va ms et)
  | 0x39 => chk (vb == 0) (.vclz vd va ms et)
  | 0x40 => .ok (.vbitsel vd va vb ms et)
  | 0x43 => .ok (.vwhile vd va vb ms et)
  | 0x44 => chk (vb == 0) (.vmatch vd va ms et)
  | 0x48 => chk (vb == 0) (.vmov vd va ms et)
  | 0x49 => chk (vb == 0) (.vsplat vd va ms et)
  | 0x4B => .ok (.vext vd va vb ms et)
  | 0x4C => .ok (.vins vd va vb ms et)
  | 0x4D => .ok (.vperm vd va vb ms et)
  | 0x51 => chk (va == 0 && vb == 0) (.viota vd ms et)
  | 0x52 => .ok (.vsel vd va vb ms et)
  | 0x53 => chk (vb == 0) (.vcompress vd va ms et)
  | 0x54 => chk (vb == 0) (.vexpand vd va ms et)
  | 0x55 => .ok (.vshfl vd va vb ms et)
  | 0x58 => chk (vb == 0) (.vredadd vd va ms et)
  | 0x59 => chk (vb == 0) (.vredmin vd va ms et)
  | 0x5A => chk (vb == 0) (.vredmax vd va ms et)
  | 0x5B => chk (vb == 0) (.vredand vd va ms et)
  | 0x5C => chk (vb == 0) (.vredor vd va ms et)
  | 0x5D => chk (vb == 0) (.vscanadd vd va ms et)
  | 0x5E => chk (vb == 0) (.vscanmin vd va ms et)
  | 0x5F => chk (vb == 0) (.vscanmax vd va ms et)
  | 0x60 => .ok (.vcvt vd va (vb.setWidth 4) (vb.getLsbD 4) ms et)
  | 0x61 => .ok (.vcvti vd va (vb.setWidth 4) (vb.getLsbD 4) ms et)
  | 0x62 => .ok (.vnarrow vd va (vb.setWidth 4) (vb.getLsbD 4) ms et)
  | 0x63 => .ok (.vwiden vd va (vb.setWidth 4) (vb.getLsbD 4) ms et)
  | 0x64 => chk (!vb.getLsbD 4) (.vqmx vd va (vb.setWidth 4) ms et)
  | 0x65 => chk (!vb.getLsbD 4) (.vdqmx vd va (vb.setWidth 4) ms et)
  | 0x78 => chk (va == 0 && et == 0) (.vhqpop vd vb ms)
  | 0x79 => chk (et == 0) (.vraygen vd va vb ms)
  | 0x7A => chk (va.toNat < 8) (.vaccrd vd (va.setWidth 2) (va.getLsbD 2) vb ms et)
  | 0x7B => chk (va.toNat < 8) (.vaccwr vd (va.setWidth 2) (va.getLsbD 2) vb ms et)
  | 0x7D => chk (et == 5) (.vbfdot vd va vb ms)
  | 0x7E => .ok (.vhash vd va vb ms et)
  | _ => .error .unassigned

/-- The vector opcodes that Table 5.19 allows in the vector-wide format only. -/
def decodeVX (op : Nat) (vd va : BitVec 5) (ms : BitVec 6) (et : BitVec 3) (x : BitVec 20) (imm : BitVec 16) : Except Reject Instr :=
  match op with
  | 0x0D => withE et (fun e => .vcmp vd va (vcondOf x) (cmpSrc x imm) ms e) |> chkB (cmpOk x imm)
  | 0x37 => chk (cmpOk x imm) (.vicmp vd va (vcondOf x) (cmpSrc x imm) ms et)
  | 0x4A => chk (va == 0 && x == 0) (.vmovi vd imm ms et)
  | 0x68 => chk (va == 0 && x.setWidth 13 == 0) (.vld vd (xBase x) imm (xLax x) ms et)
  | 0x69 => chk (va == 0 && x.setWidth 14 == 0) (.vst vd (xBase x) imm ms et)
  | 0x6A => chk (va == 0 && xMid x == 0 && x.setWidth 4 == 0) (.vlds vd (xBase x) (xStride x) imm (xLax x) ms et)
  | 0x6B => chk (va == 0 && xMid x == 0 && !xLax x && x.setWidth 4 == 0) (.vsts vd (xBase x) (xStride x) imm ms et)
  | 0x6C => chk (x.setWidth 10 == 0) (.vgath vd va (xBase x) imm (xZx x) (xSc x) (xLax x) ms et)
  | 0x6D => chk (x.setWidth 10 == 0 && !xLax x) (.vscat vd va (xBase x) imm (xZx x) (xSc x) ms et)
  | 0x6E => chk (va == 0 && x.setWidth 13 == 0) (.vldb vd (xBase x) imm (xLax x) ms et)
  | 0x6F => chkB (!xLax x) (withAmo (xKind x) (fun k => .vamo vd va (xBase x) imm (xZx x) (xSc x) k (xOrd x) (x.setWidth 4) ms et))
  | 0x70 => chkB (!xLax x) (withAmof (xKind x) (fun k => .vamof vd va (xBase x) imm (xZx x) (xSc x) k (xOrd x) (x.setWidth 4) ms et))
  | _ => .error .unassigned

/-- The commands (Table 5.20), with the operand words of chapter 10. -/
def decodeC (op : Nat) (h : CmdHdr) (w1 w2 w3 : Word) : Except Reject Instr :=
  match op with
  | 0x00 => chk (w3.extractLsb' 32 32 == 0) (.cpy h (regOf w1) (regOf w2) (w3.extractLsb' 0 32))
  | 0x01 => chk (true) (.cpy2 h (regOf w1) (regOf w2) (w3.extractLsb' 0 16) (w3.extractLsb' 16 16) (w3.extractLsb' 32 16) (w3.extractLsb' 48 16))
  | 0x02 => chk (w3.extractLsb' 62 2 == 0) (.cpyt h (regOf w1) (regOf w2) (w3.extractLsb' 0 12) (w3.extractLsb' 12 12) (w3.extractLsb' 24 18) (w3.extractLsb' 42 18) (w3.extractLsb' 60 2))
  | 0x03 => chk (w3.extractLsb' 46 18 == 0) (.cpyb h (regOf w1) (regOf w2) (w3.extractLsb' 0 12) (w3.extractLsb' 12 12) (w3.extractLsb' 24 18) (w3.extractLsb' 42 2) (w3.getLsbD 44) (w3.getLsbD 45))
  | 0x04 => chk (w2.extractLsb' 22 2 == 0 && w2.extractLsb' 27 5 == 0) (.cpym h (regOf w1) (w2.extractLsb' 0 22) (w2.extractLsb' 24 3) (w2.extractLsb' 32 32) w3)
  | 0x05 => chk (w3.extractLsb' 35 29 == 0) (.cpyr h (regOf w1) (regOf w2) (w3.extractLsb' 0 32) (w3.extractLsb' 32 3))
  | 0x06 => chk (w3.extractLsb' 35 29 == 0) (.cpyg h (regOf w1) (regOf w2) (w3.extractLsb' 0 32) (w3.extractLsb' 32 3))
  | 0x07 => chk (w2.extractLsb' 32 32 == 0 && w3 == 0) (.pref2 h (regOf w1) (w2.extractLsb' 0 32))
  | 0x08 => chk (w2.extractLsb' 32 32 == 0 && w3 == 0) (.flush h (regOf w1) (w2.extractLsb' 0 32))
  | 0x09 => chk (w2 == 0 && w3.extractLsb' 32 32 == 0) (.fillz h (regOf w1) (w3.extractLsb' 0 32))
  | 0x10 => chk (w1.extractLsb' 10 6 == 0 && w1.extractLsb' 27 37 == 0 && w2 == 0 && w3 == 0) (.mma h (w1.extractLsb' 0 5) (w1.extractLsb' 5 5) (w1.extractLsb' 16 2) (w1.getLsbD 18) (w1.extractLsb' 19 4) (w1.extractLsb' 23 4))
  | 0x11 => chk (w1.extractLsb' 10 6 == 0 && w1.extractLsb' 32 32 == 0 && w2 == 0 && w3 == 0) (.mmax h (w1.extractLsb' 0 5) (w1.extractLsb' 5 5) (w1.extractLsb' 27 5) (w1.extractLsb' 16 2) (w1.getLsbD 18) (w1.extractLsb' 19 4) (w1.extractLsb' 23 4))
  | 0x12 => chk (w1.extractLsb' 5 59 == 0 && w2 == 0 && w3 == 0) (.mzero h (w1.extractLsb' 0 4) (w1.getLsbD 4))
  | 0x13 => chk (w2.extractLsb' 3 29 == 0 && w3 == 0) (.mld h (regOf w1) (w2.extractLsb' 0 2) (w2.getLsbD 2) (w2.extractLsb' 32 32))
  | 0x14 => chk (w2.extractLsb' 3 29 == 0 && w3 == 0) (.mst h (regOf w1) (w2.extractLsb' 0 2) (w2.getLsbD 2) (w2.extractLsb' 32 32))
  | 0x15 => chk (true) (.rmmak h (w1.extractLsb' 32 32) (w1.extractLsb' 26 6) (w1.extractLsb' 18 8) (w1.extractLsb' 12 6) (w1.getLsbD 11) (w1.extractLsb' 3 4) (w1.extractLsb' 7 4) (w1.getLsbD 2) (w1.extractLsb' 0 2) (regOf w2) (regOf w3))
  | 0x16 => chk (true) (.rmman h (w1.extractLsb' 32 32) (w1.extractLsb' 26 6) (w1.extractLsb' 18 8) (w1.extractLsb' 12 6) (w1.getLsbD 11) (w1.extractLsb' 3 4) (w1.extractLsb' 7 4) (w1.getLsbD 2) (w1.extractLsb' 0 2) (regOf w2) (regOf w3))
  | 0x18 => chk (w1.extractLsb' 40 24 == 0 && w2 == 0 && w3 == 0) (.semop h (w1.extractLsb' 0 16) (w1.extractLsb' 16 8) (w1.extractLsb' 24 16))
  | 0x19 => chk (w1.extractLsb' 40 24 == 0 && w2 == 0 && w3 == 0) (.semset h (w1.extractLsb' 0 16) (w1.extractLsb' 16 8) (w1.extractLsb' 24 16))
  | 0x1A => chk (w2.extractLsb' 6 58 == 0 && w3 == 0) (.mcas h (regOf w1) (w2.extractLsb' 0 4) (ordOf (w2.extractLsb' 4 2)))
  | 0x20 => chk (w2 == 0 && w3 == 0) (.launch h (regOf w1))
  | 0x21 => chk (w1.extractLsb' 6 58 == 0 && w2 == 0 && w3 == 0) (.spawnt h (w1.extractLsb' 0 6))
  | 0x22 => chk (w1.extractLsb' 32 32 == 0 && w2 == 0 && w3 == 0) (.lstat h (w1.extractLsb' 0 32))
  | 0x24 => chk (w2.extractLsb' 32 32 == 0 && w3.extractLsb' 36 28 == 0) (.fpost h (regOf w1) (w2.extractLsb' 0 32) (w3.extractLsb' 0 32) (w3.extractLsb' 32 4))
  | 0x25 => chk (w2 == 0 && w3 == 0) (.fclk h (regOf w1))
  | 0x28 => chk (w2 == 0 && w3 == 0) (.sceneb h (regOf w1))
  | 0x30 => chk (w1.extractLsb' 22 42 == 0 && w2 == 0 && w3 == 0) (.waycfg h (w1.extractLsb' 0 9) (w1.extractLsb' 9 12) (w1.getLsbD 21))
  | 0x31 => chk (w1.extractLsb' 21 43 == 0 && w2 == 0 && w3 == 0) (.preempt h (w1.extractLsb' 0 13) (w1.extractLsb' 13 8))
  | _ => .error .unassigned

/-- The fields of an instruction's encoding; none for a step of the hardware, which no bundle encodes. -/
def toRaw : Instr → Raw
  | .add sd sa y zx sat w => rawB 0x10 sd sa y (modInt zx sat w)
  | .sub sd sa y zx sat w => rawB 0x11 sd sa y (modInt zx sat w)
  | .mul sd sa y zx sat w => rawB 0x12 sd sa y (modInt zx sat w)
  | .mulh sd sa y zx w => rawB 0x13 sd sa y (modInt zx false w)
  | .mulhn sd sa y zx w => rawB 0x14 sd sa y (modInt zx false w)
  | .div sd sa y zx w => rawB 0x15 sd sa y (modInt zx false w)
  | .divn sd sa y zx w => rawB 0x16 sd sa y (modInt zx false w)
  | .rem sd sa y zx w => rawB 0x17 sd sa y (modInt zx false w)
  | .remn sd sa y zx w => rawB 0x18 sd sa y (modInt zx false w)
  | .and sd sa y zx w => rawB 0x19 sd sa y (modInt zx false w)
  | .or sd sa y zx w => rawB 0x1A sd sa y (modInt zx false w)
  | .xor sd sa y zx w => rawB 0x1B sd sa y (modInt zx false w)
  | .andn sd sa y zx w => rawB 0x1C sd sa y (modInt zx false w)
  | .shl sd sa y zx w => rawB 0x1D sd sa y (modInt zx false w)
  | .shr sd sa y zx w => rawB 0x1E sd sa y (modInt zx false w)
  | .sha sd sa y zx w => rawB 0x1F sd sa y (modInt zx false w)
  | .rol sd sa y zx w => rawB 0x20 sd sa y (modInt zx false w)
  | .min sd sa y zx w => rawB 0x21 sd sa y (modInt zx false w)
  | .max sd sa y zx w => rawB 0x22 sd sa y (modInt zx false w)
  | .minn sd sa y zx w => rawB 0x23 sd sa y (modInt zx false w)
  | .maxn sd sa y zx w => rawB 0x24 sd sa y (modInt zx false w)
  | .sext sd sa y zx w => rawB 0x2A sd sa y (modInt zx false w)
  | .bfx sd sa y zx w => rawB 0x2B sd sa y (modInt zx false w)
  | .bfi sd sa y zx w => rawB 0x2C sd sa y (modInt zx false w)
  | .abs sd sa zx w => rawD 0x25 sd sa 0 (modInt zx false w)
  | .clz sd sa zx w => rawD 0x26 sd sa 0 (modInt zx false w)
  | .ctz sd sa zx w => rawD 0x27 sd sa 0 (modInt zx false w)
  | .popc sd sa zx w => rawD 0x28 sd sa 0 (modInt zx false w)
  | .brev sd sa zx w => rawD 0x29 sd sa 0 (modInt zx false w)
  | .seq sd sa y w => rawB 0x2D sd sa y (modInt false false w)
  | .sne sd sa y w => rawB 0x2E sd sa y (modInt false false w)
  | .slt sd sa y w => rawB 0x2F sd sa y (modInt false false w)
  | .sltn sd sa y w => rawB 0x30 sd sa y (modInt false false w)
  | .sel sd sa y => rawB 0x31 sd sa y 0
  | .lea sd sa y sh => rawB 0x32 sd sa y (sh.setWidth 4)
  | .li sd imm => rawW 0x33 sd 0 0 imm
  | .lih sd imm => rawW 0x34 sd 0 0 imm
  | .fadd sd sa y t => rawB 0x40 sd sa y (modT t)
  | .fsub sd sa y t => rawB 0x41 sd sa y (modT t)
  | .fmul sd sa y t => rawB 0x42 sd sa y (modT t)
  | .ffma sd sa y t => rawB 0x43 sd sa y (modT t)
  | .fdiv sd sa y t => rawB 0x44 sd sa y (modT t)
  | .fmin sd sa y t => rawB 0x46 sd sa y (modT t)
  | .fmax sd sa y t => rawB 0x47 sd sa y (modT t)
  | .fsqrt sd sa t => rawD 0x45 sd sa 0 (modT t)
  | .fabs sd sa t => rawD 0x4A sd sa 0 (modT t)
  | .fset sd sa y c t => rawB 0x48 sd sa y (modFset c t)
  | .fcvt sd sa code => rawD 0x49 sd sa 0 code
  | .ldb sd sa y lax => rawB 0x50 sd sa y (modLax lax)
  | .ldbn sd sa y lax => rawB 0x51 sd sa y (modLax lax)
  | .ldh sd sa y lax => rawB 0x52 sd sa y (modLax lax)
  | .ldhn sd sa y lax => rawB 0x53 sd sa y (modLax lax)
  | .ldw sd sa y lax => rawB 0x54 sd sa y (modLax lax)
  | .ldwn sd sa y lax => rawB 0x55 sd sa y (modLax lax)
  | .ldd sd sa y lax => rawB 0x56 sd sa y (modLax lax)
  | .stb sd sa y => rawB 0x57 sd sa y 0
  | .sth sd sa y => rawB 0x58 sd sa y 0
  | .stw sd sa y => rawB 0x59 sd sa y 0
  | .std sd sa y => rawB 0x5A sd sa y 0
  | .lda sd sa y scope => rawB 0x5B sd sa y scope
  | .stl sd sa y scope => rawB 0x5C sd sa y scope
  | .pref sa y lax => rawB 0x5D 0 sa y (modLax lax)
  | .nop => rawD 0x00 0 0 0 0
  | .jmpi sa b => rawD 0x03 0 sa b 0
  | .calli sd sa b => rawD 0x05 sd sa b 0
  | .ret sa => rawD 0x06 0 sa 0 0
  | .tret => rawD 0x08 0 0 0 0
  | .brk => rawD 0x09 0 0 0 0
  | .barc => rawD 0x68 0 0 0 0
  | .barg => rawD 0x69 0 0 0 0
  | .develop => rawD 0x6A 0 0 0 0
  | .hop => rawD 0x71 0 0 0 0
  | .fend => rawD 0x74 0 0 0 0
  | .fyield => rawD 0x75 0 0 0 0
  | .qwidth sd sa b => rawD 0x0C sd sa b 0
  | .waitline sd sa b => rawD 0x0D sd sa b 0
  | .trim sd sa b => rawD 0x6B sd sa b 0
  | .rgen sd sa b => rawD 0x77 sd sa b 0
  | .trav => rawD 0x70 0 0 0 0
  | .travAcc => rawD 0x70 0 0 0 1
  | .travEnd => rawD 0x70 0 0 0 2
  | .travInst b => rawD 0x70 0 0 b 3
  | .go sa b => rawD 0x72 0 sa b 0
  | .hqpush sa => rawD 0x76 0 sa 0 0
  | .bc sa c imm => rawW 0x01 0 sa (bcondCode c) imm
  | .jmp imm => rawW 0x02 0 0 0 imm
  | .call sd imm => rawW 0x04 sd 0 0 imm
  | .trap code => rawW 0x07 0 0 0 (code.setWidth 32)
  | .mfsr sd num => rawW 0x0A sd 0 0 (num.setWidth 32)
  | .mtsr sa num => rawW 0x0B 0 sa 0 (num.setWidth 32)
  | .amo sd sa vb k o scope => rawW 0x60 sd sa 0 (cword scope o (amoCode k) 0 vb)
  | .amow sd sa vb k o scope => rawW 0x61 sd sa 0 (cword scope o (amoCode k) 0 vb)
  | .cas sd sa vb vc o scope => rawW 0x62 sd sa 0 (cword scope o 0 vc vb)
  | .casw sd sa vb vc o scope => rawW 0x63 sd sa 0 (cword scope o 0 vc vb)
  | .amof sd sa vb k single o scope => rawW 0x64 sd sa (modLax single) (cword scope o (amofCode k) 0 vb)
  | .fence o scope => rawW 0x65 0 0 0 (cword scope o 0 0 0)
  | .semw sd sa sem thr scope => rawW 0x6C sd sa scope (thr ++ (0 : BitVec 8) ++ sem)
  | .sems sd sa sem inc scope => rawW 0x6D sd sa scope ((0 : BitVec 8) ++ inc ++ sem)
  | .spawn sd imm => rawW 0x73 sd 0 0 imm
  | .vnop => rawV 0x00 0 0 0 0 0
  | .vadd vd va y ms e => rawVB 0x01 vd va y ms (eCode e)
  | .vsub vd va y ms e => rawVB 0x02 vd va y ms (eCode e)
  | .vmul vd va y ms e => rawVB 0x03 vd va y ms (eCode e)
  | .vfma vd va y ms e => rawVB 0x04 vd va y ms (eCode e)
  | .vfms vd va y ms e => rawVB 0x05 vd va y ms (eCode e)
  | .vfnma vd va y ms e => rawVB 0x06 vd va y ms (eCode e)
  | .vmin vd va y ms e => rawVB 0x07 vd va y ms (eCode e)
  | .vmax vd va y ms e => rawVB 0x08 vd va y ms (eCode e)
  | .vminp vd va y ms e => rawVB 0x09 vd va y ms (eCode e)
  | .vmaxp vd va y ms e => rawVB 0x0A vd va y ms (eCode e)
  | .vcopysign vd va y ms e => rawVB 0x12 vd va y ms (eCode e)
  | .vldexp vd va y ms e => rawVB 0x13 vd va y ms (eCode e)
  | .vdiv vd va y ms e => rawVB 0x18 vd va y ms (eCode e)
  | .vabs vd va ms e => rawV 0x0B vd va 0 ms (eCode e)
  | .vneg vd va ms e => rawV 0x0C vd va 0 ms (eCode e)
  | .vclass vd va ms e => rawV 0x0E vd va 0 ms (eCode e)
  | .vfract vd va ms e => rawV 0x11 vd va 0 ms (eCode e)
  | .vfrexp vd va ms e => rawV 0x14 vd va 0 ms (eCode e)
  | .vsqrt vd va ms e => rawV 0x19 vd va 0 ms (eCode e)
  | .vrcp vd va ms e => rawV 0x1A vd va 0 ms (eCode e)
  | .vrsq vd va ms e => rawV 0x1B vd va 0 ms (eCode e)
  | .vexp2 vd va ms e => rawV 0x1C vd va 0 ms (eCode e)
  | .vlog2 vd va ms e => rawV 0x1D vd va 0 ms (eCode e)
  | .vsin vd va ms e => rawV 0x1E vd va 0 ms (eCode e)
  | .vcos vd va ms e => rawV 0x1F vd va 0 ms (eCode e)
  | .vtanh vd va ms e => rawV 0x20 vd va 0 ms (eCode e)
  | .viadd vd va y ms et => rawVB 0x28 vd va y ms et
  | .visub vd va y ms et => rawVB 0x29 vd va y ms et
  | .vimul vd va y ms et => rawVB 0x2A vd va y ms et
  | .vimulh vd va y ms et => rawVB 0x2B vd va y ms et
  | .vimad vd va y ms et => rawVB 0x2C vd va y ms et
  | .vimin vd va y ms et => rawVB 0x2D vd va y ms et
  | .vimax vd va y ms et => rawVB 0x2E vd va y ms et
  | .vand vd va y ms et => rawVB 0x30 vd va y ms et
  | .vor vd va y ms et => rawVB 0x31 vd va y ms et
  | .vxor vd va y ms et => rawVB 0x32 vd va y ms et
  | .vandn vd va y ms et => rawVB 0x33 vd va y ms et
  | .vshl vd va y ms et => rawVB 0x34 vd va y ms et
  | .vshr vd va y ms et => rawVB 0x35 vd va y ms et
  | .vsha vd va y ms et => rawVB 0x36 vd va y ms et
  | .vsatadd vd va y ms et => rawVB 0x3A vd va y ms et
  | .vsatsub vd va y ms et => rawVB 0x3B vd va y ms et
  | .vidiv vd va y ms et => rawVB 0x3C vd va y ms et
  | .virem vd va y ms et => rawVB 0x3D vd va y ms et
  | .vbfx vd va y ms et => rawVB 0x41 vd va y ms et
  | .vbfi vd va y ms et => rawVB 0x42 vd va y ms et
  | .vrot vd va y ms et => rawVB 0x4E vd va y ms et
  | .vslideup vd va y ms et => rawVB 0x4F vd va y ms et
  | .vslidedn vd va y ms et => rawVB 0x50 vd va y ms et
  | .vdot4 vd va y ms et => rawVB 0x7C vd va y ms et
  | .viabs vd va ms et => rawV 0x2F vd va 0 ms et
  | .vpopc vd va ms et => rawV 0x38 vd va 0 ms et
  | .vclz vd va ms et => rawV 0x39 vd va 0 ms et
  | .vmatch vd va ms et => rawV 0x44 vd va 0 ms et
  | .vmov vd va ms et => rawV 0x48 vd va 0 ms et
  | .vsplat vd va ms et => rawV 0x49 vd va 0 ms et
  | .vcompress vd va ms et => rawV 0x53 vd va 0 ms et
  | .vexpand vd va ms et => rawV 0x54 vd va 0 ms et
  | .vredadd vd va ms et => rawV 0x58 vd va 0 ms et
  | .vredmin vd va ms et => rawV 0x59 vd va 0 ms et
  | .vredmax vd va ms et => rawV 0x5A vd va 0 ms et
  | .vredand vd va ms et => rawV 0x5B vd va 0 ms et
  | .vredor vd va ms et => rawV 0x5C vd va 0 ms et
  | .vscanadd vd va ms et => rawV 0x5D vd va 0 ms et
  | .vscanmin vd va ms et => rawV 0x5E vd va 0 ms et
  | .vscanmax vd va ms et => rawV 0x5F vd va 0 ms et
  | .vbitsel vd va vb ms et => rawV 0x40 vd va vb ms et
  | .vwhile vd va vb ms et => rawV 0x43 vd va vb ms et
  | .vext vd va vb ms et => rawV 0x4B vd va vb ms et
  | .vins vd va vb ms et => rawV 0x4C vd va vb ms et
  | .vperm vd va vb ms et => rawV 0x4D vd va vb ms et
  | .vsel vd va vb ms et => rawV 0x52 vd va vb ms et
  | .vshfl vd va vb ms et => rawV 0x55 vd va vb ms et
  | .vhash vd va vb ms et => rawV 0x7E vd va vb ms et
  | .viota vd ms et => rawV 0x51 vd 0 0 ms et
  | .vround vd va rm ms e => rawV 0x10 vd va (rm.setWidth 5) ms (eCode e)
  | .vcvt vd va ty sat ms et => rawV 0x60 vd va (BitVec.ofBool sat ++ ty) ms et
  | .vcvti vd va ty sat ms et => rawV 0x61 vd va (BitVec.ofBool sat ++ ty) ms et
  | .vnarrow vd va ty sat ms et => rawV 0x62 vd va (BitVec.ofBool sat ++ ty) ms et
  | .vwiden vd va ty sat ms et => rawV 0x63 vd va (BitVec.ofBool sat ++ ty) ms et
  | .vqmx vd va ty ms et => rawV 0x64 vd va (ty.setWidth 5) ms et
  | .vdqmx vd va ty ms et => rawV 0x65 vd va (ty.setWidth 5) ms et
  | .vhqpop vd vb ms => rawV 0x78 vd 0 vb ms 0
  | .vraygen vd va vb ms => rawV 0x79 vd va vb ms 0
  | .vaccrd vd tile ctx vb ms et => rawV 0x7A vd ((0 : BitVec 2) ++ BitVec.ofBool ctx ++ tile) vb ms et
  | .vaccwr vd tile ctx vb ms et => rawV 0x7B vd ((0 : BitVec 2) ++ BitVec.ofBool ctx ++ tile) vb ms et
  | .vbfdot vd va vb ms => rawV 0x7D vd va vb ms 5
  | .vcmp vd va c y ms e => rawX 0x0D vd va ms (eCode e) (cmpX c y) (cmpImm y)
  | .vicmp vd va c y ms et => rawX 0x37 vd va ms et (cmpX c y) (cmpImm y)
  | .vmovi vd imm ms et => rawX 0x4A vd 0 ms et 0 imm
  | .vld vd base imm lax ms et => rawX 0x68 vd 0 ms et (memX base lax false 0 0 0 0) imm
  | .vldb vd base imm lax ms et => rawX 0x6E vd 0 ms et (memX base lax false 0 0 0 0) imm
  | .vst vd base imm ms et => rawX 0x69 vd 0 ms et (memX base false false 0 0 0 0) imm
  | .vlds vd base stride imm lax ms et => rawX 0x6A vd 0 ms et (strideX base lax stride) imm
  | .vsts vd base stride imm ms et => rawX 0x6B vd 0 ms et (strideX base false stride) imm
  | .vgath vd va base imm zx sc lax ms et => rawX 0x6C vd va ms et (memX base lax zx sc 0 0 0) imm
  | .vscat vd va base imm zx sc ms et => rawX 0x6D vd va ms et (memX base false zx sc 0 0 0) imm
  | .vamo vd va base imm zx sc k o scope ms et => rawX 0x6F vd va ms et (memX base false zx sc (amoCode k) (ordCode o) scope) imm
  | .vamof vd va base imm zx sc k o scope ms et => rawX 0x70 vd va ms et (memX base false zx sc (amofCode k) (ordCode o) scope) imm
  | .cpy h src dst len => rawC 0x00 h (regW src) (regW dst) (len.setWidth 64)
  | .cpy2 h src dst rows rowb sstr dstr => rawC 0x01 h (regW src) (regW dst) (dstr ++ sstr ++ rowb ++ rows)
  | .cpyt h src dst rows cols sstr dstr esz => rawC 0x02 h (regW src) (regW dst) ((0 : BitVec 2) ++ esz ++ dstr ++ sstr ++ cols ++ rows)
  | .cpyb h src dst rows cols sstr bsz role tr => rawC 0x03 h (regW src) (regW dst) ((0 : BitVec 18) ++ BitVec.ofBool tr ++ BitVec.ofBool role ++ bsz ++ sstr ++ cols ++ rows)
  | .cpym h src doff die len cmask => rawC 0x04 h (regW src) (len ++ (0 : BitVec 5) ++ die ++ (0 : BitVec 2) ++ doff) (cmask)
  | .cpyr h src dst len ty => rawC 0x05 h (regW src) (regW dst) ((0 : BitVec 29) ++ ty ++ len)
  | .cpyg h src dst count gsz => rawC 0x06 h (regW src) (regW dst) ((0 : BitVec 29) ++ gsz ++ count)
  | .pref2 h addr len => rawC 0x07 h (regW addr) (len.setWidth 64) (0)
  | .flush h addr len => rawC 0x08 h (regW addr) (len.setWidth 64) (0)
  | .fillz h addr len => rawC 0x09 h (regW addr) (0) (len.setWidth 64)
  | .mma h va vb tile ctx ta tb => rawC 0x10 h ((0 : BitVec 37) ++ tb ++ ta ++ BitVec.ofBool ctx ++ tile ++ (0 : BitVec 6) ++ vb ++ va) (0) (0)
  | .mmax h va vb vs tile ctx ta tb => rawC 0x11 h ((0 : BitVec 32) ++ vs ++ tb ++ ta ++ BitVec.ofBool ctx ++ tile ++ (0 : BitVec 6) ++ vb ++ va) (0) (0)
  | .mzero h tmask ctx => rawC 0x12 h ((0 : BitVec 59) ++ BitVec.ofBool ctx ++ tmask) (0) (0)
  | .mld h addr tile ctx stride => rawC 0x13 h (regW addr) (stride ++ (0 : BitVec 29) ++ BitVec.ofBool ctx ++ tile) (0)
  | .mst h addr tile ctx stride => rawC 0x14 h (regW addr) (stride ++ (0 : BitVec 29) ++ BitVec.ofBool ctx ++ tile) (0)
  | .rmmak h rseq sreg rig kb mx ta tb ctx tile apanel bpanel => rawC 0x15 h (rseq ++ sreg ++ rig ++ kb ++ BitVec.ofBool mx ++ tb ++ ta ++ BitVec.ofBool ctx ++ tile) (regW apanel) (regW bpanel)
  | .rmman h rseq sreg rig kb mx ta tb ctx tile apanel bpanel => rawC 0x16 h (rseq ++ sreg ++ rig ++ kb ++ BitVec.ofBool mx ++ tb ++ ta ++ BitVec.ofBool ctx ++ tile) (regW apanel) (regW bpanel)
  | .semop h core sem v => rawC 0x18 h ((0 : BitVec 24) ++ v ++ sem ++ core) (0) (0)
  | .semset h core sem v => rawC 0x19 h ((0 : BitVec 24) ++ v ++ sem ++ core) (0) (0)
  | .mcas h block count o => rawC 0x1A h (regW block) ((0 : BitVec 58) ++ ordCode o ++ count) (0)
  | .launch h hdr => rawC 0x20 h (regW hdr) (0) (0)
  | .spawnt h reg => rawC 0x21 h (reg.setWidth 64) (0) (0)
  | .lstat h id => rawC 0x22 h (id.setWidth 64) (0) (0)
  | .fpost h base bytes fnum out => rawC 0x24 h (regW base) (bytes.setWidth 64) ((0 : BitVec 28) ++ out ++ fnum)
  | .fclk h t => rawC 0x25 h (regW t) (0) (0)
  | .sceneb h table => rawC 0x28 h (regW table) (0) (0)
  | .waycfg h slice ways mode => rawC 0x30 h ((0 : BitVec 42) ++ BitVec.ofBool mode ++ ways ++ slice) (0) (0)
  | .preempt h core slots => rawC 0x31 h ((0 : BitVec 43) ++ slots ++ core) (0) (0)
  | _ => .none

/-- An opcode that only the other format carries is looked up after those that both carry. -/
def orElse (r q : Except Reject Instr) : Except Reject Instr :=
  match r with | .error .unassigned => q | _ => r

/-- An opcode without a use of the extension field needs it zero (R143). -/
def noX (x : BitVec 20) (r : Except Reject Instr) : Except Reject Instr :=
  match r with | .error e => .error e | .ok i => chk (x == 0) i

/-- A decoded operation must also pass the checks that its field types do not carry. -/
def checked (r : Except Reject Instr) : Except Reject Instr :=
  match r with
  | .ok i => if wellFormed i then .ok i else .error .badField
  | .error e => .error e

/-- One operation from the fields of its slot, wide bundle or command. -/
def ofRaw : Raw → Except Reject Instr
  | .sc op sd sa b mod => checked (orElse (decodeB op.toNat sd sa (.sel b) mod) (decodeD op.toNat sd sa b mod))
  | .scw op sd sa mod imm => checked (orElse (decodeB op.toNat sd sa (.imm imm) mod) (decodeW op.toNat sd sa mod imm))
  | .ve op vd va vb ms et => checked (orElse (decodeVB op.toNat vd va (.reg vb) ms et) (decodeVD op.toNat vd va vb ms et))
  | .vew op vd va ms et x imm =>
    checked (orElse (noX x (decodeVB op.toNat vd va (.imm imm) ms et)) (decodeVX op.toNat vd va ms et x imm))
  | .cm cop h w1 w2 w3 => checked (decodeC cop.toNat h w1 w2 w3)
  | .none => .error .unassigned

/-- What one fetch brings: two operations side by side, one wide operation, or a command (Table 5.1). -/
inductive Bundle
  | dual (sc v : Instr)
  | scalarWide (i : Instr)
  | vectorWide (i : Instr)
  | command (i : Instr)
deriving DecidableEq, Repr

/-- Opcodes of the scalar slot that write no scalar register (Tables 5.16, 5.17). -/
def noScalarDest : List Nat :=
  [0x00, 0x03, 0x06, 0x08, 0x09, 0x57, 0x58, 0x59, 0x5A, 0x5C, 0x5D, 0x68, 0x69, 0x6A, 0x70, 0x71, 0x72, 0x74, 0x75, 0x76]

/-- The scalar register that a scalar-slot operation writes; s0, whose writes are ignored, counts too (notes/assumptions/82.md). -/
def scalarDest (r : Raw) : Option Nat :=
  match r with
  | .sc op sd _ _ _ => if noScalarDest.contains op.toNat then none else some sd.toNat
  | _ => none

/-- The scalar register that a vector-slot operation writes (R148, R246, R258, R259). -/
def vectorScalarDest (r : Raw) : Option Nat :=
  match r with
  | .ve op vd _ vb _ _ =>
    let o := op.toNat
    if o == 0x43 || o == 0x44 then some (32 + vd.toNat)
    else if o == 0x4B || o == 0x79 then some vd.toNat
    else if o == 0x78 then some vb.toNat
    else none
  | _ => none

/-- Scalar operations that need VNOP beside them. -/
def needsVnop : Instr → Bool
  | .brk | .tret | .barc | .barg | .develop | .trim _ _ _ | .fend | .fyield => true
  | _ => false

/-- The scalar slot, bits [61:31] of a dual bundle. -/
def scSlot (w : Word) : Raw :=
  .sc (w.extractLsb' 55 7) (w.extractLsb' 49 6) (w.extractLsb' 43 6) (w.extractLsb' 35 8) (w.extractLsb' 31 4)
/-- The vector slot, bits [30:0] of a dual bundle. -/
def veSlot (w : Word) : Raw :=
  .ve (w.extractLsb' 24 7) (w.extractLsb' 19 5) (w.extractLsb' 14 5) (w.extractLsb' 9 5) (w.extractLsb' 3 6) (w.extractLsb' 0 3)
def scWide (w : Word) : Raw :=
  .scw (w.extractLsb' 55 7) (w.extractLsb' 49 6) (w.extractLsb' 43 6) (w.extractLsb' 32 4) (w.extractLsb' 0 32)
def veWide (w : Word) : Raw :=
  .vew (w.extractLsb' 55 7) (w.extractLsb' 50 5) (w.extractLsb' 45 5) (w.extractLsb' 39 6) (w.extractLsb' 36 3)
    (w.extractLsb' 16 20) (w.extractLsb' 0 16)
/-- Word 0 of a command (Table 5.5). FLAGS[3:0] is the scope, bits 4 and 5 the X bits, bits 6 and 7 zero (Table 10.1). -/
def cmdHdr (w : Word) : CmdHdr :=
  { we := w.getLsbD 55, wsem := w.extractLsb' 47 8, wthr := w.extractLsb' 31 16, se := w.getLsbD 30,
    ssem := w.extractLsb' 22 8, sinc := w.extractLsb' 14 8, token := w.extractLsb' 8 6, scope := w.extractLsb' 0 4,
    x0 := w.getLsbD 4, x1 := w.getLsbD 5 }

/-- A bundle from its doubleword, and from the three that follow where it is a command (R140-R146, R152). -/
def decodeBundle (w0 w1 w2 w3 : Word) : Except Reject Bundle :=
  match (w0.extractLsb' 62 2).toNat with
  | 0 =>
    match ofRaw (scSlot w0), ofRaw (veSlot w0) with
    | .ok a, .ok b =>
      if needsVnop a && b != .vnop then .error .needsVnop
      else if (scalarDest (scSlot w0)).isSome && scalarDest (scSlot w0) == vectorScalarDest (veSlot w0) then
        .error .sameScalar
      else .ok (.dual a b)
    | .error e, _ => .error e
    | _, .error e => .error e
  | 1 =>
    if w0.extractLsb' 36 7 != 0 then .error .nonzero
    else match ofRaw (scWide w0) with
      | .ok a => .ok (.scalarWide a)
      | .error e => .error e
  | 2 =>
    match ofRaw (veWide w0) with
    | .ok a => .ok (.vectorWide a)
    | .error e => .error e
  | _ =>
    if w0.extractLsb' 6 2 != 0 then .error .nonzero
    else match ofRaw (.cm (w0.extractLsb' 56 6) (cmdHdr w0) w1 w2 w3) with
      | .ok a => .ok (.command a)
      | .error e => .error e

/-- The mask register of the bundle's vector operation, when it has one: all that R162 reads of a skipped bundle. -/
def bundleMask (w : Word) : BitVec 6 :=
  match (w.extractLsb' 62 2).toNat with
  | 0 => if w.extractLsb' 24 7 == 0 then 0 else w.extractLsb' 3 6
  | 2 => if w.extractLsb' 55 7 == 0 then 0 else w.extractLsb' 39 6
  | _ => 0

/-! ## The encoder -/

/-- The doublewords of one operation alone: a slot of a dual bundle with the other slot all zero, a wide bundle, a command. -/
def packRaw : Raw → List Word
  | .sc op sd sa b mod => [(0 : BitVec 2) ++ op ++ sd ++ sa ++ b ++ mod ++ (0 : BitVec 31)]
  | .ve op vd va vb ms et => [(0 : BitVec 33) ++ op ++ vd ++ va ++ vb ++ ms ++ et]
  | .scw op sd sa mod imm => [(1 : BitVec 2) ++ op ++ sd ++ sa ++ (0 : BitVec 7) ++ mod ++ imm]
  | .vew op vd va ms et x imm => [(2 : BitVec 2) ++ op ++ vd ++ va ++ ms ++ et ++ x ++ imm]
  | .cm cop h w1 w2 w3 =>
    [(3 : BitVec 2) ++ cop ++ BitVec.ofBool h.we ++ h.wsem ++ h.wthr ++ BitVec.ofBool h.se ++ h.ssem ++ h.sinc ++ h.token ++
      (0 : BitVec 2) ++ BitVec.ofBool h.x1 ++ BitVec.ofBool h.x0 ++ h.scope, w1, w2, w3]
  | .none => []

/-- The words of an instruction on its own. -/
def encode (i : Instr) : List Word := packRaw (toRaw i)

/-- The words of a bundle; a dual bundle's two slots lie in one doubleword. -/
def encodeBundle : Bundle → List Word
  | .dual a b =>
    match encode a, encode b with
    | [x], [y] => [x ||| y]
    | _, _ => []
  | .scalarWide i | .vectorWide i | .command i => encode i

/-- The instruction a bundle is asked for by: a dual bundle's vector operation unless that is VNOP, else its scalar one. -/
def Bundle.main : Bundle → Instr
  | .dual a .vnop => a
  | .dual _ b => b
  | .scalarWide i | .vectorWide i | .command i => i

/-- The instruction in `nbits` bits of w, its words in ascending order and zero above. -/
def decodeTableWord (nbits w : Nat) : Option Instr :=
  let n := w % 2 ^ nbits
  match decodeBundle (word n) (word (n >>> 64)) (word (n >>> 128)) (word (n >>> 192)) with
  | .ok b => some b.main
  | .error _ => none

end Sys2Proof
end

