-- ==== Sys2Proof/Machine/State.lean ====
section
/-!
DEFINITION. The state of the package as plain data, and its value at reset. Sparse tables (`Map`) hold the agents that differ
from their reset value; an absent entry reads as the default given with its accessor in Machine/Ops.lean.
-/
namespace Sys2Proof.Machine

/-- Why the machine stops. Every exception, fatal record and error that the manual describes is a next state, so one reason
is left. -/
inductive Fault
  /-- An operation's meaning was asked for while no bundle is being issued; `step` never asks. Safe: the machine stops. -/
  | noBundle
deriving DecidableEq, Repr

/-- What the model has no meaning for. -/
inductive Refusal
  /-- Raised by an arm of `exec` whose meaning is not written. Safe. -/
  | notModelled (mnemonic : String)
  /-- Raised by `step` for an agenda entry whose numbers name no agent of the package (`wellFormed`). Safe. -/
  | illFormed
deriving DecidableEq, Repr

/-- What an agent must not fall behind (R100, R102): copies of its core's local cache filled before `loc`, and visitor copies of its die filled
before `vis`, are set aside; of a line in `lines`, any local copy read before the rank given there. -/
structure Floors where
  loc : Nat
  vis : Nat
  lines : Map Nat
deriving DecidableEq, Repr

/-- The release a write carried (R101): its scope number, its core, the set that the scope named when it was issued (R92, R93) as SCOPEn,
SCOPEnC and the partition, and the floors of its thread. -/
structure RelMark where
  scope : Nat
  core : Nat
  set : Nat × Nat × Option Nat
  floors : Floors
  /-- a FENCE.rel, carried by the stores after it, and not the write's own -/
  fence : Bool
deriving DecidableEq, Repr

/-- What a replying access writes (Table 1.4): the part's value goes to element `idx`. -/
inductive Dest
  /-- nothing (s0, f0, FENCE, STL) -/
  | none
  /-- a scalar or fibre register: n bytes, sign-extended or not -/
  | scalar (reg n : Nat) (signed : Bool)
  /-- elements of width w of v(vd): element idx of the part -/
  | vector (vd w : Nat)
deriving DecidableEq, Repr

/-- What a request asks of the home of its bytes. -/
inductive ReqKind
  | load (lax : Bool)
  /-- the load of a WAITLINE: its line is watched from the read instant on (R193) -/
  | watch
  | pref (lax : Bool)
  /-- bytes of one line, ascending; `rel` marks an STL -/
  | store (bytes : List (Nat × Byte)) (rel : Option RelMark)
  /-- the functions of one group in element order (R256), one for a scalar atomic -/
  | atomic (f : List AtomFn) (rel : Option RelMark)
  /-- a command's take of a line, or an MCAS's reservation of one (R107, R109) -/
  | take (num : Nat) (mcas : Bool)
  /-- a fresh read of a running command -/
  | eng (num : Nat)
  /-- a read of the code or the constants of a launch (R45), or of a treelet image (R264) -/
  | fill (lid : Nat)
  | paging (id : Nat)
deriving DecidableEq, Repr

/-- Where a request stands. -/
inductive Stage
  /-- in the store buffer (R208) -/
  | buffered
  /-- in the mesh towards the visitor ways of its die, and there (R82) -/
  | sentVis
  | atVis
  /-- in the mesh towards its home -/
  | sent
  /-- at its home: in the slice input, at a scratchpad bank, at the host or on the stay fabric -/
  | atHome
  /-- in the line's FIFO (R217) -/
  | queued
  /-- granted: the value travels to the core, then the release travels back -/
  | granted
  | releasing
  | released
  /-- merged into a miss entry of its slice (R410) -/
  | missing
  /-- the reply travels, and has arrived -/
  | replying
  | replied
deriving DecidableEq, Repr

/-- One access on its way (R87). `uid` is the thread that made it, 0 for none. -/
structure Req where
  core : Nat
  uid : Nat
  /-- the elements it serves: number, address, bytes -/
  parts : List (Nat × Nat × Nat)
  va : Nat
  pa : Nat
  n : Nat
  kind : ReqKind
  stage : Stage
  val : Nat
  /-- the releases that an acquire of its value may synchronise with, latest first (R99) -/
  marks : List RelMark
  /-- the marks that a write of its own carries, from its issue -/
  own : List RelMark
  /-- the line as a `.lax` reply brings it, and the releases of its bytes -/
  data : List Byte
  lineMarks : Map (Nat × List RelMark)
  /-- bytes forwarded from the store buffer at issue (R89), and the releases that these stores carry -/
  fwd : List (Nat × Byte)
  fwdMarks : List RelMark
  /-- bytes of the line that the core has written since its issue (R83), and the releases that these stores carry -/
  later : List (Nat × Byte)
  laterMarks : Map (Nat × List RelMark)
  poison : Bool
  order : Nat
  /-- the launch, the WID base and the number of the access (R398), and whether it is a command's -/
  lid : Option Nat
  actor : Word
  index : Nat
  /-- its place among the requests that reached the home, and the clk (R410) -/
  arrived : Nat
  arrClk : Nat
  /-- the rank of its read instant; no copy is filled from it any more -/
  readRank : Nat
  noFill : Bool
  /-- it carries the multicast mark (R412) -/
  marked : Bool
  /-- a request of another package: the package and its tag -/
  remote : Option (Nat × Nat)
  /-- ENC and KEY: 0 for plain, KEY + 1 otherwise (R445) -/
  key : Nat
deriving DecidableEq, Repr

/-- An acquire that is under way: its scope number, and the set that it names, as in `RelMark`. -/
structure Acq where
  scope : Nat
  set : Nat × Nat × Option Nat
deriving DecidableEq, Repr

/-- Kinds of barrier (Table 7.4). -/
inductive BarKind | barc | barg | develop | trim
deriving DecidableEq, Repr

/-- What a thread does once the waits of R95 are over. -/
inductive After
  /-- FENCE.rel and FENCE.ar: the mark of the release, and whether later loads come after it too (R97) -/
  | fence (mark : RelMark) (ar : Bool)
  /-- STL to a local window (R213) -/
  | store (bytes : List (Nat × Byte)) (mark : RelMark)
  | atomic (groups : List (Nat × List (Nat × Nat × Nat) × List AtomFn)) (dest : Dest) (acq : Option Acq) (rel : Option RelMark)
  | sems (sem inc sd order : Nat)
  | arrive
  | hop | go (target : Nat)
  | fend
deriving DecidableEq, Repr

/-- Why a thread is suspended (Table 1.4). -/
inductive Wait
  | none
  /-- a long access: the requests still out, what they write, and the acquire at its end -/
  | access (reqs : List Nat) (got : List (Nat × Nat)) (dest : Dest) (acq : Option Acq) (marks : List (List RelMark))
  /-- the block of an MCAS is being read at its issue (R319) -/
  | block (reqs : List Nat)
  /-- WAITLINE (R193): the load that is out, if one is -/
  | waitline (sd : Nat) (va : Word) (pa : Nat) (other : Word) (req : Option Nat)
  | semw (sem thr sd : Nat) (acq : Acq)
  /-- release waits of R95 -/
  | release (k : After)
  /-- a SEMS whose release waits are over, by issue order (R229) -/
  | semsReady (sem inc sd order : Nat)
  /-- arrived at a barrier once `counted`; TRIM carries its table -/
  | barrier (k : BarKind) (counted : Bool) (table : List Nat) (sd : Nat)
  | token (reg : Nat)
  /-- entries of a vector store still to enter the store buffer (R255): address and bytes -/
  | drain (entries : List (Nat × List (Nat × Byte)))
  | matrix (num : Nat)
  /-- a translation miss: the 4 KiB pages still unresolved, in lane order (R381), and ACCESS of Table 14.10 -/
  | miss (pages : List Nat) (access : Nat)
  /-- an MTSR whose write suspends its thread until it is done: register and value (R363, R365, R367, R376, R394, R455) -/
  | sysop (num : Nat) (v : Word)
  /-- the traversal walk (R271): mod of its TRAV, ray-stack entries read so far, and the one that is being read with its request -/
  | walk (form : Nat) (got : List (Nat × Nat)) (req : Option (Nat × Nat))
  /-- a fibre that waits for the paging of its top treelet (R283) -/
  | parked
  /-- a VACCRD or VACCWR behind the matrix commands of its context that have a lower number (R260) -/
  | accumulator (num : Nat) (ctx : Bool)
deriving DecidableEq, Repr

/-- What every thread holds beside its registers. -/
structure Thr where
  uid : Nat
  /-- the launch that owns the thread; none for a supervisor thread (R344) -/
  lid : Option Nat
  sup : Bool
  wait : Wait
  /-- registers pending on a token, with the command's number (R297) -/
  pend : List (Nat × Nat)
  /-- what a reissue needs: the doublewords of an MCAS block (R319); the number and context of a VACCRD or VACCWR (R260); the rig, the
  sequence number and the shape of a rig command that has missed (R317); one number after an abandoned rig instruction -/
  latch : List Nat
  /-- copies filled before these marks are set aside (R96): in the local cache, in the visitor ways -/
  locFloor : Nat
  visFloor : Nat
  /-- by line: no local copy read before this rank is used (R100, R102) -/
  lineFloors : Map Nat
  /-- no load takes its read instant before this rank (R91, R96) -/
  readFloor : Nat
  /-- the releases of its FENCEs, the last of each scope, which every later store carries (R99), and those that its loads have read and no
  FENCE.acq has answered -/
  fenceRel : List RelMark
  fenceSeen : List RelMark
  /-- the first clk on which it may issue after its suspension (R30) -/
  since : Nat
  /-- a fibre that came by HOP or GO acquires at pkg when a slot next takes it (Table 3.6) -/
  acqOnTake : Bool
  tlbHi : Word
  tlbLo : Word
  tlbRefused : Bool
  /-- the thread's WID base and the number of its accesses and commands so far (R398) -/
  wid : Word
  recIdx : Nat
  /-- LAUNCHID and PRIO as software has changed them in its image (R394) -/
  named : Option (Nat × Nat)
  /-- the treelet that a walk is in progress on (R280), and the images of those that it has walked since its TRAV -/
  walkOn : Option Nat
  walkSaw : List (Nat × List Byte)
deriving DecidableEq, Repr

/-- A trap as its rule raises it (R197, R198). -/
structure Trap where
  cause : Nat
  pc : Word
  lanes : Nat
  code : Nat
  sflags : Nat
  sop : Bool
deriving DecidableEq, Repr

/-- A wave slot (R21, R23, R128, R195). -/
structure Wave where
  t : Thr
  base : Word
  lanes : Nat
  /-- the task that started the slot, and the group of the gang it belongs to -/
  task : Nat
  group : Nat
  pc : Word
  s : Vector Word 64
  v : Vector VReg 32
  fpmode : Nat
  fpflags : Nat
  trappc : Word
  trapcause : Nat
  traplanes : Nat
  utvec : Word
  /-- turns still to be forfeited by the bundle at pc (R76, R258), and elements already served -/
  passes : Nat
  passGot : List (Nat × Nat)
  /-- being saved, with the REASON of Table 14.14 (0: not; 4: HALT, once the slot would next issue, R395) -/
  saving : Nat
  /-- restored with a barrier released while saved (R58) -/
  released : Bool
  /-- FPEXC of a bundle whose other operation still waits (R130) -/
  owed : Option Trap
deriving DecidableEq, Repr

/-- A fibre (Tables 1.2, 1.3). -/
structure Fibre where
  pc : Word
  f : Vector Word 8
  tag : Nat
  prio : Nat
  sys : Bool
  ray : Bool
  pin : Bool
  seq : Nat
  launch : Nat
  origin : Nat
deriving DecidableEq, Repr

/-- States of a run-queue entry (Table 1.5); `order` ranks the ready ones (R34). An entry is Pinned while it is not running and its
fibre's PIN is set (R277). -/
inductive RqState
  | ready (order : Nat)
  | running
  | parked
deriving DecidableEq, Repr

structure RqEntry where
  t : Thr
  fib : Fibre
  st : RqState
  /-- its place among the refetch reads that have not completed (R38) -/
  refetch : Option Nat
deriving DecidableEq, Repr

/-- A fibre outside a run queue: in an arrival queue, a spill area or a message. -/
structure Away where
  t : Thr
  fib : Fibre
deriving DecidableEq, Repr

/-- A clean copy of a line (R71, R82): the ranks of its fill and of the read that brought it, and the releases of its bytes. -/
structure Copy where
  line : Nat
  data : List Byte
  filled : Nat
  read : Nat
  marks : Map (Nat × List RelMark)
deriving DecidableEq, Repr

/-- A translation held in a TLB (R372, R374). -/
structure Tlb where
  asid : Nat
  vbase : Nat
  size : Nat
  pbase : Nat
  perm : Nat
  age : Nat
deriving DecidableEq, Repr

/-- A task record (Table 1.10). -/
structure Task where
  base : Word
  kind : Nat
  prio : Nat
  keep : Bool
  lid : Nat
  ins : List Nat
  outs : List Nat
deriving DecidableEq, Repr

/-- A command (10): its instruction with the values its registers held, and where it stands. -/
structure Cmd where
  /-- its place in issue order, and the clk of its issue -/
  num : Nat
  clk : Nat
  /-- its number while it runs (R380) -/
  idx : Nat
  uid : Nat
  lid : Option Nat
  sup : Bool
  /-- the core that created the issuing fibre; none for a wave -/
  origin : Option Nat
  /-- what its scope named, and the floors of its thread, at its issue (R92, R99) -/
  set : Nat × Nat × Option Nat
  floors : Floors
  instr : Instr
  /-- values of its register operands and of the registers it names, as they stood at issue (R295) -/
  ops : List Word
  /-- the registers of a matrix operand (R311) -/
  vecs : List VReg
  running : Bool
  /-- the rank of its start -/
  started : Nat
  /-- its wait was satisfied at the start of its issue clk (R298) -/
  waited : Bool
  /-- translated pages: 2·page, plus 1 for a write, to the physical page -/
  xlat : Map Nat
  /-- source pieces still to be read, requests out, and what has been read, by address -/
  reads : List (Nat × Nat)
  out : List Nat
  got : List (Nat × List Byte)
  /-- destination lines not yet taken (physical line, virtual address), and the takes not yet written -/
  dsts : List (Nat × Nat)
  takes : List (Nat × Nat)
  /-- physical lines that it has taken -/
  wrote : List Nat
  /-- progress and result: 0 translating its ranges, 1 moving bytes, 2 its writes have performed; 3 reading the list of a gather,
  4 translating a gather's entries or an MCAS's block, 5 moving bytes, all of them read before any is written; 6 a LAUNCH that waits for
  room, 7 one of whose reads has failed -/
  phase : Nat
  token : Nat
  acc : List Nat
  /-- the page whose translation it waits for (R301), and ACCESS -/
  miss : Option (Nat × Nat)
  /-- tile buffers that its FLAGS change at its completion: cluster, tile, state (R303) -/
  tiles : List (Nat × Nat × Nat)
  /-- the releases whose writes an MCAS has read (R99) -/
  marks : List RelMark
  /-- the WID base of its thread and its number among the accesses of that thread (R398) -/
  wid : Word
  recIdx : Nat
deriving DecidableEq, Repr

/-- A matrix engine context (R310): element j of row i of tile k is at 4096·k + 64·i + j. -/
structure MatCtx where
  elems : Map Nat
  queue : List Cmd
deriving DecidableEq, Repr

/-- A treelet of a core's store (R280): its key, the units that it occupies, its image, the rank of its last walk; `ready` once the
reads of its paging have arrived. -/
structure Treelet where
  part : Nat
  tbase : Nat
  id : Nat
  units : List Nat
  image : List Byte
  used : Nat
  ready : Bool
  reqs : List Nat
deriving DecidableEq, Repr

/-- A thread saved in a cluster's context cache or its area (R391). -/
structure Saved where
  core : Nat
  slot : Nat
  wave : Wave
  reason : Nat
  onChip : Bool
  reissue : Bool
  /-- STATUS.BARARR and BARKIND, in their places, as they stood at the save (R393) -/
  bar : Nat
deriving DecidableEq, Repr

/-- A fault record that has been decided but not yet written (R385): its doublewords but RNUM, and its class. -/
structure Record where
  fatal : Bool
  dws : List Nat
deriving DecidableEq, Repr

/-- States of a miss entry (Table 14.9). -/
inductive MissSt | walk | unrecorded | recorded
deriving DecidableEq, Repr

/-- A thread that waits on a page: its core, its uid or its command's number, its identifier (R380),
ACCESS of Table 14.10, whether it is a user. -/
structure Waiter where
  core : Nat
  uid : Nat
  cmd : Option Nat
  tid : Nat
  access : Nat
  user : Bool
deriving DecidableEq, Repr

/-- A miss entry (R381). -/
structure Miss where
  asid : Nat
  page : Nat
  st : MissSt
  waiters : List Waiter
  /-- cause and DETAIL dw4 of the fault to be recorded -/
  cause : Nat
  detail : Nat
deriving DecidableEq, Repr

/-- One compute core, or one translation service core (R346). -/
structure Core where
  slots : Map Wave
  /-- clk of the last turn that each slot used (R16) -/
  turns : Map Nat
  trim : List Nat
  /-- a table installed at a clk is read from the next one on (R225) -/
  trimNew : Option (Nat × List Nat)
  /-- the last writes of TRIMTAB0 and TRIMTAB1: the clk, and for each whether it is of TRIMTAB1, and the value (R359) -/
  trimSet : Nat × List (Bool × Word)
  lastRead : Option Nat
  held : Option Nat
  count : Nat
  rq : Map RqEntry
  arrivals : List Away
  lastArrival : Option Nat
  fadmit : Nat
  spill : List Away
  /-- the place that the next context takes in the spill area -/
  spillNext : Nat
  spillBase : Word
  spillSize : Nat
  /-- it is refetching (R38) -/
  refetchOn : Bool
  lsplit : Nat
  banks : Map Nat
  codes : Map (Nat × Nat)
  treelets : List Treelet
  cache : List Copy
  sbuf : List Nat
  sems : Map Nat
  cmdq : List Cmd
  running : List Cmd
  mat0 : MatCtx
  mat1 : MatCtx
  matLast : Bool
  mstat : Nat
  sfuFree : Nat
  /-- the tray, and records that wait while it is full (R292) -/
  tray : List (List Nat × Nat)
  trayIn : List (List Nat)
  /-- the treelet-location cache: TBASE, id, owners (R282) -/
  locs : List (Nat × Nat × List Nat)
  /-- the deque, far end first, and places reserved for records on their way (R51) -/
  deque : List Task
  reserved : Nat
  lastTake : Option Nat
  /-- stealing (R53): the position in the ring, the slots held for a request, the end of the back-off, requests that have arrived,
  the answer that has arrived -/
  ringPos : Nat
  stealHeld : Option Nat
  backoff : Option Nat
  stealIn : List (Nat × Nat × Nat)
  stealAns : Option Nat
  stolen : Option (Option Task)
  /-- changes of semaphores that have arrived: semaphore, set, value, sender's core and command, and its floors (R318) -/
  semIn : List (Nat × Bool × Nat × Nat × Nat × Floors)
  /-- clk on which a semaphore last took a SEMS at its issue (R229) -/
  semClk : Map Nat
  /-- by semaphore: the floors of the threads and commands whose increments it counts -/
  semFloors : Map Floors
  /-- by line: the rank of the core's latest write to it, or of its latest read (R89, R91) -/
  seen : Map Nat
  micro : List Tlb
  /-- clk of the last wake (R383) -/
  lastWake : Option Nat
  hold : Bool
  fenced : Bool
  dbgctl : Nat
  /-- HALTREQ bits not yet served -/
  haltReq : Nat
  /-- none: the ring that boot firmware loads (R442) -/
  ring : Option (List Nat)
  ringBase : Word
  scopeMiss : Nat
  cntcfg : Nat
  cnts : Map Nat
deriving DecidableEq, Repr

/-- One cluster. -/
structure Cluster where
  /-- tile buffers that are FULL (1) or HELD (2); changes of this clk, by core (R49); FULL states that wait for a DEVELOP release (R303) -/
  tiles : Map Nat
  tilesNew : List (Nat × Nat × Nat)
  tilesLate : List Nat
  gangq : List Task
  gangReserved : Nat
  phasewin : Nat
  /-- offsets of latent bytes whose written bit is set, with the clk of the write (R79, R80) -/
  written : Map Nat
  /-- what an offset's latent byte held at the end of the clk before that of its write, plus 256 when poisoned (R80) -/
  early : Map Nat
  /-- offsets of phase-buffered bytes that the cluster itself has written, with the clk (R80) -/
  shown : Map Nat
  tlb : List Tlb
  misses : List Miss
  /-- waiters whose page has no miss entry for want of one, in miss order (R381): ASID, page, waiter -/
  missQ : List (Nat × Nat × Waiter)
  /-- wake messages under way: core, uid (0 for a command), command number, page (R383) -/
  wakes : List (Nat × Nat × Nat × Nat)
  faultcfg : Nat
  ctxbase : Word
  saved : List Saved
  /-- banks of the scratchpad reached on a clk, each with the place of its access in the ranking (R18) -/
  bankClk : Nat
  banks : List (Nat × Nat)
  held : List Record
  reserveOut : Option Nat
deriving DecidableEq, Repr

/-- One die's privileged registers (13, 14). -/
structure Die where
  agecfg : Nat
  helmcore : Nat
  reqbase : Word
  trapqBase : Word
  freplyBase : Word
  trapTail : Nat
  replyHead : Nat
  /-- withholding level and hottest junction (R451, R452), REFSPLIT (R416), the snapshot count (R455) -/
  level : Nat
  junction : Nat
  refsplit : Nat
  snapSeq : Nat
  /-- the reply at HEAD is being carried out (R388): the clusters whose entry still walks again, or the rank before which accesses are
  waited for -/
  replyBusy : Option (List Nat)
  /-- SLICECFG, MEMCFG, DIRPOL (Tables 15.3 to 15.5) -/
  slicecfg : Nat
  memcfg : Nat
  dirpol : Nat
  /-- completed launches, latest last: the order of their starts, LAUNCHID, partition, LSEQ, code (R322) -/
  recent : List (Nat × Nat × Nat × Nat × Nat)
  lastRecord : Option Nat
  lastTick : Option Nat
deriving DecidableEq, Repr

/-- A line being read from HBM by its slice, with the requests merged into the entry (R410). -/
structure MissLine where
  line : Nat
  reqs : List Nat
  demand : Bool
deriving DecidableEq, Repr

/-- A multicast window (R412). -/
structure Window where
  line : Nat
  ends : Nat
  reqs : List Nat
deriving DecidableEq, Repr

/-- A line that the host holds (R425). -/
structure HostLine where
  line : Nat
  owned : Bool
  rank : Nat
  /-- the slice has asked the host to give it up -/
  asked : Bool
deriving DecidableEq, Repr

/-- A directory entry (R418, Table 9.12): Cold has none. `paging` is the core that a copy is under way to, `evicting` those whose
report is due, `losing` the owner whose eviction is deferred. -/
structure DirEntry where
  part : Nat
  tbase : Nat
  id : Nat
  owners : List Nat
  paging : Option Nat
  evicting : List Nat
  losing : Option Nat
  /-- the core that is to gain a replica, and the page that the paging waits for (R420) -/
  asked : Option (Nat × Nat)
  /-- HOPs forwarded in this window, the rank of the last one or of the paging -/
  hops : Nat
  last : Nat
deriving DecidableEq, Repr

/-- A fibre message at the directory: the treelet store key it asks for, and its sender. -/
structure HopMsg where
  a : Away
  part : Nat
  tbase : Nat
  id : Nat
  src : Nat
  /-- the treelet whose eviction it waits for: partition, TBASE, id (R418) -/
  evict : Option (Nat × Nat × Nat)
deriving DecidableEq, Repr

/-- One slice (15 R407-R420). -/
structure Slice where
  /-- lines in the home ways, least recently used first -/
  home : List Nat
  misses : List MissLine
  /-- the write-back buffer: lines, whether from the host, and their bytes -/
  wb : List (Nat × Bool × List Byte)
  windows : List Window
  /-- stream detectors: last line and ascending misses so far -/
  detect : List (Nat × Nat)
  filter : List HostLine
  dir : List DirEntry
  hops : List HopMsg
  dirStart : Nat
deriving DecidableEq, Repr

/-- A task that has been taken, until TASK_COMPLETE (R49). -/
structure RunTask where
  lid : Nat
  core : Nat
  ins : List Nat
  outs : List Nat
deriving DecidableEq, Repr

/-- A published frame (R323): its number, base, bytes, time of publication in frame-clock nanoseconds, and its rank. -/
structure Frame where
  fnum : Nat
  base : Nat
  bytes : Nat
  time : Nat
  rank : Nat
deriving DecidableEq, Repr

/-- One output (R434, R435). -/
structure Output where
  w0 : Nat
  w1 : Nat
  w2 : Nat
  /-- rank at which FREEZE was set -/
  frozen : Option Nat
  fnum : Option Nat
  latest : Option Frame
  shown : Option Frame
  tail : Nat
  /-- the next present instant's k -/
  k : Nat
deriving DecidableEq, Repr

/-- The frame clock (R432, R433): nanoseconds are clk / 3 plus the offset, and never below `floor`. -/
structure FrameClock where
  off : Int
  floor : Nat
  /-- the clk of the last correction -/
  slewed : Nat
  master : Bool
  lock : Bool
  holdover : Bool
  locked : Bool
  tier : Nat
  steps : Nat
  lastMsg : Nat
  lastSend : Option Nat
deriving DecidableEq, Repr

/-- A stay port (Table 15.9). -/
structure Port where
  en : Bool
  st : Nat
  lanes : Nat
deriving DecidableEq, Repr

/-- A packet that its sender has not seen acknowledged. -/
structure Unacked where
  pkt : StayPacket
  sent : Nat
  resends : Nat
  /-- the request of this package that it carries, if one -/
  req : Option Nat
deriving DecidableEq, Repr

/-- A sender's delivery context (R429, R430). -/
structure StayCtx where
  dst : Nat
  reply : Bool
  lane : Nat
  port : Nat
  tried : List Nat
  burst : Nat
  next : Nat
  open_ : Bool
  unacked : List Unacked
  /-- packets that wait for room -/
  queue : List (StayBody × Option Nat)
  active : Nat
deriving DecidableEq, Repr

/-- What a receiver keeps for a source, class and lane. -/
structure StayRecv where
  src : Nat
  reply : Bool
  lane : Nat
  burst : Nat
  seq : Option Nat
  /-- packets not yet acknowledged, and the clk of the first of them -/
  count : Nat
  since : Nat
deriving DecidableEq, Repr

/-- What leaves the package, latest last. -/
inductive Sent
  /-- an MSI-X vector (Table 15.8) -/
  | vector (n : Nat)
  /-- an answer to a host access -/
  | host (addr : Nat) (data : Option (List Byte))
  | snoopMiss (addr : Nat)
  | invalidate (line : Nat)
  /-- packets, acknowledgements and timing messages on the stay fabric -/
  | packet (port dst : Nat) (p : StayPacket)
  | ack (src : Nat) (reply : Bool) (lane burst seq : Nat)
  | timing (port time : Nat)
deriving DecidableEq, Repr

/-- The management words and what they stand for (16). -/
structure Mgmt where
  owner : Nat
  offer : Nat
  offerAt : Nat
  denied : Nat
  /-- the claims of a clk: the clk, OWNER, OFFER and DENIED before them, and the masters that made them (R438) -/
  claims : Option (Nat × (Nat × Nat × Nat) × List Nat)
  bootstat : Nat
  /-- bring-up is going on (R440) -/
  booting : Bool
  ready : Bool
  replace : Bool
  failed : Bool
  draining : Bool
  drained : Bool
  thermtrip : Bool
  halted : Bool
  idleSince : Option Nat
  pwrcap : Nat
  fence : Nat
  rasbase : Nat
  rasTail : Nat
  errors : Map Nat
  keycmd : Nat
  keydata : List Word
  keys : Map (BitVec 512)
  nonce : List Word
  attdest : Nat
  attBusy : Bool
  attErr : Bool
  exhausted : Bool
  aseq : Nat
  destmap : Map Nat
  ports : Map Port
  outputs : Map Output
  hot : Map Bool
deriving DecidableEq, Repr

/-- One partition's registers. -/
structure Part where
  cfg : Word
  scopes : Map Word
  scopesC : Map Word
  rigbase : Word
  rigload : Nat
  rigbad : Nat
  lseq : Nat
  ptroot : Word
  reccfg : Word
  recbase : Word
  recsize : Nat
  undobase : Word
  undosize : Nat
  recstat : Nat
  marked : List Nat
  /-- the launch that is recorded, and the log entries that a replay has matched -/
  recLaunch : Option Nat
  recTaken : List Nat
deriving DecidableEq, Repr

/-- A launch (R43), from the check of its header to its end. -/
structure Launch where
  /-- the rank of the start of its LAUNCH (R322) -/
  started : Nat
  part : Nat
  die : Nat
  lseq : Nat
  id : Nat
  mode : Nat
  prio : Nat
  eff : Nat
  accepted : Nat
  widths : Word
  slots : Nat
  ncon : Nat
  n : Nat
  code : Word
  csize : Nat
  cload : Nat
  const : Word
  place : Word
  entry : Nat
  arg : Nat
  /-- the number of tasks, and how many have been written -/
  tasks : Nat
  written : Nat
  keep : Bool
  gang : Bool
  targets : List Nat
  cores : List Nat
  filled : List Nat
  /-- tasks whose records are not complete -/
  left : Nat
  /-- the entries of the placement table, and the reads of fills that have started, by core (R45) -/
  entries : List Nat
  fills : List (Nat × List Nat)
  /-- words 0 to 3 of the LAUNCH command -/
  words : List Nat
  /-- ended by a fatal record (R39) -/
  dead : Bool
  done : Bool
  failed : Bool
  /-- the LAUNCH command that issued it -/
  byCore : Nat
  byCmd : Nat
  /-- the eight doublewords of the bound scene table (R263) -/
  scene : Option (List Nat)
deriving DecidableEq, Repr

/-- A rig-table entry of a partition and the instruction open on it (R314, R315). -/
structure Rig where
  members : List Nat
  seq : Nat
  shape : List Nat
  word1 : Nat
  /-- core, uid and command of each member that has arrived -/
  arrived : List (Nat × Nat × Nat)
  running : Bool
  /-- an event of R317 has decided that the open instruction is abandoned -/
  abandon : Bool
  /-- the clk from which a pre-emption request has waited at a member -/
  waitedAt : Option Nat
deriving DecidableEq, Repr

/-- The bundle that is being issued: the thread, and its operands as they stood before it (R19). -/
structure Issue where
  core : Nat
  slot : Nat
  /-- the run-queue entry, in fibre mode -/
  entry : Option Nat
  pc : Word
  /-- where the pc goes when the bundle completes -/
  next : Word
  s : Vector Word 64
  v : Vector VReg 32
  /-- the governing mask of the bundle (R21), all ones when it has none -/
  mask : Word
  fpmode : Nat
  sup : Bool
  /-- flags raised so far: by the scalar operation, by each lane's operation, and lanes that raised an enabled one -/
  sflags : Nat
  vflags : Nat
  lanes : Nat
  checked : Bool
deriving DecidableEq, Repr

/-- Where a mesh message starts or ends (R402). -/
inductive Node
  | core (c : Nat)
  | slice (p : Nat)
  | cluster (k : Nat)
  | die (d : Nat)
  | host
  | port (p : Nat)
deriving DecidableEq, Repr

/-- Virtual channels (Table 15.1). -/
inductive VC | request | reply | fibre | hit | paging | system
deriving DecidableEq, Repr

/-- What a message carries. -/
inductive Body
  | req (id : Nat)
  | reply (id : Nat)
  | grant (id : Nat)
  | release (id : Nat)
  /-- a fibre: by GO; by HOP to a core, or to the directory -/
  | fibre (a : Away)
  | hop (a : Away)
  | seek (h : HopMsg)
  | owners (tbase id : Nat) (l : List Nat)
  | task (core : Option Nat) (cluster : Nat) (t : Task)
  | tray (words : List Nat)
  | sem (sem : Nat) (set : Bool) (v : Nat) (byCore byCmd : Nat)
  | steal (thief slots : Nat)
  | stolen (t : Option Task)
  /-- a treelet has left a core (R420) -/
  | evicted (part tbase id core : Nat)
deriving DecidableEq, Repr

structure Msg where
  vc : VC
  src : Node
  dst : Node
  sent : Nat
  /-- the thread whose earlier writes it waits for before it leaves (R291), 0 for none -/
  gate : Nat
  body : Body
deriving DecidableEq, Repr

/-- What a line held until the write of rank `ends` performed, with the release marks that its bytes carried. -/
structure PastLine where
  line : Nat
  ends : Nat
  data : List Byte
  marks : Map (Nat × List RelMark)
deriving DecidableEq, Repr

/-- The package. -/
structure State where
  clk : Nat
  /-- the first clk after the last reset: the table pointers hold entry 0 there (R14, R16) -/
  resetClk : Nat
  mem : List Host.Cell
  cores : Map Core
  clusters : Map Cluster
  dieTab : Map Die
  parts : Map Part
  launches : Map Launch
  fabnum : Nat
  /-- scratch ways and disabled ways of each slice (R407, R408), one bit per way -/
  waysScratch : Map Nat
  waysDisabled : Map Nat
  /-- ways of each slice that a WAYCFG is still to change (R371) -/
  waysChanging : Map Nat
  sliceTab : Map Slice
  tasks : Map RunTask
  frame : FrameClock
  mgmt : Mgmt
  stayCtx : Map StayCtx
  stayBurst : List (Nat × Bool × Nat × Nat)
  stayRecv : Map StayRecv
  hostWait : List HostReq
  sent : List Sent
  /-- ENC and KEY of a line, by line: 0 for plain, KEY + 1 otherwise (R445) -/
  lineKeys : Map Nat
  /-- of a line last read under other keys than those that wrote it: these keys, and the line as they wrote it (R445) -/
  lineOrigin : Map (Option (BitVec 512) × List Byte)
  /-- writes of the device itself that wait for a line which the host holds, or whose queue is not empty (R105, R425), oldest first -/
  devWait : List (List (Nat × Byte))
  /-- rig r of partition p at 256·p + r -/
  rigs : Map Rig
  reqs : Map Req
  msgs : Map Msg
  /-- SKIPMASK of the router at 24·Y + X (Table 15.2) -/
  routes : Map Nat
  /-- requests at a line with reservations, in order (R217), by line -/
  fifos : Map (List Nat)
  /-- the line that a suspended WAITLINE watches, by uid (R193) -/
  watchers : Map Nat
  /-- poisoned doublewords, by memory key over 8, with their bytes that have not been overwritten since (R446) -/
  poison : Map Nat
  /-- visitor copies by die (R82, R409) -/
  visitors : List (Nat × Copy)
  /-- lines that their home slice holds newer than HBM, with what HBM holds of them (R407, R413) -/
  dirty : Map (List Byte)
  /-- the release each write at an address carried (R101) -/
  marks : Map (Nat × List RelMark)
  /-- what lines held before their latest writes (R91), latest first -/
  past : List PastLine
  /-- by line: the rank of its latest write -/
  lastWrite : Map Nat
  issue : Option Issue
  todo : List Instr
  agenda : List (Nat × Instr)
  turns : List Nat
  /-- events that the package still takes of itself on this clk (R59), once `closing` -/
  due : List Instr
  closing : Bool
  /-- the next unused number: threads, requests, messages, ranks -/
  fresh : Nat
  /-- free values read so far -/
  freeCtr : Nat
deriving DecidableEq, Repr

def Thr.vacant : Thr :=
  { uid := 0, lid := none, sup := false, wait := .none, pend := [], latch := [], locFloor := 0, visFloor := 0, lineFloors := [], readFloor := 0, fenceRel := [], fenceSeen := [], since := 0,
    acqOnTake := false, tlbHi := 0, tlbLo := 0,
    tlbRefused := false, wid := 0, recIdx := 0, named := none, walkOn := none, walkSaw := [] }

/-- A slot before anything starts on it; its registers hold 0 (notes/assumptions/4.md). -/
def Wave.vacant : Wave :=
  { t := Thr.vacant, base := 0, lanes := 0, task := 0, group := 0, pc := 0, s := Vector.replicate 64 0,
    v := Vector.replicate 32 0, fpmode := 0, fpflags := 0, trappc := 0, trapcause := 0, traplanes := 0, utvec := 0,
    passes := 0, passGot := [], saving := 0, released := false, owed := none }

/-- A supervisor wave as it starts (R13, R23): s1 = 0, s2 = 1. -/
def supWave (uid : Nat) : Wave :=
  { Wave.vacant with t := { Thr.vacant with uid := uid, sup := true }, lanes := 1, s := Vector.replicate 64 0 |>.set 2 1 }

def MatCtx.empty : MatCtx := { elems := [], queue := [] }

/-- Entry i of the trim table holds i mod 8 (R14). -/
def trimReset : List Nat := (List.range 32).map (· % 8)

def Core.reset : Core :=
  { slots := [], turns := [], trim := trimReset, trimNew := none, trimSet := (0, []), lastRead := none, held := none, count := 0,
    rq := [], arrivals := [], lastArrival := none, fadmit := 224, spill := [], spillNext := 0, spillBase := 0, spillSize := 2048, refetchOn := false,
    lsplit := 0x10808, banks := [], codes := [], treelets := [], cache := [], sbuf := [], sems := [], cmdq := [],
    running := [], mat0 := MatCtx.empty, mat1 := MatCtx.empty, matLast := true, mstat := 0, sfuFree := 0, tray := [], trayIn := [], locs := [],
    deque := [], reserved := 0, lastTake := none, ringPos := 0, stealHeld := none, backoff := none, stealIn := [], stealAns := none,
    stolen := none, semIn := [], semClk := [], semFloors := [], seen := [], micro := [], lastWake := none,
    hold := false, fenced := false, dbgctl := 0, haltReq := 0, ring := none, ringBase := 0, scopeMiss := 0, cntcfg := 0, cnts := [] }

def Cluster.reset : Cluster :=
  { tiles := [], tilesNew := [], tilesLate := [], gangq := [], gangReserved := 0, phasewin := 0, written := [], early := [], shown := [], tlb := [], misses := [], missQ := [], wakes := [], faultcfg := 1, ctxbase := 0, saved := [], bankClk := 0, banks := [], held := [],
    reserveOut := none }

/-- HELMCORE of die d after boot (Table 13.3): core 1023 of the die, and the supervisor range 0x140 to 0x1C0. -/
def Die.reset (d : Nat) : Die :=
  { agecfg := 0, helmcore := (0x1C0 <<< 32) + (0x140 <<< 16) + (d * 1024 + 1023), reqbase := 0, trapqBase := 0,
    freplyBase := 0, trapTail := 0, replyHead := 0, level := 0, junction := 0, refsplit := 0, snapSeq := 0, replyBusy := none,
    slicecfg := 0x22002, memcfg := 0x101, dirpol := 0x400100100, recent := [], lastRecord := none, lastTick := none }

/-- PARTCFGp after reset (Table 13.2). -/
def partcfgReset (p : Nat) : Word :=
  if p = 0 then word ((1 <<< 63) + (256 <<< 48) + (2048 <<< 35) + 0x3F) else 0

def Part.reset (p : Nat) : Part :=
  { cfg := partcfgReset p, scopes := [], scopesC := [], rigbase := 0, rigload := 0, rigbad := 0, lseq := 0, ptroot := 0,
    reccfg := 0, recbase := 0, recsize := 0, undobase := 0, undosize := 0, recstat := 0, marked := [], recLaunch := none, recTaken := [] }

def Slice.reset : Slice :=
  { home := [], misses := [], wb := [], windows := [], detect := [], filter := [], dir := [], hops := [], dirStart := 0 }

/-- OUTCFGo after reset (Table 15.12). -/
def Output.reset : Output :=
  { w0 := 2 ^ 62 + 16666667, w1 := 0, w2 := 4, frozen := none, fnum := none, latest := none, shown := none, tail := 0, k := 0 }

def FrameClock.reset : FrameClock :=
  { off := 0, floor := 0, slewed := 0, master := false, lock := false, holdover := false, locked := false, tier := 0, steps := 0, lastMsg := 0, lastSend := none }

/-- The management words after reset (Tables 16.1, 16.4, 16.10; R451). -/
def Mgmt.reset : Mgmt :=
  { owner := 0, offer := 0, offerAt := 0, denied := 0, claims := none, bootstat := 1, booting := true, ready := false, replace := false, failed := false, draining := false,
    drained := false, thermtrip := false, halted := false, idleSince := none, pwrcap := 3000 + 2 ^ 12, fence := 0, rasbase := 0,
    rasTail := 0, errors := [], keycmd := 0, keydata := List.replicate 9 0, keys := [], nonce := List.replicate 6 0, attdest := 0,
    attBusy := false, attErr := false, exhausted := false, aseq := 0, destmap := [], ports := [], outputs := [], hot := [] }

def State.reset : State :=
  { clk := 0, resetClk := 0, mem := [], cores := [], clusters := [], dieTab := [], parts := [], launches := [], fabnum := 0, waysScratch := [],
    waysDisabled := [], waysChanging := [], sliceTab := [], tasks := [], frame := FrameClock.reset, mgmt := Mgmt.reset, stayCtx := [], stayBurst := [],
    stayRecv := [], hostWait := [], sent := [], lineKeys := [], lineOrigin := [], devWait := [], rigs := [], reqs := [], msgs := [], routes := [],
    fifos := [], watchers := [], poison := [], visitors := [], dirty := [], marks := [], past := [], lastWrite := [], issue := none, todo := [], agenda := [],
    turns := [], due := [], closing := false, fresh := 1, freeCtr := 0 }

end Sys2Proof.Machine
end

