-- ==== Sys2Proof/Machine/Memory.lean ====
section
/-!
DEFINITION. Memory and the agents that hold it: bytes, the windows of the physical map and the homes of bytes (02 R60-R66, R78-R80), the
releases that writes carry (03 R99), keys (16 R445), and the performance of a write at its home (03 R87, R90).
-/
namespace Sys2Proof.Machine

/-! ## Memory

Keys: a physical address below 2^47 (Table 2.2; the cluster scratchpads and slice scratch at their windows); TCM offset o of core c
at 2^48 + c·2^19 + o; byte o of constant bank b of core c at 2^49 + (8c + b)·2048 + o, bank 4 being the supervisor's (R346). An
unlisted byte reads 0 (notes/assumptions/3.md). -/

abbrev Memory := List Host.Cell

def memRead : Memory → Nat → Byte
  | [], _ => 0
  | (k, b) :: m, a => if k = a then b else if a < k then 0 else memRead m a

/-- Put a byte, keeping the addresses rising and no zero listed. -/
def memWrite : Memory → Nat → Byte → Memory
  | [], a, b => if b = 0 then [] else [(a, b)]
  | (k, c) :: m, a, b =>
    if a < k then (if b = 0 then (k, c) :: m else (a, b) :: (k, c) :: m)
    else if a = k then (if b = 0 then m else (k, b) :: m)
    else (k, c) :: memWrite m a b

/-- The canonical form: addresses strictly rising, no byte equal to what an unlisted address reads as. -/
def memWfFrom : Nat → Memory → Bool
  | _, [] => true
  | lo, (k, b) :: m => lo ≤ k && b != 0 && memWfFrom (k + 1) m

def Memory.wf (m : Memory) : Bool := memWfFrom 0 m

/-- n bytes at a, little-endian (R8). -/
def memGet (m : Memory) (a : Nat) : Nat → Nat
  | 0 => 0
  | n + 1 => (memRead m a).toNat + 256 * memGet m (a + 1) n

/-- Store the low n bytes of v at a, little-endian. -/
def memPut (m : Memory) (a v : Nat) : Nat → Memory
  | 0 => m
  | n + 1 => memPut (memWrite m a (BitVec.ofNat 8 v)) (a + 1) (v / 256) n

def memBytes (m : Memory) (a n : Nat) : List Byte := (List.range n).map fun i => memRead m (a + i)

/-- Store each listed byte. -/
def memPutAll : Memory → List (Nat × Byte) → Memory
  | m, [] => m
  | m, (a, b) :: l => memPutAll (memWrite m a b) l

/-- The bytes of the low n bytes of v at a. -/
def bytesOf (a v : Nat) : Nat → List (Nat × Byte)
  | 0 => []
  | n + 1 => (a, BitVec.ofNat 8 v) :: bytesOf (a + 1) (v / 256) n

/-- Doublewords at consecutive addresses. -/
def putDws : Memory → Nat → List Nat → Memory
  | m, _, [] => m
  | m, a, d :: l => putDws (memPut m a d 8) (a + 8) l

/-- A value from its bytes, lowest first. -/
def ofBytes : List Byte → Nat
  | [] => 0
  | b :: l => b.toNat + 256 * ofBytes l

/-- A byte at key a is overwritten: its poison goes (R446). -/
def cleanByte (p : Map Nat) (a : Nat) : Map Nat :=
  match p.find (a / 8) with
  | none => p
  | some m => let m' := m &&& (255 - 2 ^ (a % 8)); if m' = 0 then p.del (a / 8) else p.put (a / 8) m'

def lineOf (a : Nat) : Nat := a / 64
def tcmKey (core off : Nat) : Nat := 2 ^ 48 + core * 2 ^ 19 + off
def bankKey (core bank off : Nat) : Nat := 2 ^ 49 + (core * 8 + bank) * 2048 + off
def spadBase : Nat := 0x014000000000
def spadKey (cluster off : Nat) : Nat := spadBase + cluster * 0x400000 + off

/-! ## Agents -/

/-- The die, cluster and place in the cluster of a core (Table 2.4); core 6144 + k serves cluster k (R346). -/
def clusterOf (core : Nat) : Nat := if core < 6144 then core / 16 else core - 6144
def dieOf (core : Nat) : Nat := clusterOf core / 64

def State.core (s : State) (c : Nat) : Core := (s.cores.find c).getD Core.reset
def State.setCore (s : State) (c : Nat) (k : Core) : State := { s with cores := s.cores.put c k }
def State.cluster (s : State) (k : Nat) : Cluster := (s.clusters.find k).getD Cluster.reset
def State.setCluster (s : State) (k : Nat) (c : Cluster) : State := { s with clusters := s.clusters.put k c }
def State.die (s : State) (d : Nat) : Die := (s.dieTab.find d).getD (Die.reset d)
def State.setDie (s : State) (d : Nat) (x : Die) : State := { s with dieTab := s.dieTab.put d x }
def State.part (s : State) (p : Nat) : Part := (s.parts.find p).getD (Part.reset p)
def State.setPart (s : State) (p : Nat) (x : Part) : State := { s with parts := s.parts.put p x }
def State.modCore (s : State) (c : Nat) (f : Core → Core) : State := s.setCore c (f (s.core c))
def State.modCluster (s : State) (k : Nat) (f : Cluster → Cluster) : State := s.setCluster k (f (s.cluster k))
def State.modDie (s : State) (d : Nat) (f : Die → Die) : State := s.setDie d (f (s.die d))
def State.modPart (s : State) (p : Nat) (f : Part → Part) : State := s.setPart p (f (s.part p))
def State.modLaunch (s : State) (l : Nat) (f : Launch → Launch) : State :=
  match s.launches.find l with
  | some x => { s with launches := s.launches.put l (f x) }
  | none => s

/-- A number that nothing has used, and the state that has used it. -/
def State.new (s : State) : Nat × State := (s.fresh, { s with fresh := s.fresh + 1 })

/-- The next free value (notes/assumptions/6.md). -/
def State.freeByteOf (s : State) : Byte × State := (Config.freeByte s.freeCtr, { s with freeCtr := s.freeCtr + 1 })
def State.freeBoolOf (s : State) : Bool × State := (Config.freeBool s.freeCtr, { s with freeCtr := s.freeCtr + 1 })

/-! ## Windows and homes (Tables 2.1, 2.2) -/

/-- Windows of the virtual map (Table 2.1). -/
inductive Win | shared | tcm (off : Nat) | clu (off : Nat) | none
deriving DecidableEq, Repr

def winOf (va : Nat) : Win :=
  if va < 0x800000000000 then .shared
  else if 0xFFFFFFFF00000000 ≤ va && va < 0xFFFFFFFF00060000 then .tcm (va - 0xFFFFFFFF00000000)
  else if 0xFFFFFFFF10000000 ≤ va && va < 0xFFFFFFFF10400000 then .clu (va - 0xFFFFFFFF10000000)
  else .none

/-- Windows of the physical map (Table 2.2). -/
inductive PWin | hbm | scratch (slice way : Nat) | spad (cluster : Nat) | host | stay (q off : Nat) | none
deriving DecidableEq, Repr

def pwinOf (pa : Nat) : PWin :=
  if pa < 0xC000000000 then .hbm
  else if 0x010000000000 ≤ pa && pa < 0x010048000000 then
    let o := (pa - 0x010000000000) % 0x400000
    if o < 0x300000 then .scratch ((pa - 0x010000000000) / 0x400000) (o / 0x40000) else .none
  else if 0x014000000000 ≤ pa && pa < 0x014060000000 then .spad ((pa - spadBase) / 0x400000)
  else if 0x100000000000 ≤ pa && pa < 0x200000000000 then .host
  else if 0x400000000000 ≤ pa && pa < 0x800000000000 then
    let q := (pa - 0x400000000000) / 0x10000000000
    let o := (pa - 0x400000000000) % 0x10000000000
    if o < 0xC000000000 then .stay q o else .none
  else .none

/-- An address of this package's own stay window is its HBM address (R65). -/
def ownPa (s : State) (pa : Nat) : Nat :=
  match pwinOf pa with
  | .stay q o => if q == s.fabnum then o else pa
  | _ => pa

/-- The local address of an HBM byte within its die (R66). -/
def localAddr (a : Nat) : Nat := a / 2 ^ 21 / 6 * 2 ^ 21 + a % 2 ^ 21

/-- Die and slice of an HBM address (R66). -/
def homeOf (a : Nat) : Nat × Nat := (a / 2 ^ 21 % 6, localAddr a / 256 % 48)

/-- The HBM channel of a byte within its die, and the byte's place there; the channel belongs to stack c / 32 (R414). Which channel holds a
byte changes no value and no order that an instruction could see (R415). -/
def channelOf (a : Nat) : Nat :=
  let l := localAddr a
  bits l 13 8 ^^^ bits l 19 14 ^^^ bits l 25 20 ^^^ bits l 31 26 ^^^ bits l 36 32
def stackOf (a : Nat) : Nat := channelOf a / 32
def channelOffset (a : Nat) : Nat := localAddr a / 2 ^ 14 * 2 ^ 8 + localAddr a % 2 ^ 8

/-- The package number of the slice that holds a line of HBM or of slice scratch. -/
def sliceOf (pa : Nat) : Nat :=
  match pwinOf pa with
  | .scratch p _ => p
  | _ => let (d, n) := homeOf pa; d * 48 + n

/-! ## Phase-buffered tiles (R78) -/

def pwBase (pw : Nat) : Nat := bits pw 9 0
def pwCount (pw : Nat) : Nat := bits pw 19 10

/-- The scratchpad offset lies in a latent tile of the cluster. -/
def isLatent (s : State) (k off : Nat) : Bool :=
  let pw := (s.cluster k).phasewin
  let t := off / 0x1000
  pwBase pw + pwCount pw ≤ t && t < pwBase pw + 2 * pwCount pw

/-- The scratchpad offset lies in a visible phase-buffered tile. -/
def isPhase (s : State) (k off : Nat) : Bool :=
  let pw := (s.cluster k).phasewin
  let t := off / 0x1000
  pwBase pw ≤ t && t < pwBase pw + pwCount pw

/-! ## Messages -/

/-- Put a message on the mesh. -/
def sendMsg (s : State) (vc : VC) (src dst : Node) (gate : Nat) (b : Body) : State :=
  let (n, s) := s.new
  { s with msgs := s.msgs.put n { vc := vc, src := src, dst := dst, sent := s.clk, gate := gate, body := b } }

def emit (s : State) (l : List Sent) : State := { s with sent := s.sent ++ l }

def State.modReq (s : State) (id : Nat) (f : Req → Req) : State :=
  match s.reqs.find id with | some r => { s with reqs := s.reqs.put id (f r) } | none => s
def State.dropReq (s : State) (id : Nat) : State := { s with reqs := s.reqs.del id }

/-! ## Slices, keys and the host's filter (R425, R445) -/

def State.slice (s : State) (p : Nat) : Slice := (s.sliceTab.find p).getD Slice.reset

def State.modSlice (s : State) (p : Nat) (f : Slice → Slice) : State := { s with sliceTab := s.sliceTab.put p (f (s.slice p)) }

/-- The keys of a tag: 0 is plain, KEY + 1 a slot; a slot that is not loaded holds 0 (notes/assumptions/9.md). -/
def keyOfTag (s : State) (tag : Nat) : Option (BitVec 512) := if tag = 0 then none else some ((s.mgmt.keys.find (tag - 1)).getD 0)

/-- A line's bytes under keys `new`, as `o` says under which keys it was written, and what (R445). -/
def viewUnder (line : Nat) (new : Option (BitVec 512)) (o : Option (BitVec 512) × List Byte) : List Byte :=
  if o.1 == new then o.2 else (List.range 64).map (Config.recryptByte o.1 new line o.2)

/-- A line held under keys `old` is read again under others: the keys that wrote it give back what they wrote. -/
def recrypt (s : State) (line : Nat) (old new : Option (BitVec 512)) : State :=
  let o := (s.lineOrigin.find line).getD (old, memBytes s.mem (64 * line) 64)
  { s with mem := memPutAll s.mem ((viewUnder line new o).zipIdx.map fun x => (64 * line + x.2, x.1))
           lineOrigin := if o.1 == new then s.lineOrigin.del line else s.lineOrigin.put line o }

/-- An access under another ENC or KEY: the slice writes its copy back and refetches it. -/
def retag (s : State) (line tag : Nat) : State :=
  let old := (s.lineKeys.find line).getD 0
  if old == tag then s
  else
    let s := recrypt s line (keyOfTag s old) (keyOfTag s tag)
    { s with lineKeys := s.lineKeys.put line tag, past := s.past.filter (fun x => x.line != line), dirty := s.dirty.del line }

def hostEntry (s : State) (line : Nat) : Option HostLine := (s.slice (sliceOf (64 * line))).filter.find? fun x => x.line == line

/-- A device access waits for the host: a write when the host holds the line at all, a read when it owns it. -/
def hostHolds (s : State) (line : Nat) (write : Bool) : Bool :=
  match hostEntry s line with | some x => write || x.owned | none => false

/-- Ask the host, once, to give the line up. -/
def askHost (s : State) (line : Nat) : State :=
  match hostEntry s line with
  | some x =>
    if x.asked then s
    else
      let s := s.modSlice (sliceOf (64 * line)) fun q => { q with filter := q.filter.map fun y =>
        if y.line == line then { y with asked := true } else y }
      emit s [.invalidate line]
  | none => s

/-! ## Performing writes at the home -/

/-- Drop the release marks that a plain write covers (R99). -/
def dropMarks (m : Map (Nat × List RelMark)) (l : List (Nat × Byte)) : Map (Nat × List RelMark) :=
  m.filter fun x => !l.any fun b => x.1 ≤ b.1 && b.1 < x.1 + x.2.1

/-- The releases that a read of n bytes at pa meets. -/
def marksIn (m : Map (Nat × List RelMark)) (pa n : Nat) : List RelMark :=
  ((m.filter fun x => x.1 < pa + n && pa < x.1 + x.2.1).flatMap (·.2.2)).eraseDups

def marksAt (s : State) (pa n : Nat) : List RelMark := marksIn s.marks pa n

/-- Marks with these bytes carrying these releases, and no others. -/
def markBytes (m : Map (Nat × List RelMark)) (l : List (Nat × Byte)) (ms : List RelMark) : Map (Nat × List RelMark) :=
  if ms.isEmpty then dropMarks m l else l.foldl (fun m b => m.put b.1 (1, ms)) (dropMarks m l)

/-- Visitor ways of a die drop the line when a thread of the die has written it (R103). -/
def dropVisitors (s : State) (die line : Nat) : State :=
  { s with visitors := s.visitors.filter fun x => !(x.1 == die && x.2.line == line) }

/-- A write into a scratchpad from cluster k: a remote write to a phase-buffered tile goes to the latent tile (R79). -/
def spadTarget (s : State) (k a : Nat) : Nat × Option Nat :=
  match pwinOf a with
  | .spad q =>
    let off := (a - spadBase) % 0x400000
    if q != k && isPhase s q off then
      let pw := (s.cluster q).phasewin
      let lat := off + pwCount pw * 0x1000
      (spadKey q lat, some lat)
    else (a, none)
  | _ => (a, none)

/-- The bytes that writes by a core reach, latent ones in place of phase-buffered ones. -/
def targetsOf (s : State) (core : Nat) (l : List (Nat × Byte)) : List (Nat × Byte) :=
  l.map fun x => ((spadTarget s (clusterOf core) x.1).1, x.2)

/-- A write by a core has performed with these releases: each of its bytes carries them. -/
def putMarks (s : State) (core : Nat) (l : List (Nat × Byte)) (ms : List RelMark) : State :=
  if ms.isEmpty then s else { s with marks := markBytes s.marks (targetsOf s core l) ms }

/-- Write a byte. A latent byte that has held a value since an earlier clk keeps it for a merge on this clk, and a visible byte
of a phase-buffered tile that its own cluster writes is noted (R80). -/
def writeOne (s : State) (k : Nat) (x : Nat × Byte) : State :=
  match spadTarget s k x.1, pwinOf x.1 with
  | (a, some lat), .spad q =>
    let old := (memRead s.mem a).toNat + (if (s.poison.find (a / 8)).isSome then 256 else 0)
    { s with mem := memWrite s.mem a x.2, poison := cleanByte s.poison a }.modCluster q fun c =>
      { c with written := c.written.put lat s.clk
               early := match c.written.find lat with | some t => if t < s.clk then c.early.put lat old else c.early | none => c.early }
  | (a, _), .spad q =>
    let s : State := { s with mem := memWrite s.mem a x.2, poison := cleanByte s.poison a }
    let off := (a - spadBase) % 0x400000
    if isPhase s q off then s.modCluster q fun c => { c with shown := c.shown.put off s.clk } else s
  | (a, _), _ => { s with mem := memWrite s.mem a x.2, poison := cleanByte s.poison a }

/-- The releases that the bytes of a line carry. -/
def lineMarksAt (s : State) (line : Nat) : Map (Nat × List RelMark) :=
  s.marks.filter fun x => x.1 < 64 * line + 64 && 64 * line < x.1 + x.2.1

/-- A write to a line ends its multicast window: the reads held are answered with the value before it (R412). -/
def endWindow (s : State) (line : Nat) : State :=
  if pwinOf (64 * line) != .hbm then s
  else
    let p := sliceOf (64 * line)
    let q := (s.sliceTab.find p).getD Slice.reset
    match q.windows.find? fun w => w.line == line with
    | none => s
    | some w =>
      let s : State := { s with sliceTab := s.sliceTab.put p { q with windows := q.windows.filter fun x => x.line != line } }
      let data := memBytes s.mem (64 * line) 64
      w.reqs.foldl (fun s id => match s.reqs.find id with
        | none => s
        | some r => sendMsg (s.modReq id fun r => { r with stage := .replying, data := data, poison := poisonedLine s line,
                                                           val := memGet s.mem r.pa r.n, marks := marksAt s r.pa r.n,
                                                           lineMarks := lineMarksAt s line })
            .paging (.slice p) (.core r.core) 0 (.reply id)) s
where
  poisonedLine (s : State) (line : Nat) : Bool := s.poison.any fun x => 8 * line ≤ x.1 && x.1 < 8 * line + 8

/-- The rank of a write by a core to a line, and what the line held before it (R91). A core outside the package's is none. -/
def notePast (s : State) (core line : Nat) : State :=
  let (n, s) := s.new
  let s := if core < 6528 then s.modCore core fun k => { k with seen := k.seen.put line n } else s
  { s with lastWrite := s.lastWrite.put line n,
           past := { line := line, ends := n, data := memBytes s.mem (64 * line) 64, marks := lineMarksAt s line } :: s.past }

/-- The line is newer in its home slice than in HBM, which keeps what the line held (R407, R413); it lies there under the keys of its last
access (R445). -/
def soil (s : State) (line : Nat) (old : List Byte) : State :=
  match pwinOf (64 * line) with
  | .hbm => { s with dirty := (match s.dirty.find line with | some _ => s.dirty | none => s.dirty.put line old)
                     lineOrigin := s.lineOrigin.del line }
  | _ => s

/-- Bytes reach their home on behalf of core `core` (R87, R90). Marks of the bytes are dropped, visitor copies of the writer's die
withdrawn, the line marked newer than HBM in its slice (R407). -/
def performBytes (s : State) (core : Nat) (l : List (Nat × Byte)) : State :=
  match l with
  | [] => s
  | x :: _ =>
    let line := lineOf x.1
    let old := memBytes s.mem (64 * line) 64
    let s := notePast (endWindow s line) core line
    let s := l.foldl (fun s x => writeOne s (clusterOf core) x) s
    let s := { s with marks := dropMarks s.marks (targetsOf s core l)
                      watchers := s.watchers.filter fun x => !l.any fun b => lineOf b.1 == x.2 }
    soil (dropVisitors s (dieOf core) line) line old

/-! ## Writes of the device itself (R105, R413, R425) -/

/-- No thread: the device itself, or an agent outside the package. -/
def noCore : Nat := 6528

/-- A write of the device to bytes of one line: at its home like any other, unencrypted, and in no release's scope but everyone's, since no
mark is left on the bytes (R99, R101). -/
def devWriteLine (s : State) (l : List (Nat × Byte)) : State :=
  match l with
  | [] => s
  | x :: _ => performBytes (if pwinOf x.1 == .hbm then retag s (lineOf x.1) 0 else s) noCore l

/-- Bytes at ascending addresses, line by line. -/
def byLine : List (Nat × Byte) → List (List (Nat × Byte))
  | [] => []
  | x :: l => match byLine l with
    | (y :: g) :: r => if lineOf y.1 == lineOf x.1 then (x :: y :: g) :: r else [x] :: (y :: g) :: r
    | r => [x] :: r

/-- The device may write this line now: the host does not hold it, and no reservation or take is queued there. -/
def devMayWrite (s : State) (line : Nat) : Bool := !hostHolds s line true && (s.fifos.find line).isNone

/-- The device writes these bytes of one line, or its write waits behind its earlier ones. -/
def devWrite (s : State) (l : List (Nat × Byte)) : State :=
  match l with
  | [] => s
  | x :: _ =>
    if s.devWait.isEmpty && devMayWrite s (lineOf x.1) then devWriteLine s l
    else askHost { s with devWait := s.devWait ++ [l] } (lineOf x.1)

/-- The waiting writes of the device go on in their order, as far as they may. -/
def pumpDev : Nat → State → State
  | 0, s => s
  | n + 1, s => match s.devWait with
    | (x :: l) :: r =>
      if devMayWrite s (lineOf x.1) then pumpDev n (devWriteLine { s with devWait := r } (x :: l)) else askHost s (lineOf x.1)
    | [] :: r => pumpDev n { s with devWait := r }
    | [] => s

/-- Doublewords that the device writes at consecutive addresses. -/
def devicePut (s : State) (a : Nat) (l : List Nat) : State :=
  (byLine (l.zipIdx.flatMap fun x => bytesOf (a + 8 * x.2) x.1 8)).foldl devWrite s

/-- Memory as the device's own reads find it: its waiting writes come before them. -/
def devMem (s : State) : Memory := memPutAll s.mem s.devWait.flatten

/-- A byte as the device reads it: at its home, unencrypted (R413, R445). -/
def devByte (s : State) (a : Nat) : Byte := memRead (devMem (retag s (lineOf a) 0)) a

/-- n bytes as the device reads them. -/
def devGet (s : State) (a : Nat) : Nat → Nat
  | 0 => 0
  | n + 1 => (devByte s a).toNat + 256 * devGet s (a + 1) n

/-- The first line of n bytes at a that the host owns: a read of the device waits for it (R425). -/
def devHeld (s : State) (a n : Nat) : Option Nat :=
  ((List.range ((a % 64 + n + 63) / 64)).map (lineOf a + ·)).find? fun l => hostHolds s l false

/-- Do this with what the device reads of n bytes at a, once the host does not own them. -/
def devRead (s : State) (a n : Nat) (k : State → State) : State :=
  match devHeld s a n with
  | some l => askHost s l
  | none => k s

/-- What the management interface's direct reads return: HBM's own bytes, older than those of a line that its slice holds newer (R413). -/
def directByte (s : State) (pa : Nat) : Byte :=
  match s.dirty.find (lineOf pa) with | some d => d.getD (pa % 64) 0 | none => memRead s.mem pa

end Sys2Proof.Machine
end

