-- ==== Sys2Proof/Machine/Ops.lean ====
section
/-!
DEFINITION. Named operations over memory, registers, threads and traps: everything the meanings share. Taking a user trap is
`takeTrap` (R200), the return from one `trapReturn` (R204).
-/
namespace Sys2Proof.Machine

/-- The outcome of a meaning. -/
abbrev Out := Host.Outcome State Fault Refusal

/-! ## Partitions (R349) -/

def partEn (w : Word) : Bool := w.getLsbD 63
def partDies (w : Word) : Nat := bits w.toNat 5 0
def partAsid (w : Word) : Nat := bits w.toNat 23 8
def partKeyBase (w : Word) : Nat := bits w.toNat 34 24
def partKeyCount (w : Word) : Nat := bits w.toNat 46 35
def partQuota (w : Word) : Nat := bits w.toNat 56 48

/-- The enabled partition whose DIES contains the die. -/
def State.partOfDie (s : State) (d : Nat) : Option Nat :=
  (List.range 6).find? fun p => partEn (s.part p).cfg && bitAt (partDies (s.part p).cfg) d
def State.partOf (s : State) (core : Nat) : Option Nat := s.partOfDie (dieOf core)
def State.asidOf (s : State) (core : Nat) : Option Nat := (s.partOf core).map fun p => partAsid (s.part p).cfg
def State.sameDies (s : State) (core die : Nat) : Bool :=
  match s.partOf core with | some p => bitAt (partDies (s.part p).cfg) die | none => false

def isHelm (s : State) (core : Nat) : Bool := core < 6144 && bits (s.die (dieOf core)).helmcore 12 0 == core

/-! ## Local SRAM and constant words -/

def privUnits (lsplit : Nat) : Nat := bits lsplit 4 0
def treeUnits (lsplit : Nat) : Nat := bits lsplit 11 8
def saveOn (lsplit : Nat) : Bool := bitAt lsplit 16
def privSize (lsplit : Nat) : Nat := privUnits lsplit * 0x4000

/-- The constant bank that a thread reaches (R72, R346): 4 for a supervisor, the launch's bank otherwise. -/
def bankOf (k : Core) (t : Thr) : Nat :=
  if t.sup then 4
  else match t.lid with
    | none => 5
    | some l => match k.banks.find? (fun b => b.2 == l) with | some b => b.1 | none => 5

/-- LAUNCHID and PRIO of a user thread: its launch's, or what software has made of them in its image (R394; notes/assumptions/109.md). -/
def launchName (s : State) (t : Thr) : Nat × Nat :=
  match t.named, t.lid.bind fun i => s.launches.find i with
  | some x, _ => x
  | none, some l => (l.id, l.prio)
  | none, none => (0, 0)

/-- Identity words c176 to c191 (Table 2.4). -/
def identWord (s : State) (core : Nat) (t : Thr) (k : Nat) : Nat :=
  let l := if t.sup then none else t.lid.bind fun i => s.launches.find i
  match k with
  | 176 => core
  | 177 => clusterOf core
  | 178 => dieOf core
  | 179 => if t.sup then 0 else (launchName s t).1
  | 180 => (s.partOf core).getD 0
  | 181 => match l with | some x => x.widths.toNat | none => 0
  | 182 => 2048
  | 183 => 48
  | _ => 0

/-- Constant word k of a thread (R72). -/
def constWord (s : State) (core : Nat) (t : Thr) (k : Nat) : Word :=
  if 176 ≤ k then word (identWord s core t k) else word (memGet s.mem (bankKey core (bankOf (s.core core) t) (8 * k)) 8)

/-- n bytes at TCM-window offset o, the constant window included. -/
def tcmGet (s : State) (core : Nat) (t : Thr) (o n : Nat) : Nat :=
  if 0x600 ≤ o then memGet s.mem (tcmKey core o) n
  else (constWord s core t (o / 8)).toNat / 256 ^ (o % 8) % 256 ^ n

/-! ## Threads -/

def Core.wave (k : Core) (slot : Nat) : Option Wave := k.slots.find slot
def Core.entry (k : Core) (e : Nat) : Option RqEntry := k.rq.find e

def slotOfUid (k : Core) (uid : Nat) : Option Nat := (k.slots.find? fun x => x.2.t.uid == uid).map (·.1)
def entryOfUid (k : Core) (uid : Nat) : Option Nat := (k.rq.find? fun x => x.2.t.uid == uid).map (·.1)

/-- A slot has a saved image (R391). -/
def hasImage (s : State) (core slot : Nat) : Bool :=
  (s.cluster (clusterOf core)).saved.any fun x => x.core == core && x.slot == slot

/-- The place of a saved image in the cluster's area (R391). -/
def imageAddr (s : State) (core slot : Nat) : Nat :=
  (s.cluster (clusterOf core)).ctxbase.toNat + (7 * (core % 16) + slot) * 0x2400

/-- BARKIND of Table 14.14. -/
def BarKind.code : BarKind → Nat | .barc => 0 | .barg => 1 | .develop => 2 | .trim => 3

/-- BARARR and BARKIND of a wave that is saved (Table 14.14). -/
def barBits (w : Wave) : Nat := match w.t.wait with | .barrier k true _ _ => 4 + k.code * 16 | _ => 0

/-- STATUS of an image (Table 14.14). REISSUE stays 1 in an image saved on a miss when its last page has been resolved. -/
def imageStatus (x : Saved) : Nat :=
  let t := x.wave.t
  let miss : Bool := match t.wait with | .miss _ _ => true | _ => false
  let long : Bool := match t.wait with | .access _ _ _ _ _ | .block _ | .release _ | .drain _ | .sysop _ _ => true | _ => false
  bit x.reissue + bit long * 2 + x.bar + bit x.wave.released * 8 + bit (x.reason == 2 && miss) * 64 +
    x.reason * 256

/-- The doublewords of a saved image before its device state (Table 14.13). -/
def imageDws (s : State) (x : Saved) : List Nat :=
  let w := x.wave
  let name := launchName s w.t
  let waits := match w.t.wait with | .miss p _ => p.length | _ => 0
  [w.pc.toNat, imageStatus x, w.t.pend.foldl (fun a p => a ||| 2 ^ p.1) 0,
    name.1 + name.2 * 2 ^ 32,
    w.trappc.toNat, w.trapcause, w.traplanes, w.utvec.toNat, w.fpmode, w.fpflags, waits] ++
  List.replicate 21 0 ++ 0 :: (w.s.toList.drop 1).map (·.toNat) ++
  w.v.toList.flatMap fun v => (List.range 32).map fun i => bits v.toNat (64 * i + 63) (64 * i)

/-- The fields of FPMODE and of TRAPCAUSE (Tables 4.9, 6.7); the rest reads zero (R10). -/
def modeFields (v : Nat) : Nat := bits v 12 8 * 2 ^ 8 + bits v 1 0
def causeFields (v : Nat) : Nat := bits v 63 63 * 2 ^ 63 + bits v 36 32 * 2 ^ 32 + bits v 31 15 * 2 ^ 15 + bits v 7 0

/-- Write an image to its place in the area (R394). -/
def writeImage (s : State) (x : Saved) : State :=
  devicePut s (imageAddr s x.core x.slot) (imageDws s x ++ List.replicate 32 0)

/-- The barrier at which an image stands, as software has changed its bits BARREL, BARARR and BARKIND (R394). -/
def changedBarrier (was now : Nat) (w : Wave) : Wave :=
  if bits was 5 2 == bits now 5 2 then w
  else if bitAt now 2 && !bitAt now 3 then
    let k := match bits now 5 4 with | 0 => BarKind.barc | 1 => .barg | 2 => .develop | _ => .trim
    { w with t := { w.t with wait := match w.t.wait with | .barrier _ _ tab sd => .barrier k true tab sd | _ => .barrier k true [] 0 }, released := false }
  else
    { w with t := { w.t with wait := match w.t.wait with | .barrier _ true _ _ => .none | x => x }, released := bitAt now 3 }

/-- The wave of an image that lies in the area: what software may have changed is read back (R394). -/
def readImage (s : State) (x : Saved) : Wave :=
  let a := imageAddr s x.core x.slot
  let d := fun o => devGet s (a + o) 8
  let w := changedBarrier (imageStatus x) (d 8) x.wave
  let name := (bits (d 0x18) 31 0, bits (d 0x18) 33 32)
  { w with
    t := if name == launchName s w.t then w.t else { w.t with named := some name }
    pc := word (d 0), trappc := word (d 0x20), trapcause := causeFields (d 0x28), traplanes := d 0x30,
    utvec := word (d 0x38) &&& ~~~6#64, fpmode := modeFields (d 0x40), fpflags := d 0x48 % 32,
    s := Vector.ofFn fun i : Fin 64 => if i.val = 0 then 0 else word (d (0x100 + 8 * i.val)),
    v := Vector.ofFn fun i : Fin 32 => BitVec.ofNat 2048 (devGet s (a + 0x300 + 256 * i.val) 256) }

/-- STATUS.REISSUE of a saved image. -/
def savedReissue (s : State) (x : Saved) : Bool :=
  if x.onChip then x.reissue else bitAt (devGet s (imageAddr s x.core x.slot + 8) 1) 0

/-- The wave of a saved image, and its REASON, wherever it lies. -/
def savedWave (s : State) (x : Saved) : Wave := if x.onChip then x.wave else readImage s x
def savedReason (s : State) (x : Saved) : Nat :=
  if x.onChip then x.reason else devGet s (imageAddr s x.core x.slot + 9) 1

/-- Apply a change to the saved image of a thread, on chip or in the area (R393). -/
def modSaved (s : State) (core uid : Nat) (f : Wave → Wave) : State :=
  match (s.cluster (clusterOf core)).saved.find? fun x => x.wave.t.uid == uid with
  | none => s
  | some x =>
    let y := { x with wave := f (savedWave s x), reason := savedReason s x, reissue := savedReissue s x }
    let s := s.modCluster (clusterOf core) fun q =>
      { q with saved := q.saved.map fun z => if z.wave.t.uid == uid then y else z }
    if x.onChip then s else writeImage s y

/-- Apply a change to the wave of this uid on this core, in its slot or in its saved image. -/
def State.modWaveUid (s : State) (core uid : Nat) (f : Wave → Wave) : State :=
  match slotOfUid (s.core core) uid with
  | some n =>
    s.modCore core fun k => match k.slots.find n with
      | some w => { k with slots := k.slots.put n (f w) }
      | none => k
  | none => modSaved s core uid f

/-- Apply a change to the thread of this uid on this core: a wave, its saved image, or a fibre of the run queue. -/
def State.modThr (s : State) (core uid : Nat) (f : Thr → Thr) : State :=
  match entryOfUid (s.core core) uid with
  | some e =>
    s.modCore core fun k => match k.rq.find e with
      | some x => { k with rq := k.rq.put e { x with t := f x.t } }
      | none => k
  | none => s.modWaveUid core uid fun w => { w with t := f w.t }

def State.thrOf (s : State) (core uid : Nat) : Option Thr :=
  match entryOfUid (s.core core) uid with
  | some e => ((s.core core).rq.find e).map (·.t)
  | none =>
    match slotOfUid (s.core core) uid with
    | some n => ((s.core core).slots.find n).map (·.t)
    | none => ((s.cluster (clusterOf core)).saved.find? fun x => x.wave.t.uid == uid).map (·.wave.t)

/-- Write register r of a thread; s0 and f0 discard (R21, R24). -/
def waveSet (w : Wave) (r : Nat) (v : Word) : Wave :=
  if h : 0 < r ∧ r < 64 then { w with s := w.s.set r v h.2 } else w
def fibreSet (f : Fibre) (r : Nat) (v : Word) : Fibre :=
  if h : 1 ≤ r ∧ r < 9 then { f with f := f.f.set (r - 1) v (by omega) } else f
def waveSetV (w : Wave) (r : Nat) (v : VReg) : Wave :=
  if h : r < 32 then { w with v := w.v.set r v h } else w

def waveGet (w : Wave) (r : Nat) : Word := if h : 0 < r ∧ r < 64 then w.s[r]'h.2 else 0
def fibreGet (f : Fibre) (r : Nat) : Word := if h : 1 ≤ r ∧ r < 9 then f.f[r - 1]'(by omega) else 0

/-- Write a scalar register of the thread of this uid, wherever it stands. -/
def State.setRegUid (s : State) (core uid r : Nat) (v : Word) : State :=
  match entryOfUid (s.core core) uid with
  | some e =>
    s.modCore core fun k => match k.rq.find e with
      | some x => { k with rq := k.rq.put e { x with fib := fibreSet x.fib r v } }
      | none => k
  | none => s.modWaveUid core uid fun w => waveSet w r v

/-- The rank of a fibre that becomes ready now: by clk, then by entry number (R34). -/
def readyRank (s : State) (e : Nat) : Nat := s.clk * 256 + e

/-! ## The bundle being issued -/

/-- Issue-time view of the thread. -/
def Issue.fibreMode (c : Issue) : Bool := c.entry.isSome

def State.issThr (s : State) (c : Issue) : Thr :=
  match c.entry with
  | some e => match (s.core c.core).rq.find e with | some x => x.t | none => Thr.vacant
  | none => match (s.core c.core).slots.find c.slot with | some w => w.t | none => Thr.vacant

/-- Change the issuing thread. -/
def State.modIssThr (s : State) (c : Issue) (f : Thr → Thr) : State :=
  s.modCore c.core fun k =>
    match c.entry with
    | some e => match k.rq.find e with
      | some x => { k with rq := k.rq.put e { x with t := f x.t } }
      | none => k
    | none => match k.slots.find c.slot with
      | some w => { k with slots := k.slots.put c.slot { w with t := f w.t } }
      | none => k

def State.modIssWave (s : State) (c : Issue) (f : Wave → Wave) : State :=
  s.modCore c.core fun k => match k.slots.find c.slot with
    | some w => { k with slots := k.slots.put c.slot (f w) }
    | none => k

def State.modIssEntry (s : State) (c : Issue) (f : RqEntry → RqEntry) : State :=
  match c.entry with
  | none => s
  | some e => s.modCore c.core fun k => match k.rq.find e with
    | some x => { k with rq := k.rq.put e (f x) }
    | none => k

/-- Operand registers as they stood before the bundle (R19). -/
def Issue.reg (c : Issue) (r : Nat) : Word := if h : 0 < r ∧ r < 64 then c.s[r]'h.2 else 0
def Issue.vreg (c : Issue) (r : Nat) : VReg := if h : r < 32 then c.v[r]'h else 0

/-- Write a scalar register of the issuing thread. -/
def State.setReg (s : State) (c : Issue) (r : Nat) (v : Word) : State :=
  match c.entry with
  | some _ => s.modIssEntry c fun x => { x with fib := fibreSet x.fib r v }
  | none => s.modIssWave c fun w => waveSet w r v

def State.setVReg (s : State) (c : Issue) (r : Nat) (v : VReg) : State := s.modIssWave c fun w => waveSetV w r v

def State.setPc (s : State) (c : Issue) (pc : Word) : State :=
  match c.entry with
  | some _ => s.modIssEntry c fun x => { x with fib := { x.fib with pc := pc } }
  | none => s.modIssWave c fun w => { w with pc := pc }

def State.modIssue (s : State) (f : Issue → Issue) : State :=
  match s.issue with | some c => { s with issue := some (f c) } | none => s

/-- Close the issue: nothing of the bundle is left to do. -/
def State.closeIssue (s : State) : State := { s with issue := none, todo := [] }

/-! ## Scopes (R92, R94) -/

inductive Level | thread | core | cluster | die | package | system
deriving DecidableEq, Repr

/-- What a scope names at this moment: SCOPEn and SCOPEnC of a named one, and the partition of the issuing core. -/
def scopeSet (s : State) (core n : Nat) : Nat × Nat × Option Nat :=
  match s.partOf core with
  | none => (0, 0, none)
  | some p =>
    if n < 6 then (0, 0, some p)
    else ((((s.part p).scopes.find n).getD 0).toNat, (((s.part p).scopesC.find n).getD 0).toNat, some p)

/-- A compute core is a member of a named scope with this set (R94). -/
def setHas (s : State) (set : Nat × Nat × Option Nat) (core : Nat) : Bool :=
  core < 6144 && set.2.2.isSome && s.partOf core == set.2.2 && bitAt set.1 (dieOf core) && bitAt set.2.1 (clusterOf core % 64) &&
    bitAt set.1 (16 + core % 16)

/-- The member dies, clusters and places of a named scope that lie in its partition. -/
def setParts (s : State) (set : Nat × Nat × Option Nat) : List Nat × List Nat × List Nat :=
  let cfg := match set.2.2 with | some p => (s.part p).cfg | none => 0
  let ds := (List.range 6).filter fun d => bitAt set.1 d && bitAt (partDies cfg) d && partEn cfg
  let ks := (List.range 64).filter fun k => bitAt set.2.1 k
  let js := (List.range 16).filter fun j => bitAt set.1 (16 + j)
  (ds, ks, js)

/-- The level at which an operation acts at scope n with this set, and whether its core counts a scope miss (R94). -/
def levelOf (s : State) (core n : Nat) (set : Nat × Nat × Option Nat) : Level × Bool :=
  match n with
  | 0 => (.thread, false)
  | 1 => (.core, false)
  | 2 => (.cluster, false)
  | 3 => (.die, false)
  | 4 => (.package, false)
  | 5 => (.system, false)
  | _ =>
    if !setHas s set core then (.thread, true)
    else
      let (ds, ks, js) := setParts s set
      if ds.length == 1 then
        if ks.length == 1 then (if js.length == 1 then .core else .cluster, false) else (.die, false)
      else (.package, false)

/-- The level of an operation issued now. -/
def scopeLevel (s : State) (core n : Nat) : Level × Bool := levelOf s core n (scopeSet s core n)

/-- `other` is a member core of scope n, with this set, named on `core`. A level thread counts as every thread of the core (R101); a
translation service core is a member of no scope (R92). -/
def inScope (s : State) (core n : Nat) (set : Nat × Nat × Option Nat) (other : Nat) : Bool :=
  other == core ||
  match n with
  | 0 | 1 => false
  | 2 => clusterOf other == clusterOf core && other < 6144
  | 3 => other < 6144 && dieOf other == dieOf core && s.partOf other == set.2.2
  | 4 | 5 => other < 6144 && s.partOf other == set.2.2
  | _ => setHas s set core && setHas s set other

def countScopeMiss (s : State) (core : Nat) : State :=
  s.modCore core fun k => { k with scopeMiss := (k.scopeMiss + 1) % 2 ^ 48 }

def Level.isWide : Level → Bool | .thread | .core => false | _ => true

/-! ## Acquires (R91, R96, R99, R101) -/

/-- An acquire at scope n issued now on a core. -/
def acqOf (s : State) (core n : Nat) : Acq := { scope := n, set := scopeSet s core n }

/-- The end of an acquire at level lv by a thread: no later load reads before now, and copies filled before now are set aside as
Table 3.5 states. -/
def acquireThr (fresh : Nat) (lv : Level) (t : Thr) : Thr :=
  match lv with
  | .thread | .core => { t with readFloor := fresh }
  | .cluster | .die => { t with readFloor := fresh, locFloor := fresh, lineFloors := [] }
  | .package | .system => { t with readFloor := fresh, locFloor := fresh, visFloor := fresh, lineFloors := [] }

def Thr.floors (t : Thr) : Floors := ⟨t.locFloor, t.visFloor, t.lineFloors⟩

/-- The later of two ranks for every line. -/
def joinLines (a b : Map Nat) : Map Nat := b.foldl (fun m x => m.put x.1 (Nat.max x.2 ((m.find x.1).getD 0))) a
def Floors.join (a b : Floors) : Floors := ⟨Nat.max a.loc b.loc, Nat.max a.vis b.vis, joinLines a.lines b.lines⟩
def Floors.zero : Floors := ⟨0, 0, []⟩

/-- A thread takes over floors of the thread it synchronises with: the local cache's on one core, the visitor ways' on one die. -/
def raiseFloors (core other : Nat) (f : Floors) (t : Thr) : Thr :=
  { t with locFloor := if core == other then Nat.max t.locFloor f.loc else t.locFloor
           visFloor := if dieOf core == dieOf other then Nat.max t.visFloor f.vis else t.visFloor
           lineFloors := if core == other then joinLines t.lineFloors f.lines else t.lineFloors }

/-- What an acquire at scope n does to its thread at its end. -/
def acquireFn (s : State) (core : Nat) (a : Acq) : Thr → Thr := acquireThr s.fresh (levelOf s core a.scope a.set).1

/-- An acquire by the thread of this uid ends. -/
def acquireEnd (s : State) (core uid : Nat) (a : Acq) : State :=
  let s := if (levelOf s core a.scope a.set).2 then countScopeMiss s core else s
  s.modThr core uid (acquireFn s core a)

/-- An acquire at scope n by the thread of this uid. -/
def acquireAt (s : State) (core uid n : Nat) : State := acquireEnd s core uid (acqOf s core n)

/-- An acquire at scope n by the issuing thread. -/
def acquireHere (s : State) (c : Issue) (n : Nat) : State :=
  let a := acqOf s c.core n
  let s := if (levelOf s c.core n a.set).2 then countScopeMiss s c.core else s
  s.modIssThr c (acquireFn s c.core a)

/-- An acquire on a core and a release synchronise: each core lies in the scope of the other's operation (R101). -/
def marksMeet (s : State) (core : Nat) (a : Acq) (m : RelMark) : Bool :=
  m.core == core || (inScope s core a.scope a.set m.core && inScope s m.core m.scope m.set core)

/-- What an acquire that has read a write with these releases does at its end: its thread's change, if it does not count as a relaxed
load, and whether its core counts a scope miss, one for the operation (notes/assumptions/76.md). -/
def acquireOutcome (s : State) (core : Nat) (a : Acq) (marks : List RelMark) : Option (Thr → Thr) × Bool :=
  let met := marks.filter (marksMeet s core a)
  if !marks.isEmpty && met.isEmpty then (none, true)
  else
    (some fun t => met.foldl (fun t m => raiseFloors core m.core m.floors t) (acquireFn s core a t),
      (levelOf s core a.scope a.set).2 || match marks with | m :: _ => !marksMeet s core a m | [] => false)

/-- The same for a thread that has read writes with these releases. -/
def acquireRead (s : State) (core uid : Nat) (a : Acq) (marks : List RelMark) : State :=
  let r := acquireOutcome s core a marks
  let s := if r.2 then countScopeMiss s core else s
  match r.1 with | some f => s.modThr core uid f | none => s

/-- The release mark of an operation at scope n by a thread. -/
def markOf (s : State) (core : Nat) (t : Thr) (n : Nat) (fence : Bool) : RelMark :=
  { scope := n, core := core, set := scopeSet s core n, floors := t.floors, fence := fence }

/-! ## Outstanding writes and the waits of a release (R95) -/

def isWrite : ReqKind → Bool | .store _ _ => true | .atomic _ _ => true | _ => false

/-- A store or atomic of the thread has not performed. -/
def writesOut (s : State) (uid : Nat) : Bool := s.reqs.any fun r => r.2.uid == uid && isWrite r.2.kind

/-- A store or atomic of the thread with a number below n has not performed. -/
def writesBefore (s : State) (uid n : Nat) : Bool :=
  s.reqs.any fun r => r.2.uid == uid && isWrite r.2.kind && r.2.order < n

/-- The tray of a core has no room, with the records that have reached it (R292). -/
def trayFull (s : State) (n : Node) : Bool :=
  match n with | .core c => 512 ≤ (s.core c).tray.length + (s.core c).trayIn.length | _ => false

/-- The message has not been sent: it waits for its release. -/
def gateShut (s : State) (n : Nat) (m : Msg) : Bool := m.gate != 0 && writesBefore s m.gate n

/-- Records pushed by HQPUSH on the core that wait to be sent: for the waits of their release, behind an earlier one to the same tray that
does (R291, R292), or for a full tray (notes/assumptions/51.md). -/
def hqHeld (s : State) (core : Nat) : Nat :=
  let mine := s.msgs.filter fun m => m.2.src == .core core && m.2.vc == .hit
  (mine.filter fun m => trayFull s m.2.dst || mine.any fun x => x.1 ≤ m.1 && x.2.dst == m.2.dst && gateShut s x.1 x.2).length

/-- The waits of a release at scope n are over for the thread. -/
def releaseDone (s : State) (core uid n : Nat) : Bool :=
  !(scopeLevel s core n).1.isWide || !writesOut s uid

/-! ## Fault records (R384-R386) -/

/-- The twelve doublewords of a fibre's image (Tables 1.2, 1.3). -/
def fibreDws (f : Fibre) : List Nat :=
  f.pc.toNat :: (f.f.toList.map (·.toNat)) ++
    [f.tag % 2 ^ 24 + ((f.prio <<< 4) + (bit f.sys <<< 2) + (bit f.ray <<< 1) + bit f.pin) * 2 ^ 24 + f.seq * 2 ^ 32,
     f.launch + f.origin * 2 ^ 32, 0]

/-- A fibre's context as its image at a holds it. -/
def fibreOfImage (s : State) (a : Nat) : Fibre :=
  let d := fun i => devGet s (a + 8 * i) 8
  { pc := word (d 0), f := Vector.ofFn fun i : Fin 8 => word (d (i.val + 1)), tag := bits (d 9) 23 0, prio := bits (d 9) 29 28,
    sys := bitAt (d 9) 26, ray := bitAt (d 9) 25, pin := bitAt (d 9) 24, seq := bits (d 9) 63 32, launch := bits (d 10) 31 0,
    origin := bits (d 10) 47 32 }

/-- The image of place i in a core's spill area (R25, R39; notes/assumptions/28.md). -/
def spillAddr (k : Core) (i : Nat) : Nat := k.spillBase.toNat + 96 * (i % k.spillSize)

/-- A thread identifier (Table 14.8). -/
def tidWord (kind index core : Nat) : Nat := kind * 2 ^ 22 + index * 2 ^ 14 + core % 2 ^ 13

/-- The identifier of a thread; `other` where it holds neither a slot nor an entry. -/
def tidOfUid (s : State) (core uid other : Nat) : Nat :=
  match entryOfUid (s.core core) uid with
  | some e => tidWord 1 e core
  | none => match slotOfUid (s.core core) uid with
    | some k => tidWord 0 k core
    | none => match (s.cluster (clusterOf core)).saved.find? fun x => x.wave.t.uid == uid with
      | some x => tidWord 0 x.slot core
      | none => other

/-- HEAD of a die's trap queue, as its writes have performed at their home (R385). -/
def trapHead (s : State) (d : Nat) : Nat := devGet s ((s.die d).trapqBase.toNat + 8) 8 % 2 ^ 32

/-- The trap queue's occupancy (R385). -/
def trapOcc (s : State) (d : Nat) : Nat := ((s.die d).trapTail + 2 ^ 32 - trapHead s d) % 2 ^ 32

/-- The reserve record of a cluster has been consumed, or there is none (R385). -/
def reserveFree (s : State) (cluster : Nat) : Bool :=
  match (s.cluster cluster).reserveOut with | some i => serialLt32 i (trapHead s (cluster / 64)) | none => true

/-- Write a record at the tail of the die's trap queue, then TAIL, and raise vector d (R384, R427). -/
def writeRecord (s : State) (d : Nat) (dws : List Nat) : State :=
  let x := s.die d
  let i := x.trapTail
  let base := x.trapqBase.toNat
  let dw0 := (dws.headD 0) % 2 ^ 32 + i * 2 ^ 32
  let t := (i + 1) % 2 ^ 32
  let s := devicePut s (base + 128 + 128 * (i % 4096)) (dw0 :: (dws.drop 1 ++ List.replicate (16 - dws.length) 0))
  let s := devicePut s base [t]
  { s with sent := s.sent ++ [Sent.vector d] }.setDie d { x with trapTail := t }

/-- Write a record as the reserve record of its cluster. -/
def writeReserve (s : State) (cluster : Nat) (dws : List Nat) : State :=
  let i := (s.die (cluster / 64)).trapTail
  (writeRecord s (cluster / 64) dws).modCluster cluster fun q => { q with reserveOut := some i }

/-- Write a record now if the queue has room, and hold it otherwise. A fatal record waits behind no notice, and may take the cluster's
reserve place (R385). -/
def postRecord (s : State) (cluster : Nat) (r : Record) : State :=
  let d := cluster / 64
  let behind := (s.cluster cluster).held.any fun x => x.fatal || !r.fatal
  if !behind && trapOcc s d < 4032 then writeRecord s d r.dws
  else if r.fatal && !behind && reserveFree s cluster then writeReserve s cluster r.dws
  else s.modCluster cluster fun q => { q with held := q.held ++ [r] }

/-- The doublewords of Table 14.10 with CLASS, ASID, THREADID, CLUSTER, WAITERS, LAUNCHID and ACCESS. -/
def recordDws (s : State) (core cause cls va tid waiters launchid access : Nat) (detail : List Nat) : List Nat :=
  [cause + cls * 256 + ((s.asidOf core).getD 0) * 2 ^ 16, va, tid + clusterOf core * 2 ^ 32 + (Nat.min waiters 0xFFFF) * 2 ^ 48,
    launchid + access % 8 * 2 ^ 32] ++ detail

/-! ## Ending a launch, halting a supervisor thread (R39, R201, R345) -/

/-- A VACCRD or VACCWR that waits for matrix commands of its context goes on once none of them is left (R260). -/
def Core.wakeAccum (clk : Nat) (k : Core) : Core :=
  let wake := fun w : Wave => match w.t.wait with
    | .accumulator n x =>
      if (if x then k.mat1 else k.mat0).queue.any (fun q => q.num < n) then w else { w with t := { w.t with wait := .none, since := clk + 1 } }
    | _ => w
  { k with slots := k.slots.map fun x => (x.1, wake x.2) }

/-- Remove the waves and the commands of a launch from a core (R301, R382). -/
def Core.dropLaunch (l : Nat) (k : Core) : Core :=
  let other := fun x : Cmd => x.lid != some l
  { k with slots := k.slots.filter fun x => x.2.t.lid != some l
           cmdq := k.cmdq.filter other
           running := k.running.filter other
           mat0 := { k.mat0 with queue := k.mat0.queue.filter other }
           mat1 := { k.mat1 with queue := k.mat1.queue.filter other } }

/-- Abandon the open or running instruction of a rig (R317): every arrived member issues the same word 0 again. -/
def abandonRig (s : State) (key : Nat) : State :=
  match s.rigs.find key with
  | none => s
  | some g =>
    let s : State := { s with rigs := s.rigs.put key { g with arrived := [], running := false, abandon := false, waitedAt := none } }
    g.arrived.foldl (fun s x =>
      let drop := fun m : MatCtx => { m with queue := m.queue.filter fun y => y.num != x.2.2 }
      let s := s.modCore x.1 fun k =>
        { k with mat0 := drop k.mat0, mat1 := drop k.mat1, running := k.running.filter fun y => y.num != x.2.2 }.wakeAccum s.clk
      s.modWaveUid x.1 x.2.1 fun w =>
        { w with pc := w.pc - 32, t := { w.t with wait := .none, since := s.clk + 1, latch := [0], pend := w.t.pend.filter fun p => p.2 != x.2.2 } }) s

/-- Rigs at which a thread of the launch has arrived are abandoned. -/
def abandonOf (s : State) (l : Nat) : State :=
  (s.rigs.filter fun r => r.2.arrived.any fun x => match s.thrOf x.1 x.2.1 with
    | some t => t.lid == some l | none => false).foldl (fun s r => abandonRig s r.1) s

/-- End a launch: its waves end everywhere, its saved images are dropped, and `dead` makes its fibres and its task records be
discarded where they are next met. -/
def killLaunch (s : State) (l : Nat) : State :=
  let s := abandonOf s l
  let s := s.modLaunch l fun x => { x with dead := true, failed := true, left := 0, written := x.tasks }
  { s with
    reqs := s.reqs.filter fun r => !(r.2.stage == .replied && match r.2.kind with
      | .load _ | .watch | .eng _ => r.2.lid == some l
      | .fill n => n == l
      | _ => false)
    cores := s.cores.map fun x => (x.1, (x.2.dropLaunch l).wakeAccum s.clk)
    clusters := s.clusters.map fun x => (x.1, { x.2 with saved := x.2.saved.filter fun i => i.wave.t.lid != some l }) }

/-- Remove one thread: its slot becomes vacant, its run-queue entry free. -/
def removeThr (s : State) (core uid : Nat) : State :=
  let s := s.modCluster (clusterOf core) fun q => { q with saved := q.saved.filter fun i => i.wave.t.uid != uid }
  s.modCore core fun k =>
    { k with slots := k.slots.filter fun x => x.2.t.uid != uid
             rq := k.rq.filter fun x => x.2.t.uid != uid
             held := match k.held with
               | some e => (match k.rq.find e with | some x => if x.t.uid == uid then none else some e | none => none)
               | none => none }

/-- A fatal cause in a launch of partition p, or the fence of one of its dies: FREEZE of its outputs (R435). -/
def freezeOutputs (s : State) (p : Nat) : State :=
  (List.range 16).foldl (fun s o =>
    let x := (s.mgmt.outputs.find o).getD Output.reset
    if bits x.w0 50 48 == p && x.frozen.isNone then
      { s with mgmt := { s.mgmt with outputs := s.mgmt.outputs.put o { x with frozen := some s.fresh } } }
    else s) s

/-- A rule ends the launch of a thread with a fatal record, which gives a number of WAITERS; a supervisor thread is halted instead,
and its record names it (R345). Each launch receives one fatal record (R385). -/
def fatalOf (s : State) (core : Nat) (t : Thr) (tid cause va waiters access : Nat) (detail : List Nat) : State :=
  match t.lid with
  | some l =>
    match s.launches.find l with
    | none => removeThr s core t.uid
    | some x =>
      if x.dead then removeThr s core t.uid
      else
        let dws := recordDws s core cause 1 va tid waiters x.id access detail
        killLaunch (removeThr (postRecord (freezeOutputs s x.part) (clusterOf core) ⟨true, dws⟩) core t.uid) l
  | none =>
    let dws := recordDws s core cause 1 va (tidOfUid s core t.uid tid) waiters 0 access detail
    removeThr (postRecord s (clusterOf core) ⟨true, dws⟩) core t.uid

/-- The same, for a cause whose record has WAITERS 0 (Table 14.10). -/
def fatal (s : State) (core : Nat) (t : Thr) (tid cause va access : Nat) (detail : List Nat) : State :=
  fatalOf s core t tid cause va 0 access detail

/-! ## User traps (R195-R204) -/

def Trap.simple (cause : Nat) (pc : Word) : Trap := ⟨cause, pc, 0, 0, 0, false⟩

def trapWord (x : Trap) (active : Bool) : Nat :=
  x.cause + bit x.sop * 2 ^ 15 + x.code * 2 ^ 16 + x.sflags * 2 ^ 32 + bit active * 2 ^ 63

def trapActive (w : Wave) : Bool := bitAt w.trapcause 63

/-- The identifier of the issuing thread. -/
def issTid (c : Issue) : Nat :=
  match c.entry with | some e => tidWord 1 e c.core | none => tidWord 0 c.slot c.core

/-- A slot whose DBGCTL.STEP bit is set, and that has no image, halts where it would next issue (R391, R395). -/
def stepHalt (s : State) (c : Issue) : State :=
  if c.entry.isNone && bitAt (s.core c.core).dbgctl (8 + c.slot) && !c.sup && !hasImage s c.core c.slot then
    s.modIssWave c fun w => { w with saving := 4 }
  else s

/-- Taking an exception (R200, R201, R345): the four trap registers and the pc, or the end of the launch. The bundle is over; a slot
under single step halts at its handler (R395). -/
def takeTrap (s : State) (c : Issue) (x : Trap) : State :=
  let t := s.issThr c
  let s := s.modIssThr c fun t => { t with latch := [] }
  match c.entry with
  | some e =>
    match (s.core c.core).rq.find e with
    | none => s.closeIssue
    | some r =>
      let f := if x.cause = 6 then { r.fib with pc := x.pc } else r.fib
      (fatal s c.core t (issTid c) (if t.sup then 0x4B else 0x42) x.cause 0 (fibreDws f)).closeIssue
  | none =>
    match (s.core c.core).slots.find c.slot with
    | none => s.closeIssue
    | some w =>
      if trapActive w then
        if x.cause = 7 then s.closeIssue
        else (fatal s c.core t (issTid c) (if t.sup then 0x4B else 0x43) x.cause 0
          (if t.sup then [c.pc.toNat, x.pc.toNat, trapWord x true, x.lanes]
            else [c.pc.toNat, w.trappc.toNat, w.trapcause, w.traplanes])).closeIssue
      else if !w.utvec.getLsbD 0 then
        (fatal s c.core t (issTid c) (if t.sup then 0x4B else 0x44) x.cause 0
          [c.pc.toNat, x.pc.toNat, trapWord x true, x.lanes]).closeIssue
      else
        (stepHalt (s.modIssWave c fun w =>
          { w with trappc := x.pc, traplanes := x.lanes, trapcause := trapWord x true, pc := w.utvec &&& ~~~7#64 }) c).closeIssue

/-- A wave whose suspension is over takes the FPEXC that its bundle owes (R130, R202). -/
def payOwed (s : State) (core uid : Nat) : State :=
  match slotOfUid (s.core core) uid with
  | none => s
  | some n =>
    match (s.core core).slots.find n with
    | none => s
    | some w =>
      match w.owed with
      | none => s
      | some x =>
        let c : Issue := { core := core, slot := n, entry := none, pc := x.pc - 8, next := x.pc, s := w.s, v := w.v, mask := BitVec.allOnes 64,
                           fpmode := w.fpmode, sup := w.t.sup, sflags := 0, vflags := 0, lanes := 0, checked := true }
        { takeTrap (s.modIssWave c fun w => { w with owed := none }) c x with issue := s.issue, todo := s.todo }

/-- End a suspension (R30): a fibre becomes ready at this place in the order (R34), a wave may issue from the next clk. -/
def State.resume (s : State) (core uid : Nat) : State :=
  let s := s.modThr core uid fun t => { t with wait := .none, since := s.clk + 1 }
  match entryOfUid (s.core core) uid with
  | some e =>
    let o := readyRank s e
    s.modCore core fun k => match k.rq.find e with
      | some x => { k with rq := k.rq.put e { x with st := .ready o } }
      | none => k
  | none => payOwed s core uid

/-- The return of TRET (R204): the pc from TRAPPC, ACTIVE cleared. -/
def trapReturn (w : Wave) : Wave := { w with pc := w.trappc, trapcause := w.trapcause % 2 ^ 63 }

/-! ## Completing a bundle -/

/-- The event counter that CNTCFG selects for an event (Table 16.9). -/
def countEvent (s : State) (core ev : Nat) : State :=
  s.modCore core fun k =>
    { k with cnts := (List.range 4).foldl (fun m i =>
        if bits k.cntcfg (8 * i + 7) (8 * i) == ev then m.put i ((((m.find i).getD 0) + 1) % 2 ^ 48) else m) k.cnts }

/-- The issuing thread makes a memory access or hands over a command (R398). -/
def noteAccess (s : State) (c : Issue) : State := s.modIssThr c fun t => { t with recIdx := t.recIdx + 1 }

/-- FPFLAGS takes the flags raised, and FPEXC is taken when an enabled one is among them (R129, R130); a bundle whose other operation has
suspended its thread completes later, and owes the trap until then. -/
def finishFlags (s : State) (c : Issue) : State :=
  match c.entry with
  | some _ => s.closeIssue
  | none =>
    let en := bits c.fpmode 12 8
    let s := s.modIssWave c fun w => { w with fpflags := w.fpflags ||| c.sflags ||| c.vflags }
    if (c.sflags ||| c.vflags) &&& en = 0 then s.closeIssue
    else
      let x : Trap := { cause := 7, pc := c.next, lanes := c.lanes, code := 0, sflags := c.sflags, sop := c.sflags &&& en != 0 }
      if (s.issThr c).wait == .none then takeTrap s c x else (s.modIssWave c fun w => { w with owed := some x }).closeIssue

/-- The end of an operation: when the other operation of the bundle is still to run nothing more happens; else the pc moves, flags
are stored, and a trap is taken if one is due. -/
def retire (s : State) : State :=
  match s.issue with
  | none => s
  | some c =>
    if s.todo.isEmpty then
      let s := countEvent (s.setPc c c.next) c.core 1
      stepHalt (finishFlags s c) c
    else s

/-- Suspend the issuing thread: a fibre is parked and its slot takes another (R28, R31). -/
def suspend (s : State) (c : Issue) (w : Wait) : State :=
  let s := s.modIssThr c fun t => { t with wait := w }
  match c.entry with
  | some e => (s.modIssEntry c fun x => { x with st := .parked }).modCore c.core fun k =>
      { k with held := if k.held == some e then none else k.held }
  | none => s

/-- The bundle completes and its thread is suspended. -/
def retireInto (s : State) (w : Wait) : State :=
  match s.issue with
  | none => s
  | some c => retire (suspend s c w)

end Sys2Proof.Machine
end

