-- ==== Sys2Proof/Machine/Access.lean ====
section
/-!
DEFINITION. Address windows, homes, translation lookup, and the checks of a memory access in the order of R86 (02 R60-R66, R70,
R73, R77, R78, R84-R86; 14 R373, R374).
-/
namespace Sys2Proof.Machine

/-- Bits of a slice's scratch ways, and of its disabled ways. -/
def sliceScratch (s : State) (p : Nat) : Nat := (s.waysScratch.find p).getD 0
def sliceDisabled (s : State) (p : Nat) : Nat := (s.waysDisabled.find p).getD 0

/-- The address has a target for accesses from this core (R63, R64, R65, R350); an access to a way that is changing waits at the slice
(R371). -/
def hasTarget (s : State) (core pa : Nat) : Bool :=
  match pwinOf pa with
  | .hbm => true
  | .scratch p w => s.sameDies core (p / 48) && bitAt (sliceScratch s p ||| (s.waysChanging.find p).getD 0) w
  | .spad k => s.sameDies core (k / 64)
  | .host => true
  | .stay q _ => (s.mgmt.destmap.find q).getD 0 != 0
  | .none => false

/-! ## Access kinds (Table 2.6) -/

inductive AccKind | load | store | atomic | waitline | mcas | engRead | engWrite | goTarget
deriving DecidableEq, Repr

/-- Writes, for the permission W of R374. -/
def AccKind.writes : AccKind → Bool | .store | .atomic | .mcas | .engWrite => true | _ => false

/-- ACCESS of a fault record (Table 14.10). -/
def AccKind.code : AccKind → Nat
  | .load | .waitline => 0 | .store => 1 | .atomic | .mcas => 2 | .engRead => 3 | .engWrite => 4 | .goTarget => 5

/-- One element access: its lane, its address, its bytes. -/
structure Acc where
  lane : Nat
  va : Nat
  n : Nat
deriving DecidableEq, Repr

/-- Who makes the access: its core, its thread, and in fibre mode the core that created it. -/
structure Who where
  core : Nat
  t : Thr
  origin : Option Nat
deriving DecidableEq, Repr

/-- Check 1 of R86 fails: no window, or at or above the private size. -/
def badAddress (s : State) (w : Who) (a : Acc) : Bool :=
  match winOf a.va with
  | .none => true
  | .tcm o => privSize (s.core w.core).lsplit ≤ o
  | _ => false

def badAlign (a : Acc) : Bool := a.va % a.n != 0

/-- Check 3: RANGE that the virtual address decides. -/
def badRangeV (s : State) (w : Who) (k : AccKind) (a : Acc) : Bool :=
  match winOf a.va with
  | .tcm o =>
    (match k with
      | .load | .store => (match w.origin with | some g => g != w.core | none => false)
      | _ => true) ||
    (k == .store &&
      (0x580 ≤ o && o < 0x600 ||
        (let ls := (s.core w.core).lsplit
         saveOn ls && privSize ls - 0x4000 ≤ o && o < privSize ls)))
  | .clu o =>
    (match k with
      | .load | .store => (match w.origin with | some g => clusterOf g != clusterOf w.core | none => false)
      | .engRead | .engWrite => (match w.origin with | some g => clusterOf g != clusterOf w.core | none => false)
      | _ => true) || isLatent s (clusterOf w.core) o
  | _ => false

/-- Check 5: RANGE that the physical address decides. -/
def badRangeP (s : State) (k : AccKind) (pa : Nat) : Bool :=
  match pwinOf pa with
  | .hbm => false
  | .scratch _ _ => false
  | .spad c =>
    (match k with | .load | .store | .engRead | .engWrite => false | _ => true) || isLatent s c ((pa - spadBase) % 0x400000)
  | .host => (match k with | .load | .store | .engRead | .engWrite => false | _ => true)
  | .stay _ _ => (match k with | .load | .store | .engRead | .engWrite | .atomic => false | _ => true)
  | .none => false

/-! ## Translation lookup (R373, R374) -/

def tlbHit (asid va : Nat) (e : Tlb) : Bool := e.asid == asid && e.vbase ≤ va && va < e.vbase + e.size
/-- perm: bit 0 is W, bit 1 is U. -/
def tlbPerm (write user : Bool) (e : Tlb) : Bool := (!write || bitAt e.perm 0) && (!user || bitAt e.perm 1)

inductive Look | hit (pa : Nat) | miss
deriving DecidableEq, Repr

/-- Look the page up in the core's micro-TLB; a failed permission counts as a miss (R374). -/
def lookup (s : State) (w : Who) (k : AccKind) (va : Nat) : Look :=
  match s.asidOf w.core with
  | none => .miss
  | some asid =>
    match (s.core w.core).micro.find? fun e => tlbHit asid va e && tlbPerm k.writes (!w.t.sup) e with
    | some e => .hit (ownPa s (e.pbase + (va - e.vbase)))
    | none => .miss

/-- The translation entry an access uses, for ENC and KEY (R375). -/
def lookupKey (s : State) (w : Who) (k : AccKind) (va : Nat) : Option Nat :=
  match s.asidOf w.core with
  | none => none
  | some asid =>
    ((s.core w.core).micro.find? fun e => tlbHit asid va e && tlbPerm k.writes (!w.t.sup) e).bind fun e =>
      if bitAt e.perm 2 then some (e.perm / 8) else none

/-- Where an access goes once it has passed its checks: bytes held beside the core (short, R206) by memory key; an identity word
of the constant window; or a physical address (long). -/
inductive Place
  | near (key : Nat)
  | ident (off : Nat)
  | far (pa : Nat)
deriving DecidableEq, Repr

def placeOfPa (w : Who) (pa : Nat) : Place :=
  match pwinOf pa with
  | .spad k => if k == clusterOf w.core then .near pa else .far pa
  | _ => .far pa

def placeOf (s : State) (w : Who) (k : AccKind) (a : Acc) : Option Place :=
  match winOf a.va with
  | .tcm o =>
    if 0x580 ≤ o && o < 0x600 then some (.ident o)
    else if o < 0x600 then some (.near (bankKey w.core (bankOf (s.core w.core) w.t) o))
    else some (.near (tcmKey w.core o))
  | .clu o => some (.near (spadKey (clusterOf w.core) o))
  | .shared => match lookup s w k a.va with
    | .hit pa => some (placeOfPa w pa)
    | .miss => none
  | .none => none

/-- The outcome of the checks of R86. -/
inductive Check
  | ok (l : List (Acc × Place))
  | trap (cause lanes : Nat)
  | miss (pages : List Nat)
  | noTarget (va pa : Nat)
deriving DecidableEq, Repr

def lanesOf (l : List Acc) : Nat := l.foldl (fun x a => x ||| 2 ^ a.lane) 0

def cADDRESS : Nat := 2
def cALIGN : Nat := 3
def cRANGE : Nat := 4

/-- The checks of R86, over all the accesses, in its order. -/
def checkAll (s : State) (w : Who) (k : AccKind) (l : List Acc) : Check :=
  let f1 := l.filter (badAddress s w)
  let f2 := l.filter badAlign
  let f3 := l.filter (badRangeV s w k)
  if !f1.isEmpty then .trap cADDRESS (lanesOf f1)
  else if !f2.isEmpty then .trap cALIGN (lanesOf f2)
  else if !f3.isEmpty then .trap cRANGE (lanesOf f3)
  else
    let pl := l.map fun a => (a, placeOf s w k a)
    match ((pl.filter fun x => x.2.isNone).map fun x => x.1.va / 0x1000).eraseDups with
    | p :: l => .miss ((p :: l).take 64)
    | [] =>
      let ok := pl.filterMap fun x => x.2.map fun p => (x.1, p)
      let f5 := ok.filter fun x => match x.2 with
        | .far pa => badRangeP s k pa
        | .near key => key < 2 ^ 47 && badRangeP s k key
        | .ident _ => false
      match f5 with
      | _ :: _ => .trap cRANGE (lanesOf (f5.map (·.1)))
      | [] =>
        match ok.find? (fun x => match x.2 with | Place.far pa => !hasTarget s w.core pa | _ => false) with
        | some x => .noTarget x.1.va (match x.2 with | Place.far pa => pa | _ => 0)
        | none => .ok ok

/-! ## Scratchpad banks (R18, R75) -/

/-- The key lies in a cluster scratchpad. -/
def isSpad (key : Nat) : Bool := match pwinOf key with | .spad _ => true | _ => false
def bankOfKey (key : Nat) : Nat := (key - spadBase) % 0x400000 / 8 % 64

/-- The place of a core's thread in the ranking of R18: cores from (clk mod 16) on, each core's copy engine and then its matrix engine right
behind its thread. R18 does not rank the thread of a translation service core: it comes behind the cores (DESIGN CHOICE,
notes/assumptions/100.md). -/
def threadPos (s : State) (core : Nat) : Nat := if core < 6144 then 3 * ((core + 16 - s.clk % 16) % 16) + 1 else 49

/-- The place of an access that reaches scratchpad k as a request: that of its core's thread (unit 0), copy engine (1) or matrix engine (2), or
that of the router port, which comes first when the clk is odd and last when it is even. The router port is also that of the service core. -/
def requestPos (s : State) (k core unit : Nat) : Nat :=
  if core < 6144 && clusterOf core == k then threadPos s core + unit else if s.clk % 2 = 1 then 0 else 50

/-- An access that ranks before place n has reached one of the banks on this clk. -/
def banksBusy (s : State) (k n : Nat) (l : List Nat) : Bool :=
  let q := s.cluster k
  q.bankClk == s.clk && l.any fun b => q.banks.any fun x => x.1 == b && x.2 < n

/-- The banks are reached on this clk, from place n. -/
def useBanks (s : State) (k n : Nat) (l : List Nat) : State :=
  match l with
  | [] => s
  | _ => s.modCluster k fun q => { q with bankClk := s.clk, banks := l.map (·, n) ++ (if q.bankClk == s.clk then q.banks else []) }

/-- Banks that accesses to near places of the scratchpad reach. -/
def banksOf (l : List Place) : List Nat :=
  l.filterMap fun p => match p with | .near key => if isSpad key then some (bankOfKey key) else none | _ => none

/-- The issuing thread as the maker of accesses. -/
def issWho (s : State) (c : Issue) : Who :=
  { core := c.core, t := s.issThr c,
    origin := match c.entry with
      | some e => ((s.core c.core).rq.find e).map (·.fib.origin)
      | none => none }

end Sys2Proof.Machine
end

