-- ==== Sys2Proof/Machine/Mesh.lean ====
section
/-!
DEFINITION. The mesh: routers, routes, the least transit time, sending a message and when it may arrive (15 R402-R406).
-/
namespace Sys2Proof.Machine

/-- Package coordinates (X, Y) of router (column, row) of a die. -/
def routerXY (die col row : Nat) : Nat × Nat := ((die % 3) * 8 + col, (die / 3) * 10 + row)

/-- The router an agent is attached to (R402). A distributor is taken at router (0, 0) of its die (notes/assumptions/7.md). -/
def nodeXY : Node → Nat × Nat
  | .core c => let k := clusterOf c; routerXY (k / 64) (k % 64 % 8) (k % 64 / 8 + 1)
  | .cluster k => routerXY (k / 64) (k % 64 % 8) (k % 64 / 8 + 1)
  | .slice p => let n := p % 48; routerXY (p / 48) (n % 24 / 3) (if n < 24 then 0 else 9)
  | .die d => routerXY d 0 0
  | .host => (0, 0)
  | .port p => routerXY (p / 3) (2 * (p % 3) + 1) (if p / 3 < 3 then 0 else 9)

def skipMask (s : State) (x y : Nat) : Nat := (s.routes.find (24 * y + x)).getD 0

/-- Hops along a row from x to column `dst` in row y, and crossings of a die edge (R404). -/
def rowHops (s : State) (y dst : Nat) : Nat → Nat → Nat × Nat
  | 0, _ => (0, 0)
  | fuel + 1, x =>
    if x = dst then (0, 0)
    else
      let skip := bitAt (skipMask s x y) dst
      let nx := if x < dst then (if skip then x + 4 else x + 1) else (if skip then x - 4 else x - 1)
      let r := rowHops s y dst fuel nx
      (r.1 + 1, r.2 + (if nx / 8 == x / 8 then 0 else 1))

/-- Transit on an idle mesh: 2 + 2H + 4E (R406); under load it is no less. -/
def transit (s : State) (a b : Node) : Nat :=
  let (x, y) := nodeXY a
  let (tx, ty) := nodeXY b
  let (h, e) := rowHops s y tx 24 x
  let v := if y < ty then ty - y else y - ty
  let ev := if y / 10 == ty / 10 then 0 else 1
  2 + 2 * (h + v) + 4 * (e + ev)

/-- Older messages of the same channel between the same routers come first (R405): by when they were issued, also where a release has kept
one waiting (DESIGN CHOICE, notes/assumptions/107.md). One that has not been sent holds back only what its own sender sends to the same
place (R292). -/
def msgFirst (s : State) (n : Nat) (m : Msg) : Bool :=
  s.msgs.all fun x => n ≤ x.1 || !(x.2.vc == m.vc && nodeXY x.2.src == nodeXY m.src && nodeXY x.2.dst == nodeXY m.dst &&
    (x.2.src == m.src && x.2.dst == m.dst || !gateShut s x.1 x.2))

/-- The message may arrive: it has been under way for the transit time, it is first of its path, and the release waits it left
under are over. -/
def msgReady (s : State) (n : Nat) (m : Msg) : Bool :=
  m.sent + transit s m.src m.dst ≤ s.clk && msgFirst s n m && !gateShut s n m

/-! ## Stay ports (R428, R429) -/

/-- VHASH32 (R262). -/
def hash32 (a b : Nat) : Nat :=
  let h := (a ^^^ (b * 0x9E3779B1 % 2 ^ 32)) % 2 ^ 32
  let h := (h ^^^ (h >>> 16)) * 0x85EBCA6B % 2 ^ 32
  let h := (h ^^^ (h >>> 13)) * 0xC2B2AE35 % 2 ^ 32
  h ^^^ (h >>> 16)

/-- Ports that lead towards package q, ascending. -/
def portsTo (s : State) (q : Nat) : List Nat := (List.range 18).filter fun p => bitAt ((s.mgmt.destmap.find q).getD 0) p

/-- The lane of a line address towards package q, and the port of that lane. -/
def laneTo (s : State) (q pa : Nat) : Nat :=
  match portsTo s q with | [] => 0 | l => hash32 (pa / 64 * 64 % 2 ^ 32) 0 % l.length
def portTo (s : State) (q pa : Nat) : Nat := (portsTo s q).getD (laneTo s q pa) 0

/-- The node that serves a physical address: its slice, the scratchpad's cluster, the host port, or a stay port. -/
def homeNode (s : State) (pa : Nat) : Node :=
  match pwinOf pa with
  | .spad k => .cluster k
  | .host => .host
  | .stay q _ => .port (portTo s q pa)
  | _ => .slice (sliceOf pa)

end Sys2Proof.Machine
end

