-- ==== Sys2Proof/Machine/Float.lean ====
section
/-!
DEFINITION. Floating-point arithmetic (04 R118-R130): exact computation on integers, one rounding, and the flags it raises. It
holds no state.
-/
namespace Sys2Proof.Machine

/-- The formats of Table 4.2 that hold a sign. -/
inductive Fmt | f64 | f32 | f16 | bf16 | e5m2 | e4m3 | e2m1
deriving DecidableEq, Repr

/-- Rounding modes; the numbers of FPMODE.RM (R128) are 0 to 3 in this order. -/
inductive RMode | rne | rtz | rup | rdn
deriving DecidableEq, Repr

def rmOf (n : Nat) : RMode := match n % 4 with | 0 => .rne | 1 => .rtz | 2 => .rup | _ => .rdn

def fmtBits : Fmt → Nat | .f64 => 64 | .f32 => 32 | .f16 => 16 | .bf16 => 16 | .e5m2 => 8 | .e4m3 => 8 | .e2m1 => 4
def fmtMant : Fmt → Nat | .f64 => 52 | .f32 => 23 | .f16 => 10 | .bf16 => 7 | .e5m2 => 2 | .e4m3 => 3 | .e2m1 => 1
def fmtBias : Fmt → Nat | .f64 => 1023 | .f32 => 127 | .f16 => 15 | .bf16 => 127 | .e5m2 => 15 | .e4m3 => 7 | .e2m1 => 1
/-- The code of the largest finite magnitude (Table 4.2). -/
def fmtMax : Fmt → Nat
  | .f64 => 0x7FEFFFFFFFFFFFFF | .f32 => 0x7F7FFFFF | .f16 => 0x7BFF | .bf16 => 0x7F7F | .e5m2 => 0x7B | .e4m3 => 0x7E
  | .e2m1 => 0x7
def fmtHasInf : Fmt → Bool | .e4m3 => false | .e2m1 => false | _ => true
/-- Canonical quiet NaN (Table 4.4); E2M1 has no NaN and R126 gives it 0. -/
def fmtNaN : Fmt → Nat
  | .f64 => 0x7FF8000000000000 | .f32 => 0x7FC00000 | .f16 => 0x7E00 | .bf16 => 0x7FC0 | .e5m2 => 0x7E | .e4m3 => 0x7F | .e2m1 => 0
def fmtSign (f : Fmt) : Nat := 2 ^ (fmtBits f - 1)
def fmtInf (f : Fmt) (neg : Bool) : Nat := (fmtMax f + 1) + bit neg * fmtSign f

def fpeFmt : FpE → Fmt | .f16 => .f16 | .bf16 => .bf16 | .f32 => .f32 | .f64 => .f64

/-! Flags, bit for bit as FPFLAGS holds them (Table 4.10). -/
def fNX : Nat := 1
def fUF : Nat := 2
def fOF : Nat := 4
def fDZ : Nat := 8
def fIV : Nat := 16

/-- A decoded value: (−1)^neg · m · 2^e when finite. -/
inductive FV
  | nan (signalling : Bool)
  | inf (neg : Bool)
  | fin (neg : Bool) (m : Nat) (e : Int)
deriving DecidableEq, Repr

/-- A result and the flags it raises. -/
abbrev FR := Nat × Nat

def fvOf (f : Fmt) (x : Nat) : FV :=
  let n := fmtBits f
  let mb := fmtMant f
  let a := x % 2 ^ (n - 1)
  let neg := bitAt x (n - 1)
  let frac := a % 2 ^ mb
  let ex := a >>> mb
  if fmtMax f < a then
    if fmtHasInf f && frac == 0 then .inf neg
    else .nan (fmtHasInf f && !bitAt x (mb - 1))
  else if ex = 0 then .fin neg frac (1 - (fmtBias f : Int) - mb)
  else .fin neg (frac + 2 ^ mb) ((ex : Int) - fmtBias f - mb)

/-- Round m / 2^k to an integer; `st` says that a nonzero amount below the last bit of m was dropped (R122). -/
def roundShift (mode : RMode) (neg : Bool) (m k : Nat) (st : Bool) : Nat × Bool :=
  let keep := m >>> k
  let rem := m % 2 ^ k
  let inexact := rem != 0 || st
  let twice := 2 * rem
  let up := match mode with
    | .rne => 2 ^ k < twice || (twice == 2 ^ k && k != 0 && (st || keep % 2 == 1))
    | .rtz => false
    | .rup => inexact && !neg
    | .rdn => inexact && neg
  (keep + bit up, inexact)

/-- round_to (R122) of (−1)^neg · (m + ε) · 2^e, 0 ≤ ε < 1, ε > 0 exactly when `st`; with the flags of R127. When `st` is set, m has
at least two bits more than the format keeps. An E4M3 conversion without `.sat` that overflows under a mode that does not go to infinity
gives ±448, as R122 has it, where Table 4.7 says 0x7F: DESIGN CHOICE (notes/assumptions/96.md). -/
def roundTo (f : Fmt) (mode : RMode) (satf : Bool) (neg : Bool) (m : Nat) (e : Int) (st : Bool) : FR :=
  let mb := fmtMant f
  let s := bit neg * fmtSign f
  if m = 0 && !st then (s, 0)
  else
    let emin : Int := 1 - fmtBias f
    let ex : Int := (Nat.log2 m : Int) + e
    let eq : Int := (if ex < emin then emin else ex) - mb
    let sh : Int := eq - e
    let (y, nx) := if sh ≤ 0 then (m <<< (-sh).toNat, st) else roundShift mode neg m sh.toNat st
    let code := ((eq + mb + fmtBias f - 1).toNat <<< mb) + y
    -- tininess after rounding with unbounded exponent range (R123)
    let shU : Int := ex - mb - e
    let yU := if shU ≤ 0 then m <<< (-shU).toNat else (roundShift mode neg m shU.toNat st).1
    let tiny := ex < emin && !(ex == emin - 1 && 2 ^ (mb + 1) ≤ yU)
    if fmtMax f < code then
      let toInf := match mode with
        | .rne => true | .rtz => false | .rup => !neg | .rdn => neg
      let r := if toInf then
          if satf || (!fmtHasInf f && f == .e2m1) then fmtMax f + s
          else if fmtHasInf f then fmtMax f + 1 + s else fmtNaN f
        else fmtMax f + s
      (r, fOF ||| fNX)
    else (code + s, (if nx then fNX else 0) ||| (if tiny && nx then fUF else 0))

/-- round_to of an infinity. -/
def roundInf (f : Fmt) (satf : Bool) (neg : Bool) : Nat :=
  if satf || (!fmtHasInf f && f == .e2m1) then fmtMax f + bit neg * fmtSign f
  else if fmtHasInf f then fmtInf f neg else fmtNaN f

def isSig : FV → Bool | .nan s => s | _ => false
def isNan : FV → Bool | .nan _ => true | _ => false
def fvNeg : FV → FV | .nan s => .nan s | .inf n => .inf (!n) | .fin n m e => .fin (!n) m e
def fvIsZero : FV → Bool | .fin _ 0 _ => true | _ => false
def fvSign : FV → Bool | .nan _ => false | .inf n => n | .fin n _ _ => n

/-- Signed integer of a finite value at scale 2^e0, e0 at most its exponent. -/
def scaled (neg : Bool) (m : Nat) (e e0 : Int) : Int :=
  let v : Nat := m <<< (e - e0).toNat
  if neg then -(v : Int) else v

/-- The exact sum of two finite values, rounded; an exact zero takes its sign from R123. -/
def sumFin (f : Fmt) (mode : RMode) (n1 : Bool) (m1 : Nat) (e1 : Int) (n2 : Bool) (m2 : Nat) (e2 : Int) : FR :=
  let e0 := if e1 ≤ e2 then e1 else e2
  let v := scaled n1 m1 e1 e0 + scaled n2 m2 e2 e0
  if v = 0 then
    let neg := if n1 == n2 then n1 else mode == .rdn
    (bit neg * fmtSign f, 0)
  else roundTo f mode false (v < 0) v.natAbs e0 false

def nanR (f : Fmt) (iv : Bool) : FR := (fmtNaN f, if iv then fIV else 0)

def addV (f : Fmt) (mode : RMode) (a b : FV) : FR :=
  match a, b with
  | .nan s, b => nanR f (s || isSig b)
  | _, .nan s => nanR f s
  | .inf n, .inf k => if n == k then (fmtInf f n, 0) else nanR f true
  | .inf n, _ => (fmtInf f n, 0)
  | _, .inf n => (fmtInf f n, 0)
  | .fin n1 m1 e1, .fin n2 m2 e2 => sumFin f mode n1 m1 e1 n2 m2 e2

/-- x · y + z with one rounding (R121). -/
def fmaV (f : Fmt) (mode : RMode) (a b c : FV) : FR :=
  let bad := match a, b with
    | .inf _, .fin _ 0 _ => true | .fin _ 0 _, .inf _ => true | _, _ => false
  let sig := isSig a || isSig b || isSig c
  if bad then nanR f true
  else if isNan a || isNan b || isNan c then nanR f sig
  else
    match a, b, c with
    | .fin n1 m1 e1, .fin n2 m2 e2, .fin n3 m3 e3 => sumFin f mode (n1 != n2) (m1 * m2) (e1 + e2) n3 m3 e3
    | .fin _ _ _, .fin _ _ _, .inf n => (fmtInf f n, 0)
    | x, y, .inf n => if (fvSign x != fvSign y) == n then (fmtInf f n, 0) else nanR f true
    | x, y, _ => (fmtInf f (fvSign x != fvSign y), 0)

def mulV (f : Fmt) (mode : RMode) (a b : FV) : FR :=
  match a, b with
  | .nan s, b => nanR f (s || isSig b)
  | _, .nan s => nanR f s
  | .inf n, .inf k => (fmtInf f (n != k), 0)
  | .inf n, .fin k m _ => if m = 0 then nanR f true else (fmtInf f (n != k), 0)
  | .fin k m _, .inf n => if m = 0 then nanR f true else (fmtInf f (n != k), 0)
  | .fin n1 m1 e1, .fin n2 m2 e2 => roundTo f mode false (n1 != n2) (m1 * m2) (e1 + e2) false

/-- Bits of a quotient or root that are computed before the rounding: two more than any format keeps, and room. -/
def guardBits : Nat := 70

def divV (f : Fmt) (mode : RMode) (a b : FV) : FR :=
  match a, b with
  | .nan s, b => nanR f (s || isSig b)
  | _, .nan s => nanR f s
  | .inf _, .inf _ => nanR f true
  | .inf n, .fin k _ _ => (fmtInf f (n != k), 0)
  | .fin k _ _, .inf n => (bit (n != k) * fmtSign f, 0)
  | .fin n1 m1 e1, .fin n2 m2 e2 =>
    if m2 = 0 then if m1 = 0 then nanR f true else (fmtInf f (n1 != n2), fDZ)
    else if m1 = 0 then (bit (n1 != n2) * fmtSign f, 0)
    else
      let k := guardBits + Nat.log2 m2
      let num := m1 <<< k
      roundTo f mode false (n1 != n2) (num / m2) (e1 - e2 - k) (num % m2 != 0)

/-- The integer square root, one bit per step. -/
def isqrtLoop : Nat → Nat → Nat → Nat
  | 0, _, r => r
  | k + 1, n, r =>
    let t := r + 2 ^ k
    isqrtLoop k n (if t * t ≤ n then t else r)

def isqrt (n : Nat) : Nat := isqrtLoop (Nat.log2 n / 2 + 1) n 0

def sqrtV (f : Fmt) (mode : RMode) (a : FV) : FR :=
  match a with
  | .nan s => nanR f s
  | .inf n => if n then nanR f true else (fmtInf f false, 0)
  | .fin n m e =>
    if m = 0 then (bit n * fmtSign f, 0)
    else if n then nanR f true
    else
      let odd := e % 2 != 0
      let m' := if odd then 2 * m else m
      let e' := if odd then e - 1 else e
      let x := m' <<< (2 * guardBits)
      let r := isqrt x
      roundTo f mode false false r (e' / 2 - guardBits) (r * r != x)

/-- The order of two values that are no NaN; −0 and +0 are equal (R125). -/
def fvLt (a b : FV) : Bool :=
  match a, b with
  | .inf n, .inf k => n && !k
  | .inf n, _ => n
  | _, .inf n => !n
  | .fin n1 m1 e1, .fin n2 m2 e2 =>
    let e0 := if e1 ≤ e2 then e1 else e2
    scaled n1 m1 e1 e0 < scaled n2 m2 e2 e0
  | _, _ => false

def fvEq (a b : FV) : Bool := !isNan a && !isNan b && !fvLt a b && !fvLt b a

/-- a is below b where −0 is below +0 (Table 4.6). -/
def fvLtZ (a b : FV) : Bool :=
  fvLt a b || (fvIsZero a && fvIsZero b && fvSign a && !fvSign b)

/-- Table 4.6. `prop` is the second row: any NaN gives the canonical NaN. -/
def minMax (f : Fmt) (isMax prop : Bool) (x y : Nat) : FR :=
  let a := fvOf f x
  let b := fvOf f y
  let fl := if isSig a || isSig b then fIV else 0
  let pick := if isMax then fvLtZ a b else fvLtZ b a
  if isNan a && isNan b || (prop && (isNan a || isNan b)) then (fmtNaN f, fl)
  else if isNan a then (y % 2 ^ fmtBits f, fl)
  else if isNan b then (x % 2 ^ fmtBits f, fl)
  else ((if pick then y else x) % 2 ^ fmtBits f, fl)

/-- Conditions of FSET (R183); the flags of R125. -/
def fpCond (c : FCond) (a b : FV) : Bool × Nat :=
  let sig := if isSig a || isSig b then fIV else 0
  let any := if isNan a || isNan b then fIV else 0
  match c with
  | .eq => (fvEq a b, sig)
  | .lt => (!isNan a && !isNan b && fvLt a b, any)
  | .le => (!isNan a && !isNan b && !fvLt b a, any)
  | .un => (isNan a || isNan b, sig)

/-- FP to FP (Table 4.7). -/
def cvtFF (src dst : Fmt) (mode : RMode) (satf : Bool) (x : Nat) : FR :=
  match fvOf src x with
  | .nan s => (fmtNaN dst, if s || dst == .e2m1 then fIV else 0)
  | .inf n => (roundInf dst satf n, if fmtHasInf dst then 0 else fIV)
  | .fin n m e => roundTo dst mode satf n m e false

/-- Integer to FP. -/
def cvtIF (dst : Fmt) (mode : RMode) (v : Int) : FR :=
  if v = 0 then (0, 0) else roundTo dst mode false (v < 0) v.natAbs 0 false

/-- A finite value rounded to an integer, and whether it was inexact. -/
def roundInt (mode : RMode) (neg : Bool) (m : Nat) (e : Int) : Int × Bool :=
  let (v, nx) := if 0 ≤ e then (m <<< e.toNat, false) else roundShift mode neg m (-e).toNat false
  (if neg then -(v : Int) else v, nx)

/-- FP to an integer type of width w (Table 4.7): the low w bits. -/
def cvtFI (src : Fmt) (mode : RMode) (w : Nat) (signed : Bool) (x : Nat) : FR :=
  let lo : Int := if signed then -((2 ^ (w - 1) : Nat) : Int) else 0
  let hi : Int := if signed then ((2 ^ (w - 1) : Nat) : Int) - 1 else ((2 ^ w : Nat) : Int) - 1
  match fvOf src x with
  | .nan _ => (0, fIV)
  | .inf n => (ofSigned w (if n then lo else hi), fIV)
  | .fin n m e =>
    let (v, nx) := roundInt mode n m e
    if v < lo then (ofSigned w lo, fIV)
    else if hi < v then (ofSigned w hi, fIV)
    else (ofSigned w v, if nx then fNX else 0)

/-- The code of −0 and +0 and the sign bit moves of R120. -/
def fpAbs (f : Fmt) (x : Nat) : Nat := x % fmtSign f
def fpNeg (f : Fmt) (x : Nat) : Nat := if bitAt x (fmtBits f - 1) then x % fmtSign f else x % fmtSign f + fmtSign f

/-! ## The operations on codes -/

def fpAdd (f : Fmt) (mode : RMode) (x y : Nat) : FR := addV f mode (fvOf f x) (fvOf f y)
def fpSub (f : Fmt) (mode : RMode) (x y : Nat) : FR := addV f mode (fvOf f x) (fvNeg (fvOf f y))
def fpMul (f : Fmt) (mode : RMode) (x y : Nat) : FR := mulV f mode (fvOf f x) (fvOf f y)
def fpDiv (f : Fmt) (mode : RMode) (x y : Nat) : FR := divV f mode (fvOf f x) (fvOf f y)
def fpSqrt (f : Fmt) (mode : RMode) (x : Nat) : FR := sqrtV f mode (fvOf f x)
/-- ±(x · y) ± z. -/
def fpFma (f : Fmt) (mode : RMode) (negP negZ : Bool) (x y z : Nat) : FR :=
  let a := fvOf f x
  let c := fvOf f z
  fmaV f mode (if negP then fvNeg a else a) (fvOf f y) (if negZ then fvNeg c else c)

end Sys2Proof.Machine
end

