-- ==== Sys2Proof/Machine/Operands.lean ====
section
/-!
DEFINITION. Operand forms: the second source of a scalar operation (R173), register operands of commands (R295), the vector
immediate (R153), elements and masks (R21, R22, R8), the addresses of memory operations, and the registers a bundle names (R24,
R297).
-/
namespace Sys2Proof.Machine

def sext32 (v : BitVec 32) : Word := v.signExtend 64

/-- Selector b (Table 5.6). -/
def selVal (s : State) (c : Issue) (b : BitVec 8) : Word :=
  if b.toNat < 0x40 then c.reg b.toNat else constWord s c.core (s.issThr c) (b.toNat - 0x40)

/-- opb of an integer or control operation. -/
def opb (s : State) (c : Issue) : Opb → Word
  | .sel b => selVal s c b
  | .imm v => sext32 v

/-- opb of a floating-point operation: an immediate is an f32 value (R181). -/
def opbF32 (s : State) (c : Issue) : Opb → Word
  | .sel b => selVal s c b
  | .imm v => v.setWidth 64

/-- The value of a command's register operand (R295). -/
def regOpVal (c : Issue) (r : RegOp) : Word := c.reg r.reg.toNat + r.disp.signExtend 64

/-- The address of a scalar load, store, LDA, STL or PREF (R205). -/
def memAddr (s : State) (c : Issue) (sa : BitVec 6) (y : Opb) : Word := c.reg sa.toNat + opb s c y

/-! ## Elements and lanes -/

/-- Element k, of width w, of a register. -/
def elem (w : Nat) (v : VReg) (k : Nat) : Nat := v.toNat >>> (w * k) % 2 ^ w

/-- A register from its elements, element 0 lowest. -/
def ofElems (w : Nat) : List Nat → Nat
  | [] => 0
  | x :: l => x % 2 ^ w + 2 ^ w * ofElems w l

def vregOf (w : Nat) (l : List Nat) : VReg := BitVec.ofNat 2048 (ofElems w l)
def numElems (w : Nat) : Nat := 2048 / w

/-- The lane whose mask bit governs element k (R22). -/
def laneOf (w k : Nat) : Nat := if w = 64 then 2 * k else k * w / 32

def active (m : Word) (w k : Nat) : Bool := m.getLsbD (laneOf w k)

/-- New elements where active, the old ones elsewhere (R231). -/
def mergeElems (m : Word) (w : Nat) (old : VReg) (f : Nat → Nat) : VReg :=
  vregOf w ((List.range (numElems w)).map fun k => if active m w k then f k else elem w old k)

/-- imm of the vector-wide form for an element type et of the integer or width-only class (Table 5.9). -/
def immElem (et : BitVec 3) (w : Nat) (v : BitVec 16) : Nat :=
  if w ≤ 16 then v.toNat % 2 ^ w
  else if et.toNat < 4 then ofSigned w (toSigned 16 v.toNat) else v.toNat

/-- The governing mask of a vector operation (R21). -/
def maskOf (c : Issue) (ms : BitVec 6) : Word := if ms == 0 then BitVec.allOnes 64 else c.reg ms.toNat

/-- Offsets of a gather, scatter or vector atomic: element k of v(va), extended and scaled (R154). -/
def gatherAddr (c : Issue) (va : BitVec 5) (base : BitVec 6) (imm : BitVec 16) (zx : Bool) (sc : BitVec 2) (w k : Nat) : Nat :=
  let e := elem w (c.vreg va.toNat) k
  let o : Int := if zx then (e : Int) else toSigned w e
  ofSigned 64 ((c.reg base.toNat).toNat + toSigned 16 imm.toNat + o * (2 ^ sc.toNat : Nat))

def vecBase (c : Issue) (base : BitVec 6) (imm : BitVec 16) : Nat :=
  ofSigned 64 ((c.reg base.toNat).toNat + toSigned 16 imm.toNat)

/-- Active elements of width w. -/
def activeElems (m : Word) (w : Nat) : List Nat := (List.range (numElems w)).filter fun k => active m w k

/-! ## Registers that an operation names -/

def useSel (b : BitVec 8) : List Nat := if b.toNat < 0x40 then [b.toNat] else []
def useOpb : Opb → List Nat | .sel b => useSel b | .imm _ => []
def useHdr (h : CmdHdr) : List Nat := [h.token.toNat]
/-- A vector operand that names a scalar register in the dual form. -/
def useCtl : VSrc → List Nat | .reg b => [b.toNat] | .imm _ => []
def range18 : List Nat := [1, 2, 3, 4, 5, 6, 7, 8]

/-- The scalar registers an operation reads or writes (R297, R24). -/
def regUse : Instr → List Nat
  | .bc sa _ _ | .ret sa | .mtsr sa _ | .hqpush sa => [sa.toNat]
  | .jmpi sa b | .go sa b => sa.toNat :: useSel b
  | .call sd _ | .mfsr sd _ | .li sd _ | .lih sd _ => [sd.toNat]
  | .spawn sd _ => sd.toNat :: range18
  | .calli sd sa b | .qwidth sd sa b | .waitline sd sa b | .trim sd sa b => sd.toNat :: sa.toNat :: useSel b
  | .rgen sd sa b => sd.toNat :: sa.toNat :: useSel b ++ range18
  | .add sd sa y _ _ _ | .sub sd sa y _ _ _ | .mul sd sa y _ _ _ => sd.toNat :: sa.toNat :: useOpb y
  | .mulh sd sa y _ _ | .mulhn sd sa y _ _ | .div sd sa y _ _ | .divn sd sa y _ _ | .rem sd sa y _ _ | .remn sd sa y _ _
  | .and sd sa y _ _ | .or sd sa y _ _ | .xor sd sa y _ _ | .andn sd sa y _ _ | .shl sd sa y _ _ | .shr sd sa y _ _
  | .sha sd sa y _ _ | .rol sd sa y _ _ | .min sd sa y _ _ | .max sd sa y _ _ | .minn sd sa y _ _ | .maxn sd sa y _ _
  | .sext sd sa y _ _ | .bfx sd sa y _ _ | .bfi sd sa y _ _ => sd.toNat :: sa.toNat :: useOpb y
  | .abs sd sa _ _ | .clz sd sa _ _ | .ctz sd sa _ _ | .popc sd sa _ _ | .brev sd sa _ _ => [sd.toNat, sa.toNat]
  | .seq sd sa y _ | .sne sd sa y _ | .slt sd sa y _ | .sltn sd sa y _ => sd.toNat :: sa.toNat :: useOpb y
  | .sel sd sa y => sd.toNat :: sa.toNat :: useOpb y
  | .lea sd sa y _ => sd.toNat :: sa.toNat :: useOpb y
  | .fadd sd sa y _ | .fsub sd sa y _ | .fmul sd sa y _ | .ffma sd sa y _ | .fdiv sd sa y _ | .fmin sd sa y _
  | .fmax sd sa y _ | .fset sd sa y _ _ => sd.toNat :: sa.toNat :: useOpb y
  | .fsqrt sd sa _ | .fcvt sd sa _ | .fabs sd sa _ => [sd.toNat, sa.toNat]
  | .ldb sd sa y _ | .ldbn sd sa y _ | .ldh sd sa y _ | .ldhn sd sa y _ | .ldw sd sa y _ | .ldwn sd sa y _ | .ldd sd sa y _
  | .lda sd sa y _ | .stl sd sa y _ => sd.toNat :: sa.toNat :: useOpb y
  | .stb sd sa y | .sth sd sa y | .stw sd sa y | .std sd sa y => sd.toNat :: sa.toNat :: useOpb y
  | .pref sa y _ => sa.toNat :: useOpb y
  | .amo sd sa vb _ _ _ | .amow sd sa vb _ _ _ | .amof sd sa vb _ _ _ _ => [sd.toNat, sa.toNat, vb.toNat]
  | .cas sd sa vb vc _ _ | .casw sd sa vb vc _ _ => [sd.toNat, sa.toNat, vb.toNat, vc.toNat]
  | .semw sd sa _ _ _ | .sems sd sa _ _ _ => [sd.toNat, sa.toNat]
  | .trav | .travAcc | .travEnd | .hop => range18
  | .travInst b => useSel b ++ range18
  | .vadd _ _ _ ms _ | .vsub _ _ _ ms _ | .vmul _ _ _ ms _ | .vfma _ _ _ ms _ | .vfms _ _ _ ms _ | .vfnma _ _ _ ms _
  | .vmin _ _ _ ms _ | .vmax _ _ _ ms _ | .vminp _ _ _ ms _ | .vmaxp _ _ _ ms _ | .vcopysign _ _ _ ms _
  | .vldexp _ _ _ ms _ | .vdiv _ _ _ ms _ | .viadd _ _ _ ms _ | .visub _ _ _ ms _ | .vimul _ _ _ ms _ | .vimulh _ _ _ ms _
  | .vimad _ _ _ ms _ | .vimin _ _ _ ms _ | .vimax _ _ _ ms _ | .vand _ _ _ ms _ | .vor _ _ _ ms _ | .vxor _ _ _ ms _
  | .vandn _ _ _ ms _ | .vshl _ _ _ ms _ | .vshr _ _ _ ms _ | .vsha _ _ _ ms _ | .vsatadd _ _ _ ms _ | .vsatsub _ _ _ ms _
  | .vidiv _ _ _ ms _ | .virem _ _ _ ms _ | .vdot4 _ _ _ ms _ => [ms.toNat]
  | .vabs _ _ ms _ | .vneg _ _ ms _ | .vclass _ _ ms _ | .vfract _ _ ms _ | .vfrexp _ _ ms _ | .vsqrt _ _ ms _
  | .vrcp _ _ ms _ | .vrsq _ _ ms _ | .vexp2 _ _ ms _ | .vlog2 _ _ ms _ | .vsin _ _ ms _ | .vcos _ _ ms _ | .vtanh _ _ ms _
  | .viabs _ _ ms _ | .vpopc _ _ ms _ | .vclz _ _ ms _ | .vmov _ _ ms _ | .viota _ ms _ | .vcompress _ _ ms _
  | .vexpand _ _ ms _ | .vredadd _ _ ms _ | .vredmin _ _ ms _ | .vredmax _ _ ms _ | .vredand _ _ ms _ | .vredor _ _ ms _
  | .vscanadd _ _ ms _ | .vscanmin _ _ ms _ | .vscanmax _ _ ms _ | .vround _ _ _ ms _ | .vmovi _ _ ms _
  | .vbitsel _ _ _ ms _ | .vperm _ _ _ ms _ | .vsel _ _ _ ms _ | .vhash _ _ _ ms _ | .vbfdot _ _ _ ms => [ms.toNat]
  | .vcvt _ _ _ _ ms _ | .vcvti _ _ _ _ ms _ | .vnarrow _ _ _ _ ms _ | .vwiden _ _ _ _ ms _ => [ms.toNat]
  | .vqmx _ _ _ ms _ | .vdqmx _ _ _ ms _ => [ms.toNat]
  | .vcmp vd _ _ _ ms _ => [32 + vd.toNat, ms.toNat]
  | .vicmp vd _ _ _ ms _ => [32 + vd.toNat, ms.toNat]
  | .vwhile vd va vb ms _ => [32 + vd.toNat, va.toNat, vb.toNat, ms.toNat]
  | .vmatch vd _ ms _ => [32 + vd.toNat, ms.toNat]
  | .vbfx _ _ y ms _ | .vbfi _ _ y ms _ | .vrot _ _ y ms _ | .vslideup _ _ y ms _ | .vslidedn _ _ y ms _ =>
    ms.toNat :: useCtl y
  | .vsplat _ va ms _ => [va.toNat, ms.toNat]
  | .vext vd _ vb ms _ => [vd.toNat, vb.toNat, ms.toNat]
  | .vins _ va vb ms _ => [va.toNat, vb.toNat, ms.toNat]
  | .vshfl _ _ vb ms _ => [vb.toNat, ms.toNat]
  | .vld _ base _ _ ms _ | .vldb _ base _ _ ms _ => [base.toNat, ms.toNat]
  | .vst _ base _ ms _ => [base.toNat, ms.toNat]
  | .vlds _ base st _ _ ms _ => [base.toNat, st.toNat, ms.toNat]
  | .vsts _ base st _ ms _ => [base.toNat, st.toNat, ms.toNat]
  | .vgath _ _ base _ _ _ _ ms _ => [base.toNat, ms.toNat]
  | .vscat _ _ base _ _ _ ms _ => [base.toNat, ms.toNat]
  | .vamo _ _ base _ _ _ _ _ _ ms _ => [base.toNat, ms.toNat]
  | .vamof _ _ base _ _ _ _ _ _ ms _ => [base.toNat, ms.toNat]
  | .vhqpop _ vb ms => [vb.toNat, ms.toNat]
  | .vraygen vd _ vb ms => [1, vd.toNat, vb.toNat, ms.toNat]
  | .vaccrd _ _ _ vb ms _ | .vaccwr _ _ _ vb ms _ => [vb.toNat, ms.toNat]
  | .cpy h a b _ | .cpy2 h a b _ _ _ _ | .cpyt h a b _ _ _ _ _ | .cpyr h a b _ _ | .cpyg h a b _ _ =>
    a.reg.toNat :: b.reg.toNat :: useHdr h
  | .cpyb h a b _ _ _ _ _ _ => a.reg.toNat :: b.reg.toNat :: useHdr h
  | .cpym h a _ _ _ _ => a.reg.toNat :: useHdr h
  | .pref2 h a _ | .flush h a _ | .fillz h a _ => a.reg.toNat :: useHdr h
  | .mma h _ _ _ _ _ _ | .mmax h _ _ _ _ _ _ _ | .mzero h _ _ => useHdr h
  | .mld h a _ _ _ | .mst h a _ _ _ => a.reg.toNat :: useHdr h
  | .rmmak h _ sr _ _ _ _ _ _ _ a b | .rmman h _ sr _ _ _ _ _ _ _ a b => sr.toNat :: a.reg.toNat :: b.reg.toNat :: useHdr h
  | .semop h _ _ _ | .semset h _ _ _ | .lstat h _ | .waycfg h _ _ _ | .preempt h _ _ => useHdr h
  | .spawnt h r => [r.toNat, r.toNat + 1, r.toNat + 2, r.toNat + 3] ++ useHdr h
  | .mcas h a _ _ | .launch h a | .fclk h a | .sceneb h a => a.reg.toNat :: useHdr h
  | .fpost h a _ _ _ => a.reg.toNat :: useHdr h
  | _ => []

end Sys2Proof.Machine
end

