-- ==== Sys2Proof/Machine/Flags.lean ====
section
/-!
DEFINITION. Floating-point flags of a bundle while it issues (R128-R130): FPMODE's fields, what a scalar operation and the lanes of
a vector operation raise. FPFLAGS itself is written by `finishFlags` when the bundle completes.
-/
namespace Sys2Proof.Machine

/-- The rounding mode of the issuing thread; a fibre rounds to nearest even (R124). -/
def issRm (c : Issue) : RMode := if c.entry.isSome then .rne else rmOf (bits c.fpmode 1 0)

/-- FPMODE's trap enables, bit for bit as FPFLAGS (Tables 4.9, 4.10). -/
def issEnables (c : Issue) : Nat := if c.entry.isSome then 0 else bits c.fpmode 12 8

/-- The scalar operation raised these flags. -/
def raiseScalar (s : State) (fl : Nat) : State :=
  s.modIssue fun c => if c.entry.isSome then c else { c with sflags := c.sflags ||| fl }

/-- A lane raised these flags; it is named in TRAPLANES when one of them is enabled (R130). -/
def addLane (c : Issue) (lane fl : Nat) : Issue :=
  { c with vflags := c.vflags ||| fl
           lanes := if fl &&& issEnables c = 0 then c.lanes else c.lanes ||| 2 ^ lane }

/-- Flags by lane, each raised in turn. -/
def raiseLanes (s : State) (l : List (Nat × Nat)) : State :=
  s.modIssue fun c => l.foldl (fun c x => addLane c x.1 x.2) c

end Sys2Proof.Machine
end

