-- ==== Sys2Proof/Machine/IntOps.lean ====
section
/-!
DEFINITION. Integer results (R116, R117, R176-R180), on numbers below 2^w.
-/
namespace Sys2Proof.Machine

def widthOf : IntW → Nat | .w64 => 64 | .w32 => 32 | .w16 => 16 | .w8 => 8

/-- Clamp to the range of a type of width w. -/
def satTo (w : Nat) (signed : Bool) (x : Int) : Int :=
  let lo : Int := if signed then -((2 ^ (w - 1) : Nat) : Int) else 0
  let hi : Int := if signed then ((2 ^ (w - 1) : Nat) : Int) - 1 else ((2 ^ w : Nat) : Int) - 1
  if x < lo then lo else if hi < x then hi else x

/-- The last steps of R176: saturation, the low w bits, and the extension by ZX. -/
def finishInt (w : Nat) (zx sat : Bool) (res : Int) : Word :=
  let r := if sat then satTo w (!zx) res else res
  let low := ofSigned w r
  if zx then word low else word (ofSigned 64 (toSigned w low))

/-- x as a number of width w, signed or not. -/
def readInt (w : Nat) (signed : Bool) (x : Nat) : Int := if signed then toSigned w x else ((x % 2 ^ w : Nat) : Int)

/-- Quotient of R117. -/
def divInt (w : Nat) (signed : Bool) (a b : Int) : Int :=
  if b = 0 then -1
  else if signed && a == -((2 ^ (w - 1) : Nat) : Int) && b == -1 then a
  else a.tdiv b
/-- Remainder of R117. -/
def remInt (w : Nat) (signed : Bool) (a b : Int) : Int :=
  if b = 0 then a
  else if signed && a == -((2 ^ (w - 1) : Nat) : Int) && b == -1 then 0
  else a.tmod b

def rolNat (w x n : Nat) : Nat := ((x <<< n) ||| (x >>> (w - n))) % 2 ^ w

/-- Zero bits above the highest one bit of x below 2^w. -/
def clzNat (w x : Nat) : Nat := if x = 0 then w else w - 1 - Nat.log2 x

/-- Zero bits below the lowest one bit. -/
def ctzNat (w x : Nat) : Nat := ((List.range w).find? fun i => x.testBit i).getD w
def popcNat (w x : Nat) : Nat := ((List.range w).filter fun i => x.testBit i).length
def brevNat (w x : Nat) : Nat := (List.range w).foldl (fun r i => r + (if x.testBit i then 2 ^ (w - 1 - i) else 0)) 0

/-- pos, and the effective field length e (R178). -/
def fieldLen (w k : Nat) : Nat × Nat :=
  let pos := bits k 5 0
  let len := bits k 12 6
  (pos, if w ≤ pos then 0 else Nat.min len (w - pos))

def sextField (w x k : Nat) : Int := toSigned (Nat.min (bits k 5 0 + 1) w) x
def bfxField (w : Nat) (signed : Bool) (x k : Nat) : Int :=
  let (pos, e) := fieldLen w k
  if e = 0 then 0 else if signed then toSigned e (x >>> pos) else (((x >>> pos) % 2 ^ e : Nat) : Int)
def bfiField (w old x k : Nat) : Nat :=
  let (pos, e) := fieldLen w k
  let o := old % 2 ^ w
  if e = 0 then o else o - ((o >>> pos) % 2 ^ e) <<< pos + (x % 2 ^ e) <<< pos

end Sys2Proof.Machine
end

