-- ==== Sys2Proof/Machine/Checks.lean ====
section
/-!
DEFINITION. What stops a bundle before it has any effect: pending tokens (R297), ILLEGAL by mode, privilege or operand values
(Table 5.21, Table 10.15), the access checks (R86), translation misses (R207) and structural conflicts (R18). `start` is the
beginning of every operation's meaning.
-/
namespace Sys2Proof.Machine

/-! ## System-register access (Tables 13.1, 14.1, 16.8) -/

structure SysAccess where
  userRead : Bool
  userWrite : Bool
  supWrite : Bool
deriving DecidableEq, Repr

def sysAccess (n : Nat) : Option SysAccess :=
  if n ≤ 5 then some ⟨true, true, true⟩
  else if n = 6 ∨ n = 7 then some ⟨true, false, false⟩
  else if n = 0x10 then some ⟨true, true, true⟩
  else if 0x11 ≤ n ∧ n ≤ 0x14 then some ⟨true, false, true⟩
  else if n = 0x15 ∨ n = 0x16 then some ⟨false, false, true⟩
  else if n = 0x17 then some ⟨true, false, true⟩
  else if n = 0x18 then some ⟨false, false, true⟩
  else if n = 0x20 then some ⟨true, false, true⟩
  else if n = 0x21 then some ⟨false, false, true⟩
  else if (0x36 ≤ n ∧ n ≤ 0x3F) ∨ (0x46 ≤ n ∧ n ≤ 0x4F) then some ⟨true, false, true⟩
  else if n = 0x50 ∨ n = 0x51 then some ⟨false, false, true⟩
  else if n = 0x60 then some ⟨false, false, true⟩
  else if n = 0x61 then some ⟨true, false, false⟩
  else if n = 0x62 then some ⟨false, false, true⟩
  else if 0x70 ≤ n ∧ n ≤ 0x75 then some ⟨false, false, false⟩
  else if (0x100 ≤ n ∧ n ≤ 0x104) ∨ n = 0x108 ∨ n = 0x109 then some ⟨false, false, true⟩
  else if n = 0x10A then some ⟨false, false, false⟩
  else if n = 0x110 ∨ n = 0x111 ∨ (0x118 ≤ n ∧ n ≤ 0x11C) then some ⟨false, false, true⟩
  else if n = 0x11D then some ⟨false, false, false⟩
  else if (0x200 ≤ n ∧ n ≤ 0x205) ∨ n = 0x210 then some ⟨true, false, true⟩
  else if n = 0x211 then some ⟨false, false, true⟩
  else if n = 0x220 ∨ n = 0x221 then some ⟨true, false, false⟩
  else none

def mayRead (sup : Bool) (n : Nat) : Bool := match sysAccess n with | some a => sup || a.userRead | none => false
def mayWrite (sup : Bool) (n : Nat) : Bool :=
  match sysAccess n with | some a => if sup then a.supWrite else a.userWrite | none => false

/-! ## Trim tables (R14, R15, R224) -/

/-- Entry i as it would be stored. -/
def trimNorm (i x : Nat) : Nat := if i % 8 = 7 then 7 else if 8 < x then 8 else x
def trimTable (lo hi : Nat) : List Nat :=
  (List.range 32).map fun i => trimNorm i (if i < 16 then bits lo (4 * i + 3) (4 * i) else bits hi (4 * (i - 16) + 3) (4 * (i - 16)))

/-- No slot number twice in any window of eight cyclically consecutive entries (R15). -/
def trimOk (t : List Nat) : Bool :=
  (List.range 32).all fun i => (List.range 8).all fun d =>
    d == 0 || (t.getD i 8) == 8 || t.getD i 8 != t.getD ((i + d) % 32) 8

/-- The trim table as it stands on this clk: a new one holds from the clk after its write or its barrier (R359). -/
def tableNow (k : Core) (clk : Nat) : List Nat :=
  match k.trimNew with | some (t0, tab) => if t0 < clk then tab else k.trim | none => k.trim

/-- Half of a table in the layout of TRIMTAB0 and TRIMTAB1. -/
def tableHalf (t : List Nat) (hi : Bool) : Nat :=
  (List.range 16).foldl (fun a i => a + (t.getD (i + (if hi then 16 else 0)) 8) <<< (4 * i)) 0

/-- A write of half of the table, normalised and checked (R359). -/
def tableWrite (t : List Nat) (x : Bool × Word) : List Nat :=
  let n := if x.1 then trimTable (tableHalf t false) x.2.toNat else trimTable x.2.toNat (tableHalf t true)
  if trimOk n then n else t

/-! ## Task records of SPAWNT (R48, R50, R321) -/

def tileRefs (dw : Nat) : List Nat := (List.range 4).filterMap fun j =>
  if bitAt dw (12 * j + 10) then some (bits dw (12 * j + 9) (12 * j)) else none

/-! ## Operations that fibres may not issue (R24, R56, Table 5.21) -/

/-- A vector operation, a barrier, TRET, or a matrix command. -/
def fibreBars : Instr → Bool
  | .barc | .barg | .develop | .trim _ _ _ | .tret => true
  | .mma .. | .mmax .. | .mzero .. | .mld .. | .mst .. | .rmmak .. | .rmman .. => true
  | .vadd .. | .vsub .. | .vmul .. | .vfma .. | .vfms .. | .vfnma .. | .vmin .. | .vmax .. | .vminp .. | .vmaxp .. | .vabs ..
  | .vneg .. | .vcmp .. | .vclass .. | .vround .. | .vfract .. | .vcopysign .. | .vldexp .. | .vfrexp .. | .vdiv .. | .vsqrt ..
  | .vrcp .. | .vrsq .. | .vexp2 .. | .vlog2 .. | .vsin .. | .vcos .. | .vtanh .. | .viadd .. | .visub .. | .vimul ..
  | .vimulh .. | .vimad .. | .vimin .. | .vimax .. | .viabs .. | .vand .. | .vor .. | .vxor .. | .vandn .. | .vshl .. | .vshr ..
  | .vsha .. | .vicmp .. | .vpopc .. | .vclz .. | .vsatadd .. | .vsatsub .. | .vidiv .. | .virem .. | .vbitsel .. | .vbfx ..
  | .vbfi .. | .vwhile .. | .vmatch .. | .vmov .. | .vsplat .. | .vmovi .. | .vext .. | .vins .. | .vperm .. | .vrot ..
  | .vslideup .. | .vslidedn .. | .viota .. | .vsel .. | .vcompress .. | .vexpand .. | .vshfl .. | .vredadd .. | .vredmin ..
  | .vredmax .. | .vredand .. | .vredor .. | .vscanadd .. | .vscanmin .. | .vscanmax .. | .vcvt .. | .vcvti .. | .vnarrow ..
  | .vwiden .. | .vqmx .. | .vdqmx .. | .vld .. | .vst .. | .vlds .. | .vsts .. | .vgath .. | .vscat .. | .vldb .. | .vamo ..
  | .vamof .. | .vhqpop .. | .vraygen .. | .vaccrd .. | .vaccwr .. | .vdot4 .. | .vbfdot .. | .vhash .. => true
  | _ => false

/-! ## Addresses of memory operations -/

/-- The access kind and the accesses of a memory operation whose checks are those of R86. PREF checks on its own (R214), and so do
GO, HOP and the commands. -/
def accessesOf (s : State) (c : Issue) : Instr → Option (AccKind × List Acc)
  | .ldb _ sa y _ | .ldbn _ sa y _ => some (.load, [⟨0, (memAddr s c sa y).toNat, 1⟩])
  | .ldh _ sa y _ | .ldhn _ sa y _ => some (.load, [⟨0, (memAddr s c sa y).toNat, 2⟩])
  | .ldw _ sa y _ | .ldwn _ sa y _ => some (.load, [⟨0, (memAddr s c sa y).toNat, 4⟩])
  | .ldd _ sa y _ | .lda _ sa y _ => some (.load, [⟨0, (memAddr s c sa y).toNat, 8⟩])
  | .stb _ sa y => some (.store, [⟨0, (memAddr s c sa y).toNat, 1⟩])
  | .sth _ sa y => some (.store, [⟨0, (memAddr s c sa y).toNat, 2⟩])
  | .stw _ sa y => some (.store, [⟨0, (memAddr s c sa y).toNat, 4⟩])
  | .std _ sa y | .stl _ sa y _ => some (.store, [⟨0, (memAddr s c sa y).toNat, 8⟩])
  | .amo _ sa _ _ _ _ | .cas _ sa _ _ _ _ => some (.atomic, [⟨0, (c.reg sa.toNat).toNat, 8⟩])
  | .amow _ sa _ _ _ _ | .casw _ sa _ _ _ _ => some (.atomic, [⟨0, (c.reg sa.toNat).toNat, 4⟩])
  | .amof _ sa _ _ single _ _ => some (.atomic, [⟨0, (c.reg sa.toNat).toNat, if single then 4 else 8⟩])
  | .waitline _ sa _ => some (.waitline, [⟨0, (c.reg sa.toNat).toNat, 8⟩])
  | .vld _ base imm _ _ et =>
    let w := etWidthOnly et
    some (.load, (activeElems c.mask w).map fun k => ⟨laneOf w k, (vecBase c base imm + k * (w / 8)) % 2 ^ 64, w / 8⟩)
  | .vst _ base imm _ et =>
    let w := etWidthOnly et
    some (.store, (activeElems c.mask w).map fun k => ⟨laneOf w k, (vecBase c base imm + k * (w / 8)) % 2 ^ 64, w / 8⟩)
  | .vlds _ base st imm _ _ et =>
    let w := etWidthOnly et
    some (.load, (activeElems c.mask w).map fun k => ⟨laneOf w k, (vecBase c base imm + k * (c.reg st.toNat).toNat) % 2 ^ 64, w / 8⟩)
  | .vsts _ base st imm _ et =>
    let w := etWidthOnly et
    some (.store, (activeElems c.mask w).map fun k => ⟨laneOf w k, (vecBase c base imm + k * (c.reg st.toNat).toNat) % 2 ^ 64, w / 8⟩)
  | .vgath _ va base imm zx sc _ _ et =>
    let w := etWidthOnly et
    some (.load, (activeElems c.mask w).map fun k => ⟨laneOf w k, gatherAddr c va base imm zx sc w k, w / 8⟩)
  | .vscat _ va base imm zx sc _ et =>
    let w := etWidthOnly et
    some (.store, (activeElems c.mask w).map fun k => ⟨laneOf w k, gatherAddr c va base imm zx sc w k, w / 8⟩)
  | .vldb _ base imm _ _ et =>
    let w := etWidthOnly et
    some (.load, (activeElems c.mask w).map fun k => ⟨laneOf w k, vecBase c base imm, w / 8⟩)
  | .vamo _ va base imm zx sc _ _ _ _ et =>
    let w := etWidthOnly et
    some (.atomic, (activeElems c.mask w).map fun k => ⟨laneOf w k, gatherAddr c va base imm zx sc w k, w / 8⟩)
  | .vamof _ va base imm zx sc _ _ _ _ et =>
    let w := etWidthOnly et
    some (.atomic, (activeElems c.mask w).map fun k => ⟨laneOf w k, gatherAddr c va base imm zx sc w k, w / 8⟩)
  | _ => none

/-- The scalar slot made the access: SOP of TRAPCAUSE (R197), TRAPLANES 0 (Table 6.8). -/
def scalarAccess : Instr → Bool
  | .ldb .. | .ldbn .. | .ldh .. | .ldhn .. | .ldw .. | .ldwn .. | .ldd .. | .lda .. | .stb .. | .sth .. | .stw .. | .std ..
  | .stl .. | .amo .. | .amow .. | .cas .. | .casw .. | .amof .. | .waitline .. | .go .. => true
  | _ => false

/-! ## Special-function pipe (R18, R175) -/

def usesSfu : Instr → Bool
  | .fdiv .. | .fsqrt .. | .div .. | .divn .. | .rem .. | .remn .. => true
  | .vdiv .. | .vsqrt .. | .vrcp .. | .vrsq .. | .vexp2 .. | .vlog2 .. | .vsin .. | .vcos .. | .vtanh .. | .vidiv ..
  | .virem .. => true
  | _ => false

end Sys2Proof.Machine
end

