-- ==== Sys2Proof/Machine/CmdChecks.lean ====
section
/-!
DEFINITION. The checks that a command's issue makes (R296, R315, R319, R321, R326, R369, R371, Table 10.15): its memory ranges,
its ILLEGAL cases, the entries of an MCAS.
-/
namespace Sys2Proof.Machine

/-- A virtual range of a command: from its lowest byte, its length, the alignment its operand needs, and whether it is written. -/
structure Range where
  lo : Nat
  len : Nat
  align : Nat
  write : Bool
deriving DecidableEq, Repr

/-- The word-0 fields of a command. -/
def hdrOf : Instr → Option CmdHdr
  | .cpy h .. | .cpy2 h .. | .cpyt h .. | .cpyb h .. | .cpym h .. | .cpyr h .. | .cpyg h .. | .pref2 h .. | .flush h ..
  | .fillz h .. | .mma h .. | .mmax h .. | .mzero h .. | .mld h .. | .mst h .. | .rmmak h .. | .rmman h .. | .semop h ..
  | .semset h .. | .mcas h .. | .launch h .. | .spawnt h .. | .lstat h .. | .fpost h .. | .fclk h .. | .sceneb h ..
  | .waycfg h .. | .preempt h .. => some h
  | _ => none

def isLaunch : Instr → Bool | .launch _ _ => true | _ => false

/-- The values of a command's register operands, in word order, and of the registers it names (R295). -/
def cmdOps (c : Issue) : Instr → List Word
  | .cpy _ a b _ | .cpyr _ a b _ _ | .cpyg _ a b _ _ => [regOpVal c a, regOpVal c b]
  | .cpy2 _ a b _ _ _ _ => [regOpVal c a, regOpVal c b]
  | .cpyt _ a b _ _ _ _ _ => [regOpVal c a, regOpVal c b]
  | .cpyb _ a b _ _ _ _ _ _ => [regOpVal c a, regOpVal c b]
  | .cpym _ a _ _ _ _ => [regOpVal c a]
  | .pref2 _ a _ | .flush _ a _ | .fillz _ a _ => [regOpVal c a]
  | .mld _ a _ _ _ | .mst _ a _ _ _ => [regOpVal c a]
  | .rmmak _ _ sr _ _ _ _ _ _ _ a b | .rmman _ _ sr _ _ _ _ _ _ _ a b => [regOpVal c a, regOpVal c b, c.reg sr.toNat]
  | .mcas _ a _ _ | .launch _ a | .fclk _ a | .sceneb _ a => [regOpVal c a]
  | .fpost _ a _ _ _ => [regOpVal c a]
  | .spawnt _ r => (List.range 4).map fun i => c.reg (r.toNat + i)
  | _ => []

def cpyrSize (ty : BitVec 3) : Nat := match ty.toNat with | 0 => 4 | 1 => 2 | 2 => 2 | 3 => 8 | 4 => 4 | _ => 8
def bszBits (b : BitVec 2) : Nat := match b.toNat with | 0 => 4 | 1 => 8 | _ => 16
/-- Kp of a canonical panel (R306). -/
def panelK (bitsE : Nat) : Nat := 256 / bitsE
def ceilDiv (a b : Nat) : Nat := (a + b - 1) / b
/-- Panels that CPYB writes. -/
def cpybPanels (rows cols bitsE : Nat) (role : Bool) : Nat :=
  let kp := panelK bitsE
  if role then ceilDiv rows kp * ceilDiv cols 64 else ceilDiv rows 64 * ceilDiv cols kp
/-- Element width of a matrix operand type in bits. -/
def matBits (ty : BitVec 4) : Nat := tyWidth ty
/-- The bytes a rig member's panel and scales take (R314). -/
def rigPanel (kb : Nat) (mx : Bool) (ty : BitVec 4) : Nat :=
  2048 * (32 * kb / panelK (matBits ty)) + (if mx then 64 * kb else 0)

def opAt (l : List Word) (i : Nat) : Nat := (l.getD i 0).toNat

/-- The virtual ranges of a command (R296, R301, Tables 10.5, 10.6). PREF2 raises no trap, so it lists none here. -/
def cmdRanges (ops : List Word) : Instr → List Range
  | .cpy _ _ _ len => [⟨opAt ops 0, len.toNat, 1, false⟩, ⟨opAt ops 1, len.toNat, 1, true⟩]
  | .cpy2 _ _ _ rows rowb sstr dstr =>
    let ext := fun st : Nat => if rows == 0 || rowb == 0 then 0 else 8 * (rows.toNat - 1) * st + rowb.toNat
    [⟨opAt ops 0, ext sstr.toNat, 1, false⟩, ⟨opAt ops 1, ext dstr.toNat, 1, true⟩]
  | .cpyt _ _ _ rows cols sstr dstr esz =>
    let e := 2 ^ esz.toNat
    let zero := rows == 0 || cols == 0
    [⟨opAt ops 0, if zero then 0 else 8 * (rows.toNat - 1) * sstr.toNat + e * cols.toNat, e, false⟩,
     ⟨opAt ops 1, if zero then 0 else 8 * (cols.toNat - 1) * dstr.toNat + e * rows.toNat, e, true⟩]
  | .cpyb _ _ _ rows cols sstr bsz role tr =>
    let b := bszBits bsz
    let zero := rows == 0 || cols == 0
    let (n, k) := if tr then (cols.toNat, rows.toNat) else (rows.toNat, cols.toNat)
    [⟨opAt ops 0, if zero then 0 else 8 * (n - 1) * sstr.toNat + (k * b + 7) / 8, b / 8 + (if b = 4 then 1 else 0), false⟩,
     ⟨opAt ops 1, if zero then 0 else 2048 * cpybPanels rows.toNat cols.toNat b role, 256, true⟩]
  | .cpym _ _ _ _ len _ => [⟨opAt ops 0, len.toNat, 1, false⟩]
  | .cpyr _ _ _ len ty =>
    [⟨opAt ops 0, len.toNat, cpyrSize ty, false⟩, ⟨opAt ops 1, len.toNat, cpyrSize ty, true⟩]
  | .cpyg _ _ _ count gsz =>
    let e := 8 * 2 ^ gsz.toNat
    [⟨opAt ops 0, 8 * count.toNat, 8, false⟩, ⟨opAt ops 1, e * count.toNat, Nat.min e 64, true⟩]
  | .flush _ _ len => [⟨opAt ops 0, len.toNat, 1, false⟩]
  | .fillz _ _ len => [⟨opAt ops 0, len.toNat, 1, true⟩]
  | .mld _ _ _ _ st => [⟨opAt ops 0, 63 * st.toNat + 256, 64, false⟩]
  | .mst _ _ _ _ st => [⟨opAt ops 0, 63 * st.toNat + 256, 64, true⟩]
  | .rmmak _ _ _ _ kb mx ta tb _ _ _ _ | .rmman _ _ _ _ kb mx ta tb _ _ _ _ =>
    [⟨opAt ops 0, rigPanel kb.toNat mx ta, 256, false⟩, ⟨opAt ops 1, rigPanel kb.toNat mx tb, 256, false⟩]
  | .mcas _ _ count _ => [⟨opAt ops 0, 24 * count.toNat, 8, true⟩]
  | .launch _ _ => [⟨opAt ops 0, 64, 64, false⟩]
  | .sceneb _ _ => [⟨opAt ops 0, 64, 64, false⟩]
  | .fpost _ _ bytes _ _ => [⟨opAt ops 0, bytes.toNat, 4096, false⟩]
  | _ => []

/-- LEN of CPYR must be a multiple of the element size (Table 10.6). -/
def lenAligned : Instr → Bool
  | .cpyr _ _ _ len ty => len.toNat % cpyrSize ty == 0
  | _ => true

def rangeKind (r : Range) : AccKind := if r.write then .engWrite else .engRead

/-- ADDRESS for a range: its bytes are not all in one window, or some are in none. -/
def rangeBadAddress (s : State) (w : Who) (r : Range) : Bool :=
  r.len != 0 &&
  (let hi := r.lo + r.len - 1
   match winOf r.lo, winOf hi with
   | .shared, .shared => false
   | .tcm _, .tcm o => privSize (s.core w.core).lsplit ≤ o
   | .clu _, .clu _ => false
   | _, _ => true)

def rangeBadRange (s : State) (w : Who) (r : Range) : Bool :=
  r.len != 0 &&
  (match winOf r.lo with
   | .tcm _ => true
   | .clu o =>
     badRangeV s w (rangeKind r) ⟨0, r.lo, 1⟩ ||
     (List.range (r.len / 0x1000 + 2)).any fun i => o / 0x1000 * 0x1000 + 0x1000 * i < o + r.len && isLatent s (clusterOf w.core) (o / 0x1000 * 0x1000 + 0x1000 * i)
   | _ => false)

/-- Checks 1 to 3 of R86 over a command's ranges (R296 step 2). -/
def rangesTrap (s : State) (w : Who) (i : Instr) (l : List Range) : Option Nat :=
  if l.any (rangeBadAddress s w) then some cADDRESS
  else if l.any (fun r => r.lo % r.align != 0) || !lenAligned i then some cALIGN
  else if l.any (rangeBadRange s w) then some cRANGE
  else none

/-! ## ILLEGAL cases that depend on the state -/

def launchOf (s : State) (t : Thr) : Option Launch := t.lid.bind fun l => s.launches.find l

def widthField (w : Word) (k : Nat) : Nat := bits w.toNat (8 * k + 7) (8 * k)
/-- Items of one group task: 2^(w0+w1). -/
def groupSize (l : Launch) : Nat := 2 ^ (widthField l.widths 0 + widthField l.widths 1)

/-- SPAWNT's cases (R321, R50). -/
def spawntIllegal (s : State) (c : Issue) (r : BitVec 6) : Bool :=
  let t := s.issThr c
  let d := fun k => (c.reg (r.toNat + k)).toNat
  let top := if c.entry.isSome then 5 else 60
  r == 0 || top < r.toNat ||
  match launchOf s t with
  | none => true
  | some l =>
    let refs := tileRefs (d 2) ++ tileRefs (d 3)
    !refs.Nodup || (l.mode == 1 && !refs.isEmpty) ||
    bits (d 1) 31 5 != 0 || bits (d 2) 63 48 != 0 || bits (d 3) 63 48 != 0 ||
    (List.range 4).any (fun j => bitAt (d 2) (12 * j + 11) || bitAt (d 3) (12 * j + 11)) ||
    bits (d 1) 1 0 != 0 || l.prio < bits (d 1) 3 2 ||
    d 0 % groupSize l != 0 || l.n ≤ d 0

def rigKey (p r : Nat) : Nat := 256 * p + r
def rigOfCore (s : State) (core r : Nat) : Option Rig := (s.partOf core).bind fun p => s.rigs.find (rigKey p r)

/-- A rig command's cases: no entry, none for this core, or an arrival of this core already open (R315). -/
def rigIllegal (s : State) (core r : Nat) : Bool :=
  match rigOfCore s core r with
  | none => true
  | some g => !g.members.contains core || g.arrived.any fun x => x.1 == core

/-- A RIGLOAD of the core's partition has still to load entry r; the entries left follow the first number of its thread's latch (R368). -/
def rigLoading (s : State) (core r : Nat) : Bool :=
  let loads := fun t : Thr => match t.wait with | .sysop 0x51 _ => (t.latch.drop 1).contains r | _ => false
  match s.partOf core with
  | none => false
  | some p => s.cores.any fun x => s.partOf x.1 == some p && ((x.2.slots.any fun w => loads w.2.t) || x.2.rq.any fun e => loads e.2.t)

def compCore (s : State) (core v : Nat) : Bool := v < 6144 && s.sameDies core (dieOf v)

/-- ILLEGAL at issue, beyond what the bits of the bundle decide. -/
def illegalNow (s : State) (c : Issue) (i : Instr) : Bool :=
  (c.entry.isSome && (fibreBars i || (regUse i).any (fun r => 8 < r))) ||
  match i with
  | .mfsr _ n => !mayRead c.sup n.toNat
  | .mtsr _ n => !mayWrite c.sup n.toNat
  | .tret => match (s.core c.core).slots.find c.slot with | some w => !trapActive w | none => true
  | .trim _ sa b => !trimOk (trimTable (c.reg sa.toNat).toNat (selVal s c b).toNat)
  | .cpym _ _ _ d _ _ => !s.sameDies c.core d.toNat
  | .cpyr _ a b len _ =>
    let x := (regOpVal c a).toNat
    let y := (regOpVal c b).toNat
    len != 0 && x < y + len.toNat && y < x + len.toNat
  | .semop _ v _ _ | .semset _ v _ _ => !(v.toNat == 0xFFFF || compCore s c.core v.toNat)
  | .spawnt _ r => spawntIllegal s c r
  | .sceneb _ _ => c.sup
  | .waycfg _ p _ _ => !c.sup || !s.sameDies c.core (p.toNat / 48)
  | .preempt _ v _ => !c.sup || !compCore s c.core v.toNat
  | .rmmak _ _ _ g _ _ _ _ _ _ _ _ | .rmman _ _ _ g _ _ _ _ _ _ _ _ => !rigLoading s c.core g.toNat && rigIllegal s c.core g.toNat
  | .trav | .travAcc | .travEnd | .travInst _ | .hop | .hqpush _ | .go _ _ => fibreIllegal s c i
  | _ => false
where
  /-- Forms that only a fibre may issue; all but GO need a bound scene (R263), and some depend on PIN and f7 (Table 9.9, R277, R279,
  R281, R286). -/
  fibreIllegal (s : State) (c : Issue) (i : Instr) : Bool :=
    match c.entry.bind fun e => (s.core c.core).rq.find e with
    | none => true
    | some x =>
      let f7 := (fibreGet x.fib 7).toNat
      let depth := bits f7 55 48
      let kind := bits f7 57 56
      let bound := match launchOf s x.t with | some l => l.scene.isSome | none => false
      match i with
      | .go _ _ => x.fib.pin
      | .trav | .hqpush _ => !bound
      | .travAcc | .travEnd => !bound || !x.fib.pin
      | .travInst _ => !bound || x.fib.pin || depth == 0 || kind != 1 || bitAt f7 60
      | _ => !bound || x.fib.pin || depth == 0 || kind != 0

end Sys2Proof.Machine
end

