-- ==== Sys2Proof/Machine/Start.lean ====
section
/-!
DEFINITION. `start`: the beginning of every operation's meaning. It decides for the whole bundle what R162, R199 and R207 put before
any effect: a pending token, a trap, a translation miss, a fatal address, a structural conflict.
-/
namespace Sys2Proof.Machine

/-- What becomes of the bundle. -/
inductive Fate
  | go
  | trap (x : Trap)
  /-- a register it names waits for a token (R297) -/
  | token (reg : Nat)
  | miss (pages : List Nat) (access : Nat)
  | noTarget (va pa access : Nat)
  /-- an engine operand that no access may reach: ENGINEFAULT with the command's words (R301) -/
  | engine (va : Nat) (words : List Nat)
  /-- waits for matrix commands before this number (R260) -/
  | accumulator (num : Nat) (ctx : Bool)
  /-- forfeits the turn (R18) -/
  | conflict
deriving DecidableEq, Repr

/-- Trap, miss or fatal address of one operation's accesses. -/
def accessFate (s : State) (c : Issue) (i : Instr) : Option Fate :=
  let w := issWho s c
  match accessesOf s c i with
  | some (k, l) =>
    match checkAll s w k l with
    | .ok _ => none
    | .trap cause lanes => some (.trap ⟨cause, c.pc, if scalarAccess i then 0 else lanes, 0, 0, scalarAccess i⟩)
    | .miss va => some (.miss va k.code)
    | .noTarget va pa => some (.noTarget va pa k.code)
  | none =>
    match i with
    | .go sa b =>
      let va := (c.reg sa.toNat + selVal s c b).toNat
      match checkAll s w .goTarget [⟨0, va, 1⟩] with
      | .ok _ => none
      | .trap cause _ => some (.trap ⟨cause, c.pc, 0, 0, 0, true⟩)
      | .miss va => some (.miss va 5)
      | .noTarget va pa => some (.noTarget va pa 5)
    | _ => none

/-- Issue-time translation of a rig member's panels (R315): one look per 4 KiB of each range. One that no engine may reach ends the launch (R78,
R301). -/
def rigFate (s : State) (c : Issue) (i : Instr) : Option Fate :=
  let w := issWho s c
  let pages := (cmdRanges (cmdOps c i) i).flatMap fun r =>
    if r.len = 0 then []
    else (List.range (r.len / 0x1000 + 2)).filterMap fun k =>
      let va := Nat.max r.lo (r.lo / 0x1000 * 0x1000 + 0x1000 * k)
      if va < r.lo + r.len && winOf va == .shared then some va else none
  let looks := pages.map fun va => (va, lookup s w .engRead va)
  match ((looks.filter fun x => x.2 == .miss).map fun x => x.1 / 0x1000).eraseDups with
  | p :: l => some (.miss ((p :: l).take 64) 3)
  | [] =>
    match looks.find? fun x => match x.2 with | Look.hit pa => badRangeP s .engRead pa || !hasTarget s c.core pa | _ => false with
    | some x => some (.engine x.1 ((encode i).map (·.toNat)))
    | none => none

/-! ## Commands whose destination lines an access must wait for (R108, R300) -/

def overlapsLines (r : Range) (va n : Nat) : Bool :=
  r.len != 0 && va / 64 ≤ (r.lo + r.len - 1) / 64 && r.lo / 64 ≤ (va + n - 1) / 64

/-- The command has not yet written a line that an access touches. -/
def lineUnwritten (k : Cmd) (s : State) (va n : Nat) : Bool :=
  let isAt := fun x : Nat => va / 64 ≤ x / 64 && x / 64 ≤ (va + n - 1) / 64
  !k.running || k.phase == 0 || k.phase == 3 || k.phase == 4 || (match k.instr with | .mcas _ _ _ _ => true | _ => false) ||
  k.dsts.any (fun x => isAt x.2) || k.takes.any fun x => isAt x.2 && (s.reqs.find x.1).isSome

/-- Commands of a core, queued and running. -/
def Core.commands (k : Core) : List Cmd := k.cmdq ++ k.running ++ k.mat0.queue ++ k.mat1.queue

/-- An earlier command of the thread, on whatever core the thread issued it, still has to write a destination line that the access touches. -/
def heldByCmd (s : State) (uid va n order : Nat) : Bool :=
  uid != 0 && s.cores.any fun k => k.2.commands.any fun x =>
    x.uid == uid && x.num < order && lineUnwritten x s va n &&
    (cmdRanges x.ops x.instr).any fun r => r.write && overlapsLines r va n

/-- An atomic of the core to the line has not performed (R217). -/
def heldByAtomic (s : State) (core pa order : Nat) : Bool :=
  s.reqs.any fun x => x.2.core == core && x.2.order < order && lineOf x.2.pa == lineOf pa &&
    match x.2.kind with | .atomic _ _ => true | _ => false

/-- An earlier store of the core to the line has not performed (R90, R91). -/
def earlierStore (s : State) (core pa order : Nat) : Bool :=
  s.reqs.any fun x => x.2.core == core && x.2.order < order && lineOf x.2.pa == lineOf pa && isWrite x.2.kind

/-- The command or MCAS whose ownership or reservation heads the line's queue, once it has been granted (R107, R109). -/
def lineHolder (s : State) (pa : Nat) : Option Req :=
  match s.fifos.find (lineOf pa) with
  | some (id :: _) => (s.reqs.find id).bind fun r => match r.kind with
    | .take _ _ => if r.stage == .queued then none else some r
    | _ => none
  | _ => none

/-- A committed MCAS holds the line: every read of it waits. -/
def heldByMcas (s : State) (pa : Nat) : Bool :=
  match lineHolder s pa with
  | some r => (match r.kind with | .take _ true => r.stage == .releasing || r.stage == .released | _ => false)
  | none => false

/-- A thread's load waits at the line: behind an engine's take, or a committed MCAS. -/
def heldAtHome (s : State) (pa : Nat) : Bool :=
  match lineHolder s pa with
  | some r => (match r.kind with | .take _ false => true | _ => heldByMcas s pa)
  | none => false

/-- A load from a scratchpad byte of the own cluster may not be served at once: a command of its thread has still to write it, or
its line is held, or an earlier store of the core to the line has not performed (R89, R91). -/
def nearLoadWaits (s : State) (core uid va key n : Nat) : Bool :=
  key < 2 ^ 47 && (heldByCmd s uid va n s.fresh || heldAtHome s key || earlierStore s core key s.fresh)

/-- A store to such a byte may not perform at once: it joins the line's queue, behind the core's earlier stores to the line (R90). -/
def nearStoreWaits (s : State) (core uid va key n : Nat) : Bool :=
  key < 2 ^ 47 && (heldByCmd s uid va n s.fresh || (s.fifos.find (lineOf key)).isSome || earlierStore s core key s.fresh)

/-- One of the n bytes at a memory key is poisoned: a doubleword of a TCM or scratchpad, a whole line elsewhere. -/
def poisoned (s : State) (key n : Nat) : Bool :=
  s.poison.any fun x => match pwinOf key with
    | .hbm | .scratch _ _ => key / 64 ≤ x.1 / 8 && x.1 / 8 ≤ (key + n - 1) / 64
    | _ => key / 8 ≤ x.1 && x.1 ≤ (key + n - 1) / 8

/-- The entries of an MCAS once its block has been read (address, expected, new): at once from the own cluster, unless the block is held
or poisoned, else by the request whose doublewords the latch holds (R319). -/
def mcasEntries (s : State) (c : Issue) (count block : Nat) : Option (List (Nat × Nat × Nat)) :=
  let t := s.issThr c
  let ds :=
    if t.latch.length == 3 * count then some t.latch
    else match winOf block with
      | .clu o =>
        let keys := (List.range (3 * count)).map fun i => (block + 8 * i, spadKey (clusterOf c.core) (o + 8 * i))
        if keys.any fun k => nearLoadWaits s c.core t.uid k.1 k.2 8 || poisoned s k.2 8 then none
        else some (keys.map fun k => memGet s.mem k.2 8)
      | _ => none
  ds.map fun l => (List.range count).map fun e => (l.getD (3 * e) 0, l.getD (3 * e + 1) 0, l.getD (3 * e + 2) 0)

/-- A bit for each place of a list whose number stands there twice. -/
def duplicates (l : List Nat) : Nat := l.zipIdx.foldl (fun a x => if l.count x.1 = 1 then a else a ||| 2 ^ x.2) 0

/-- The checks of a command after ILLEGAL: its ranges, then the issue-time reads it states (R296). -/
def commandFate (s : State) (c : Issue) (i : Instr) : Option Fate :=
  let w := issWho s c
  match rangesTrap s w i (cmdRanges (cmdOps c i) i) with
  | some cause => some (.trap ⟨cause, c.pc, 0, 0, 0, false⟩)
  | none =>
    match i with
    | .rmmak .. | .rmman .. => rigFate s c i
    | .mcas _ a count _ =>
      let block := (regOpVal c a).toNat
      match mcasEntries s c count.toNat block with
      | some l =>
        if !(l.map fun e => e.1 / 8).Nodup then some (.trap ⟨1, c.pc, duplicates (l.map fun e => e.1 / 8), 0, 0, false⟩)
        else (match checkAll s w .mcas ((List.range l.length).map fun e => ⟨e, (l.getD e (0, 0, 0)).1, 8⟩) with
        | .ok _ => none
        | .trap cause lanes => some (.trap ⟨cause, c.pc, lanes, 0, 0, false⟩)
        | .miss va => some (.miss va 2)
        | .noTarget va pa => some (.noTarget va pa 2))
      | none =>
        (match checkAll s w .engRead ((List.range (3 * count.toNat)).map fun k => ⟨0, block + 8 * k, 8⟩) with
        | .ok _ => none
        | .trap cause _ => some (.trap ⟨cause, c.pc, 0, 0, 0, false⟩)
        | .miss va => some (.miss va 3)
        | .noTarget va pa => some (.noTarget va pa 3))
    | _ => none

/-- Store-buffer entries that a store needs: one for each maximal run of accesses, in element order, that lie in one line
(R255). -/
def runsOf : List (Option Nat) → Nat
  | [] => 0
  | none :: l => runsOf l
  | some a :: l => 1 + runsFrom (lineOf a) l
where
  runsFrom : Nat → List (Option Nat) → Nat
    | _, [] => 0
    | _, none :: l => runsOf l
    | ln, some a :: l => (if lineOf a == ln then 0 else 1) + runsFrom (lineOf a) l

/-- Distinct buffer entries held (R18): a vector store's bytes of one line are one entry. -/
def sbufUsed (k : Core) : Nat := k.sbuf.length

/-- An element access with its place. -/
abbrev VAcc := Nat × Acc × Place

/-- The distinct doublewords of one bank, in the order of the lowest element that needs each. -/
def dwordsOf (l : List VAcc) (bank : Nat) : List Nat :=
  (l.filterMap fun x => match x.2.2 with
    | .near key => if isSpad key && bankOfKey key == bank then some (key / 8) else none
    | _ => none).eraseDups

/-- The pass that serves an element of the cluster window. -/
def passOf (l : List VAcc) (key : Nat) : Nat := (dwordsOf l (bankOfKey key)).findIdx fun d => d == key / 8

/-- Passes of the bundle at pc that are over, and what its elements have got. -/
def passesDone (s : State) (c : Issue) : Nat × List (Nat × Nat) :=
  match (s.core c.core).slots.find c.slot with | some w => (w.passes, w.passGot) | none => (0, [])

/-- Element numbers of a store's accesses. -/
def storeElems (c : Issue) : Instr → List Nat
  | .vst _ _ _ _ et | .vsts _ _ _ _ _ et | .vscat _ _ _ _ _ _ _ et => activeElems c.mask (etWidthOnly et)
  | _ => [0]

/-- The addresses of a store that take entries, in element order: those of other homes, and those near ones that may not perform at once, or
could not in their pass. -/
def bufferPas (s : State) (core uid : Nat) (done : Nat × List (Nat × Nat)) (l : List VAcc) : List (Option Nat) :=
  l.map fun x => match x.2.2 with
    | Place.far pa => some pa
    | Place.near key =>
      if done.2.any (fun y => y.1 == x.1) then none
      else if isSpad key && passOf l key < done.1 || nearStoreWaits s core uid x.2.1.va key x.2.1.n then some key
      else none
    | _ => none

/-- The store buffer has no room: more entries than are free, or, above 32 entries, a buffer that is not empty (R18, R255). -/
def sbufConflict (s : State) (c : Issue) (i : Instr) : Bool :=
  match accessesOf s c i with
  | some (.store, l) =>
    (match checkAll s (issWho s c) .store l with
    | .ok pl =>
      let n := runsOf (bufferPas s c.core (s.issThr c).uid (passesDone s c) ((storeElems c i).zip pl))
      n != 0 && (if 32 < n then sbufUsed (s.core c.core) != 0 else 32 < sbufUsed (s.core c.core) + n)
    | _ => false)
  | _ => false

def matCtxOf (k : Core) (ctx : Bool) : MatCtx := if ctx then k.mat1 else k.mat0

/-- The context a matrix or rig command names. -/
def cmdCtx : Instr → Option Bool
  | .mma _ _ _ _ x _ _ => some x
  | .mmax _ _ _ _ _ x _ _ => some x
  | .mzero _ _ x => some x
  | .mld _ _ _ x _ | .mst _ _ _ x _ => some x
  | .rmmak _ _ _ _ _ _ _ _ x _ _ _ | .rmman _ _ _ _ _ _ _ _ x _ _ _ => some x
  | _ => none

/-- A scalar access meets a bank that another access has reached on this clk. -/
def bankConflict (s : State) (c : Issue) (i : Instr) : Bool :=
  scalarAccess i &&
  match accessesOf s c i with
  | some (k, l) => (match checkAll s (issWho s c) k l with
    | .ok pl => banksBusy s (clusterOf c.core) (threadPos s c.core) (banksOf (pl.map (·.2)))
    | _ => false)
  | none => false

/-- Structural conflicts of one operation (R18, R291, R368). -/
def conflictOf (s : State) (c : Issue) (i : Instr) : Bool :=
  let k := s.core c.core
  (usesSfu i && s.clk < k.sfuFree) || sbufConflict s c i || bankConflict s c i ||
  (match hdrOf i with
    | some _ => (match cmdCtx i with
      | some x => 2 ≤ (matCtxOf k x).queue.length
      | none => 16 ≤ k.cmdq.length)
    | none => false) ||
  (match i with
    | .hqpush _ => 16 ≤ hqHeld s c.core
    | _ => false)

/-- A VACCRD or VACCWR waits for every matrix command of its context that the core issued before it (R260). -/
def accumWait (s : State) (c : Issue) (l : List Instr) : Option (Nat × Bool) :=
  (l.findSome? fun i => match i with
    | .vaccrd _ _ x _ _ _ | .vaccwr _ _ x _ _ _ => some x
    | _ => none).bind fun x =>
      let n := match (s.issThr c).latch with
        | [n, y] => if y == bit x then n else s.fresh
        | _ => s.fresh
      if (matCtxOf (s.core c.core) x).queue.any fun q => q.num < n then some (n, x) else none

/-- The rig, the sequence number and the shape of a rig command (R315). -/
def rigIssue (s : State) (c : Issue) (i : Instr) : Option (Nat × Nat × List Nat) :=
  let mk := fun (op : Nat) (h : CmdHdr) (rseq : BitVec 32) (sr : BitVec 6) (g : BitVec 8) (kb : BitVec 6) (mx : Bool) (ta tb : BitVec 4) =>
    (s.partOf c.core).map fun p =>
      (rigKey p g.toNat, (rseq.toNat + (c.reg sr.toNat).toNat) % 2 ^ 32, [op, ta.toNat, tb.toNat, bit mx, kb.toNat, bit h.x0])
  match i with
  | .rmmak h rseq sr g kb mx ta tb _ _ _ _ => mk 0 h rseq sr g kb mx ta tb
  | .rmman h rseq sr g kb mx ta tb _ _ _ _ => mk 1 h rseq sr g kb mx ta tb
  | _ => none

/-- An issue of the open instruction of a rig takes a trap or finds a fault recorded: the instruction is to be abandoned (R317). -/
def condemnRig (s : State) (key seq : Nat) (shape : List Nat) : State :=
  match s.rigs.find key with
  | some g =>
    if !g.arrived.isEmpty && g.seq == seq && g.shape == shape then { s with rigs := s.rigs.put key { g with abandon := true } } else s
  | none => s

def condemnAt (s : State) (c : Issue) (l : List Instr) : State :=
  match l.findSome? (rigIssue s c) with
  | some (key, seq, shape) => condemnRig s key seq shape
  | none => s

def firstSome : List (Option Fate) → Option Fate
  | [] => none
  | some f :: _ => some f
  | none :: l => firstSome l

/-- A rig command whose entry is being loaded waits for it, and is judged against the new entry (R368). -/
def rigHeld (s : State) (c : Issue) (i : Instr) : Bool :=
  match i with
  | .rmmak _ _ _ g _ _ _ _ _ _ _ _ | .rmman _ _ _ g _ _ _ _ _ _ _ _ => rigLoading s c.core g.toNat
  | _ => false

/-- The scratchpad banks that an MCAS reaches at its issue: those of its block, when it is read at once (R319). -/
def blockBanks (s : State) (c : Issue) : Instr → List Nat
  | .mcas _ a count _ =>
    let block := (regOpVal c a).toNat
    if (s.issThr c).latch.length == 3 * count.toNat || (mcasEntries s c count.toNat block).isNone then []
    else match winOf block with
      | .clu o => (List.range (3 * count.toNat)).map fun i => bankOfKey (spadKey (clusterOf c.core) (o + 8 * i))
      | _ => []
  | _ => []

/-- The read of an MCAS block meets a bank conflict (R18). -/
def blockHeld (s : State) (c : Issue) (i : Instr) : Bool :=
  (rangesTrap s (issWho s c) i (cmdRanges (cmdOps c i) i)).isNone && banksBusy s (clusterOf c.core) (threadPos s c.core) (blockBanks s c i)

/-- The fate of a bundle's operations together (R161, R199). -/
def fate (s : State) (c : Issue) (l : List Instr) : Fate :=
  let pend := (s.issThr c).pend
  match (l.flatMap regUse).find? fun r => pend.any fun p => p.1 == r with
  | some r => .token r
  | none =>
    if l.any (illegalNow s c) then .trap (Trap.simple 1 c.pc)
    else if l.any (rigHeld s c) || l.any (blockHeld s c) then .conflict
    else
      match firstSome (l.map fun i => match accessFate s c i with
        | some f => some f
        | none => if (hdrOf i).isSome then commandFate s c i else none) with
      | some f => f
      | none => match accumWait s c l with
        | some x => .accumulator x.1 x.2
        | none => if l.any (conflictOf s c) then .conflict else .go

/-- The special-function pipe accepts the bundle's operations (R18, R175). -/
def takeSfu (s : State) (c : Issue) (l : List Instr) : State :=
  let n := (l.filter usesSfu).length
  if n = 0 then s else s.modCore c.core fun k => { k with sfuFree := s.clk + 2 * n }

/-- Suspend the issuing thread on a translation miss; the bundle has had no effect (R207). -/
def suspendMiss (s : State) (c : Issue) (l : List Instr) (pages : List Nat) (access : Nat) : State :=
  let latch := match l.findSome? (rigIssue s c) with | some (key, seq, shape) => key :: seq :: shape | none => []
  ((suspend s c (.miss pages access)).modIssThr c fun t => { t with latch := latch }).closeIssue

/-- Suspend it until earlier matrix commands have completed; the bundle has had no effect. -/
def suspendAccum (s : State) (c : Issue) (n : Nat) (x : Bool) : State :=
  ((suspend s c (.accumulator n x)).modIssThr c fun t => { t with latch := [n, bit x] }).closeIssue

/-- A structural conflict: the turn is forfeited, and a fibre has not issued a bundle in it (R18, R32). -/
def forfeit (s : State) (c : Issue) : State :=
  let s := countEvent s c.core 2
  if c.entry.isSome then s.modCore c.core fun k => { k with count := k.count - 1 } else s

/-- Begin an operation: `k` is its effect once nothing stops the bundle. -/
def start (i : Instr) (s : State) (k : Issue → State → State) : Out :=
  match s.issue with
  | none => .fault .noBundle
  | some c =>
    if c.checked then .next (k c s)
    else
      match fate s c (i :: s.todo) with
      | .go =>
        let c' := { c with checked := true }
        .next (k c' (takeSfu { s with issue := some c' } c (i :: s.todo)))
      | .trap x => .next (takeTrap (condemnAt s c (i :: s.todo)) c x)
      | .token r => .next (suspend s c (.token r)).closeIssue
      | .miss va w => .next (suspendMiss s c (i :: s.todo) va w)
      | .accumulator n x => .next (suspendAccum s c n x)
      | .noTarget va pa a => .next (fatal s c.core (s.issThr c) (issTid c) 0x40 va a [pa]).closeIssue
      | .engine va words => .next (fatal (condemnAt s c (i :: s.todo)) c.core (s.issThr c) (issTid c) 0x48 va 3 words).closeIssue
      | .conflict => .next (forfeit s c).closeIssue

end Sys2Proof.Machine
end

