-- ==== Sys2Proof/Machine/Mem.lean ====
section
/-!
DEFINITION. Loads and stores on their way between a thread and the homes: forwarding from the store buffer (R89), local copies (R82,
R83), requests, the writing of destinations, and the performance of writes (R90, R101, R103).
-/
namespace Sys2Proof.Machine

/-! ## Store buffer and forwarding -/

/-- The byte as the youngest unsent store of the core that writes it leaves it, with the releases that this store carries (R89). -/
def forwardByte (s : State) (core pa : Nat) : Option (Byte × List RelMark) :=
  ((s.core core).sbuf.reverse.filterMap fun id => (s.reqs.find id).bind fun r => match r.kind with
    | .store b rel => (b.find? fun x => x.1 == pa).map fun x => (x.2, rel.toList ++ r.own)
    | _ => none).head?

def forwarded (s : State) (core pa n : Nat) : List (Nat × Byte) :=
  (List.range n).filterMap fun i => (forwardByte s core (pa + i)).map fun b => (pa + i, b.1)

/-- The releases of the stores that these bytes are forwarded from. -/
def forwardedMarks (s : State) (core pa n : Nat) : List RelMark :=
  ((List.range n).flatMap fun i => match forwardByte s core (pa + i) with | some b => b.2 | none => []).eraseDups

/-- A value with some of its bytes replaced. -/
def overlay (pa n v : Nat) (f : List (Nat × Byte)) : Nat :=
  ofBytes ((List.range n).map fun i => match f.find? fun x => x.1 == pa + i with
    | some x => x.2
    | none => BitVec.ofNat 8 (v >>> (8 * i)))

/-! ## Requests -/

def Req.blank (core uid : Nat) (parts : List (Nat × Nat × Nat)) (va pa n : Nat) (k : ReqKind) (st : Stage) (order : Nat) : Req :=
  { core := core, uid := uid, parts := parts, va := va, pa := pa, n := n, kind := k, stage := st, val := 0, marks := [], own := [], data := [],
    lineMarks := [], fwd := [], fwdMarks := [], later := [], laterMarks := [], poison := false, order := order, lid := none, actor := 0, index := 0, arrived := 0, arrClk := 0, readRank := 0,
    noFill := false, marked := false, remote := none, key := 0 }

/-- ENC and KEY of the translation that an access uses (R375, R445). -/
def keyTag (s : State) (core va : Nat) : Nat :=
  match winOf va, s.asidOf core with
  | .shared, some asid =>
    (match (s.core core).micro.find? fun e => tlbHit asid va e with
    | some e => if bitAt e.perm 2 then e.perm / 8 + 1 else 0
    | none => 0)
  | _, _ => 0

/-- A request of a thread. -/
def newReq (s : State) (core uid : Nat) (parts : List (Nat × Nat × Nat)) (va pa n : Nat) (k : ReqKind) (st : Stage)
    (fwd : List (Nat × Byte)) : Nat × State :=
  let t := (s.thrOf core uid).getD Thr.vacant
  let (id, s) := s.new
  let r0 : Req := Req.blank core uid parts va pa n k st id
  let r : Req := { r0 with fwd := fwd, fwdMarks := if fwd.isEmpty then [] else forwardedMarks s core pa n, own := t.fenceRel, lid := t.lid, actor := t.wid, index := t.recIdx - 1, key := keyTag s core va }
  (id, { s with reqs := s.reqs.put id r })

/-- The slice of a die whose visitor ways may hold a line homed on another die (R82). -/
def visitorSlice (die line : Nat) : Nat := die * 48 + sliceOf (64 * line) % 48

/-- A `.lax` load of a line homed on another die looks in the visitor ways of its own die first (R82), and a write to one passes through
them (R409). -/
def looksInVisitor (r : Req) : Bool :=
  (match r.kind with | .load true | .store _ _ | .atomic _ _ | .take _ _ => true | _ => false) &&
    pwinOf r.pa == .hbm && sliceOf r.pa / 48 != dieOf r.core && dieOf r.core < 6

/-- Send a request to the home of its bytes, or to the slice of its own die that it passes first. -/
def sendReq (s : State) (id : Nat) : State :=
  match s.reqs.find id with
  | none => s
  | some r =>
    if looksInVisitor r then
      sendMsg (s.modReq id fun r => { r with stage := .sentVis }) .request (.core r.core) (.slice (visitorSlice (dieOf r.core) (lineOf r.pa))) 0 (.req id)
    else sendMsg (s.modReq id fun r => { r with stage := .sent }) .request (.core r.core) (homeNode s r.pa) 0 (.req id)

/-! ## Copies (R82, R83) -/

/-- A rank of a line's latest write (R88). -/
def lastWriteOf (s : State) (line : Nat) : Nat := (s.lastWrite.find line).getD 0

/-- The copy has not been set aside (R96), and is not older than a write that it must not miss: nothing has been written since it was read, or
it was read after the thread's floors (R100, R102). -/
def copyUsable (s : State) (floor line : Nat) (c : Copy) : Bool :=
  floor ≤ c.filled && (lastWriteOf s c.line < c.read || (floor ≤ c.read && line ≤ c.read))

/-- The core's own copy of a line that this thread may use, unless it has been replaced. -/
def localCopy (s : State) (core : Nat) (t : Thr) (pa : Nat) : Option Copy × State :=
  match (s.core core).cache.find? fun c => c.line == lineOf pa && copyUsable s t.locFloor ((t.lineFloors.find (lineOf pa)).getD 0) c with
  | none => (none, s)
  | some c =>
    let (gone, s) := s.freeBoolOf
    if gone then (none, s.modCore core fun k => { k with cache := k.cache.filter fun x => x.line != lineOf pa })
    else (some c, s)

def copyVal (c : Copy) (pa n : Nat) : Nat := ofBytes ((List.range n).map fun i => c.data.getD (pa % 64 + i) 0)

def patchData (d : List Byte) (l : List (Nat × Byte)) (line : Nat) : List Byte :=
  l.foldl (fun d x => if lineOf x.1 == line then d.set (x.1 % 64) x.2 else d) d

/-- The later of two values of a byte stands. -/
def laterBytes (old new : List (Nat × Byte)) : List (Nat × Byte) := (old.filter fun x => !new.any fun y => y.1 == x.1) ++ new

/-- A reply that this request is to bring could hold a value older than a write of the core issued after it. -/
def refills (k : ReqKind) : Bool := match k with | .load _ | .watch | .pref true => true | _ => false

/-- A store or atomic issued by the core, with the releases that it carries, updates its copy of the line (R83), and what replies on their
way are to bring into one. -/
def updateCopy (s : State) (core : Nat) (l : List (Nat × Byte)) (ms : List RelMark) : State :=
  match l with
  | [] => s
  | x :: _ =>
    let note := fun q : Req =>
      if q.core == core && lineOf q.pa == lineOf x.1 && refills q.kind then
        { q with later := laterBytes q.later l, laterMarks := markBytes q.laterMarks l ms }
      else q
    let s : State := { s with reqs := s.reqs.map fun (y : Nat × Req) => (y.1, note y.2) }
    s.modCore core fun k =>
      { k with cache := k.cache.map fun (c : Copy) =>
          if c.line == lineOf x.1 then { c with data := patchData c.data l c.line, marks := markBytes c.marks l ms } else c }

/-- Bytes of the local cache (R71): the units that are neither private nor treelet store. -/
def cacheLines (lsplit : Nat) : Nat := (24 - privUnits lsplit - treeUnits lsplit) * 256

/-- Fill the core's local cache with a line as it stood at the read of rank n, the oldest copy giving way. The copy counts as filled now. -/
def fillLocal (s : State) (core line n : Nat) (d : List Byte) (ms : Map (Nat × List RelMark)) : State :=
  let (now, s) := s.new
  s.modCore core fun k =>
    let room := cacheLines k.lsplit
    let l := k.cache.filter fun c => c.line != line
    if room = 0 then k
    else { k with cache := (if room ≤ l.length then l.drop 1 else l) ++ [{ line := line, data := d, filled := now, read := n, marks := ms }] }

/-! ## Destinations -/

def destVal (d : Dest) (v : Nat) : Nat :=
  match d with
  | .scalar _ n signed => if signed then ofSigned 64 (toSigned (8 * n) v) else v % 256 ^ n
  | _ => v

/-- Elements replaced in a register. -/
def putElems (w : Nat) (old : VReg) (l : List (Nat × Nat)) : VReg :=
  vregOf w ((List.range (numElems w)).map fun k => match l.find? fun x => x.1 == k with
    | some x => x.2
    | none => elem w old k)

/-- Write what a load returned to the thread of this uid: values by element. -/
def writeDest (s : State) (core uid : Nat) (d : Dest) (got : List (Nat × Nat)) : State :=
  match d with
  | .none => s
  | .scalar r _ _ => match got with
    | [] => s
    | x :: _ => s.setRegUid core uid r (word (destVal d x.2))
  | .vector vd w => s.modWaveUid core uid fun x =>
    waveSetV x vd (putElems w (if h : vd < 32 then x.v[vd]'h else 0) got)

/-- The same for the issuing thread. -/
def writeDestHere (s : State) (c : Issue) (d : Dest) (got : List (Nat × Nat)) : State :=
  match d with
  | .none => s
  | .scalar r _ _ => match got with
    | [] => s
    | x :: _ => s.setReg c r (word (destVal d x.2))
  | .vector vd w => s.modIssWave c fun x => waveSetV x vd (putElems w (if h : vd < 32 then x.v[vd]'h else 0) got)

/-! ## Poison (R446) -/

/-- A thread consumed a poisoned word: its launch ends as with a fatal record, and none is written; a supervisor thread is
halted. -/
def consumePoison (s : State) (core uid : Nat) : State :=
  match s.thrOf core uid with
  | none => s
  | some t => match t.lid with
    | some l => killLaunch (removeThr s core uid) l
    | none => removeThr s core uid

/-! ## A load of several accesses -/

/-- What a load has so far: values by element, elements that need a request, requests sent, and the releases of the bytes read. -/
structure LoadAcc where
  got : List (Nat × Nat)
  out : List (Nat × Acc × Nat)
  reqs : List Nat
  bad : Bool
  marks : List (List RelMark)

def LoadAcc.empty : LoadAcc := { got := [], out := [], reqs := [], bad := false, marks := [] }

/-- The releases of the bytes of a read that were not forwarded. -/
def marksBut (m : Map (Nat × List RelMark)) (pa n : Nat) (f : List (Nat × Byte)) : List RelMark :=
  marksIn (dropMarks m f) pa n

/-- One access of a load, element idx: at once from a near place or from a local copy (R206); else it is left for a request. -/
def loadOne (c : Issue) (t : Thr) (lax : Bool) (x : State × LoadAcc) (e : Nat × Acc × Place) : State × LoadAcc :=
  let (s, r) := x
  let (idx, a, p) := e
  match p with
  | .ident o => (s, { r with got := r.got ++ [(idx, tcmGet s c.core t o a.n)] })
  | .near key =>
    if nearLoadWaits s c.core t.uid a.va key a.n then (s, { r with out := r.out ++ [(idx, a, key)] })
    else (s, { r with got := r.got ++ [(idx, memGet s.mem key a.n)], bad := r.bad || poisoned s key a.n, marks := r.marks ++ [marksAt s key a.n] })
  | .far pa =>
    if lax && pwinOf pa == .hbm && !heldByCmd s t.uid a.va a.n s.fresh && !heldByAtomic s c.core pa s.fresh then
      let (cp, s) := localCopy s c.core t pa
      match cp with
      | some cp =>
        let f := forwarded s c.core pa a.n
        (s, { r with got := r.got ++ [(idx, overlay pa a.n (copyVal cp pa a.n) f)],
                     marks := r.marks ++ [marksBut cp.marks pa a.n f ++ forwardedMarks s c.core pa a.n] })
      | none => (s, { r with out := r.out ++ [(idx, a, pa)] })
    else (s, { r with out := r.out ++ [(idx, a, pa)] })

/-- The accesses of one line. -/
def sameLine (l : List (Nat × Acc × Nat)) (pa : Nat) : List (Nat × Acc × Nat) := l.filter fun x => lineOf x.2.2 == lineOf pa

/-- One request for each line, with every element that lies in it: they share one read instant (R254). A load that waits for a command
of its thread, or for an atomic, takes nothing from the store buffer: its stores there precede that one or wait behind it (R108, R217). -/
def sendLoads (c : Issue) (t : Thr) (lax : Bool) : Nat → List (Nat × Acc × Nat) → State → List Nat → State × List Nat
  | 0, _, s, ids => (s, ids)
  | _, [], s, ids => (s, ids)
  | fuel + 1, (idx, a, pa) :: l, s, ids =>
    let grp := sameLine ((idx, a, pa) :: l) pa
    let lo := grp.foldl (fun m x => Nat.min m x.2.2) pa
    let hi := grp.foldl (fun m x => Nat.max m (x.2.2 + x.2.1.n)) (pa + a.n)
    let va := grp.foldl (fun m x => Nat.min m x.2.1.va) a.va
    let (id, s) := newReq s c.core t.uid (grp.map fun x => (x.1, x.2.2, x.2.1.n)) va lo (hi - lo)
      (.load (lax && pwinOf pa == .hbm)) .buffered
      (if heldByCmd s t.uid va (hi - lo) s.fresh || heldByAtomic s c.core lo s.fresh then [] else forwarded s c.core lo (hi - lo))
    sendLoads c t lax fuel (l.filter fun x => lineOf x.2.2 != lineOf pa) (sendReq s id) (ids ++ [id])

def loadAll (c : Issue) (t : Thr) (lax : Bool) (s : State) (l : List (Nat × Acc × Place)) : State × LoadAcc :=
  let (s, r) := l.foldl (loadOne c t lax) (s, LoadAcc.empty)
  let (s, ids) := sendLoads c t lax r.out.length r.out s []
  (s, { r with reqs := ids })

/-- A load has read writes with these releases: those of FENCEs wait for a FENCE.acq of its thread (R99). -/
def noteFences (ms : List (List RelMark)) (t : Thr) : Thr :=
  let l := ms.flatten.filter (·.fence)
  if l.isEmpty then t else { t with fenceSeen := (t.fenceSeen ++ l).eraseDups }

/-- What a load that has read writes with these releases does at its end to its thread, and whether its core counts a scope miss. -/
def loadEnds (s : State) (core : Nat) (acq : Option Acq) (marks : List (List RelMark)) : (Thr → Thr) × Bool :=
  match acq with
  | none => (noteFences marks, false)
  | some a =>
    let rs := (if marks.isEmpty then [[]] else marks).map fun m => acquireOutcome s core a (m.filter fun x => !x.fence)
    (fun t => rs.foldl (fun t r => match r.1 with | some f => f t | none => t) (noteFences marks t), rs.any (·.2))

/-- The end of a load of a thread, and of its acquire if it is one (R212). -/
def acquireMarks (s : State) (core uid : Nat) (acq : Option Acq) (marks : List (List RelMark)) : State :=
  let r := loadEnds s core acq marks
  (if r.2 then countScopeMiss s core else s).modThr core uid r.1

/-- The same for a load that ends at its issue. -/
def acquireLocal (s : State) (c : Issue) (acq : Option Nat) (marks : List (List RelMark)) : State :=
  let r := loadEnds s c.core (acq.map (acqOf s c.core)) marks
  (if r.2 then countScopeMiss s c.core else s).modIssThr c r.1

/-- Finish a load: the destination now when every part is there (short, R206), else the thread waits for the replies. -/
def finishLoad (c : Issue) (t : Thr) (s : State) (r : LoadAcc) (d : Dest) (acq : Option Nat) : State :=
  if r.bad then (consumePoison s c.core t.uid).closeIssue
  else
    match r.reqs with
    | [] => retire (acquireLocal (writeDestHere s c d r.got) c acq r.marks)
    | _ => retireInto (countEvent s c.core 4) (.access r.reqs r.got d (acq.map (acqOf s c.core)) r.marks)

/-- A scalar load (R210, R212). -/
def scalarLoad (i : Instr) (d : Dest) (lax : Bool) (acq : Option Nat) (s : State) : Out :=
  start i s fun c s =>
    let w := issWho s c
    match accessesOf s c i with
    | some (k, l) =>
      match checkAll s w k l with
      | .ok pl =>
        let s := useBanks s (clusterOf c.core) (threadPos s c.core) (banksOf (pl.map (·.2)))
        let (s, r) := loadAll c w.t lax (noteAccess s c) (pl.map fun x => (0, x.1, x.2))
        finishLoad c w.t s r d acq
      | _ => s
    | none => s

/-! ## Stores -/

/-- Append a store-buffer entry (R208). -/
def pushStore (s : State) (core uid va : Nat) (l : List (Nat × Byte)) (rel : Option RelMark) : State :=
  match l with
  | [] => s
  | x :: _ =>
    let (id, s) := newReq s core uid [] va x.1 l.length (.store l rel) .buffered []
    updateCopy (s.modCore core fun k => { k with sbuf := k.sbuf ++ [id] }) core l
      (rel.toList ++ match s.thrOf core uid with | some t => t.fenceRel | none => [])

/-- A store to a local window performs at issue (R90), with the releases that it carries. -/
def storeNear (s : State) (core : Nat) (l : List (Nat × Byte)) (ms : List RelMark) : State :=
  match l with
  | [] => s
  | x :: _ =>
    if x.1 < 2 ^ 47 then putMarks (performBytes s core l) core l ms
    else { s with mem := memPutAll s.mem l, poison := l.foldl (fun p b => cleanByte p b.1) s.poison, marks := markBytes s.marks l ms }

/-- A scalar store (R210). -/
def scalarStore (i : Instr) (n : Nat) (sd : BitVec 6) (s : State) : Out :=
  start i s fun c s =>
    let w := issWho s c
    match accessesOf s c i with
    | some (k, l) =>
      match checkAll s w k l with
      | .ok ((a, p) :: _) =>
        let v := (c.reg sd.toNat).toNat
        let s := useBanks (noteAccess s c) (clusterOf c.core) (threadPos s c.core) (banksOf [p])
        (match p with
        | .near key =>
          if nearStoreWaits s c.core w.t.uid a.va key n then
            retire (pushStore s c.core w.t.uid a.va (bytesOf key v n) none)
          else retire (storeNear s c.core (bytesOf key v n) w.t.fenceRel)
        | .far pa => retire (pushStore s c.core w.t.uid a.va (bytesOf pa v n) none)
        | .ident _ => s)
      | _ => s
    | none => s

end Sys2Proof.Machine
end

