-- ==== Sys2Proof/Machine/Tlb.lean ====
section
/-!
DEFINITION. The two TLBs: look-up in the cluster TLB, filling and replacement (14 R373-R375). How the 512 sets are indexed and how
the micro-TLB replaces is not given: notes/assumptions/22.md.
-/
namespace Sys2Proof.Machine

def sizeBytes (code : Nat) : Nat := match code % 4 with | 0 => 0x1000 | 1 => 0x10000 | 2 => 0x200000 | _ => 0x40000000

def sameEntry (a b : Tlb) : Bool := a.asid == b.asid && a.vbase == b.vbase && a.size == b.size

/-- Entries of the micro-TLB after a fill: 64 at most, the oldest giving way. -/
def microPut (l : List Tlb) (e : Tlb) : List Tlb :=
  let l := l.filter fun x => !sameEntry x e
  (if 64 ≤ l.length then l.drop 1 else l) ++ [e]

def tlbSet (e : Tlb) : Nat := e.vbase / e.size % 512

/-- Entries of the cluster TLB after an insertion: eight in a set, the least recently used giving way. -/
def clusterPut (l : List Tlb) (e : Tlb) : List Tlb :=
  let l := l.filter fun x => !sameEntry x e
  let set := l.filter fun x => tlbSet x == tlbSet e
  if 8 ≤ set.length then
    let old := set.foldl (fun m x => Nat.min m x.age) (set.headD e).age
    (l.filter fun x => !(tlbSet x == tlbSet e && x.age == old)) ++ [e]
  else l ++ [e]

/-- The entry of the cluster TLB that an access hits, permissions included (R374). -/
def clusterLook (s : State) (core va : Nat) (write user : Bool) : Option Tlb :=
  (s.asidOf core).bind fun asid =>
    (s.cluster (clusterOf core)).tlb.find? fun e => tlbHit asid va e && tlbPerm write user e

/-- Copy the entry into the micro-TLB; the cluster TLB counts it as used. -/
def microFill (s : State) (core : Nat) (e : Tlb) : State :=
  let (n, s) := s.new
  let e' := { e with age := n }
  (s.modCore core fun k => { k with micro := microPut k.micro e' }).modCluster (clusterOf core) fun q =>
    { q with tlb := q.tlb.map fun x => if sameEntry x e then e' else x }

/-- The translation of PREF and of engine prefetches: micro-TLB, then cluster TLB; none drops the access. -/
def prefLook (s : State) (w : Who) (k : AccKind) (va : Nat) : Option Nat × State :=
  match lookup s w k va with
  | .hit pa => (some pa, s)
  | .miss =>
    match clusterLook s w.core va k.writes (!w.t.sup) with
    | none => (none, s)
    | some e => (some (ownPa s (e.pbase + (va - e.vbase))), microFill s w.core e)

end Sys2Proof.Machine
end

