-- ==== Sys2Proof/Machine/MemInstr.lean ====
section
/-!
DEFINITION. Meanings of the scalar loads and stores, LDA, STL, PREF, WAITLINE and FENCE (06 R193; 07 R205-R214, R219; 03 R95-R98),
and what a thread does once its release waits are over.
-/
namespace Sys2Proof.Machine

/-- LDB (R210). -/
def execLdb (sd sa : BitVec 6) (y : Opb) (lax : Bool) (s : State) : Out :=
  scalarLoad (.ldb sd sa y lax) (.scalar sd.toNat 1 true) lax none s
/-- LDBN (R210). -/
def execLdbn (sd sa : BitVec 6) (y : Opb) (lax : Bool) (s : State) : Out :=
  scalarLoad (.ldbn sd sa y lax) (.scalar sd.toNat 1 false) lax none s
/-- LDH (R210). -/
def execLdh (sd sa : BitVec 6) (y : Opb) (lax : Bool) (s : State) : Out :=
  scalarLoad (.ldh sd sa y lax) (.scalar sd.toNat 2 true) lax none s
/-- LDHN (R210). -/
def execLdhn (sd sa : BitVec 6) (y : Opb) (lax : Bool) (s : State) : Out :=
  scalarLoad (.ldhn sd sa y lax) (.scalar sd.toNat 2 false) lax none s
/-- LDW (R210). -/
def execLdw (sd sa : BitVec 6) (y : Opb) (lax : Bool) (s : State) : Out :=
  scalarLoad (.ldw sd sa y lax) (.scalar sd.toNat 4 true) lax none s
/-- LDWN (R210). -/
def execLdwn (sd sa : BitVec 6) (y : Opb) (lax : Bool) (s : State) : Out :=
  scalarLoad (.ldwn sd sa y lax) (.scalar sd.toNat 4 false) lax none s
/-- LDD (R210). -/
def execLdd (sd sa : BitVec 6) (y : Opb) (lax : Bool) (s : State) : Out :=
  scalarLoad (.ldd sd sa y lax) (.scalar sd.toNat 8 false) lax none s
/-- LDA (R212): a fresh load with an acquire at its reply. -/
def execLda (sd sa : BitVec 6) (y : Opb) (scope : BitVec 4) (s : State) : Out :=
  scalarLoad (.lda sd sa y scope) (.scalar sd.toNat 8 false) false (some scope.toNat) s

/-- STB (R210). -/
def execStb (sd sa : BitVec 6) (y : Opb) (s : State) : Out := scalarStore (.stb sd sa y) 1 sd s
/-- STH (R210). -/
def execSth (sd sa : BitVec 6) (y : Opb) (s : State) : Out := scalarStore (.sth sd sa y) 2 sd s
/-- STW (R210). -/
def execStw (sd sa : BitVec 6) (y : Opb) (s : State) : Out := scalarStore (.stw sd sa y) 4 sd s
/-- STD (R210). -/
def execStd (sd sa : BitVec 6) (y : Opb) (s : State) : Out := scalarStore (.std sd sa y) 8 sd s

/-! ## Release waits (R95) -/

/-- A local release store of a thread performs, in a pass of its bank (R75), with its mark (R101, R213). -/
def storeRelease (s : State) (core uid : Nat) (l : List (Nat × Byte)) (m : RelMark) : State :=
  let s := useBanks s (clusterOf core) (threadPos s core) (banksOf (l.map fun x => .near x.1)).eraseDups
  storeNear s core l (m :: match s.thrOf core uid with | some t => t.fenceRel | none => [])

/-- Send the reservation requests of an atomic, one for each group (R216, R256). -/
def sendAtomics (s : State) (core uid : Nat) (groups : List (Nat × List (Nat × Nat × Nat) × List AtomFn)) (rel : Option RelMark) :
    State × List Nat :=
  groups.foldl (fun (x : State × List Nat) g =>
    match g.2.1 with
    | [] => x
    | p :: _ =>
      let (id, s) := newReq x.1 core uid g.2.1 g.1 p.2.1 p.2.2 (.atomic g.2.2 rel) .buffered []
      (sendReq s id, x.2 ++ [id])) (s, [])

/-- Start an atomic's groups: the thread waits for their replies. -/
def beginAtomics (s : State) (core uid : Nat) (groups : List (Nat × List (Nat × Nat × Nat) × List AtomFn)) (d : Dest)
    (acq : Option Acq) (rel : Option RelMark) : State :=
  let (s, ids) := sendAtomics s core uid groups rel
  s.modThr core uid fun t => { t with wait := .access ids [] d acq [] }

/-! ## STL, FENCE, PREF, WAITLINE -/

/-- STL (R213). -/
def execStl (sd sa : BitVec 6) (y : Opb) (scope : BitVec 4) (s : State) : Out :=
  start (.stl sd sa y scope) s fun c s =>
    let w := issWho s c
    let v := (c.reg sd.toNat).toNat
    let (lv, missed) := scopeLevel s c.core scope.toNat
    match accessesOf s c (.stl sd sa y scope) with
    | some (k, l) =>
      match checkAll s w k l with
      | .ok ((a, p) :: _) =>
        let m := markOf s c.core w.t scope.toNat false
        let s := noteAccess (if missed then countScopeMiss s c.core else s) c
        (match p with
        | .near key =>
          let l := bytesOf key v 8
          if lv.isWide then
            if writesOut s w.t.uid || nearStoreWaits s c.core w.t.uid a.va key 8 then
              retireInto (countEvent s c.core 4) (.release (.store l m))
            else retire (storeRelease s c.core w.t.uid l m)
          else
            if nearStoreWaits s c.core w.t.uid a.va key 8 then retire (pushStore s c.core w.t.uid a.va l (some m))
            else retire (storeRelease s c.core w.t.uid l m)
        | .far pa => retire (pushStore s c.core w.t.uid a.va (bytesOf pa v 8) (some m))
        | .ident _ => s)
      | _ => s
    | none => s

def ordAcq : Ord → Bool | .acq | .ar => true | _ => false
def ordRel : Ord → Bool | .rel | .ar => true | _ => false

/-- The acquire of a FENCE (R97, R99): it answers the FENCE.rels whose stores the thread's loads have read; those that it does not meet are
left for a later one. -/
def fenceAcquire (s : State) (c : Issue) (n : Nat) : State :=
  let a := acqOf s c.core n
  let r := acquireOutcome s c.core a (s.issThr c).fenceSeen
  let s := if r.2 then countScopeMiss s c.core else s
  s.modIssThr c fun t =>
    let u := match r.1 with | some f => f t | none => t
    { u with fenceSeen := t.fenceSeen.filter fun m => !marksMeet s c.core a m
             readFloor := if (levelOf s c.core n a.set).1.isWide then u.readFloor else t.readFloor }

/-- The FENCE.rels that a thread's stores carry, with one more, which takes the place of an earlier one of its scope. -/
def addFence (m : RelMark) (l : List RelMark) : List RelMark :=
  m :: l.filter fun x => !(x.scope == m.scope && x.core == m.core && x.set == m.set)

/-- The end of a FENCE: its release, and with FENCE.ar beyond core no later load reads before now (R97). -/
def fenceEnd (fresh : Nat) (rel wideAr : Bool) (m : RelMark) (t : Thr) : Thr :=
  { t with fenceRel := if rel then addFence m t.fenceRel else t.fenceRel
           readFloor := if wideAr then fresh else t.readFloor }

/-- FENCE (R97, R219): the acquire ends at issue; the release waits suspend the thread at level cluster and above, and at the end of
FENCE.ar's every earlier store has performed. -/
def execFence (o : Ord) (scope : BitVec 4) (s : State) : Out :=
  start (.fence o scope) s fun c s =>
    let t := s.issThr c
    let (lv, missed) := scopeLevel s c.core scope.toNat
    let done := !ordRel o || releaseDone s c.core t.uid scope.toNat
    let m := markOf s c.core t scope.toNat true
    let s := if ordAcq o then fenceAcquire s c scope.toNat
      else if missed then countScopeMiss s c.core else s
    if done then retire (s.modIssThr c (fenceEnd s.fresh (ordRel o) (o == .ar && lv.isWide) m))
    else retireInto (countEvent s c.core 4) (.release (.fence m (ordAcq o)))

/-- PREF (R214): no trap, no suspension; a copy fetched changes no value. -/
def execPref (sa : BitVec 6) (y : Opb) (lax : Bool) (s : State) : Out :=
  start (.pref sa y lax) s fun c s =>
    let w := issWho s c
    let va := (memAddr s c sa y).toNat
    if winOf va != .shared then retire s
    else
      let (pa, s) := prefLook s w .load va
      match pa with
      | none => retire s
      | some pa =>
        if pwinOf pa != .hbm then retire s
        else
          let (id, s) := newReq s c.core 0 [] va (pa / 64 * 64) 64 (.pref lax) .buffered []
          retire (sendReq s id)

/-- WAITLINE (R193): a fresh load, long even where the store buffer holds all its bytes (R206); the thread waits until it differs from opb. -/
def execWaitline (sd sa : BitVec 6) (b : BitVec 8) (s : State) : Out :=
  start (.waitline sd sa b) s fun c s =>
    let w := issWho s c
    let other := selVal s c b
    match accessesOf s c (.waitline sd sa b) with
    | some (k, l) =>
      match checkAll s w k l with
      | .ok ((a, .far pa) :: _) =>
        let f := if heldByCmd s w.t.uid a.va 8 s.fresh || heldByAtomic s c.core pa s.fresh then [] else forwarded s c.core pa 8
        let s := noteAccess s c
        let (id, s) := newReq s c.core w.t.uid [(0, pa, 8)] a.va pa 8 .watch .buffered f
        retireInto (countEvent (sendReq s id) c.core 4) (.waitline sd.toNat (word a.va) pa other (some id))
      | _ => s
    | none => s

end Sys2Proof.Machine
end

