-- ==== Sys2Proof/Machine/Record.lean ====
section
/-!
DEFINITION. Recording and replay of one launch's HBM accesses (14 R396-R400): what each home appends to the undo log and the order log,
and which accesses a replay holds.
-/
namespace Sys2Proof.Machine

def recLevel (r : Part) : Nat := bits r.reccfg.toNat 1 0
def recPhase (r : Part) : Nat := bits r.recstat 1 0
def ordUsed (r : Part) : Nat := bits r.recstat 63 32
def undoUsed (r : Part) : Nat := bits r.recstat 31 5
def setRecPhase (r : Part) (n : Nat) : Part := { r with recstat := setBits r.recstat 1 0 n }

/-- KIND of Table 14.18. -/
def recKind : ReqKind → Nat
  | .load _ | .watch | .pref _ => 0
  | .store _ _ => 1
  | .atomic _ _ => 2
  | .take _ mcas => if mcas then 5 else 3
  | .eng _ | .fill _ | .paging _ => 4

/-- The undo entry of a line's first write (R397), and the mark. -/
def appendUndo (s : State) (p line : Nat) : State :=
  let r := s.part p
  if r.marked.contains line || !(recPhase r == 1 || recPhase r == 2) then s
  else
    let n := undoUsed r
    if r.undosize ≤ n then s.setPart p (setRecPhase r 3)
    else
      let a := r.undobase.toNat + 128 * n
      let old := (List.range 8).map fun i => memGet s.mem (64 * line + 8 * i) 8
      let s := devicePut s a ([64 * line, 0, 0, 0, 0, 0, 0, 0] ++ old)
      let r := { r with recstat := setBits r.recstat 31 5 (n + 1), marked := r.marked ++ [line] }
      s.setPart p (if n + 1 = r.undosize then setRecPhase r 3 else r)

/-- An order-log entry (Table 14.18). -/
def appendOrder (s : State) (p kind line actor index : Nat) : State :=
  let r := s.part p
  if recLevel r != 2 || recPhase r != 1 then s
  else
    let n := ordUsed r
    if r.recsize ≤ n then s.setPart p (setRecPhase r 2)
    else
      let s := devicePut s (r.recbase.toNat + 32 * n) [kind + 64 * line, actor, index % 2 ^ 32, 0]
      let r := { r with recstat := setBits r.recstat 63 32 (n + 1) }
      s.setPart p (if n + 1 = r.recsize then setRecPhase r 2 else r)

/-! ## Replay (R400) -/

/-- Entry i of the log to replay: KIND, line, ACTOR, INDEX. -/
def logEntry (s : State) (r : Part) (i : Nat) : Nat × Nat × Nat × Nat :=
  let a := r.recbase.toNat + 32 * i
  let d := memGet s.mem a 8
  (bits d 2 0, bits d 46 6, memGet s.mem (a + 8) 8, memGet s.mem (a + 16) 4)

/-- Entries of the log that name a line, and those not matched yet. -/
def logOf (s : State) (r : Part) (line : Nat) : List Nat :=
  (List.range r.recsize).filter fun i => (logEntry s r i).2.1 == line
def logLeft (s : State) (r : Part) (line : Nat) : List Nat := (logOf s r line).filter fun i => !r.recTaken.contains i

/-- The access waits for earlier logged events of its line. -/
def replayHolds (s : State) (lid : Option Nat) (kind line actor index : Nat) : Bool :=
  (List.range 6).any fun p =>
    let r := s.part p
    recLevel r == 3 && recPhase r == 1 && lid.isSome && lid == r.recLaunch &&
    (let l := logLeft s r line
     l.any (fun i => logEntry s r i == (kind, line, actor, index)) &&
     match l with | i :: _ => logEntry s r i != (kind, line, actor, index) | [] => false)

/-- The access performs: it matches the next entry of its line, or the replay has diverged. -/
def replayStep (s : State) (p kind line actor index : Nat) : State :=
  let r := s.part p
  if (logOf s r line).isEmpty then s
  else
    match (logLeft s r line).find? fun i => logEntry s r i == (kind, line, actor, index) with
    | some i =>
      let n := ordUsed r + 1
      let r := { r with recTaken := r.recTaken ++ [i], recstat := setBits r.recstat 63 32 n }
      s.setPart p (if r.recsize ≤ n then setRecPhase r 2 else r)
    | none => s.setPart p (setRecPhase { r with recstat := r.recstat ||| 16 } 2)

/-! ## An access performs at its home -/

/-- What the recording of each partition makes of it. -/
def recordAccess (s : State) (lid : Option Nat) (kind line actor index : Nat) (write : Bool) : State :=
  (List.range 6).foldl (fun s p =>
    let r := s.part p
    if r.recLaunch.isNone || bitAt r.recstat 2 then s
    else if lid == r.recLaunch then
      let s := if write then appendUndo s p line else s
      let s := if recLevel r == 3 && recPhase r == 1 then replayStep s p kind line actor index else s
      if write || (s.part p).marked.contains line then appendOrder s p kind line actor index else s
    else if write && r.marked.contains line && recLevel r == 2 && recPhase r == 1 then
      (appendOrder s p 6 line 0 0).modPart p fun r => { r with recstat := r.recstat ||| 8 }
    else s) s

/-- The launch's accesses are being logged or replayed: each home serves them in its line's order, with the line's latest value. -/
def logging (s : State) (lid : Option Nat) : Bool :=
  (List.range 6).any fun p =>
    let r := s.part p
    lid.isSome && r.recLaunch == lid && 2 ≤ recLevel r && recPhase r == 1 && !bitAt r.recstat 2

/-- An agent outside the recorded launch writes a line (R398). -/
def recordForeign (s : State) (line : Nat) : State := recordAccess s none 6 line 0 0 true

def recordReq (s : State) (r : Req) (write : Bool) : State :=
  match pwinOf r.pa with
  | .hbm => recordAccess s r.lid (recKind r.kind) (lineOf r.pa) r.actor.toNat r.index write
  | _ => s

def replayHoldsReq (s : State) (r : Req) : Bool :=
  pwinOf r.pa == .hbm && replayHolds s r.lid (recKind r.kind) (lineOf r.pa) r.actor.toNat r.index

/-! ## The checkpoint (R396) -/

/-- RECORD_CHECKPOINT: the acceptance of the launch that RECCFG names. -/
def recordCheckpoint (s : State) (p lid launchid : Nat) (fibres : Bool) : State :=
  let r := s.part p
  let lv := recLevel r
  if lv == 0 || bits r.reccfg.toNat 63 32 != launchid then s
  else s.setPart p { r with recstat := if lv == 1 || fibres then 2 else 1, marked := [], recLaunch := some lid, recTaken := [] }

/-- The recorded launch has completed (R399). -/
def recordDone (s : State) (p lid : Nat) : State :=
  s.modPart p fun r => if r.recLaunch == some lid then { r with recstat := r.recstat ||| 4 } else r

/-- The first fibre that the recorded launch creates ends order logging (R398). -/
def recordFibre (s : State) (lid : Option Nat) : State :=
  (List.range 6).foldl (fun s p =>
    let r := s.part p
    if lid.isSome && r.recLaunch == lid && recPhase r == 1 then s.setPart p (setRecPhase r 2) else s) s

end Sys2Proof.Machine
end

