-- ==== Sys2Proof/Machine/Stay.lean ====
section
/-!
DEFINITION. The stay fabric's delivery contexts (15 R428-R430): sending, acknowledging, resending, and what a failed context ends.
-/
namespace Sys2Proof.Machine

def State.modCtx (s : State) (id : Nat) (f : StayCtx → StayCtx) : State :=
  match s.stayCtx.find id with | some c => { s with stayCtx := s.stayCtx.put id (f c) } | none => s
/-- The last burst number used for a destination, class and lane. -/
def lastBurst (s : State) (dst : Nat) (reply : Bool) (lane : Nat) : Nat :=
  match s.stayBurst.find? fun x => x.1 == dst && x.2.1 == reply && x.2.2.1 == lane with | some x => x.2.2.2 | none => 0

/-- Send what a context may send: it opens when its port has one of its 512 contexts free, and holds at most 64 packets
unacknowledged (Table 15.10). -/
def pump : Nat → State → Nat → State
  | 0, s, _ => s
  | fuel + 1, s, id =>
    match s.stayCtx.find id with
    | none => s
    | some c =>
      match c.queue with
      | [] => s
      | (b, req) :: rest =>
        if !c.open_ then
          if 512 ≤ (s.stayCtx.filter fun x => x.2.open_ && x.2.port == c.port).length then s
          else
            let n := (lastBurst s c.dst c.reply c.lane + 1) % 2 ^ 32
            let others := s.stayBurst.filter fun x => !(x.1 == c.dst && x.2.1 == c.reply && x.2.2.1 == c.lane)
            let s : State := { s with stayBurst := others ++ [(c.dst, c.reply, c.lane, n)], mgmt := { s.mgmt with idleSince := none } }
            let s := s.modCtx id fun c => { c with open_ := true, burst := n, next := 0 }
            sendOne s id c n 0 true b req rest fuel
        else if 64 ≤ c.unacked.length then s
        else sendOne s id c c.burst c.next false b req rest fuel
where
  /-- One packet leaves on the context's port. -/
  sendOne (s : State) (id : Nat) (c : StayCtx) (burst seq : Nat) (first : Bool) (b : StayBody) (req : Option Nat)
      (rest : List (StayBody × Option Nat)) (fuel : Nat) : State :=
    let p : StayPacket := { src := s.fabnum, lane := c.lane, burst := burst, seq := seq, start := first, body := b }
    let s := s.modCtx id fun c =>
      { c with queue := rest, next := (seq + 1) % 2 ^ 16, active := s.clk,
               unacked := c.unacked ++ [{ pkt := p, sent := s.clk, resends := 0, req := req }] }
    pump fuel (emit s [.packet c.port c.dst p]) id

/-- Send a packet to package `dst` about a line, in the context of its class and lane. -/
def staySend (s : State) (dst : Nat) (reply : Bool) (pa : Nat) (b : StayBody) (req : Option Nat) : State :=
  let lane := laneTo s dst pa
  let (id, s) := match s.stayCtx.find? fun x => x.2.dst == dst && x.2.reply == reply && x.2.lane == lane with
    | some x => (x.1, s)
    | none =>
      let (n, s) := s.new
      (n, { s with stayCtx := s.stayCtx.put n { dst := dst, reply := reply, lane := lane, port := portTo s dst pa, tried := [], burst := 0,
                                                next := 0, open_ := false, unacked := [], queue := [], active := s.clk } })
  let s := s.modCtx id fun c => { c with queue := c.queue ++ [(b, req)] }
  pump ((s.stayCtx.find id).elim 0 fun c => c.queue.length) s id

/-- The host's place among the packages that make requests. -/
def hostPkg : Nat := 64

/-- Answer a request that another package or the host made. A read of poisoned bytes brings the host none. -/
def answerRemote (s : State) (r : Req) (data : List Byte) : State :=
  match r.remote with
  | none => s
  | some (q, tag) =>
    if q == hostPkg then
      emit s [.host r.pa (match r.kind with | .store _ _ => some [] | _ => if data.isEmpty then none else some data)]
    else staySend s q true r.pa (.reply tag data) none

/-! ## What a request's failure ends -/

/-- The command of a request, among those running on its core. -/
def cmdOfReq (s : State) (r : Req) : Option Cmd :=
  match r.kind with
  | .eng n | .take n _ => (s.core r.core).running.find? fun c => c.num == n
  | _ => none

/-- A thread that stands for a command: what ending its launch, or halting it, needs. -/
def cmdThr (c : Cmd) : Thr := { Thr.vacant with uid := c.uid, lid := c.lid, sup := c.sup }

/-- A running command goes. -/
def dropCmd (s : State) (core num : Nat) : State :=
  let drop := fun m : MatCtx => { m with queue := m.queue.filter fun x => x.num != num }
  s.modCore core fun k => { k with running := k.running.filter fun x => x.num != num, mat0 := drop k.mat0, mat1 := drop k.mat1 }.wakeAccum s.clk

/-- An access that cannot be made ends its launch with NOTARGET (R63, R424, R430); a supervisor's command goes with its thread (R345). -/
def failReq (s : State) (id : Nat) : State :=
  match s.reqs.find id with
  | none => s
  | some r =>
    let s0 := s
    let s := s.dropReq id
    match cmdOfReq s r, r.kind with
    | some c, k => dropCmd (fatal s r.core (cmdThr c) (tidWord 2 c.idx r.core) 0x40 r.va (match k with | .take _ _ => 4 | _ => 3) [r.pa]) r.core c.num
    | none, .fill l => fatal s r.core { Thr.vacant with lid := some l } (tidWord 2 0 r.core) 0x40 r.va 3 [r.pa]
    | none, .paging _ => s0.modReq id fun r => { r with stage := .replied, noFill := true, data := [] }
    | none, _ => match s.thrOf r.core r.uid with
      | some t => fatal s r.core t (tidOfUid s r.core r.uid 0) 0x40 r.va (if isWrite r.kind then 1 else 0) [r.pa]
      | none => if r.lid.isSome then fatal s r.core { Thr.vacant with lid := r.lid } 0 0x40 r.va (if isWrite r.kind then 1 else 0) [r.pa] else s

/-! ## Requests that leave by a stay port -/

/-- The bytes of a write as runs of consecutive addresses. -/
def runsAt : List (Nat × Byte) → List (Nat × List Byte)
  | [] => []
  | (a, b) :: l =>
    match runsAt l with
    | (a', d) :: r => if a + 1 = a' then (a, b :: d) :: r else (a, [b]) :: (a', d) :: r
    | [] => [(a, [b])]

def sortBytes (l : List (Nat × Byte)) : List (Nat × Byte) := l.foldl (fun m x => Map.put m x.1 x.2) []

/-- A request that leaves by a stay port becomes packets; `val` counts the replies it waits for. -/
def leaveByPort (s : State) (id : Nat) (r : Req) : State :=
  match pwinOf r.pa with
  | .stay q o =>
    let off := fun a : Nat => a - r.pa + o
    let write := fun l : List (Nat × Byte) =>
      let runs := runsAt (sortBytes l)
      runs.foldl (fun s x => staySend s q false r.pa (.write id (off x.1) x.2) (some id))
        (s.modReq id fun r => { r with val := runs.length })
    (match r.kind with
    | .store l _ => write l
    | .take _ _ => write r.fwd
    | .atomic f _ => staySend (s.modReq id fun r => { r with val := 1 }) q false r.pa (.atomic id o r.n f) (some id)
    | _ => staySend (s.modReq id fun r => { r with val := 1 }) q false r.pa (.read id o r.n) (some id))
  | _ => s

end Sys2Proof.Machine
end

