-- ==== Sys2Proof/Machine/Atomic.lean ====
section
/-!
DEFINITION. Atomics: their functions (Table 7.3), the meanings of the scalar atomics (07 R215-R217), and the line FIFOs.
-/
namespace Sys2Proof.Machine

/-- Table 7.3 on n bytes: the value written, none when nothing is. AMOF rounds to nearest even and raises no flag. -/
def atomApply (n : Nat) (f : AtomFn) (old : Nat) : Option Nat :=
  let w := 8 * n
  match f with
  | .amo k x =>
    let x := x % 2 ^ w
    some (match k with
      | .add => (old + x) % 2 ^ w
      | .and => old &&& x
      | .or => old ||| x
      | .xor => old ^^^ x
      | .min => if toSigned w x < toSigned w old then x else old
      | .max => if toSigned w old < toSigned w x then x else old
      | .minn => Nat.min old x
      | .maxn => Nat.max old x
      | .swap => x)
  | .amof k x =>
    let fm : Fmt := if n = 4 then .f32 else .f64
    some (match k with
      | .add => (fpAdd fm .rne old (x % 2 ^ w)).1
      | .min => (minMax fm false false old (x % 2 ^ w)).1
      | .max => (minMax fm true false old (x % 2 ^ w)).1)
  | .cas x y => if old == x % 2 ^ w then some (y % 2 ^ w) else none

/-- The functions of a group in turn: the value each observes, the value left, and whether any wrote (R256). -/
def atomAll (n : Nat) : List AtomFn → Nat → List Nat × Nat × Bool
  | [], t => ([], t, false)
  | f :: l, t =>
    let r := atomApply n f t
    let (olds, v, wr) := atomAll n l (r.getD t)
    (t :: olds, v, wr || r.isSome)

/-- An atomic that begins at its issue: its groups' requests leave, and its thread waits for them. -/
def issueAtomics (s : State) (core uid : Nat) (groups : List (Nat × List (Nat × Nat × Nat) × List AtomFn)) (d : Dest)
    (acq : Option Acq) (rel : Option RelMark) : State :=
  let (s, ids) := sendAtomics s core uid groups rel
  retireInto s (.access ids [] d acq [])

/-- A scalar atomic (R216). -/
def scalarAtomic (i : Instr) (sd : BitVec 6) (n : Nat) (o : Ord) (scope : Nat) (fn : Issue → AtomFn) (s : State) : Out :=
  start i s fun c s =>
    let w := issWho s c
    match accessesOf s c i with
    | some (k, l) =>
      match checkAll s w k l with
      | .ok ((a, .far pa) :: _) =>
        let uid := w.t.uid
        let g := [(a.va, [(0, pa, n)], [fn c])]
        let d := Dest.scalar sd.toNat n false
        let acq := if ordAcq o then some (acqOf s c.core scope) else none
        let rel := if ordRel o then some (markOf s c.core w.t scope false) else none
        let s := if ordRel o && !ordAcq o && (scopeLevel s c.core scope).2 then countScopeMiss s c.core else s
        let s := noteAccess (countEvent (countEvent s c.core 4) c.core 12) c
        if !ordRel o || releaseDone s c.core uid scope then issueAtomics s c.core uid g d acq rel
        else retireInto s (.release (.atomic g d acq rel))
      | _ => s
    | none => s

/-- AMO (R216). -/
def execAmo (sd sa vb : BitVec 6) (k : AmoKind) (o : Ord) (scope : BitVec 4) (s : State) : Out :=
  scalarAtomic (.amo sd sa vb k o scope) sd 8 o scope.toNat (fun c => .amo k (c.reg vb.toNat).toNat) s
/-- AMOW (R216). -/
def execAmow (sd sa vb : BitVec 6) (k : AmoKind) (o : Ord) (scope : BitVec 4) (s : State) : Out :=
  scalarAtomic (.amow sd sa vb k o scope) sd 4 o scope.toNat (fun c => .amo k (c.reg vb.toNat).toNat) s
/-- CAS (R216). -/
def execCas (sd sa vb vc : BitVec 6) (o : Ord) (scope : BitVec 4) (s : State) : Out :=
  scalarAtomic (.cas sd sa vb vc o scope) sd 8 o scope.toNat (fun c => .cas (c.reg vb.toNat).toNat (c.reg vc.toNat).toNat) s
/-- CASW (R216). -/
def execCasw (sd sa vb vc : BitVec 6) (o : Ord) (scope : BitVec 4) (s : State) : Out :=
  scalarAtomic (.casw sd sa vb vc o scope) sd 4 o scope.toNat (fun c => .cas (c.reg vb.toNat).toNat (c.reg vc.toNat).toNat) s
/-- AMOF (R216). -/
def execAmof (sd sa vb : BitVec 6) (k : AmofKind) (single : Bool) (o : Ord) (scope : BitVec 4) (s : State) : Out :=
  scalarAtomic (.amof sd sa vb k single o scope) sd (if single then 4 else 8) o scope.toNat
    (fun c => .amof k (c.reg vb.toNat).toNat) s

/-! ## A line's FIFO (R105, R109, R217, R218) -/

/-- A store performs at its home, with the releases that it carries. -/
def performStore (s : State) (r : Req) (l : List (Nat × Byte)) (rel : Option RelMark) : State :=
  putMarks (performBytes (recordReq s r true) r.core l) r.core l (rel.toList ++ r.own)

/-- The event of an atomic (R104): its group's functions are applied, and the last value written if any of them writes. It continues
the release sequence that it reads (R99). -/
def performAtomic (s : State) (r : Req) (f : List AtomFn) (rel : Option RelMark) : State :=
  let (_, v, wr) := atomAll r.n f (memGet s.mem r.pa r.n)
  let s := recordReq s r wr
  let l := bytesOf r.pa v r.n
  if wr then putMarks (performBytes s r.core l) r.core l (rel.toList ++ r.marks.filter fun m => !m.fence) else s

/-- An atomic of another package: it is granted and performs at this home, and its old value is the reply (R218). -/
def atomicRemote (s : State) (id : Nat) (r : Req) (f : List AtomFn) : State :=
  let r := { r with marks := marksAt s r.pa r.n }
  let old := memBytes s.mem r.pa r.n
  let bad := poisoned s r.pa r.n
  let s := if bad then s else performAtomic s r f none
  answerRemote (s.dropReq id) r (if bad then [] else old)

/-- Serve the head of a line's FIFO while it can be served at once: plain stores perform, the first reservation is granted. -/
def advanceFifo : Nat → State → Nat → State
  | 0, s, _ => s
  | fuel + 1, s, line =>
    match s.fifos.find line with
    | none => s
    | some [] => { s with fifos := s.fifos.del line }
    | some (id :: rest) =>
      let next := fun s : State => advanceFifo fuel { s with fifos := s.fifos.put line rest } line
      match s.reqs.find id with
      | none => next s
      | some r =>
        match r.kind with
        | .store l rel => next (answerRemote ((performStore s r l rel).dropReq id) r [])
        | .atomic f _ =>
          if r.stage == .queued && r.remote.isSome then next (atomicRemote s id r f)
          else if r.stage == .queued then
            let s := s.modReq id fun r => { r with stage := .granted, val := memGet s.mem r.pa r.n, marks := marksAt s r.pa r.n,
                                                    poison := poisoned s r.pa r.n }
            sendMsg s .reply (homeNode s r.pa) (.core r.core) 0 (.grant id)
          else s
        | .take _ _ =>
          if r.stage == .queued then
            let line := r.pa / 64 * 64
            let s := s.modReq id fun r => { r with stage := .granted, data := memBytes s.mem line 64, poison := poisoned s line 64 }
            sendMsg s .reply (homeNode s r.pa) (.core r.core) 0 (.grant id)
          else s
        | _ => next s

/-- Enter a request in its line's FIFO. -/
def enterFifo (s : State) (id pa : Nat) : State :=
  let line := lineOf pa
  let l := (s.fifos.find line).getD []
  let s := { s.modReq id fun r => { r with stage := .queued } with fifos := s.fifos.put line (l ++ [id]) }
  advanceFifo (l.length + 1) s line

/-- A hold of a line has ended: no later load reads what the line held before (R91). -/
def endHold (s : State) (line : Nat) : State :=
  if (s.fifos.find line).isSome then s else { s with past := s.past.filter fun x => x.line != line }

/-- The head of the FIFO is done: serve the rest. -/
def leaveFifo (s : State) (id pa : Nat) : State :=
  let line := lineOf pa
  let l := (s.fifos.find line).getD []
  endHold (advanceFifo (l.length + 1) { s with fifos := s.fifos.put line (l.filter fun x => x != id) } line) line

/-- The line lies in HBM or in slice scratch. -/
def inSlice (pa : Nat) : Bool := match pwinOf pa with | .hbm | .scratch _ _ => true | _ => false

/-- Reservation entries of a slice in use (R217): one for each reservation or take, granted or waiting, and for each store and engine
write behind them, since every one of these is a request of the FIFO (notes/assumptions/77.md). -/
def reservationsOf (s : State) (slice : Nat) : Nat :=
  (s.fifos.filter fun x => inSlice (x.1 * 64) && sliceOf (x.1 * 64) == slice).foldl (fun n x => n + x.2.length) 0

end Sys2Proof.Machine
end

