-- ==== Sys2Proof/Machine/Home.lean ====
section
/-!
DEFINITION. The homes: what holds a request there, the slices' ways, miss tables, write-back buffers and multicast windows, the host's
filter, and the meanings of their events (03 R88-R91, R105, R109; 07 R217; 15 R402-R417, R425; 16 R445).
-/
namespace Sys2Proof.Machine

/-! ## Ways (R407, R408) -/

def countBits (x n : Nat) : Nat := ((List.range n).filter fun k => bitAt x k).length

/-- Usable ways in cache mode. -/
def cacheWays (s : State) (p : Nat) : Nat := 12 - countBits (sliceScratch s p ||| sliceDisabled s p) 12
def visWays (s : State) (p : Nat) : Nat := Nat.min (bits (s.die (p / 48)).slicecfg 2 0) (cacheWays s p - 2)
def homeWays (s : State) (p : Nat) : Nat := cacheWays s p - visWays s p

/-- The set of a line in its slice: its number among the slice's lines, modulo 4096 (notes/assumptions/8.md). -/
def lineSet (line : Nat) : Nat :=
  let l := line / 2 ^ 15 / 6 * 2 ^ 15 + line % 2 ^ 15
  (l / 4 / 48 * 4 + l % 4) % 4096

def resident (s : State) (line : Nat) : Bool := (s.slice (sliceOf (64 * line))).home.contains line

/-- The line is the most recently used of its set. -/
def touchHome (s : State) (line : Nat) : State :=
  s.modSlice (sliceOf (64 * line)) fun q => { q with home := (q.home.filter fun x => x != line) ++ [line] }

/-! ## The write-back buffer (R411) -/

/-- The host's bytes of a line perform at its home, unencrypted: a foreign write to a recorded launch (R398). -/
def hostBytes (s : State) (line : Nat) (d : List Byte) : State :=
  performBytes (recordForeign (retag s line 0) line) noCore ((List.range 64).map fun i => (64 * line + i, d.getD i 0))

/-- The oldest write-back leaves: a replaced line reaches HBM, and is newer in its slice only if it has been fetched and written again since; a
host's line is written around. -/
def drainWb (s : State) (p : Nat) : State :=
  match (s.slice p).wb with
  | [] => s
  | (line, false, d) :: l =>
    { s.modSlice p fun q => { q with wb := l } with
      dirty := match s.dirty.find line with
        | none => s.dirty
        | some _ => if memBytes s.mem (64 * line) 64 == d then s.dirty.del line else s.dirty.put line d }
  | (line, true, d) :: l =>
    let s := hostBytes (s.modSlice p fun q => { q with wb := l }) line d
    if resident s line then touchHome s line else { s with dirty := s.dirty.del line }

def pushWb (s : State) (p line : Nat) (host : Bool) (d : List Byte) : State :=
  let s := if 16 ≤ (s.slice p).wb.length then drainWb s p else s
  s.modSlice p fun q => { q with wb := q.wb ++ [(line, host, d)] }

/-- A full line arrives from the host (R411): it updates a home way that holds the line, and goes through the buffer otherwise. -/
def arriveWb (s : State) (line : Nat) (d : List Byte) : State :=
  if resident s line then touchHome (hostBytes s line d) line else pushWb s (sliceOf (64 * line)) line true d

/-- SLICE_WRITEBACK. -/
def execSliceWriteback (p : Nat) (s : State) : Out := .next (drainWb s p)

/-- Put a line in a home way, the least recently used of its set giving way. -/
def fillHome (s : State) (line : Nat) : State :=
  let p := sliceOf (64 * line)
  let set := (s.slice p).home.filter fun x => lineSet x == lineSet line
  if set.contains line then touchHome s line
  else
    let s := match set with
      | old :: _ =>
        if homeWays s p ≤ set.length then
          let s := s.modSlice p fun q => { q with home := q.home.filter fun x => x != old }
          if (s.dirty.find old).isSome then pushWb s p old false (memBytes s.mem (64 * old) 64) else s
        else s
      | [] => s
    s.modSlice p fun q => { q with home := q.home ++ [line] }

/-! ## Misses (R410, R417) -/

/-- Lines that a slice fetches ahead for a miss to `line`: the detectors after it, and the fetches, of the lines that have their home there. -/
def detectMiss (s : State) (p line : Nat) : State :=
  let q := s.slice p
  let hit := q.detect.find? fun x => x.1 + 1 == line && x.1 / 64 == line / 64
  let n := match hit with | some x => x.2 + 1 | none => 1
  let rest := q.detect.filter fun x => !(x.1 + 1 == line && x.1 / 64 == line / 64)
  let s := setSlice s p { q with detect := (if 16 ≤ rest.length then rest.drop 1 else rest) ++ [(line, n)] }
  if n < 3 then s
  else
    (List.range (bits (s.die (p / 48)).slicecfg 19 16)).foldl (fun s i =>
      let l := line + 1 + i
      let q := s.slice p
      if l / 64 != line / 64 || sliceOf (64 * l) != p || q.home.contains l || q.misses.any (fun m => m.line == l) || 64 ≤ q.misses.length then s
      else setSlice s p { q with misses := q.misses ++ [{ line := l, reqs := [], demand := false }] }) s
where
  setSlice (s : State) (p : Nat) (q : Slice) : State := { s with sliceTab := s.sliceTab.put p q }

/-- A request misses: it merges into an entry of its line that has room, takes one of its own, or waits at the slice input. -/
def openMiss (s : State) (id line : Nat) : State :=
  let p := sliceOf (64 * line)
  let q := s.slice p
  let wait := fun s : State => s.modReq id fun r => { r with stage := .missing }
  match q.misses.find? fun m => m.line == line && m.reqs.length < 8 with
  | some m =>
    wait (s.modSlice p fun q => { q with misses := q.misses.map fun x =>
      if x == m then { x with reqs := x.reqs ++ [id], demand := true } else x })
  | none =>
    if 64 ≤ q.misses.length then s
    else
      let s := wait (s.modSlice p fun q => { q with misses := q.misses ++ [{ line := line, reqs := [id], demand := true }] })
      detectMiss s p line

/-! ## The host's filter (R425) -/

/-- A host access that asks to hold the line: it waits until no reservation or take is left there (R104, R107). -/
def takesHold (r : Req) : Bool := match r.remote with | some (q, hold) => q == hostPkg && hold != 0 | none => false

/-- A host write-back of the line is under way (R411). -/
def hostWriting (s : State) (line : Nat) : Bool := (s.slice (sliceOf (64 * line))).wb.any fun x => x.1 == line && x.2.1

/-- The request is the host's own. -/
def ofHost (r : Req) : Bool := match r.remote with | some (q, _) => q == hostPkg | none => false

/-! ## What holds a request at its home -/

/-- The line's home lies beyond the package. -/
def beyond (pa : Nat) : Bool := match pwinOf pa with | .host | .stay _ _ => true | _ => false

def needsWrite : ReqKind → Bool | .store _ _ | .atomic _ _ | .take _ _ => true | _ => false

/-- What its own core has under way does not hold a load (R91, R108, R217). -/
def coreOpen (s : State) (r : Req) : Bool :=
  !earlierStore s r.core r.pa r.order && !heldByCmd s r.uid r.va r.n r.order && !heldByAtomic s r.core r.pa r.order

/-- What its own core has under way lets a request beyond the package go (R91, R108, R216). -/
def portReady (s : State) (r : Req) : Bool :=
  match r.kind with
  | .load _ | .watch => coreOpen s r
  | .atomic _ _ => !earlierStore s r.core r.pa r.order && !heldByCmd s r.uid r.va r.n r.order
  | _ => true

/-- A write of the package beyond it has performed: its bytes are noted with the releases that they carry (R101, R114). -/
def noteBeyond (s : State) (r : Req) (l : List (Nat × Byte)) (rel : Option RelMark) : State :=
  { s with mem := memPutAll s.mem l, marks := markBytes s.marks l (rel.toList ++ r.own) }

/-- The releases of the bytes that a read from beyond the package has brought, where they are what the package wrote there last: another
agent's write carries none (notes/assumptions/99.md). -/
def marksBeyond (s : State) (r : Req) (d : List Byte) : List RelMark :=
  marksBut (s.marks.filter fun x => d[x.1 - r.pa]? == some (memRead s.mem x.1)) r.pa r.n r.fwd

/-- A request to a line beyond the package goes on from this package's port: the requests of the package to the line that wait there go in
their order, and none while a command has taken the line; a command's read waits for neither (R109; notes/assumptions/92.md). -/
def portOpen (s : State) (id : Nat) (r : Req) : Bool :=
  r.stage == .atHome && r.val == 0 && portReady s r &&
  match r.kind with
  | .eng _ | .fill _ | .paging _ => true
  | _ =>
    (s.fifos.find (lineOf r.pa)).isNone &&
    s.reqs.all fun x => x.1 == id || !(x.2.stage == .atHome && x.2.val == 0 && lineOf x.2.pa == lineOf r.pa && x.2.arrived < r.arrived &&
      portReady s x.2 && match x.2.kind with | .eng _ | .fill _ | .paging _ => false | _ => true)

/-- The holds of R91, R108, R217 and R400: what the core, or a replay, has the request wait for. -/
def senderOpen (s : State) (r : Req) : Bool :=
  !replayHoldsReq s r &&
  match r.kind with
  | .load _ | .watch => coreOpen s r
  | .pref _ => !earlierStore s r.core r.pa r.order
  | .store _ _ => !heldByAtomic s r.core r.pa r.order
  | .atomic _ _ => !earlierStore s r.core r.pa r.order && !heldByCmd s r.uid r.va r.n r.order
  | .take _ _ | .eng _ | .fill _ | .paging _ => true

/-- The holds of R107, R109 and R425: what the home has the request wait for. -/
def homeOpen (s : State) (r : Req) : Bool :=
  (match r.kind with
    | .load _ | .watch => !heldAtHome s r.pa
    | .pref _ | .eng _ | .fill _ | .paging _ => !heldByMcas s r.pa
    | .store _ _ | .atomic _ _ | .take _ _ => true) &&
  !(takesHold r && (s.fifos.find (lineOf r.pa)).isSome) &&
  !(pwinOf r.pa == .hbm && (hostWriting s (lineOf r.pa) || (!ofHost r && hostHolds s (lineOf r.pa) (needsWrite r.kind))))

def gateOpen (s : State) (r : Req) : Bool := senderOpen s r && homeOpen s r

/-- No earlier request to the line is at the home before it (R410): one that its sender has wait does not count as there yet. -/
def firstAtLine (s : State) (id : Nat) (r : Req) : Bool :=
  s.reqs.all fun (x : Nat × Req) => x.1 == id || !(x.2.stage == .atHome && lineOf x.2.pa == lineOf r.pa && x.2.arrived < r.arrived &&
    senderOpen s x.2)

/-- An earlier request to the line waits in a miss entry (R410). -/
def behindMiss (s : State) (id : Nat) (r : Req) : Bool :=
  s.reqs.any fun x => x.1 != id && x.2.stage == .missing && lineOf x.2.pa == lineOf r.pa && x.2.arrived < r.arrived

/-- The scratchpad banks that a request reaches. -/
def spadBanks (r : Req) : List Nat := ((List.range ((r.pa % 8 + r.n + 7) / 8)).map fun i => bankOfKey (r.pa + 8 * i)).eraseDups

/-- The unit that makes a request: a thread, the core's copy engine, or its matrix engine, which runs rig commands too. -/
def unitOf (s : State) (r : Req) : Nat :=
  match r.kind with
  | .load _ | .store _ _ | .watch | .atomic _ _ | .pref _ => 0
  | _ => match cmdOfReq s r with | some c => if (cmdCtx c.instr).isSome then 2 else 1 | none => 1

/-- Where a request to scratchpad k ranks among the accesses of the clk (R18). -/
def reqPos (s : State) (k : Nat) (r : Req) : Nat := requestPos s k r.core (unitOf s r)

/-- An access that ranks before the request, or one of its own position, has reached one of its banks on this clk: it takes part again on
the next (R18). -/
def bankHolds (s : State) (k : Nat) (r : Req) : Bool := banksBusy s k (reqPos s k r + 1) (spadBanks r)

/-- The request is at its home, its 8 clk at a slice are over, no bank conflict holds it (R18), nothing holds it, it is first of its line. -/
def homeReady (s : State) (id : Nat) (r : Req) : Bool :=
  r.stage == .atHome && (match pwinOf r.pa with
      | .hbm => r.arrClk + 8 ≤ s.clk
      | .scratch p w => r.arrClk + 8 ≤ s.clk && !bitAt ((s.waysChanging.find p).getD 0) w
      | .spad k => !bankHolds s k r
      | _ => false) &&
    gateOpen s r && firstAtLine s id r

/-! ## Visitor ways (R82, R103, R407) -/

/-- A visitor copy of the issuing die that this thread may use, unless it has been replaced; it is now the most recently used. -/
def visitorCopy (s : State) (r : Req) : Option Copy × State :=
  let floor := match s.thrOf r.core r.uid with | some t => t.visFloor | none => s.fresh
  match s.visitors.find? fun x => x.1 == dieOf r.core && x.2.line == lineOf r.pa && copyUsable s floor 0 x.2 with
  | none => (none, s)
  | some x =>
    let (gone, s) := s.freeBoolOf
    if gone then (none, dropVisitors s (dieOf r.core) (lineOf r.pa))
    else (some x.2, { s with visitors := s.visitors.erase x ++ [x] })

/-- Fill a visitor way of a die with a line homed elsewhere, the least recently used copy of its set giving way. A line that has been
written since the read of rank n is left out (R103). -/
def fillVisitor (s : State) (die line n : Nat) (d : List Byte) (ms : Map (Nat × List RelMark)) : State :=
  let p := visitorSlice die line
  if die == sliceOf (64 * line) / 48 || 6 ≤ die || n < lastWriteOf s line then s
  else
    let (now, s) := s.new
    let s := dropVisitors s die line
    let set := s.visitors.filter fun x => x.1 == die && visitorSlice die x.2.line == p && lineSet x.2.line == lineSet line
    if visWays s p = 0 then s
    else
      let l := if visWays s p ≤ set.length then
          (match set with | x :: _ => s.visitors.erase x | [] => s.visitors)
        else s.visitors
      { s with visitors := l ++ [(die, { line := line, data := d, filled := now, read := n, marks := ms })] }

/-! ## Serving -/

/-- Marked reads, treelet images and a rig's panels are answered on the paging channel (Table 15.1). -/
def replyVc (s : State) (r : Req) : VC :=
  if r.marked || (match r.kind with | .paging _ => true | _ => false) ||
    (match cmdOfReq s r with | some c => (match c.instr with | .rmmak .. | .rmman .. => true | _ => false) | none => false) then .paging
  else .reply

def sendReply (s : State) (id : Nat) (r : Req) : State := sendMsg s (replyVc s r) (homeNode s r.pa) (.core r.core) 0 (.reply id)

/-- Hold a marked read in its line's window (R412). -/
def joinWindow (s : State) (id line : Nat) : State :=
  let p := sliceOf (64 * line)
  let q := s.slice p
  let s := match s.reqs.find id with | some r => recordReq s r false | none => s
  let s := s.modReq id fun r => { r with stage := .queued }
  if q.windows.any fun w => w.line == line then
    s.modSlice p fun q => { q with windows := q.windows.map fun w => if w.line == line then { w with reqs := w.reqs ++ [id] } else w }
  else
    let ends := s.clk + bits (s.die (p / 48)).slicecfg 14 8
    s.modSlice p fun q => { q with windows := q.windows ++ [{ line := line, ends := ends, reqs := [id] }] }

/-- The host has been answered: the filter notes what it holds of the line now (R425). -/
def grantHost (s : State) (r : Req) : State :=
  match r.remote with
  | some (q, hold) =>
    if q != hostPkg || hold == 0 then s
    else
      let line := lineOf r.pa
      let (n, s) := s.new
      s.modSlice (sliceOf r.pa) fun q => { q with filter := (q.filter.filter fun x => x.line != line) ++
        [{ line := line, owned := hold == 2, rank := n, asked := false }] }
  | none => s

/-- What a line held before one of its latest writes, as many writes back as free values say. -/
def stepBack : List PastLine → State → Option PastLine × State
  | [], s => (none, s)
  | x :: l, s =>
    let (older, s) := s.freeBoolOf
    if older then
      let r := stepBack l s
      (match r.1 with | some y => some y | none => some x, r.2)
    else (none, s)

/-- The value that a fresh load of a thread may take instead of the line's latest: its read instant may lie before its issue, within the
bounds of R91; not while reservations are queued at the line (R105), nor for another agent than a thread, nor while the launch is recorded or
replayed, whose log follows the home order (R398, R400). -/
def earlier (s : State) (r : Req) : Option PastLine × State :=
  let line := lineOf r.pa
  match r.kind, s.thrOf r.core r.uid with
  | .load false, some t =>
    if r.remote.isSome || r.uid == 0 || (s.fifos.find line).isSome || logging s r.lid then (none, s)
    else
      let bound := Nat.max t.readFloor (((s.core r.core).seen.find line).getD 0)
      stepBack (s.past.filter fun x => x.line == line && bound < x.ends) s
  | _, _ => (none, s)

/-- The core has read the line at this rank. -/
def noteSeen (s : State) (core line n : Nat) : State :=
  if core < 6528 then s.modCore core fun k => { k with seen := k.seen.put line (Nat.max n ((k.seen.find line).getD 0)) } else s

/-- A read takes its value: its read instant (R91). -/
def answerRead (s : State) (id : Nat) (r : Req) : State :=
  let line := lineOf r.pa
  let s := match r.kind with | .pref _ => s | _ => recordReq s r false
  let s := match r.kind with | .watch => { s with watchers := s.watchers.put r.uid line } | _ => s
  let (n, s) := s.new
  let bad := poisoned s r.pa r.n
  let data := memBytes s.mem (64 * line) 64
  match r.remote with
  | some _ => grantHost (answerRemote (s.dropReq id) r (if bad then [] else memBytes s.mem r.pa r.n)) r
  | none =>
    let (old, s) := earlier s r
    let s := noteSeen s r.core line (match old with | some x => x.ends - 1 | none => n)
    let s := s.modReq id fun r => match old with
      | some x => { r with stage := .replying, val := ofBytes ((x.data.drop (r.pa % 64)).take r.n), marks := marksBut x.marks r.pa r.n r.fwd,
                           data := x.data, lineMarks := x.marks, readRank := x.ends - 1 }
      | none => { r with stage := .replying, val := memGet s.mem r.pa r.n, marks := marksBut s.marks r.pa r.n r.fwd, data := data,
                         lineMarks := lineMarksAt s line, poison := bad, readRank := n }
    sendReply s id r

/-- A `.lax` load looks in the visitor ways of its die; without a copy there it goes on to its home (R82). -/
def serveVisitor (s : State) (id : Nat) (r : Req) : State :=
  let here : Node := .slice (visitorSlice (dieOf r.core) (lineOf r.pa))
  let (c, s) := visitorCopy s r
  match c with
  | some c =>
    let s := s.modReq id fun r => { r with stage := .replying, val := copyVal c r.pa r.n, marks := marksBut c.marks r.pa r.n r.fwd, noFill := true }
    sendMsg s .reply here (.core r.core) 0 (.reply id)
  | none => sendMsg (s.modReq id fun r => { r with stage := .sent }) .request here (homeNode s r.pa) 0 (.req id)

/-- The request enters its line's queue: one of the slice's 512 entries is free, and no request that needs one came earlier (R217). -/
def mayEnter (s : State) (id : Nat) (r : Req) : Bool :=
  !inSlice r.pa ||
  (reservationsOf s (sliceOf r.pa) < 512 &&
    s.reqs.all fun x => x.1 == id || !(x.2.stage == .atHome && inSlice x.2.pa && sliceOf x.2.pa == sliceOf r.pa && x.2.arrived < r.arrived &&
      gateOpen s x.2 && (match x.2.kind with
        | .atomic _ _ | .take _ _ => true
        | .store _ _ => (s.fifos.find (lineOf x.2.pa)).isSome
        | _ => false)))

/-- Serve one request that is ready: a read is answered, a write performs or joins the FIFO, a reservation or take enters it. -/
def serveReq (s : State) (id : Nat) (r : Req) : State :=
  let line := lineOf r.pa
  let hbm := pwinOf r.pa == .hbm
  if hbm && !resident s line then openMiss s id line
  else if hbm && behindMiss s id r then s
  else
    let s := if hbm then retag (touchHome s line) line r.key else s
    match r.kind with
    | .load true => answerRead s id r
    | .load false | .watch | .eng _ | .fill _ | .paging _ =>
      if r.marked && hbm && bits (s.die (sliceOf r.pa / 48)).slicecfg 14 8 != 0 then joinWindow s id line else answerRead s id r
    | .pref lax => if lax || r.remote.isSome then answerRead s id r else s.dropReq id
    | .store l rel =>
      if (s.fifos.find line).isSome then (if mayEnter s id r then enterFifo s id r.pa else s)
      else grantHost (answerRemote ((performStore s r l rel).dropReq id) r []) r
    | .atomic _ _ | .take _ _ => if mayEnter s id r then enterFifo s id r.pa else s

/-- A request at a port of the package that may go: a command's take holds the line; another leaves by a stay port, or waits there for the
host. -/
def servePort (s : State) (id : Nat) (r : Req) : State :=
  if !portOpen s id r then s
  else match r.kind, pwinOf r.pa with
    | .take _ _, _ => enterFifo s id r.pa
    | _, .stay _ _ => leaveByPort s id r
    | _, _ => s

/-- The way that the request waited for has become a cache way: its offsets have no target (R371). -/
def wayGone (s : State) (pa : Nat) : Bool := match pwinOf pa with | .scratch p w => !bitAt (sliceScratch s p) w | _ => false

/-- Such a request ends its launch: with NOTARGET (R63), a command's or a fill's with ENGINEFAULT (R301, R456). -/
def failGone (s : State) (id : Nat) (r : Req) : State :=
  match cmdOfReq s r, r.kind with
  | none, .fill l =>
    fatal (s.dropReq id) r.core { Thr.vacant with lid := some l } (tidWord 2 0 r.core) 0x48 r.va 3
      ((s.launches.find l).map (·.words) |>.getD [])
  | none, _ => failReq s id
  | some c, _ =>
    dropCmd (fatal (s.dropReq id) r.core (cmdThr c) (tidWord 2 c.idx r.core) 0x48 r.va (match r.kind with | .take _ _ => 4 | _ => 3)
      ((encode c.instr).map (·.toNat))) r.core c.num

/-- A request that is served reaches its banks on this clk (R18). -/
def reachBanks (s : State) (r : Req) : State :=
  match pwinOf r.pa with
  | .spad k => useBanks s k (reqPos s k r) (spadBanks r)
  | _ => s

/-- Serve a request if it is ready; a line that the host holds is asked for. -/
def serveHome (s : State) (id : Nat) (ok : ReqKind → Bool) : State :=
  match s.reqs.find id with
  | none => s
  | some r =>
    if !ok r.kind then s
    else if r.stage == .atVis then (if coreOpen s r then serveVisitor s id r else s)
    else if beyond r.pa then servePort s id r
    else if homeReady s id r then (if wayGone s r.pa then failGone s id r else serveReq (reachBanks s r) id r)
    else if r.stage == .atHome && pwinOf r.pa == .hbm && !ofHost r && hostHolds s (lineOf r.pa) (needsWrite r.kind) then askHost s (lineOf r.pa)
    else s

def isRead : ReqKind → Bool | .store _ _ | .atomic _ _ | .take _ _ => false | _ => true

/-- HOME_READ (R91). -/
def execHomeRead (id : Nat) (s : State) : Out := .next (serveHome s id isRead)

/-- The write of a command's line: its bytes perform and the line is let go (R109). -/
def performTake (s : State) (id : Nat) (r : Req) (mcas : Bool) : State :=
  let s := if r.fwd.isEmpty then s else performBytes (recordReq s r true) r.core r.fwd
  let s := if mcas then putMarks s r.core r.fwd r.own else s
  leaveFifo (s.dropReq id) id r.pa

/-- HOME_WRITE_PERFORM (R88): a store at its home, or the write of a line that a command holds. -/
def execHomeWritePerform (id : Nat) (s : State) : Out :=
  match s.reqs.find id with
  | none => .next s
  | some r =>
    match r.kind, r.stage with
    | .take _ mcas, .released => .next (if beyond r.pa then s else performTake s id r mcas)
    | _, _ => .next (serveHome s id fun k => match k with | .store _ _ => true | _ => false)

/-- RESERVATION_REQUEST (R217): also the take of a command's line (R109). -/
def execReservationRequest (id : Nat) (s : State) : Out :=
  .next (serveHome s id fun k => match k with | .atomic _ _ | .take _ _ => true | _ => false)

/-! ## The other events of a slice -/

/-- SLICE_MISS_FILL (R410): the line is in a home way, and the merged requests are served in their order. -/
def execSliceMissFill (p line : Nat) (s : State) : Out :=
  match (s.slice p).misses.find? fun m => m.line == line with
  | none => .next s
  | some m =>
    let s := s.modSlice p fun q => { q with misses := q.misses.erase m }
    let s := fillHome s line
    let s := m.reqs.foldl (fun s id => s.modReq id fun r => { r with stage := .atHome }) s
    .next (m.reqs.foldl (fun s id => serveHome s id fun _ => true) s)

/-- MULTICAST_WINDOW_EXPIRY (R412): a line that an MCAS holds is read after it. -/
def execMulticastWindowExpiry (p line : Nat) (s : State) : Out :=
  match (s.slice p).windows.find? fun w => w.line == line with
  | some w => .next (if w.ends ≤ s.clk && !heldByMcas s (64 * line) then endWindow s line else s)
  | none => .next s

/-- HBM_REFRESH (R416): a burst of a copy engine that is split is counted. -/
def execHbmRefresh (d : Nat) (split : Bool) (s : State) : Out :=
  let burst := s.reqs.any fun x => pwinOf x.2.pa == .hbm && sliceOf x.2.pa / 48 == d &&
    match x.2.kind with | .eng _ | .take _ false => true | _ => false
  .next (if split && burst then s.modDie d fun x => { x with refsplit := (x.refsplit + 1) % 2 ^ 48 } else s)

end Sys2Proof.Machine
end

