-- ==== Sys2Proof/Machine/Sync.lean ====
section
/-!
DEFINITION. Barriers and semaphores: the meanings of BARC, BARG, DEVELOP, TRIM, SEMW, SEMS (07 R220-R228), the release of a barrier
with DEVELOP's merge and TRIM's installation (01 R55-R58, 02 R80, 07 R225), a semaphore's count (07 R229).
-/
namespace Sys2Proof.Machine

/-! ## Membership -/

/-- The waves of a core, in their slots and saved. -/
def wavesOf (s : State) (core : Nat) : List Wave :=
  (s.core core).slots.map (·.2) ++ ((s.cluster (clusterOf core)).saved.filter fun x => x.core == core).map (·.wave)

def coresOfCluster (k : Nat) : List Nat := (List.range 16).map fun j => 16 * k + j

/-- The member waves of the barrier at which wave w of a core arrives (Tables 1.12 and 7.4), with their cores. R225 names the members of
a supervisor's TRIM alone; those of its BARC, BARG and DEVELOP are taken to be the same, the supervisor waves of the core: DESIGN CHOICE
(notes/assumptions/78.md). -/
def barMembers (s : State) (core : Nat) (w : Wave) (k : BarKind) : List (Nat × Wave) :=
  let here := (wavesOf s core).map fun x => (core, x)
  let sameLaunch := here.filter fun x => x.2.t.lid == w.t.lid && x.2.t.sup == w.t.sup
  match k with
  | .barc | .trim => sameLaunch
  | .barg => sameLaunch.filter fun x => x.2.task == w.task && x.2.group == w.group
  | .develop =>
    let gang := match w.t.lid.bind fun l => s.launches.find l with | some l => l.gang | none => false
    if gang then
      ((coresOfCluster (clusterOf core)).flatMap fun c => (wavesOf s c).map fun x => (c, x)).filter fun x =>
        x.2.t.lid == w.t.lid && x.2.task == w.task
    else sameLaunch.filter fun x => x.2.task == w.task && x.2.group == w.group

def arrivedAt (k : BarKind) (w : Wave) : Bool :=
  match w.t.wait with | .barrier q counted _ _ => q == k && counted | _ => false

/-! ## DEVELOP's merge (R80, R111) -/

/-- What a latent byte held at the end of the last clk, when its written bit was set then: its offset, its value, whether poisoned. -/
def latentDue (s : State) (k : Nat) : List (Nat × Byte × Bool) :=
  let q := s.cluster k
  q.written.filterMap fun x =>
    if x.2 < s.clk then some (x.1, memRead s.mem (spadKey k x.1), (s.poison.find (spadKey k x.1 / 8)).isSome)
    else (q.early.find x.1).map fun v => (x.1, BitVec.ofNat 8 v, 256 ≤ v)

/-- Latent bytes written before clk t take their place in the visible tile, as they stood at the end of clk t − 1, with the releases that
they carry; a visible byte that the cluster itself writes on clk t stands, since that write comes after the merge. -/
def developMerge (s : State) (k : Nat) : State :=
  let q := s.cluster k
  let shift := pwCount q.phasewin * 0x1000
  let due := (latentDue s k).filter fun x => q.shown.find (x.1 - shift) != some s.clk
  let bytes := due.map fun x => (spadKey k (x.1 - shift), x.2.1)
  let p := bytes.foldl (fun p b => cleanByte p b.1) s.poison
  let p := (due.filter (·.2.2)).foldl (fun p x => Map.put p (spadKey k (x.1 - shift) / 8) 255) p
  let s := (bytes.map fun b => lineOf b.1).eraseDups.foldl (fun s l => notePast s noCore l) s
  let s := { s with mem := memPutAll s.mem bytes, poison := p,
                    marks := due.foldl (fun (m : Map (Nat × List RelMark)) (x : Nat × Byte × Bool) => markBytes m [(spadKey k (x.1 - shift), x.2.1)] (marksAt s (spadKey k x.1) 1)) s.marks }
  let full := q.tilesLate.foldl (fun (m : Map Nat) t => if (m.find t).getD 0 == 2 then m else m.put t 1) q.tiles
  s.modCluster k fun q => { q with written := q.written.filter (fun x => !(x.2 < s.clk)), early := [], tiles := full, tilesLate := []
                                   shown := q.shown.filter fun x => x.2 == s.clk }

/-! ## TRIM's installation (R225, Table 7.5) -/

def tableOf (w : Wave) : List Nat := match w.t.wait with | .barrier _ _ t _ => t | _ => []

/-- The status at the release: a slot 0 to 6 held by another holder, members that differ, or 0. -/
def trimStatus (s : State) (core : Nat) (members : List (Nat × Wave)) (table : List Nat) : Nat :=
  let other := (s.core core).slots.any fun x => x.1 ≤ 6 && !members.any fun m => m.2.t.uid == x.2.t.uid
  if other then 1 else if members.all fun m => tableOf m.2 == table then 0 else 2

/-! ## Release (R57) -/

/-- One member goes on: a saved one is marked released, a TRIM receives its status, and the release is an acquire of what every member
did before its arrival (R99). -/
def releaseMember (s : State) (core : Nat) (w : Wave) (scope status : Nat) (all : List (Nat × Wave)) : State :=
  let s := match w.t.wait with
    | .barrier .trim _ _ sd => s.setRegUid core w.t.uid sd (word status)
    | _ => s
  let s := acquireAt s core w.t.uid scope
  payOwed (s.modWaveUid core w.t.uid fun x =>
    let t := all.foldl (fun t m => raiseFloors core m.1 m.2.t.floors t) x.t
    { x with t := { t with wait := .none, since := s.clk + 1 }, released := (slotOfUid (s.core core) w.t.uid).isNone }) core w.t.uid

/-- A trim barrier installs its table from the next clk; the writes of TRIMTAB made on the same clk then change it (R359). -/
def installTrim (s : State) (core : Nat) (tab : List Nat) : State :=
  s.modCore core fun k =>
    let after := if k.trimSet.1 == s.clk then k.trimSet.2 else []
    { k with trim := tableNow k s.clk, trimNew := some (s.clk, after.foldl tableWrite tab) }

/-- Release the barrier of wave w if every member has arrived. -/
def tryRelease (s : State) (core : Nat) (w : Wave) (k : BarKind) : State :=
  let m := barMembers s core w k
  if !m.isEmpty && m.all fun x => arrivedAt k x.2 then
    let s := if k == .develop then developMerge s (clusterOf core) else s
    let st := trimStatus s core m (tableOf w)
    let s := if k == .trim && st == 0 then installTrim s core (tableOf w) else s
    m.foldl (fun s x => releaseMember s x.1 x.2 (if k == .develop then 2 else 1) st m) s
  else s

/-- After a member has ended: any barrier at which everyone left has arrived releases. -/
def releaseAfterEnd (s : State) (core : Nat) : State :=
  (coresOfCluster (clusterOf core)).foldl (fun s c =>
    (wavesOf s c).foldl (fun s w => match s.thrOf c w.t.uid with
      | some t => (match t.wait with
        | .barrier k true _ _ => tryRelease s c { w with t := t } k
        | _ => s)
      | none => s) s) s

/-! ## The instructions -/

def arrive (i : Instr) (k : BarKind) (table : Issue → State → List Nat) (sd : Nat) (s : State) : Out :=
  start i s fun c s => retireInto s (.barrier k false (table c s) sd)

/-- BARC (R220). -/
def execBarc (s : State) : Out := arrive .barc .barc (fun _ _ => []) 0 s
/-- BARG (R220). -/
def execBarg (s : State) : Out := arrive .barg .barg (fun _ _ => []) 0 s
/-- DEVELOP (R220). -/
def execDevelop (s : State) : Out := arrive .develop .develop (fun _ _ => []) 0 s
/-- TRIM (R224): the spacing rule has been checked by `illegalNow`. -/
def execTrim (sd sa : BitVec 6) (b : BitVec 8) (s : State) : Out :=
  arrive (.trim sd sa b) .trim (fun c s => trimTable (c.reg sa.toNat).toNat (selVal s c b).toNat) sd.toNat s

/-! ## Semaphores -/

def semCount (s : State) (core q : Nat) : Nat := ((s.core core).sems.find q).getD 0
def setSem (s : State) (core q v : Nat) : State := s.modCore core fun k => { k with sems := k.sems.put q (v % 2 ^ 16) }

/-- The condition of R227. -/
def semHolds (c thr : Nat) : Bool := (c + 2 ^ 16 - thr % 2 ^ 16) % 2 ^ 16 < 2 ^ 15

/-- A SEMW acquires what the SEMSs that it counts released: the floors of their threads (R99). -/
def semFloors (s : State) (core q : Nat) (t : Thr) : Thr :=
  match (s.core core).semFloors.find q with | some f => raiseFloors core core f t | none => t

/-- SEMW (R227). -/
def execSemw (sd sa : BitVec 6) (sem : BitVec 8) (thr : BitVec 16) (scope : BitVec 4) (s : State) : Out :=
  start (.semw sd sa sem thr scope) s fun c s =>
    let t := (thr.toNat + (c.reg sa.toNat).toNat) % 2 ^ 16
    let n := semCount s c.core sem.toNat
    if semHolds n t then
      retire ((acquireHere (s.setReg c sd.toNat (word n)) c scope.toNat).modIssThr c (semFloors s c.core sem.toNat))
    else retireInto s (.semw sem.toNat t sd.toNat (acqOf s c.core scope.toNat))

/-- A SEMS that waits to be applied, its release waits being over (R228): semaphore, increment, destination, issue order. -/
def semsDue (s : State) (t : Thr) : Option (Nat × Nat × Nat × Nat) :=
  match t.wait with
  | .semsReady q inc sd o => some (q, inc, sd, o)
  | .release (.sems q inc sd o) => if writesOut s t.uid then none else some (q, inc, sd, o)
  | _ => none

/-- A SEMS of the core to this semaphore waits to be applied. -/
def semsWaiting (s : State) (core q : Nat) : Bool :=
  let hit := fun t : Thr => match semsDue s t with | some x => x.1 == q | none => false
  (wavesOf s core).any (fun w => hit w.t) || (s.core core).rq.any fun x => hit x.2.t

/-- A SEMS of this thread changes the semaphore on this clk: the count after it. -/
def applySems (s : State) (core q inc : Nat) (t : Thr) : State :=
  let f := ((s.core core).semFloors.find q).getD Floors.zero
  (setSem s core q (semCount s core q + inc)).modCore core fun k =>
    { k with semClk := k.semClk.put q s.clk
             semFloors := k.semFloors.put q (f.join t.floors) }

/-- A SEMOP or SEMSET has been applied on this clk: its command's token is the old count. -/
def tellSem (s : State) (core num old : Nat) : State :=
  s.modCore core fun k => { k with running := k.running.map fun c => if c.num == num then { c with token := old, phase := 2, acc := [s.clk] } else c }

/-- Steps 1 and 2 of a clk's update of a semaphore (R229): a SEMSET, the highest-numbered core's standing; then the signals, summed, each a
release for who counts it (R99). -/
def semChanges (s : State) (core q : Nat) : State :=
  let mine := (s.core core).semIn.filter fun x => x.1 == q
  if mine.isEmpty then s
  else
    let sets := mine.filter fun x => x.2.1
    let floors := (mine.filter fun x => !x.2.1).foldl (fun (f : Floors) x => f.join x.2.2.2.2.2) (((s.core core).semFloors.find q).getD Floors.zero)
    let adds := mine.filter fun x => !x.2.1
    let c0 := semCount s core q
    let top := sets.foldl (fun (a : Option (Nat × Nat)) x => match a with
      | some y => if y.1 ≤ x.2.2.2.1 then some (x.2.2.2.1, x.2.2.1) else a
      | none => some (x.2.2.2.1, x.2.2.1)) none
    let c1 := match top with | some x => x.2 | none => c0
    let c2 := adds.foldl (fun a x => a + x.2.2.1) c1 % 2 ^ 16
    let s := s.modCore core fun k => { k with semIn := k.semIn.filter fun x => x.1 != q
                                              semFloors := if adds.isEmpty then k.semFloors else k.semFloors.put q floors }
    let s := sets.foldl (fun s x => tellSem s x.2.2.2.1 x.2.2.2.2.1 c0) s
    let s := adds.foldl (fun s x => tellSem s x.2.2.2.1 x.2.2.2.2.1 c1) s
    setSem s core q c2

/-- SEMS (R228): at level thread or core its increment is applied on this clk, after the clk's SEMSET and signals (R229). -/
def execSems (sd sa : BitVec 6) (sem : BitVec 8) (inc : BitVec 16) (scope : BitVec 4) (s : State) : Out :=
  start (.sems sd sa sem inc scope) s fun c s =>
    let n := (inc.toNat + (c.reg sa.toNat).toNat) % 2 ^ 16
    let t := s.issThr c
    let q := sem.toNat
    let (lv, missed) := scopeLevel s c.core scope.toNat
    let s := if missed then countScopeMiss s c.core else s
    let (o, s) := s.new
    if lv.isWide then
      let s := countEvent s c.core 4
      if writesOut s t.uid then retireInto s (.release (.sems q n sd.toNat o))
      else retireInto s (.semsReady q n sd.toNat o)
    else if semsWaiting s c.core q then retireInto (countEvent s c.core 4) (.semsReady q n sd.toNat o)
    else
      let s := semChanges s c.core q
      retire ((applySems s c.core q n t).setReg c sd.toNat (word (semCount s c.core q)))

end Sys2Proof.Machine
end

