-- ==== Sys2Proof/Machine/IssueTurn.lean ====
section
/-!
DEFINITION. Meanings of ISSUE_TURN and FIBRE_QUANTUM_EXPIRY: the trim table, the choice of the slot, taking a fibre, the fetch and its
checks (01 R14-R24, R30-R34; 05 R145, R161, R162; 06 R187; 16 R451). A bundle that is fetched is left in `issue` and `todo`, whose
operations `step` runs in the same step (notes/assumptions/13.md).
-/
namespace Sys2Proof.Machine

/-! ## The rotation -/

/-- A wave slot that may issue at a clk (R16, R28, R30, R391). -/
def waveIssuable (clk : Nat) (w : Wave) : Bool := w.t.wait == .none && w.saving == 0 && w.t.since ≤ clk

/-- Its launch has been ended by a fatal record. -/
def launchDead (s : State) (t : Thr) : Bool := match launchOf s t with | some l => l.dead | none => false

/-- The code and the constants of a thread's launch are in place on the core (R45); until then a fibre that has come waits in its entry
(notes/assumptions/80.md). -/
def launchHere (s : State) (core : Nat) (t : Thr) : Bool :=
  match launchOf s t with | some l => l.dead || l.filled.contains core | none => true

/-- Fibres that slot 7 may take on this clk: ready before it (R30, R34). -/
def readyEntries (s : State) (core : Nat) : List (Nat × Nat) :=
  (s.core core).rq.filterMap fun x => match x.2.st with
    | .ready o => if o < 256 * s.clk && launchHere s core x.2.t then some (o, x.1) else none
    | _ => none

/-- The oldest of them (R34). -/
def oldestReady (s : State) (core : Nat) : Option Nat :=
  ((readyEntries s core).foldl (fun (a : Option (Nat × Nat)) x => match a with
    | some y => if x.1 < y.1 then some x else a
    | none => some x) none).map (·.2)

/-- A slot is issuable: in the rotation, with a bundle, and no turn used in the previous seven clk. -/
def issuable (s : State) (core slot : Nat) : Bool :=
  let k := s.core core
  (match k.turns.find slot with | some t => t + 8 ≤ s.clk | none => true) &&
  (if slot = 7 then k.held.isSome || (oldestReady s core).isSome
   else match k.slots.find slot with | some w => waveIssuable s.clk w | none => false)

/-- The slot that issues for an entry: the slot named, or the first issuable one after it. -/
def pickSlot (s : State) (core entry : Nat) : Option Nat :=
  ((List.range 8).map fun i => (entry + i) % 8).find? (issuable s core)

/-- The turn is withheld by power capping (R451). -/
def withheld (s : State) (core entry : Nat) : Bool :=
  let l := (s.die (dieOf core)).level
  entry != 7 && s.clk * l % 64 < l

/-! ## Fibre slots -/

/-- Put the fibre that slot 7 holds back among the ready ones, ready from this clk (R32, R290). -/
def unholdFibre (s : State) (core clk : Nat) : State :=
  match (s.core core).held with
  | none => s
  | some e => s.modCore core fun k =>
    match k.rq.find e with
    | some x => { k with held := none, count := 0, rq := k.rq.put e { x with st := .ready (256 * clk + e) } }
    | none => { k with held := none, count := 0 }

/-- After 256 bundles the fibre is made ready again when another one was ready at the last of them, and ranks from that clk; else its
count starts again (R32). -/
def quantumExpire (s : State) (core : Nat) : State :=
  let k := s.core core
  if k.held.isSome && 256 ≤ k.count then
    let t := (k.turns.find 7).getD s.clk
    if (readyEntries s core).any fun x => x.1 < 256 * (t + 1) then unholdFibre s core t else s.modCore core fun k => { k with count := 0 }
  else s

/-- FIBRE_QUANTUM_EXPIRY (R32); the slot's next turn expires it in the same way. -/
def execFibreQuantumExpiry (core _slot : Nat) (s : State) : Out := .next (quantumExpire s core)

/-- Entry e is free. -/
def freeFibre (s : State) (core e : Nat) : State :=
  s.modCore core fun k => { k with rq := k.rq.del e, held := if k.held == some e then none else k.held }

/-- The fibre that slot 7 holds, or else the one that it would take. -/
def slotFibre (s : State) (core : Nat) : Option Nat := match (s.core core).held with | some e => some e | none => oldestReady s core

/-- Fibres of an ended launch are discarded where they would run next (R39), n at most. -/
def discardDead : Nat → State → Nat → State
  | 0, s, _ => s
  | n + 1, s, core =>
    match (slotFibre s core).bind fun e => ((s.core core).rq.find e).map fun x => (e, x) with
    | some (e, x) => if launchDead s x.t then discardDead n (freeFibre s core e) core else s
    | none => s

/-- Slot 7 takes the oldest ready fibre when it holds none. One that came by HOP or GO acquires at pkg (Table 3.6). -/
def takeFibre (s : State) (core : Nat) : State :=
  match (s.core core).held, oldestReady s core with
  | none, some e =>
    match (s.core core).rq.find e with
    | none => s
    | some x =>
      let s := s.modCore core fun k =>
        { k with held := some e, count := 0, rq := k.rq.put e { x with st := .running, t := { x.t with acqOnTake := false } } }
      if x.t.acqOnTake then acquireAt s core x.t.uid 4 else s
  | _, _ => s

/-! ## Fetch -/

/-- A doubleword of the code. -/
def codeWord (s : State) (core : Nat) (va : Nat) : Word :=
  word (memGet s.mem (tcmKey core (va - 0xFFFFFFFF00000000)) 8)

/-- The checks of R187, then R145: the cause of a fetch trap. -/
def fetchCause (s : State) (core : Nat) (pc : Word) : Option Nat :=
  if pc.toNat % 8 != 0 then some cALIGN
  else
    match winOf pc.toNat with
    | .tcm o =>
      if o < 0x600 || privSize (s.core core).lsplit ≤ o then some cADDRESS
      else
        let block := pc.toNat / 32 * 32
        let inBlock := pc.toNat % 32 != 0 && (codeWord s core block).extractLsb' 62 2 == 3
        let late := pc.toNat % 32 != 0 && (codeWord s core pc.toNat).extractLsb' 62 2 == 3
        if inBlock || late then some 1 else none
    | _ => some cADDRESS

def isCommand (w : Word) : Bool := w.extractLsb' 62 2 == 3

/-- The operations of a bundle, in the order in which `step` runs them; an empty slot of a dual bundle adds none. A
VHQPOP goes first: the turns that it forfeits run neither operation (R258). -/
def bundleOps : Bundle → List Instr
  | .dual a .vnop => [a]
  | .dual .nop b => [b]
  | .dual a (.vhqpop vd vb ms) => [.vhqpop vd vb ms, a]
  | .dual a b => [a, b]
  | .scalarWide i | .vectorWide i | .command i => [i]

/-- The issue context of slot n of a core: the thread's operands as they stand (R19). -/
def issueOf (s : State) (core slot : Nat) (pc : Word) (len : Nat) : Option Issue :=
  let k := s.core core
  if slot = 7 then
    k.held.bind fun e => (k.rq.find e).map fun x =>
      { core := core, slot := slot, entry := some e, pc := pc, next := pc + word len,
        s := (List.range 8).foldl (fun v i => waveSetS v (i + 1) (fibreGet x.fib (i + 1))) (Vector.replicate 64 0),
        v := Vector.replicate 32 0, mask := BitVec.allOnes 64, fpmode := 0, sup := x.t.sup, sflags := 0, vflags := 0, lanes := 0,
        checked := false }
  else
    (k.slots.find slot).map fun w =>
      { core := core, slot := slot, entry := none, pc := pc, next := pc + word len, s := w.s, v := w.v,
        mask := BitVec.allOnes 64, fpmode := w.fpmode, sup := w.t.sup, sflags := 0, vflags := 0, lanes := 0, checked := false }
where
  waveSetS (v : Vector Word 64) (r : Nat) (x : Word) : Vector Word 64 := if h : r < 64 then v.set r x h else v

/-- The pc of the thread that slot n would issue for. -/
def slotPc (s : State) (core slot : Nat) : Option Word :=
  let k := s.core core
  if slot = 7 then k.held.bind fun e => (k.rq.find e).map (·.fib.pc) else (k.slots.find slot).map (·.pc)

/-- The rig command in a bundle whose bits make it ILLEGAL: an open instruction that it names is abandoned (R317). -/
def rigOfWords (w0 w1 w2 w3 : Word) : List Instr :=
  if isCommand w0 then
    match decodeC (w0.extractLsb' 56 6).toNat (cmdHdr w0) w1 w2 w3 with
    | .ok i => [i]
    | .error _ => []
  else []

/-- Fetch the bundle at pc and open its issue: a fetch trap, a skipped bundle (R21), ILLEGAL (R161), or its operations in `todo`. A
fetch inside a command block traps before the governing mask is looked at (notes/assumptions/81.md). -/
def fetchBundle (s : State) (core slot : Nat) : State :=
  match slotPc s core slot with
  | none => s
  | some pc =>
    let w0 := codeWord s core pc.toNat
    let len := if isCommand w0 then 32 else 8
    match issueOf s core slot pc len with
    | none => s
    | some c =>
      let s := { s with issue := some c, todo := [] }
      match fetchCause s core pc with
      | some cause => takeTrap s c (Trap.simple cause pc)
      | none =>
        if poisoned s (tcmKey core (pc.toNat - 0xFFFFFFFF00000000)) len then
          (consumePoison s core (s.issThr c).uid).closeIssue
        else
          let ms := bundleMask w0
          if (s.issThr c).pend.any (fun p => p.1 == ms.toNat && ms != 0) then (suspend s c (.token ms.toNat)).closeIssue
          else if ms != 0 && c.entry.isNone && c.reg ms.toNat == 0 then retire s
          else
            let w1 := codeWord s core (pc.toNat + 8)
            let w2 := codeWord s core (pc.toNat + 16)
            let w3 := codeWord s core (pc.toNat + 24)
            match decodeBundle w0 w1 w2 w3 with
            | .error _ => takeTrap (condemnAt s c (rigOfWords w0 w1 w2 w3)) c (Trap.simple 1 pc)
            | .ok b =>
              { s with issue := some { c with mask := maskOf c ms }, todo := bundleOps b }

/-- The slot uses its turn. -/
def useTurn (s : State) (core slot : Nat) : State :=
  s.modCore core fun k =>
    { k with turns := k.turns.put slot s.clk, count := if slot = 7 then k.count + 1 else k.count }

/-- The table pointer: it advances on every clk, from entry 0 on the first after reset (R14, R16). -/
def tablePtr (s : State) : Nat := (s.clk - s.resetClk) % 32

/-- Read the table entry; a table installed on an earlier clk is in force (R16, R225). -/
def readTable (s : State) (core : Nat) : Nat × State :=
  let s := s.modCore core fun k =>
    match k.trimNew with
    | some (t, tab) => if t < s.clk then { k with trim := tab, trimNew := none } else k
    | none => k
  let k := s.core core
  (k.trim.getD (tablePtr s) 8, s.setCore core { k with lastRead := some s.clk })

/-- ISSUE_TURN (R16): one table entry a clk. -/
def execIssueTurn (core : Nat) (s : State) : Out :=
  if (s.core core).lastRead == some s.clk || (s.core core).fenced then .next s
  else
    let (entry, s) := readTable s core
    if entry = 8 then .next s
    else if withheld s core entry then .next (countEvent s core 3)
    else
      let s := discardDead ((s.core core).rq.length) (quantumExpire s core) core
      match pickSlot s core entry with
      | none => .next s
      | some slot =>
        let s := if slot = 7 then takeFibre s core else s
        .next (fetchBundle (useTurn s core slot) core slot)

end Sys2Proof.Machine
end

