-- ==== Sys2Proof/Machine/Scalar.lean ====
section
/-!
DEFINITION. Meanings of the scalar integer and address operations (06 R176-R180).
-/
namespace Sys2Proof.Machine

/-- An operation whose whole effect is a new value of sd. -/
def scalarOp (i : Instr) (sd : BitVec 6) (s : State) (f : Issue → State → Word) : Out :=
  start i s fun c s => retire (s.setReg c sd.toNat (f c s))

/-- The binary operations at width w: x and y read as Table 6.1 says, the result finished by R176. -/
def intOp (i : Instr) (sd sa : BitVec 6) (y : Opb) (zx sat : Bool) (w : IntW) (sx sy : Bool) (f : Int → Int → Int)
    (s : State) : Out :=
  scalarOp i sd s fun c s =>
    let n := widthOf w
    finishInt n zx sat (f (readInt n sx (c.reg sa.toNat).toNat) (readInt n sy (opb s c y).toNat))

/-- The same on the bits of x and y. -/
def bitsOp (i : Instr) (sd sa : BitVec 6) (y : Opb) (zx : Bool) (w : IntW) (f : Nat → Nat → Nat → Int) (s : State) : Out :=
  scalarOp i sd s fun c s =>
    let n := widthOf w
    finishInt n zx false (f n ((c.reg sa.toNat).toNat % 2 ^ n) ((opb s c y).toNat % 2 ^ n))

/-- The operations without opb. -/
def unaryOp (i : Instr) (sd sa : BitVec 6) (zx : Bool) (w : IntW) (f : Nat → Nat → Int) (s : State) : Out :=
  scalarOp i sd s fun c _ =>
    let n := widthOf w
    finishInt n zx false (f n ((c.reg sa.toNat).toNat % 2 ^ n))

/-- SEXT, BFX and BFI take all of opb as control, and BFI the old sd (R178). -/
def fieldOp (i : Instr) (sd sa : BitVec 6) (y : Opb) (zx : Bool) (w : IntW) (f : Nat → Nat → Nat → Nat → Int) (s : State) : Out :=
  scalarOp i sd s fun c s =>
    let n := widthOf w
    finishInt n zx false (f n (c.reg sd.toNat).toNat ((c.reg sa.toNat).toNat % 2 ^ n) (opb s c y).toNat)

/-- The comparisons (R179). -/
def setOp (i : Instr) (sd sa : BitVec 6) (y : Opb) (w : IntW) (signed : Bool) (f : Int → Int → Bool) (s : State) : Out :=
  scalarOp i sd s fun c s =>
    let n := widthOf w
    if f (readInt n signed (c.reg sa.toNat).toNat) (readInt n signed (opb s c y).toNat) then 1 else 0

/-- ADD (R176, Table 6.1). -/
def execAdd (sd sa : BitVec 6) (y : Opb) (zx sat : Bool) (w : IntW) (s : State) : Out :=
  intOp (.add sd sa y zx sat w) sd sa y zx sat w (!zx) (!zx) (fun x y => x + y) s

/-- SUB (R176, Table 6.1). -/
def execSub (sd sa : BitVec 6) (y : Opb) (zx sat : Bool) (w : IntW) (s : State) : Out :=
  intOp (.sub sd sa y zx sat w) sd sa y zx sat w (!zx) (!zx) (fun x y => x - y) s

/-- MUL (R176, Table 6.1). -/
def execMul (sd sa : BitVec 6) (y : Opb) (zx sat : Bool) (w : IntW) (s : State) : Out :=
  intOp (.mul sd sa y zx sat w) sd sa y zx sat w (!zx) (!zx) (fun x y => x * y) s

/-- MULH (R176, Table 6.1). -/
def execMulh (sd sa : BitVec 6) (y : Opb) (zx : Bool) (w : IntW) (s : State) : Out :=
  intOp (.mulh sd sa y zx w) sd sa y zx false w true true (fun x y => (x * y) / ((2 ^ widthOf w : Nat) : Int)) s

/-- MULHN (R176, Table 6.1). -/
def execMulhn (sd sa : BitVec 6) (y : Opb) (zx : Bool) (w : IntW) (s : State) : Out :=
  intOp (.mulhn sd sa y zx w) sd sa y zx false w false false (fun x y => (x * y) / ((2 ^ widthOf w : Nat) : Int)) s

/-- DIV (R117). -/
def execDiv (sd sa : BitVec 6) (y : Opb) (zx : Bool) (w : IntW) (s : State) : Out :=
  intOp (.div sd sa y zx w) sd sa y zx false w true true (fun x y => divInt (widthOf w) true x y) s

/-- DIVN (R117). -/
def execDivn (sd sa : BitVec 6) (y : Opb) (zx : Bool) (w : IntW) (s : State) : Out :=
  intOp (.divn sd sa y zx w) sd sa y zx false w false false (fun x y => divInt (widthOf w) false x y) s

/-- REM (R117). -/
def execRem (sd sa : BitVec 6) (y : Opb) (zx : Bool) (w : IntW) (s : State) : Out :=
  intOp (.rem sd sa y zx w) sd sa y zx false w true true (fun x y => remInt (widthOf w) true x y) s

/-- REMN (R117). -/
def execRemn (sd sa : BitVec 6) (y : Opb) (zx : Bool) (w : IntW) (s : State) : Out :=
  intOp (.remn sd sa y zx w) sd sa y zx false w false false (fun x y => remInt (widthOf w) false x y) s

/-- AND (R176, Table 6.1). -/
def execAnd (sd sa : BitVec 6) (y : Opb) (zx : Bool) (w : IntW) (s : State) : Out :=
  bitsOp (.and sd sa y zx w) sd sa y zx w (fun _ x y => ((x &&& y : Nat) : Int)) s

/-- OR (R176, Table 6.1). -/
def execOr (sd sa : BitVec 6) (y : Opb) (zx : Bool) (w : IntW) (s : State) : Out :=
  bitsOp (.or sd sa y zx w) sd sa y zx w (fun _ x y => ((x ||| y : Nat) : Int)) s

/-- XOR (R176, Table 6.1). -/
def execXor (sd sa : BitVec 6) (y : Opb) (zx : Bool) (w : IntW) (s : State) : Out :=
  bitsOp (.xor sd sa y zx w) sd sa y zx w (fun _ x y => ((x ^^^ y : Nat) : Int)) s

/-- ANDN (R176, Table 6.1). -/
def execAndn (sd sa : BitVec 6) (y : Opb) (zx : Bool) (w : IntW) (s : State) : Out :=
  bitsOp (.andn sd sa y zx w) sd sa y zx w (fun n x y => ((x &&& (2 ^ n - 1 - y) : Nat) : Int)) s

/-- SHL (R176, Table 6.1). -/
def execShl (sd sa : BitVec 6) (y : Opb) (zx : Bool) (w : IntW) (s : State) : Out :=
  bitsOp (.shl sd sa y zx w) sd sa y zx w (fun n x y => ((x * 2 ^ (y % n) : Nat) : Int)) s

/-- SHR (R176, Table 6.1). -/
def execShr (sd sa : BitVec 6) (y : Opb) (zx : Bool) (w : IntW) (s : State) : Out :=
  bitsOp (.shr sd sa y zx w) sd sa y zx w (fun n x y => ((x / 2 ^ (y % n) : Nat) : Int)) s

/-- SHA (R176, Table 6.1). -/
def execSha (sd sa : BitVec 6) (y : Opb) (zx : Bool) (w : IntW) (s : State) : Out :=
  bitsOp (.sha sd sa y zx w) sd sa y zx w (fun n x y => toSigned n x / ((2 ^ (y % n) : Nat) : Int)) s

/-- ROL (R176, Table 6.1). -/
def execRol (sd sa : BitVec 6) (y : Opb) (zx : Bool) (w : IntW) (s : State) : Out :=
  bitsOp (.rol sd sa y zx w) sd sa y zx w (fun n x y => ((rolNat n x (y % n) : Nat) : Int)) s

/-- MIN (R176, Table 6.1). -/
def execMin (sd sa : BitVec 6) (y : Opb) (zx : Bool) (w : IntW) (s : State) : Out :=
  intOp (.min sd sa y zx w) sd sa y zx false w true true (fun x y => if y < x then y else x) s

/-- MAX (R176, Table 6.1). -/
def execMax (sd sa : BitVec 6) (y : Opb) (zx : Bool) (w : IntW) (s : State) : Out :=
  intOp (.max sd sa y zx w) sd sa y zx false w true true (fun x y => if x < y then y else x) s

/-- MINN (R176, Table 6.1). -/
def execMinn (sd sa : BitVec 6) (y : Opb) (zx : Bool) (w : IntW) (s : State) : Out :=
  intOp (.minn sd sa y zx w) sd sa y zx false w false false (fun x y => if y < x then y else x) s

/-- MAXN (R176, Table 6.1). -/
def execMaxn (sd sa : BitVec 6) (y : Opb) (zx : Bool) (w : IntW) (s : State) : Out :=
  intOp (.maxn sd sa y zx w) sd sa y zx false w false false (fun x y => if x < y then y else x) s

/-- ABS (R176, Table 6.1). -/
def execAbs (sd sa : BitVec 6) (zx : Bool) (w : IntW) (s : State) : Out :=
  unaryOp (.abs sd sa zx w) sd sa zx w (fun n x => ((toSigned n x).natAbs : Int)) s

/-- CLZ (R176, Table 6.1). -/
def execClz (sd sa : BitVec 6) (zx : Bool) (w : IntW) (s : State) : Out :=
  unaryOp (.clz sd sa zx w) sd sa zx w (fun n x => (clzNat n x : Int)) s

/-- CTZ (R176, Table 6.1). -/
def execCtz (sd sa : BitVec 6) (zx : Bool) (w : IntW) (s : State) : Out :=
  unaryOp (.ctz sd sa zx w) sd sa zx w (fun n x => (ctzNat n x : Int)) s

/-- POPC (R176, Table 6.1). -/
def execPopc (sd sa : BitVec 6) (zx : Bool) (w : IntW) (s : State) : Out :=
  unaryOp (.popc sd sa zx w) sd sa zx w (fun n x => (popcNat n x : Int)) s

/-- BREV (R176, Table 6.1). -/
def execBrev (sd sa : BitVec 6) (zx : Bool) (w : IntW) (s : State) : Out :=
  unaryOp (.brev sd sa zx w) sd sa zx w (fun n x => (brevNat n x : Int)) s

/-- SEXT (R178). -/
def execSext (sd sa : BitVec 6) (y : Opb) (zx : Bool) (w : IntW) (s : State) : Out :=
  fieldOp (.sext sd sa y zx w) sd sa y zx w (fun n _ x k => sextField n x k) s

/-- BFX (R178). -/
def execBfx (sd sa : BitVec 6) (y : Opb) (zx : Bool) (w : IntW) (s : State) : Out :=
  fieldOp (.bfx sd sa y zx w) sd sa y zx w (fun n _ x k => bfxField n (!zx) x k) s

/-- BFI (R178). -/
def execBfi (sd sa : BitVec 6) (y : Opb) (zx : Bool) (w : IntW) (s : State) : Out :=
  fieldOp (.bfi sd sa y zx w) sd sa y zx w (fun n old x k => (bfiField n old x k : Int)) s

/-- SEQ (R179). -/
def execSeq (sd sa : BitVec 6) (y : Opb) (w : IntW) (s : State) : Out :=
  setOp (.seq sd sa y w) sd sa y w false (fun x y => x == y) s

/-- SNE (R179). -/
def execSne (sd sa : BitVec 6) (y : Opb) (w : IntW) (s : State) : Out :=
  setOp (.sne sd sa y w) sd sa y w false (fun x y => x != y) s

/-- SLT (R179). -/
def execSlt (sd sa : BitVec 6) (y : Opb) (w : IntW) (s : State) : Out :=
  setOp (.slt sd sa y w) sd sa y w true (fun x y => x < y) s

/-- SLTN (R179). -/
def execSltn (sd sa : BitVec 6) (y : Opb) (w : IntW) (s : State) : Out :=
  setOp (.sltn sd sa y w) sd sa y w false (fun x y => x < y) s

/-- SEL (R179). -/
def execSel (sd sa : BitVec 6) (y : Opb) (s : State) : Out :=
  scalarOp (.sel sd sa y) sd s fun c s =>
    if c.reg sd.toNat != 0 then c.reg sa.toNat else opb s c y

/-- LEA (R180). -/
def execLea (sd sa : BitVec 6) (y : Opb) (sh : BitVec 2) (s : State) : Out :=
  scalarOp (.lea sd sa y sh) sd s fun c s =>
    c.reg sa.toNat + opb s c y <<< sh.toNat

/-- LI (R180). -/
def execLi (sd : BitVec 6) (imm : BitVec 32) (s : State) : Out :=
  scalarOp (.li sd imm) sd s fun _ _ => sext32 imm

/-- LIH (R180). -/
def execLih (sd : BitVec 6) (imm : BitVec 32) (s : State) : Out :=
  scalarOp (.lih sd imm) sd s fun c _ => imm ++ (c.reg sd.toNat).setWidth 32

end Sys2Proof.Machine
end

