-- ==== Sys2Proof/Machine/SysReg.lean ====
section
/-!
DEFINITION. System registers: the meanings of MFSR and MTSR with every register's own rule (06 R189-R191; Tables 13.1, 14.1, 16.8), and of
the events that finish a write. Access by privilege has been checked by `illegalNow`. A reserved field reads zero (R10).
-/
namespace Sys2Proof.Machine

def isRange (n lo hi : Nat) : Bool := lo ≤ n && n ≤ hi

/-- The field [hi:lo] of a value, in its place. -/
def keep (v : Word) (hi lo : Nat) : Nat := bits v.toNat hi lo <<< lo

/-! ## Reads -/

/-- Slots of a core whose threads are held in the context cache (R361, R391). -/
def savedSlots (s : State) (core : Nat) : Nat :=
  ((s.cluster (clusterOf core)).saved.filter fun x => x.core == core).foldl (fun a x => a ||| 2 ^ x.slot) 0

def haltedSlots (s : State) (core : Nat) : Nat :=
  ((s.cluster (clusterOf core)).saved.filter fun x => x.core == core && savedReason s x == 3).foldl (fun a x => a ||| 2 ^ x.slot) 0

/-- RESOURCES (R449). -/
def resources (s : State) : Nat :=
  let fenced := (s.cores.filter fun x => x.1 < 6144 && x.2.fenced).map (·.1)
  let deadC := (List.range 384).filter fun k => (coresOfCluster k).all fenced.contains
  let deadD := (List.range 6).filter fun d => (List.range 64).all fun k => deadC.contains (64 * d + k)
  (6144 - fenced.length) + (384 - deadC.length) <<< 13 + (6 - deadD.length) <<< 22

/-- TRAPQSTAT (R385). -/
def trapqStat (s : State) (d : Nat) : Nat :=
  let cs := (List.range 64).map fun k => s.cluster (64 * d + k)
  let un := (cs.map fun q => (q.misses.filter fun m => m.st == .unrecorded).length).foldl (· + ·) 0
  let hf := (cs.map fun q => (q.held.filter fun r => r.fatal).length).foldl (· + ·) 0
  trapOcc s d % 2 ^ 13 + un % 2 ^ 16 <<< 16 + hf % 2 ^ 16 <<< 32

/-- The fields of TLBENTHI and TLBENTLO (Tables 14.2, 14.3). -/
def tlbHiFields (v : Word) : Nat := keep v 63 63 + keep v 52 35 + keep v 34 0
def tlbLoFields (v : Word) : Nat := keep v 59 48 + keep v 46 12 + keep v 3 2

/-- What an MFSR of register n returns to the issuing thread. -/
def sysRead (s : State) (c : Issue) (n : Nat) : Nat :=
  let k := s.core c.core
  let q := s.cluster (clusterOf c.core)
  let d := s.die (dieOf c.core)
  let p := match s.partOf c.core with | some i => s.part i | none => Part.reset 1
  let t := s.issThr c
  let w := match c.entry with | none => (k.slots.find c.slot).getD Wave.vacant | some _ => Wave.vacant
  if n = 0 then w.fpmode
  else if n = 1 then w.fpflags
  else if n = 2 then w.trappc.toNat
  else if n = 3 then w.trapcause
  else if n = 4 then w.traplanes
  else if n = 5 then w.utvec.toNat
  else if n = 6 then (match c.entry.bind fun e => k.rq.find e with | some x => x.fib.tag % 2 ^ 24 | none => 0)
  else if n = 7 then bit c.sup
  else if n = 0x10 then k.mstat
  else if n = 0x11 then k.lsplit
  else if n = 0x12 then k.fadmit
  else if n = 0x13 then tableHalf (tableNow k s.clk) false
  else if n = 0x14 then tableHalf (tableNow k s.clk) true
  else if n = 0x15 then k.spillBase.toNat
  else if n = 0x16 then k.spillSize
  else if n = 0x17 then bit k.fenced + bit (isHelm s c.core) * 2 + bit k.hold * 4 + savedSlots s c.core <<< 8
  else if n = 0x18 then k.ringBase.toNat
  else if n = 0x20 then q.phasewin
  else if n = 0x21 then q.ctxbase.toNat
  else if isRange n 0x36 0x3F then ((p.scopes.find (n - 0x30)).getD 0).toNat
  else if isRange n 0x46 0x4F then ((p.scopesC.find (n - 0x40)).getD 0).toNat
  else if n = 0x50 then p.rigbase.toNat
  else if n = 0x51 then p.rigload + p.rigbad <<< 32
  else if n = 0x60 then d.agecfg
  else if n = 0x61 then d.helmcore
  else if n = 0x62 then d.reqbase.toNat
  else if isRange n 0x70 0x75 then (s.part (n - 0x70)).cfg.toNat
  else if n = 0x100 then tlbHiFields t.tlbHi
  else if n = 0x101 then tlbLoFields t.tlbLo
  else if n = 0x102 then bit t.tlbRefused
  else if n = 0x103 then p.ptroot.toNat
  else if n = 0x104 then q.faultcfg
  else if n = 0x108 then d.trapqBase.toNat
  else if n = 0x109 then d.freplyBase.toNat
  else if n = 0x10A then trapqStat s (dieOf c.core)
  else if n = 0x111 then k.dbgctl + haltedSlots s c.core <<< 32
  else if n = 0x118 then p.reccfg.toNat
  else if n = 0x119 then p.recbase.toNat
  else if n = 0x11A then p.recsize
  else if n = 0x11B then p.undobase.toNat
  else if n = 0x11C then p.undosize
  else if n = 0x11D then p.recstat
  else if n = 0x200 then k.scopeMiss
  else if n = 0x201 then k.cntcfg
  else if isRange n 0x202 0x205 then (k.cnts.find (n - 0x202)).getD 0
  else if n = 0x210 then d.refsplit
  else if n = 0x220 then d.level + bit (d.level != 0) * 64 + d.junction <<< 16
  else if n = 0x221 then resources s
  else 0

/-- MFSR (R189). -/
def execMfsr (sd : BitVec 6) (num : BitVec 16) (s : State) : Out :=
  scalarOp (.mfsr sd num) sd s fun c s => word (sysRead s c num.toNat)

/-! ## Writes with a rule of their own -/

/-- Role of a unit of local SRAM: 0 private, 1 treelet store, 2 local cache (R68). -/
def unitRole (lsplit u : Nat) : Nat :=
  if u < privUnits lsplit then 0 else if u < privUnits lsplit + treeUnits lsplit then 1 else 2

/-- The directory slice of a treelet (R282). -/
def dirSlice (id : Nat) : Nat := hash32 id 0 % 288
def dirNode (id : Nat) : Node := .slice (dirSlice id)

def DirEntry.isKey (e : DirEntry) (p b i : Nat) : Bool := e.part == p && e.tbase == b && e.id == i

def dirEntry (s : State) (p b i : Nat) : Option DirEntry := (s.slice (dirSlice i)).dir.find? fun e => e.isKey p b i

def modEntry (s : State) (p b i : Nat) (f : DirEntry → DirEntry) : State :=
  s.modSlice (dirSlice i) fun q => { q with dir := q.dir.map fun e => if e.isKey p b i then f e else e }

/-- An entry that names no core any more is Cold: it goes. -/
def dropCold (s : State) (i : Nat) : State :=
  s.modSlice (dirSlice i) fun q => { q with dir := q.dir.filter fun e => !(e.owners.isEmpty && e.paging.isNone && e.evicting.isEmpty) }

/-- A core is no owner of a treelet any more, nor about to be one. -/
def DirEntry.without (e : DirEntry) (core : Nat) : DirEntry :=
  { e with owners := e.owners.filter (· != core), paging := e.paging.filter (· != core), losing := e.losing.filter (· != core),
           asked := e.asked.filter fun x => x.1 != core }

/-- LSPLIT (R68, R69): refused when out of range; a change of PRIV or TREE loses the treelets that lie in a unit leaving the store,
invalidates the local cache, and leaves the bytes above the new private size undefined. -/
def writeLsplit (s : State) (core : Nat) (v : Word) : State :=
  let n := keep v 16 16 + keep v 11 8 + keep v 4 0
  let k := s.core core
  let old := k.lsplit
  if privUnits n < 4 || 24 < privUnits n || 12 < treeUnits n || 24 < privUnits n + treeUnits n then s
  else if privUnits n == privUnits old && treeUnits n == treeUnits old then s.setCore core { k with lsplit := n }
  else
    let stays := fun u => unitRole old u == 1 && unitRole n u == 1
    let kept := k.treelets.filter fun t => t.units.all stays
    let lost := k.treelets.filter fun t => !t.units.all stays
    let s := s.setCore core { k with lsplit := n, treelets := kept, cache := [] }
    let s := lost.foldl (fun s t => withdraw s core t.tbase t.id) s
    clobber s core (privSize n) (privSize old)
where
  /-- The core leaves the treelet's directory entry before the write completes. -/
  withdraw (s : State) (core tbase id : Nat) : State :=
    match s.partOf core with
    | none => s
    | some p => dropCold (modEntry s p tbase id fun e => e.without core) id
  /-- Bytes from the new private size to the old one become free values (R69). -/
  clobber (s : State) (core lo hi : Nat) : State :=
    { s with
      mem := memPutAll s.mem ((List.range (hi - lo)).map fun i => (tcmKey core (lo + i), Config.freeByte (s.freeCtr + i)))
      freeCtr := s.freeCtr + (hi - lo) }

/-- PHASEWIN (R78): written bits are cleared. -/
def writePhasewin (s : State) (k : Nat) (v : Word) : State :=
  let n := keep v 19 0
  if 1024 < pwBase n + 2 * pwCount n then s
  else s.modCluster k fun q => { q with phasewin := n, written := [], early := [] }

/-- FADMIT (R37). -/
def fadmitOf (v : Nat) : Nat := let x := v / 8 * 8; if x < 40 then 40 else if 248 < x then 248 else x

/-- TRIMTAB0 or TRIMTAB1 (R359): checked, installed from the next clk. The clk's writes are kept for a barrier that releases on it. -/
def writeTrimtab (s : State) (core : Nat) (hi : Bool) (v : Word) : State :=
  s.modCore core fun k =>
    { k with trim := tableNow k s.clk
             trimNew := some (s.clk, tableWrite (tableNow k (s.clk + 1)) (hi, v))
             trimSet := (s.clk, (if k.trimSet.1 == s.clk then k.trimSet.2 else []) ++ [(hi, v)]) }

/-- TRAPQBASE: the header of the new queue has been zeroed, so TAIL starts again (R384; notes/assumptions/83.md). -/
def writeTrapqbase (s : State) (d : Nat) (v : Word) : State :=
  let s := s.modDie d fun x => { x with trapqBase := word (keep v 46 12), trapTail := 0 }
  (List.range 64).foldl (fun s k => s.modCluster (64 * d + k) fun q => { q with reserveOut := none }) s

/-- DEBUG_RESUME: REASON HALT becomes PREEMPT (R395). -/
def debugResume (s : State) (core slot : Nat) : State :=
  match (s.cluster (clusterOf core)).saved.find? fun x => x.core == core && x.slot == slot && savedReason s x == 3 with
  | none => s
  | some x =>
    let y := { x with reason := 1, wave := savedWave s x }
    let s := s.modCluster (clusterOf core) fun q =>
      { q with saved := q.saved.map fun z => if z.core == core && z.slot == slot then y else z }
    if x.onChip then s else writeImage s y

/-- DBGCTL (R395): BRKHALT and STEP are stored, HALTREQ is served slot by slot, RESUME acts at once. -/
def writeDbgctl (s : State) (core : Nat) (v : Word) : State :=
  let n := v.toNat
  let s := s.modCore core fun k => { k with dbgctl := bits n 15 0, haltReq := k.haltReq ||| bits n 23 16 }
  (List.range 8).foldl (fun s k => if bitAt n (24 + k) then debugResume s core k else s) s

/-- Registers whose write suspends the thread until it is done. -/
def isSlowReg (n : Nat) : Bool :=
  n == 0x18 || isRange n 0x36 0x3F || isRange n 0x46 0x4F || n == 0x51 || n == 0x102 || n == 0x110 || n == 0x211

/-- The effective priority of a launch on this clk (R362): never lower than it was. -/
def effNow (s : State) (l : Launch) : Nat :=
  let step := bits (s.die l.die).agecfg 15 0
  if step = 0 || l.tasks ≤ l.written then l.eff else Nat.max l.eff (Nat.min 3 (l.prio + (s.clk - l.accepted) / (256 * step)))

/-- AGECFG changes: what the effective priorities of the die have risen to stands. -/
def writeAgecfg (s : State) (die v : Nat) : State :=
  let s : State := { s with launches := s.launches.map fun x => (x.1, if x.2.die == die then { x.2 with eff := effNow s x.2 } else x.2) }
  s.modDie die fun d => { d with agecfg := v }

/-- What an MTSR of register n does at once. -/
def sysWrite (s : State) (c : Issue) (n : Nat) (v : Word) : State :=
  let core := c.core
  let cl := clusterOf core
  let modP := fun f => match s.partOf core with | some i => s.modPart i f | none => s
  if n ≤ 5 then
    s.modIssWave c fun w =>
      match c.entry with
      | some _ => w
      | none =>
        if n = 0 then { w with fpmode := keep v 12 8 + keep v 1 0 }
        else if n = 1 then { w with fpflags := keep v 4 0 }
        else if n = 2 then { w with trappc := v }
        else if n = 3 then { w with trapcause := keep v 63 63 + keep v 36 32 + keep v 31 15 + keep v 7 0 }
        else if n = 4 then { w with traplanes := v.toNat }
        else { w with utvec := v &&& ~~~6#64 }
  else if n = 0x10 then s.modCore core fun k => { k with mstat := keep v 3 0 }
  else if n = 0x11 then writeLsplit s core v
  else if n = 0x12 then s.modCore core fun k => { k with fadmit := fadmitOf v.toNat }
  else if n = 0x13 then writeTrimtab s core false v
  else if n = 0x14 then writeTrimtab s core true v
  else if n = 0x15 then s.modCore core fun k => { k with spillBase := word (keep v 46 12), spillNext := 0 }
  else if n = 0x16 then s.modCore core fun k => { k with spillSize := keep v 23 0, spillNext := 0 }
  else if n = 0x17 then s.modCore core fun k => { k with hold := v.getLsbD 2 }
  else if n = 0x20 then writePhasewin s cl v
  else if n = 0x21 then s.modCluster cl fun q => { q with ctxbase := word (keep v 46 12) }
  else if n = 0x50 then modP fun p => { p with rigbase := word (keep v 46 15) }
  else if n = 0x60 then writeAgecfg s (dieOf core) (keep v 15 0)
  else if n = 0x62 then s.modDie (dieOf core) fun d => { d with reqbase := word (keep v 47 12 + keep v 6 0) }
  else if n = 0x100 then s.modIssThr c fun t => { t with tlbHi := v }
  else if n = 0x101 then s.modIssThr c fun t => { t with tlbLo := v }
  else if n = 0x103 then modP fun p => { p with ptroot := word (keep v 46 12 + keep v 0 0) }
  else if n = 0x104 then s.modCluster cl fun q => { q with faultcfg := keep v 0 0 }
  else if n = 0x108 then writeTrapqbase s (dieOf core) v
  else if n = 0x109 then s.modDie (dieOf core) fun d => { d with freplyBase := word (keep v 46 12) }
  else if n = 0x111 then writeDbgctl s core v
  else if n = 0x118 then modP fun p => { p with reccfg := word (keep v 63 32 + keep v 1 0) }
  else if n = 0x119 then modP fun p => { p with recbase := word (keep v 46 12) }
  else if n = 0x11A then modP fun p => { p with recsize := keep v 31 0 }
  else if n = 0x11B then modP fun p => { p with undobase := word (keep v 46 12) }
  else if n = 0x11C then modP fun p => { p with undosize := keep v 31 0 }
  else if n = 0x200 then s.modCore core fun k => { k with scopeMiss := keep v 47 0 }
  else if n = 0x201 then s.modCore core fun k => { k with cntcfg := keep v 31 0 }
  else if isRange n 0x202 0x205 then s.modCore core fun k => { k with cnts := k.cnts.put (n - 0x202) (keep v 47 0) }
  else if n = 0x210 then s.modDie (dieOf core) fun d => { d with refsplit := keep v 47 0 }
  else s

/-- The entries that a write to RIGLOAD names (R367). -/
def rigloadEntries (v : Word) : List Nat := (List.range (Nat.min (bits v.toNat 16 8) 256)).map fun i => (bits v.toNat 7 0 + i) % 256

/-- The end of a RIGLOAD: the value written, and the entries installed as no entry. -/
def rigloadDone (s : State) (core : Nat) (v : Word) (bad : Nat) : State :=
  match s.partOf core with
  | none => s
  | some p => s.modPart p fun r => { r with rigload := keep v 16 0, rigbad := bad }

/-- MTSR (R189, R191). A RIGLOAD that names no entry completes at once (R367); of another, the entries left to load follow their count of
refusals in the latch. -/
def execMtsr (sa : BitVec 6) (num : BitVec 16) (s : State) : Out :=
  start (.mtsr sa num) s fun c s =>
    let v := c.reg sa.toNat
    let n := num.toNat
    if n = 0x51 then
      if (rigloadEntries v).isEmpty || (s.partOf c.core).isNone then retire (rigloadDone s c.core v 0)
      else retireInto (s.modIssThr c fun t => { t with latch := 0 :: rigloadEntries v }) (.sysop n v)
    else if isSlowReg n then
      retireInto (s.modIssThr c fun t => { t with latch := [] }) (.sysop n (if n = 0x110 then v &&& 3 else v))
    else retire (sysWrite s c n v)

/-! ## The events of single registers -/

/-- LSPLIT_WRITE (R69). -/
def execLsplitWrite (core : Nat) (v : Word) (s : State) : Out := .next (writeLsplit s core v)
/-- PHASEWIN_WRITE (R78). -/
def execPhasewinWrite (k : Nat) (v : Word) (s : State) : Out := .next (writePhasewin s k v)
/-- TRIMTAB_WRITE (R359). -/
def execTrimtabWrite (core : Nat) (hi : Bool) (v : Word) (s : State) : Out := .next (writeTrimtab s core hi v)
/-- DEBUG_RESUME (R395). -/
def execDebugResume (core slot : Nat) (s : State) : Out := .next (debugResume s core slot)

/-! ## Writes that suspend -/

/-- The waves of a slot: the one on it, and its saved image, which may be another's (R391). -/
def wavesAt (s : State) (core slot : Nat) : List Wave :=
  ((s.core core).slots.find slot).toList ++
    ((s.cluster (clusterOf core)).saved.filter fun x => x.core == core && x.slot == slot).map (·.wave)

/-- The threads that a thread identifier names: the wave on the slot, and the slot's saved image, which may be another's (R391). -/
def threadsOf (s : State) (t : Tid) : List (Nat × Thr) :=
  match t with
  | .wave c k => (wavesAt s c k).map fun w => (c, w.t)
  | .fibre c e => (((s.core c).rq.find e).map fun x => (c, x.t)).toList
  | .cmd _ _ => []

/-- An event for each of them. -/
def eachThr (s : State) (t : Tid) (f : State → Nat → Thr → State) : State :=
  (threadsOf s t).foldl (fun s x => match s.thrOf x.1 x.2.uid with | some th => f s x.1 th | none => s) s

/-- The write a thread waits for, when it is of register n. -/
def pendingWrite (s : State) (t : Tid) (ok : Nat → Bool) : Option (Nat × Thr × Nat × Word) :=
  (threadsOf s t).findSome? fun x => match x.2.wait with
    | .sysop n v => if ok n then some (x.1, x.2, n, v) else none
    | _ => none

/-- The victims of a ring image at a (R363). -/
def ringAt (s : State) (a : Nat) : List Nat :=
  (List.range (devGet s a 2 % 256)).map fun i => devGet s (a + 2 + 2 * i) 2 % 2 ^ 13

/-- STEALRING_LOAD (R363). -/
def execStealringLoad (t : Tid) (s : State) : Out :=
  match pendingWrite s t (· == 0x18) with
  | none => .next s
  | some (core, th, _, v) =>
    let a := keep v 46 6
    .next (devRead s a (2 + 2 * (devGet s a 2 % 256)) fun s =>
      (s.modCore core fun k => { k with ring := some (ringAt s a), ringPos := 0, ringBase := word a }).resume core th.uid)

/-- SCOPE_WRITE (R93, R365). -/
def execScopeWrite (t : Tid) (s : State) : Out :=
  match pendingWrite s t (fun n => isRange n 0x36 0x3F || isRange n 0x46 0x4F) with
  | none => .next s
  | some (core, th, n, v) =>
    let s := match s.partOf core with
      | none => s
      | some p => s.modPart p fun r =>
        if n < 0x40 then { r with scopes := r.scopes.put (n - 0x30) (word (keep v 31 16 + keep v 5 0)) }
        else { r with scopesC := r.scopesC.put (n - 0x40) v }
    .next (s.resume core th.uid)

/-! ## RIGLOAD (R366-R368) -/

/-- The members of a rig-table entry read at address a, or none when it is no entry (R367). -/
def rigEntryAt (s : State) (p i a : Nat) : Option (List Nat) :=
  let g := fun o n => devGet s (a + o) n
  let m := g 0 1 % 64
  let ms := (List.range m).map fun q => g (8 + 2 * q) 2
  let rest := (List.range (48 - m)).all fun q => g (8 + 2 * (m + q)) 2 == 0
  let good := fun c => c < 6144 && s.partOf c == some p && !isHelm s c && !(s.core c).fenced
  if m == 0 || 48 < m || g 0 1 / 64 != 0 || g 1 1 != i || g 2 6 != 0 || !rest || g 104 24 != 0 || !ms.Nodup || !ms.all good then none
  else some ms

/-- An entry may be replaced: nothing of it is open or running (R368). -/
def rigIdle (s : State) (key : Nat) : Bool :=
  match s.rigs.find key with | none => true | some g => g.arrived.isEmpty && !g.running

def Rig.fresh (m : List Nat) : Rig :=
  { members := m, seq := 0, shape := [], word1 := 0, arrived := [], running := false, abandon := false, waitedAt := none }

/-- Where a partition's rig table has entry i (R366). -/
def rigImage (s : State) (p i : Nat) : Nat := (s.part p).rigbase.toNat + 128 * i

/-- Install an entry, or no entry; whether it was none. -/
def loadRig (s : State) (p i : Nat) : Bool × State :=
  match rigEntryAt s p i (rigImage s p i) with
  | some l => (false, { s with rigs := s.rigs.put (rigKey p i) (Rig.fresh l) })
  | none => (true, { s with rigs := s.rigs.del (rigKey p i) })

/-- RIGLOAD: each entry left whose old instruction is over is read and installed, once the host does not own its lines (R425); the writer
goes on after the last (R368). -/
def execRigload (t : Tid) (s : State) : Out :=
  match pendingWrite s t (· == 0x51) with
  | none => .next s
  | some (core, th, _, v) =>
    match s.partOf core with
    | none => .next (s.resume core th.uid)
    | some p =>
      let left := th.latch.drop 1
      let s := (left.filterMap fun i => devHeld s (rigImage s p i) 128).foldl askHost s
      let now := left.filter fun i => rigIdle s (rigKey p i) && (devHeld s (rigImage s p i) 128).isNone
      let r := now.foldl (fun (x : Nat × State) i => let y := loadRig x.2 p i; (x.1 + bit y.1, y.2)) (th.latch.headD 0, s)
      let rest := left.filter fun i => !now.contains i
      let s := r.2.modThr core th.uid fun t => { t with latch := if rest.isEmpty then [] else r.1 :: rest }
      .next (if rest.isEmpty then (rigloadDone s core v r.1).resume core th.uid else s)

end Sys2Proof.Machine
end

