-- ==== Sys2Proof/Machine/SyncEvents.lean ====
section
/-!
DEFINITION. Meanings of the events of barriers and semaphores: BARRIER_ARRIVAL_COUNT, SEMW_SATISFIED, SEMS_RELEASE_DONE,
SEMAPHORE_UPDATE (07 R221, R227-R229; 10 R318).
-/
namespace Sys2Proof.Machine

/-- The arrival of one wave counts, once the waits of R95 at the barrier's order scope are complete; and the barrier of one that has
arrived is looked at again, since the end of another member may release it (R57). -/
def countArrival (s : State) (core : Nat) (w : Wave) : State :=
  match w.t.wait with
  | .barrier k false tab sd =>
    if releaseDone s core w.t.uid (if k == .develop then 2 else 1) then
      let t := { w.t with wait := .barrier k true tab sd }
      let s := s.modWaveUid core w.t.uid fun x => { x with t := { x.t with wait := .barrier k true tab sd } }
      tryRelease s core { w with t := t } k
    else s
  | .barrier k true _ _ => tryRelease s core w k
  | _ => s

/-- BARRIER_ARRIVAL_COUNT (R221): also of an arrival that its slot issued before it was saved; that such an arrival counts while the
thread is saved is R58's "stays arrived" carried over to it: DEDUCED (notes/assumptions/79.md). -/
def execBarrierArrivalCount (core slot : Nat) (s : State) : Out :=
  .next ((wavesAt s core slot).foldl (fun s w => countArrival s core w) s)

/-- A SEMW whose count satisfies it ends (R227). -/
def satisfySemw (s : State) (core : Nat) (th : Thr) : State :=
  match th.wait with
  | .semw q thr sd acq =>
    let n := semCount s core q
    if semHolds n thr then
      let s := (s.setRegUid core th.uid sd (word n)).resume core th.uid
      (acquireEnd s core th.uid acq).modThr core th.uid (semFloors s core q)
    else s
  | _ => s

/-- SEMW_SATISFIED (R227). -/
def execSemwSatisfied (t : Tid) (s : State) : Out := .next (eachThr s t satisfySemw)

/-- The release waits of a SEMS are over. -/
def semsReady (s : State) (core : Nat) (th : Thr) : State :=
  match th.wait with
  | .release (.sems q inc sd o) =>
    if writesOut s th.uid then s else s.modThr core th.uid fun t => { t with wait := .semsReady q inc sd o }
  | _ => s

/-- SEMS_RELEASE_DONE (R228). -/
def execSemsReleaseDone (t : Tid) (s : State) : Out := .next (eachThr s t semsReady)

/-! ## The update of one clk (R229) -/

/-- Ready SEMSs of the core to a semaphore: issue order, uid, increment, destination. -/
def readySems (s : State) (core q : Nat) : List (Nat × Nat × Nat × Nat) :=
  ((wavesOf s core).map (·.t) ++ (s.core core).rq.map fun x => x.2.t).filterMap fun t => match semsDue s t with
    | some (m, inc, sd, o) => if m == q then some (o, t.uid, inc, sd) else none
    | none => none

/-- SEMAPHORE_UPDATE: a SEMSET and the signals; then one ready SEMS, the earliest issued, unless one was applied at its issue on this
clk. -/
def execSemaphoreUpdate (core q : Nat) (s : State) : Out :=
  let s := semChanges s core q
  if (s.core core).semClk.find q == some s.clk then .next s
  else
    match (readySems s core q).foldl (fun (a : Option (Nat × Nat × Nat × Nat)) x => match a with
      | some y => if x.1 < y.1 then some x else a
      | none => some x) none with
    | none => .next s
    | some (_, uid, inc, sd) =>
      let t := (s.thrOf core uid).getD Thr.vacant
      .next (((applySems s core q inc t).setRegUid core uid sd (word (semCount s core q))).resume core uid)

end Sys2Proof.Machine
end

