-- ==== Sys2Proof/Machine/VecMem.lean ====
section
/-!
DEFINITION. Meanings of the vector memory operations and vector atomics (08 R252-R257; passes of 02 R76).
-/
namespace Sys2Proof.Machine

/-! ## Passes (R76) -/

def inSpad (x : VAcc) : Bool := match x.2.2 with | .near key => isSpad key | _ => false

def passCount (l : List VAcc) : Nat :=
  l.foldl (fun m x => match x.2.2 with | .near key => if isSpad key then Nat.max m (passOf l key + 1) else m | _ => m) 0

/-- Elements of the cluster window that pass j serves. -/
def passElems (l : List VAcc) (j : Nat) : List VAcc :=
  l.filter fun x => match x.2.2 with | .near key => isSpad key && passOf l key == j | _ => false

/-- Elements served on the first turn: those beside the core. -/
def tcmElems (l : List VAcc) : List VAcc :=
  l.filter fun x => match x.2.2 with | .near key => !isSpad key | .ident _ => true | .far _ => false
def farElems (l : List VAcc) : List VAcc := l.filter fun x => match x.2.2 with | .far _ => true | _ => false

def setPasses (s : State) (c : Issue) (n : Nat) (got : List (Nat × Nat)) : State :=
  s.modIssWave c fun w => { w with passes := n, passGot := got }

/-- The elements of an operation with their places, and the thread that makes them. -/
def vecAccesses (s : State) (c : Issue) (i : Instr) (idxs : List Nat) : Option (List VAcc) :=
  match accessesOf s c i with
  | none => none
  | some (k, l) =>
    match checkAll s (issWho s c) k l with
    | .ok pl => some ((idxs.zip pl).map fun x => (x.1, x.2.1, x.2.2))
    | _ => none

/-- Take one pass: none when one of its banks is busy; else the elements of this turn, and whether it is the last. -/
def takePass (s : State) (c : Issue) (l : List VAcc) (j : Nat) : Option (State × List VAcc × Bool) :=
  let e := passElems l j
  let banks := (banksOf (e.map (·.2.2))).eraseDups
  if banksBusy s (clusterOf c.core) (threadPos s c.core) banks then none
  else some (useBanks s (clusterOf c.core) (threadPos s c.core) banks, (if j = 0 then tcmElems l else []) ++ e, passCount l ≤ j + 1)

/-! ## Loads -/

/-- A vector load (R252-R254). A near element that has to wait in its pass is read with the far ones on the last turn. -/
def vecLoad (i : Instr) (idxs : Issue → List Nat) (vd : BitVec 5) (w : Nat) (lax : Bool) (s : State) : Out :=
  start i s fun c s =>
    match vecAccesses s c i (idxs c) with
    | none => s
    | some l =>
      let t := s.issThr c
      let (j, got) := passesDone s c
      match takePass s c l j with
      | none => (countEvent s c.core 2).closeIssue
      | some (s, now, last) =>
        let (s, r) := now.foldl (loadOne c t lax) (s, { LoadAcc.empty with got := got })
        if r.bad then (consumePoison s c.core t.uid).closeIssue
        else if !last then (countEvent ((setPasses s c (j + 1) r.got).modIssThr c (noteFences r.marks)) c.core 2).closeIssue
        else
          let s := setPasses (if l.isEmpty then s else noteAccess s c) c 0 []
          let late := l.filter fun x => !now.contains x && !r.got.any fun y => y.1 == x.1
          let (s, r) := late.foldl (loadOne c t lax) (s, r)
          let (s, ids) := sendLoads c t lax r.out.length r.out s []
          finishLoad c t s { r with reqs := ids } (.vector vd.toNat w) none

/-- VLD (R252). -/
def execVld (vd : BitVec 5) (base : BitVec 6) (imm : BitVec 16) (lax : Bool) (ms : BitVec 6) (et : BitVec 3) (s : State) : Out :=
  vecLoad (.vld vd base imm lax ms et) (fun c => activeElems c.mask (etWidthOnly et)) vd (etWidthOnly et) lax s
/-- VLDS (R252). -/
def execVlds (vd : BitVec 5) (base stride : BitVec 6) (imm : BitVec 16) (lax : Bool) (ms : BitVec 6) (et : BitVec 3)
    (s : State) : Out :=
  vecLoad (.vlds vd base stride imm lax ms et) (fun c => activeElems c.mask (etWidthOnly et)) vd (etWidthOnly et) lax s
/-- VGATH (R252). -/
def execVgath (vd va : BitVec 5) (base : BitVec 6) (imm : BitVec 16) (zx : Bool) (sc : BitVec 2) (lax : Bool) (ms : BitVec 6)
    (et : BitVec 3) (s : State) : Out :=
  vecLoad (.vgath vd va base imm zx sc lax ms et) (fun c => activeElems c.mask (etWidthOnly et)) vd (etWidthOnly et) lax s

/-- The value, or the access still to be made, of one access goes to every active element. -/
def broadcast (elems : List Nat) (r : LoadAcc) : LoadAcc :=
  { r with got := r.got.flatMap fun x => elems.map fun k => (k, x.2)
           out := r.out.flatMap fun x => elems.map fun k => (k, x.2.1, x.2.2) }

/-- VLDB (R252): one access, its value to every active element. -/
def execVldb (vd : BitVec 5) (base : BitVec 6) (imm : BitVec 16) (lax : Bool) (ms : BitVec 6) (et : BitVec 3) (s : State) : Out :=
  start (.vldb vd base imm lax ms et) s fun c s =>
    let w := etWidthOnly et
    match vecAccesses s c (.vldb vd base imm lax ms et) [0] with
    | some (x :: _) =>
      let t := s.issThr c
      (match takePass s c [x] 0 with
      | none => (countEvent s c.core 2).closeIssue
      | some (s, _, _) =>
        let (s, r) := loadOne c t lax (noteAccess s c, LoadAcc.empty) x
        let r := broadcast (activeElems c.mask w) r
        let (s, ids) := sendLoads c t lax r.out.length r.out s []
        finishLoad c t s { r with reqs := ids } (.vector vd.toNat w) none)
    | _ => retire s

/-! ## Stores -/

/-- Store-buffer entries of a vector store: runs of consecutive elements in one line, each with its lowest virtual address and bytes; an
element that takes no entry ends a run (R255). -/
def entriesOf : List (Option (Nat × List (Nat × Byte))) → List (Nat × List (Nat × Byte))
  | [] => []
  | none :: l => entriesOf l
  | some (va, b) :: none :: l => (va, b) :: entriesOf l
  | some (va, b) :: l =>
    match entriesOf l with
    | (va', b') :: r =>
      if (b.head?.map fun x => lineOf x.1) == (b'.head?.map fun x => lineOf x.1) then (Nat.min va va', b ++ b') :: r
      else (va, b) :: (va', b') :: r
    | [] => [(va, b)]

/-- The later of two bytes at one address stands. -/
def lastWins (l : List (Nat × Byte)) : List (Nat × Byte) :=
  l.foldl (fun m x => (m.filter fun y => y.1 != x.1) ++ [x]) []

def pushEntries (s : State) (core uid : Nat) (l : List (Nat × List (Nat × Byte))) : State :=
  l.foldl (fun s e => pushStore s core uid e.1 (lastWins e.2) none) s

/-- A vector store (R252, R253, R255). Near elements perform in their passes; one that may not yet takes an entry with the far ones, on
the last turn: `got` holds those that have performed. -/
def vecStore (i : Instr) (vd : BitVec 5) (w : Nat) (s : State) : Out :=
  start i s fun c s =>
    match vecAccesses s c i (activeElems c.mask w) with
    | none => s
    | some l =>
      let t := s.issThr c
      let val := fun k => elem w (c.vreg vd.toNat) k
      let (j, got) := passesDone s c
      match takePass s c l j with
      | none => (countEvent s c.core 2).closeIssue
      | some (s, now, last) =>
        let (s, got) := now.foldl (fun (y : State × List (Nat × Nat)) x => match x.2.2 with
          | .near key =>
            if nearStoreWaits y.1 c.core t.uid x.2.1.va key x.2.1.n then y
            else (storeNear y.1 c.core (bytesOf key (val x.1) x.2.1.n) t.fenceRel, y.2 ++ [(x.1, 1)])
          | _ => y) (s, got)
        if !last then (countEvent (setPasses s c (j + 1) got) c.core 2).closeIssue
        else
          let s := setPasses (if l.isEmpty then s else noteAccess s c) c 0 []
          let es := entriesOf (l.map fun x => match x.2.2 with
            | .far a | .near a => if got.any (fun y => y.1 == x.1) then none else some (x.2.1.va, bytesOf a (val x.1) x.2.1.n)
            | .ident _ => none)
          let s := pushEntries s c.core t.uid (es.take 32)
          if es.length ≤ 32 then retire s else retireInto s (.drain (es.drop 32))

/-- VST (R255). -/
def execVst (vd : BitVec 5) (base : BitVec 6) (imm : BitVec 16) (ms : BitVec 6) (et : BitVec 3) (s : State) : Out :=
  vecStore (.vst vd base imm ms et) vd (etWidthOnly et) s
/-- VSTS (R252, R255). -/
def execVsts (vd : BitVec 5) (base stride : BitVec 6) (imm : BitVec 16) (ms : BitVec 6) (et : BitVec 3) (s : State) : Out :=
  vecStore (.vsts vd base stride imm ms et) vd (etWidthOnly et) s
/-- VSCAT (R252, R255). -/
def execVscat (vd va : BitVec 5) (base : BitVec 6) (imm : BitVec 16) (zx : Bool) (sc : BitVec 2) (ms : BitVec 6) (et : BitVec 3)
    (s : State) : Out :=
  vecStore (.vscat vd va base imm zx sc ms et) vd (etWidthOnly et) s

/-! ## Atomics -/

/-- Active elements by address, ascending elements in each group (R256). -/
def groupsOf (fn : Nat → AtomFn) (l : List VAcc) : List (Nat × List (Nat × Nat × Nat) × List AtomFn) :=
  l.foldl (fun g x => match x.2.2 with
    | .far pa =>
      (match g.find? fun y => y.2.1.any fun p => p.2.1 == pa with
      | some _ => g.map fun y => if y.2.1.any fun p => p.2.1 == pa then
          (y.1, y.2.1 ++ [(x.1, pa, x.2.1.n)], y.2.2 ++ [fn x.1]) else y
      | none => g ++ [(x.2.1.va, [(x.1, pa, x.2.1.n)], [fn x.1])])
    | _ => g) []

/-- A vector atomic (R256, R257). -/
def vecAtomic (i : Instr) (vd : BitVec 5) (w : Nat) (o : Ord) (scope : Nat) (fn : Nat → AtomFn) (s : State) : Out :=
  start i s fun c s =>
    match vecAccesses s c i (activeElems c.mask w) with
    | none => s
    | some l =>
      let uid := (s.issThr c).uid
      let x := fun k => fn (elem w (c.vreg vd.toNat) k)
      let g := groupsOf x l
      let d := Dest.vector vd.toNat w
      let acq := if ordAcq o then some (acqOf s c.core scope) else none
      let rel := if ordRel o then some (markOf s c.core (s.issThr c) scope false) else none
      if g.isEmpty then retire s
      else
        let s := if ordRel o && !ordAcq o && (scopeLevel s c.core scope).2 then countScopeMiss s c.core else s
        let s := noteAccess (countEvent (countEvent s c.core 4) c.core 12) c
        if !ordRel o || releaseDone s c.core uid scope then
          issueAtomics s c.core uid g d acq rel
        else retireInto s (.release (.atomic g d acq rel))

/-- VAMO (R256). -/
def execVamo (vd va : BitVec 5) (base : BitVec 6) (imm : BitVec 16) (zx : Bool) (sc : BitVec 2) (k : AmoKind) (o : Ord)
    (scope : BitVec 4) (ms : BitVec 6) (et : BitVec 3) (s : State) : Out :=
  vecAtomic (.vamo vd va base imm zx sc k o scope ms et) vd (etWidthOnly et) o scope.toNat (fun x => .amo k x) s
/-- VAMOF (R256). -/
def execVamof (vd va : BitVec 5) (base : BitVec 6) (imm : BitVec 16) (zx : Bool) (sc : BitVec 2) (k : AmofKind) (o : Ord)
    (scope : BitVec 4) (ms : BitVec 6) (et : BitVec 3) (s : State) : Out :=
  vecAtomic (.vamof vd va base imm zx sc k o scope ms et) vd (etWidthOnly et) o scope.toNat (fun x => .amof k x) s

end Sys2Proof.Machine
end

