-- ==== Sys2Proof/Machine/Fibre.lean ====
section
/-!
DEFINITION. Fibres: admission, spilling and refetching (01 R33-R39), creation by SPAWN, RGEN and VRAYGEN (08 R259, 09 R288, R289), GO
(R286, R287), FEND and FYIELD (R290), the tray and VHQPOP (08 R258, 09 R292).
-/
namespace Sys2Proof.Machine

/-! ## Admission (R36, R37, R39) -/

/-- The run-queue entry that a fibre takes when it is admitted, created or refetched: the lowest that is free. The spec names none; the
choice is the model's (notes/assumptions/85.md). -/
def freeEntry (k : Core) : Option Nat := (List.range 256).find? fun e => (k.rq.find e).isNone

def refetching (k : Core) : Nat := (k.rq.filter fun x => x.2.refetch.isSome).length

def fibTop (f : Fibre) : Nat := (fibreGet f 7).toNat % 2 ^ 24
def fibDepth (f : Fibre) : Nat := bits (fibreGet f 7).toNat 55 48

/-- TBASE of the scene bound to a thread's launch. -/
def tbaseOf (s : State) (t : Thr) : Option Nat :=
  (t.lid.bind fun l => s.launches.find l).bind fun l => l.scene.map fun d => d.headD 0

/-- The treelet of a core's store that a thread's key names. -/
def treeletAt (s : State) (core : Nat) (t : Thr) (id : Nat) : Option Treelet :=
  match s.partOf core, tbaseOf s t with
  | some p, some b => (s.core core).treelets.find? fun x => x.part == p && x.tbase == b && x.id == id
  | _, _ => none

/-- The treelet on top of a fibre's stack is being paged into this core (R283). -/
def topPaging (s : State) (core : Nat) (a : Away) : Bool :=
  match treeletAt s core a.t (fibTop a.fib) with | some x => !x.ready | none => false

/-- Put a fibre in an entry: ready, or parked for paging. -/
def enterEntry (s : State) (core e : Nat) (a : Away) : State :=
  let park := a.t.wait == .parked && topPaging s core a
  let t := { a.t with wait := if park then .parked else .none }
  let st : RqState := if park then .parked else .ready (readyRank s e)
  s.modCore core fun k =>
    let rq := k.rq.put e { t := t, fib := a.fib, st := st, refetch := none }
    { k with rq := rq, refetchOn := k.refetchOn && rq.length < k.fadmit }

/-- A fibre that must be spilled: into the spill area, its SEQ one more (R27), or the end of its launch (R39). A fibre that holds no entry
has no identifier: its record names entry 0, which is the model's choice (notes/assumptions/84.md). -/
def spillFibre (s : State) (core : Nat) (a : Away) : State :=
  let k := s.core core
  if k.spillSize ≤ k.spill.length then
    fatal s core a.t (tidWord 1 0 core) 0x41 0 0 (fibreDws a.fib)
  else
    let f := { a.fib with seq := (a.fib.seq + 1) % 2 ^ 32 }
    let s := s.setCore core { k with spill := k.spill ++ [{ a with fib := f }], spillNext := (k.spillNext + 1) % k.spillSize }
    countEvent (devicePut s (spillAddr k k.spillNext) (fibreDws f)) core 7

/-- The place in memory of the i-th of a core's spilled contexts, oldest first. -/
def spillPlace (k : Core) (i : Nat) : Nat := spillAddr k (k.spillNext + k.spillSize - k.spill.length + i)

/-- The admission decision: whether the fibre is admitted ready. A fibre of an ended launch is discarded. -/
def letIn (s : State) (core : Nat) (a : Away) : Bool × State :=
  let k := s.core core
  if launchDead s a.t then (true, s)
  else
    match freeEntry k with
    | none => (false, spillFibre s core a)
    | some e =>
      if a.fib.sys || (k.spill.isEmpty && refetching k == 0 && k.rq.length < k.fadmit) then (true, enterEntry s core e a)
      else (false, spillFibre s core a)

/-- FIBRE_ARRIVAL (R35): one message a clk. A fibre of a wave launch that the core takes no part in ends the launch (R331). -/
def execFibreArrival (core : Nat) (s : State) : Out :=
  let k := s.core core
  match k.arrivals with
  | [] => .next s
  | a :: l =>
    if k.lastArrival == some s.clk then .next s
    else
      let s := countEvent (s.setCore core { k with arrivals := l, lastArrival := some s.clk }) core 6
      match a.t.lid.bind fun l => s.launches.find l with
      | some x =>
        if x.mode == 0 && !x.dead && !x.cores.contains core then
          .next (fatal s core a.t (tidWord 1 0 core) 0x4A 0 0 (fibreDws a.fib))
        else .next (letIn s core a).2
      | none => .next (letIn s core a).2

/-- REFETCH_START (R38): below FADMIT − 32 the core starts to refetch, and goes on to FADMIT. The oldest image is read as it stands, once the
host does not own its lines (R425). -/
def execRefetchStart (core : Nat) (s : State) : Out :=
  let k := s.core core
  match k.spill, freeEntry k with
  | a :: l, some e =>
    if k.rq.length < k.fadmit && (k.refetchOn || k.rq.length + 32 < k.fadmit) then
      .next (devRead s (spillPlace k 0) 96 fun s =>
        let (n, s) := s.new
        let x : RqEntry := { t := a.t, fib := fibreOfImage s (spillPlace k 0), st := .parked, refetch := some n }
        s.modCore core fun k => { k with spill := l, rq := k.rq.put e x, refetchOn := !l.isEmpty && k.rq.length + 1 < k.fadmit })
    else .next (if k.refetchOn then s.setCore core { k with refetchOn := false } else s)
  | _, _ => .next s

/-- The entry whose refetch read started first. -/
def oldestRefetch (k : Core) : Option (Nat × RqEntry) :=
  (k.rq.filter fun x => x.2.refetch.isSome).foldl (fun (a : Option (Nat × RqEntry)) x => match a with
    | some y => if x.2.refetch.getD 0 < y.2.refetch.getD 0 then some x else a
    | none => some x) none

/-- REFETCH_COMPLETE (R38): the oldest refetched context becomes ready; one of an ended launch is discarded. -/
def execRefetchComplete (core : Nat) (s : State) : Out :=
  match oldestRefetch (s.core core) with
  | none => .next s
  | some (e, x) =>
    if launchDead s x.t then .next (s.modCore core fun k => { k with rq := k.rq.del e })
    else .next (enterEntry s core e { t := x.t, fib := x.fib })

/-! ## Creation (R259, R288) -/

/-- The launch's id and priority that a new fibre carries; 0 for a supervisor's. -/
def fibreOwner (s : State) (t : Thr) : Nat × Nat :=
  match t.lid.bind fun l => s.launches.find l with | some l => (l.id, l.prio) | none => (0, 0)

/-- A new fibre of the issuing thread's launch and privilege on its core (R26, R259, R288), ordered after its creator (Table 3.6). -/
def makeFibre (s : State) (core : Nat) (t : Thr) (pc : Word) (f : List Word) (tag : Nat) (ray : Bool) : Away × State :=
  let (uid, s) := s.new
  let (id, prio) := fibreOwner s t
  let s := recordFibre s t.lid
  ({ t := { Thr.vacant with uid := uid, lid := t.lid, sup := t.sup, wid := t.wid, locFloor := t.locFloor, visFloor := t.visFloor, lineFloors := t.lineFloors,
                            readFloor := s.fresh },
     fib := { pc := pc, f := Vector.ofFn fun i : Fin 8 => f.getD i.val 0, tag := tag % 2 ^ 24, prio := prio, sys := t.sup, ray := ray,
              pin := false, seq := 0, launch := id, origin := core } }, s)

/-- The issuing bundle ends; nothing is left to do when its thread went with its launch. -/
def retireLive (s : State) : State :=
  match s.issue with
  | none => s
  | some c => if (s.issThr c).uid == 0 then s.closeIssue else retire s

/-- The tag and the first eight registers that a new fibre takes from its creator. -/
def creatorTag (s : State) (c : Issue) : Nat :=
  match c.entry.bind fun e => (s.core c.core).rq.find e with
  | some x => x.fib.tag
  | none => (((s.core c.core).slots.find c.slot).map fun w => w.base.toNat % 2 ^ 24).getD 0

/-- SPAWN and RGEN: one fibre; sd is 0 when it is admitted ready, 1 when it is spilled. -/
def createOne (i : Instr) (sd : BitVec 6) (pc : Issue → State → Word) (ray : Bool) (s : State) : Out :=
  start i s fun c s =>
    let (a, s) := makeFibre s c.core (s.issThr c) (pc c s) ((List.range 8).map fun k => c.reg (k + 1)) (creatorTag s c) ray
    let (ok, s) := letIn s c.core a
    retireLive (s.setReg c sd.toNat (if ok then 0 else 1))

/-- SPAWN (R288). -/
def execSpawn (sd : BitVec 6) (imm : BitVec 32) (s : State) : Out :=
  createOne (.spawn sd imm) sd (fun c _ => c.pc + imm.signExtend 64) false s
/-- RGEN (R288). -/
def execRgen (sd sa : BitVec 6) (b : BitVec 8) (s : State) : Out :=
  createOne (.rgen sd sa b) sd (fun c s => c.reg sa.toNat + selVal s c b) true s

/-- VRAYGEN (R259): one fibre for each active lane, in lane order. -/
def execVraygen (vd va vb : BitVec 5) (ms : BitVec 6) (s : State) : Out :=
  start (.vraygen vd va vb ms) s fun c s =>
    let t := s.issThr c
    let base := (((s.core c.core).slots.find c.slot).map (·.base)).getD 0
    let lanes := activeElems c.mask 32
    let word2 := fun (k j : Nat) => word (elem 32 (c.vreg (va.toNat + 2 * j)) k + elem 32 (c.vreg (va.toNat + 2 * j + 1)) k * 2 ^ 32)
    let s := lanes.foldl (fun s k =>
      if launchDead s t then s
      else
        let (a, s) := makeFibre s c.core t (c.reg vb.toNat) ((List.range 8).map fun j => word2 k j) ((base.toNat + k) % 2 ^ 64) true
        (letIn s c.core a).2) s
    retireLive (s.setReg c vd.toNat (word lanes.length))

/-! ## Leaving the core: GO (R112, R286, R287) -/

/-- Remove the fibre of entry e and hand it over with its SEQ one more. -/
def takeAway (s : State) (core e : Nat) : Option (Away × State) :=
  ((s.core core).rq.find e).map fun x =>
    let a : Away := { t := { x.t with wait := .none, acqOnTake := true }, fib := { x.fib with seq := (x.fib.seq + 1) % 2 ^ 32 } }
    (a, freeFibre s core e)

/-- The core beside the home of x (R286). -/
def goHome (x : Nat) : Nat :=
  let p := sliceOf x
  let n := p % 48
  let col := n % 24 / 3
  (p / 48 * 64 + (if n < 24 then col else 56 + col)) * 16 + bits x 15 12

/-- The partition's die nearest to die d, the lowest-numbered of equals. -/
def nearestDie (s : State) (core d : Nat) : Nat :=
  let dist := fun x : Nat => ((x % 3 : Int) - (d % 3 : Int)).natAbs + ((x / 3 : Int) - (d / 3 : Int)).natAbs
  match (List.range 6).filter fun x => s.sameDies core x with
  | [] => dieOf core
  | x :: l => l.foldl (fun a x => if dist x < dist a then x else a) x

/-- The destination of a GO; none where the fibre stays (R287). -/
def goDest (s : State) (core x : Nat) : Option Nat :=
  let h := goHome x
  let h := if s.sameDies core (dieOf h) then h else nearestDie s core (dieOf h) * 1024 + h % 1024
  ((List.range 16).map fun i => h / 16 * 16 + (h % 16 + i) % 16).find? fun c => !(s.core c).fenced

/-- The fibre of entry e leaves by GO for the core of physical address x. -/
def leaveByGo (s : State) (core e x : Nat) : State :=
  match takeAway s core e with
  | none => s
  | some (a, s) => match goDest s core x with
    | some d => sendMsg s .fibre (.core core) (.core d) 0 (.fibre a)
    | none => (letIn s core a).2

/-- GO (R286). -/
def execGo (sa : BitVec 6) (b : BitVec 8) (s : State) : Out :=
  start (.go sa b) s fun c s =>
    let w := issWho s c
    match checkAll s w .goTarget [⟨0, (c.reg sa.toNat + selVal s c b).toNat, 1⟩] with
    | .ok ((_, .far x) :: _) =>
      if writesOut s w.t.uid then retireInto s (.release (.go x))
      else match c.entry with
        | some e => leaveByGo (retire s) c.core e x
        | none => retire s
    | _ => s

/-! ## FEND, FYIELD (R290) -/

/-- A thread ends: a fibre's entry is free, a wave's slot vacant, and a barrier that waited for it may release. -/
def endThread (s : State) (core uid : Nat) : State :=
  match entryOfUid (s.core core) uid with
  | some e => freeFibre s core e
  | none => releaseAfterEnd (removeThr s core uid) core

/-- FEND (R113, R290): the waits of its release come before the end. -/
def execFend (s : State) : Out :=
  start .fend s fun c s =>
    let uid := (s.issThr c).uid
    if writesOut s uid then retireInto s (.release .fend)
    else match c.entry with
      | some e => freeFibre (retire s) c.core e
      | none => endThread (retire s) c.core uid

/-- FYIELD (R290). -/
def execFyield (s : State) : Out :=
  start .fyield s fun c s =>
    match c.entry with
    | none => retire s
    | some _ => unholdFibre (retire s) c.core s.clk

/-! ## The tray (R258, R292, R293) -/

/-- TRAY_RECORD_ARRIVAL (R292): the oldest record that has reached the core enters its tray when there is room. -/
def execTrayRecordArrival (core : Nat) (s : State) : Out :=
  let k := s.core core
  match k.trayIn with
  | [] => .next s
  | r :: l => .next (if 512 ≤ k.tray.length then s else s.setCore core { k with trayIn := l, tray := k.tray ++ [(r, s.clk)] })

/-- Values that VHQPOP holds until its last turn: word i for lane k at 16k + i, the count at 1024, the turns at 1025. -/
def trayVals (recs : List (List Nat)) (lanes : List Nat) (turns : Nat) : List (Nat × Nat) :=
  (1024, recs.length) :: (1025, turns) :: (recs.zip lanes).flatMap fun x => (List.range 16).map fun i => (16 * x.2 + i, x.1.getD i 0)

/-- VHQPOP: the records leave the tray at issue; the registers are written, and the acquire made, on the last turn. -/
def execVhqpop (vd vb : BitVec 5) (ms : BitVec 6) (s : State) : Out :=
  start (.vhqpop vd vb ms) s fun c s =>
    let (j, got) := passesDone s c
    let lanes := activeElems c.mask 32
    let (got, s) :=
      if j = 0 then
        let t := (s.core c.core).tray
        let n := Nat.min lanes.length (t.filter fun x => x.2 < s.clk).length
        (trayVals ((t.take n).map (·.1)) lanes (ceilDiv n 16), s.modCore c.core fun k => { k with tray := k.tray.drop n })
      else (got, s)
    let at_ := fun i => ((got.find? fun x => x.1 == i).map (·.2)).getD 0
    if j + 1 < at_ 1025 then (countEvent (setPasses s c (j + 1) got) c.core 2).closeIssue
    else
      let s := setPasses s c 0 []
      let s := (List.range 16).foldl (fun s i =>
        s.setVReg c (vd.toNat + i) (putElems 32 (c.vreg (vd.toNat + i)) (got.filterMap fun x =>
          if x.1 < 1024 && x.1 % 16 == i then some (x.1 / 16, x.2) else none))) s
      let s := if at_ 1024 = 0 then s else acquireHere s c 4
      retire (s.setReg c vb.toNat (word (at_ 1024)))

end Sys2Proof.Machine
end

