-- ==== Sys2Proof/Machine/Paging.lean ====
section
/-!
DEFINITION. Translation misses, page walks, fault records, replies, and TLB maintenance: the meanings of their events (14 R373-R390).
A walk is one event (notes/assumptions/16.md).
-/
namespace Sys2Proof.Machine

/-- ACCESS codes that write (R374, Table 14.10); 14 stands for a ray-stack access that writes, recorded as 6. -/
def accessWrites (a : Nat) : Bool := a == 1 || a == 2 || a == 4 || a == 14

/-! ## Entries (R375, R376) -/

/-- An enabled partition by its ASID. -/
def partOfAsid (s : State) (asid : Nat) : Option Nat :=
  (List.range 6).find? fun p => partEn (s.part p).cfg && partAsid (s.part p).cfg == asid

def keyInRange (cfg : Word) (key : Nat) : Bool := partKeyBase cfg ≤ key && key < partKeyBase cfg + partKeyCount cfg

/-- The entry of TLBENTHI and TLBENTLO, none where an INSERT is refused. -/
def entryOf (s : State) (hi lo : Word) : Option Tlb :=
  let size := bits hi.toNat 52 51
  let asid := bits hi.toNat 50 35
  let vpn := bits hi.toNat 34 0
  let pfn := bits lo.toNat 46 12
  let low := match size with | 0 => 0 | 1 => 4 | 2 => 9 | _ => 18
  let enc := lo.getLsbD 59
  let key := bits lo.toNat 58 48
  let res := bits hi.toNat 62 53 != 0 || bits lo.toNat 63 60 != 0 || lo.getLsbD 47 || bits lo.toNat 11 4 != 0 || bits lo.toNat 1 0 != 0
  match partOfAsid s asid with
  | none => none
  | some p =>
    if !hi.getLsbD 63 || vpn % 2 ^ low != 0 || pfn % 2 ^ low != 0 || res || (enc && !keyInRange (s.part p).cfg key) then none
    else some { asid := asid, vbase := vpn * 4096, size := sizeBytes size, pbase := pfn * 4096,
                perm := bit (lo.getLsbD 2) + 2 * bit (lo.getLsbD 3) + 4 * bit enc + 8 * key, age := s.fresh }

def overlapsPage (a b : Tlb) : Bool := a.asid == b.asid && a.vbase < b.vbase + b.size && b.vbase < a.vbase + a.size

/-- INSERT into a cluster's TLB. -/
def insertEntry (s : State) (k : Nat) (e : Tlb) : State :=
  let (_, s) := s.new
  s.modCluster k fun q => { q with tlb := clusterPut (q.tlb.filter fun x => !overlapsPage x e) e }

/-! ## Wakes (R383) -/

def Waiter.wake (page : Nat) (w : Waiter) : Nat × Nat × Nat × Nat := (w.core, w.uid, w.cmd.getD 0, page)

/-- Wake these waiters of a page, in join order. -/
def wakeAll (s : State) (k page : Nat) (l : List Waiter) : State :=
  s.modCluster k fun q => { q with wakes := q.wakes ++ (l.filter fun w => w.access != 7).map (Waiter.wake page) }

/-- The thread's wait loses a page; it reissues when none is left. -/
def dropPage (s : State) (core uid page : Nat) : State :=
  match s.thrOf core uid with
  | some t => (match t.wait with
    | .miss ps a =>
      if !ps.contains page then s
      else
        let l := ps.filter fun p => p != page
        if l.isEmpty then s.resume core uid else s.modThr core uid fun t => { t with wait := .miss l a }
    | _ => s)
  | none => s

def wakeCmd (s : State) (core num page : Nat) : State :=
  s.modCore core fun k => { k with running := k.running.map fun c =>
    if c.idx == num && (c.miss.map (·.1)) == some page then { c with miss := none } else c }

/-- The uids and command numbers that a Tid names, on its core. -/
def tidKeys (s : State) (t : Tid) : List (Nat × Nat) :=
  match t with
  | .cmd _ n => [(0, n)]
  | _ => (threadsOf s t).map fun x => (x.2.uid, 0)

def tidCore : Tid → Nat | .wave c _ | .fibre c _ | .cmd c _ => c

/-- The thread or the command is still there to be woken. -/
def wakeWanted (s : State) (w : Nat × Nat × Nat × Nat) : Bool :=
  if w.2.1 == 0 then (s.core w.1).running.any fun c => c.idx == w.2.2.1 else (s.thrOf w.1 w.2.1).isSome

/-- WAKE: the first wake under way to the core, when it is this thread's; one a clk. -/
def execWake (t : Tid) (s : State) : Out :=
  let core := tidCore t
  let k := clusterOf core
  let s := s.modCluster k fun q => { q with wakes := q.wakes.filter fun w => w.1 != core || wakeWanted s w }
  match (s.cluster k).wakes.find? fun w => w.1 == core with
  | some (c, u, n, page) =>
    if (tidKeys s t).contains (u, n) && (s.core core).lastWake != some s.clk then
      let s := (s.modCluster k fun q => { q with wakes := q.wakes.erase (c, u, n, page) }).modCore core fun x => { x with lastWake := some s.clk }
      .next (if u == 0 then wakeCmd s core n page else dropPage s core u page)
    else .next s
  | none => .next s

/-! ## Misses -/

/-- What a thread or command waits for: pages, ACCESS, whether it is a user, and its identifier. -/
structure Waiting where
  core : Nat
  uid : Nat
  cmd : Option Nat
  pages : List Nat
  access : Nat
  user : Bool
  tid : Nat

def Waiting.waiter (w : Waiting) : Waiter := { core := w.core, uid := w.uid, cmd := w.cmd, tid := w.tid, access := w.access, user := w.user }

def waitingPages (s : State) (t : Tid) : List Waiting :=
  let thr := fun id : Nat => (threadsOf s t).filterMap fun x => match x.2.wait with
    | .miss ps a => some ⟨x.1, x.2.uid, none, ps, a, !x.2.sup, id⟩
    | _ => none
  match t with
  | .cmd c n => (((s.core c).running.find? fun x => x.idx == n).bind fun x => x.miss.map fun m =>
      ⟨c, 0, some n, [m.1], m.2, !x.sup || isLaunch x.instr, tidWord 2 n c⟩).toList
  | .wave c k => thr (tidWord 0 k c)
  | .fibre c e => thr (tidWord 1 e c)

/-- A waiter still waits for the page. -/
def stillWaits (s : State) (page : Nat) (w : Waiter) : Bool :=
  match w.cmd with
  | some n => (s.core w.core).running.any fun c => c.idx == n && (c.miss.map (·.1)) == some page
  | none =>
    if w.access == 7 then s.sliceTab.any fun p =>
      p.2.hops.any (fun h => h.a.t.uid == w.uid) || w.uid == 0 && p.2.dir.any fun e => e.asked == some (w.core, page)
    else match s.thrOf w.core w.uid with | some t => (match t.wait with | .miss ps _ => ps.contains page | _ => false) | none => false

def pageDone (s : State) (core uid : Nat) (cmd : Option Nat) (page : Nat) : State :=
  match cmd with | some n => wakeCmd s core n page | none => dropPage s core uid page

/-- The thread has joined the miss entry of a page, or its wake is under way. -/
def hasJoined (q : Cluster) (core uid : Nat) (cmd : Option Nat) (page : Nat) : Bool :=
  q.misses.any (fun m => m.page == page && m.waiters.any fun w => w.core == core && w.uid == uid && w.cmd == cmd) ||
  q.wakes.any fun w => w == (core, uid, cmd.getD 0, page)

/-- The page waits at the core for an entry. -/
def inMissQ (q : Cluster) (core uid : Nat) (cmd : Option Nat) (page : Nat) : Bool :=
  q.missQ.any fun x => x.2.1 == page && x.2.2.core == core && x.2.2.uid == uid && x.2.2.cmd == cmd

/-- CLUSTER_TLB_FILL (R373): pages that hit in the cluster TLB are copied into the micro-TLB. A thread that has joined an entry waits for
its wake (R378). -/
def execClusterTlbFill (t : Tid) (s : State) : Out :=
  .next ((waitingPages s t).foldl (fun s w => w.pages.foldl (fun s p =>
    if hasJoined (s.cluster (clusterOf w.core)) w.core w.uid w.cmd p then s
    else match clusterLook s w.core (p * 4096) (accessWrites w.access) w.user with
      | some e => pageDone (microFill s w.core e) w.core w.uid w.cmd p
      | none => s) s) s)

/-- Open or join one miss entry (R381); with 256 entries in use the page waits at the core. -/
def joinMiss (s : State) (k asid page : Nat) (w : Waiter) : State :=
  let q := s.cluster k
  if q.misses.any fun m => m.asid == asid && m.page == page then
    s.setCluster k { q with misses := q.misses.map fun m =>
      if m.asid == asid && m.page == page then { m with waiters := m.waiters ++ [w] } else m }
  else if 256 ≤ q.misses.length then s.setCluster k { q with missQ := q.missQ ++ [(asid, page, w)] }
  else s.setCluster k { q with misses := q.misses ++ [{ asid := asid, page := page, st := .walk, waiters := [w], cause := 0, detail := 0 }] }

/-- MISS_ENTRY_OPEN. -/
def execMissEntryOpen (t : Tid) (s : State) : Out :=
  match s.asidOf (tidCore t) with
  | none => .next s
  | some asid =>
    let k := clusterOf (tidCore t)
    .next ((waitingPages s t).foldl (fun s w => w.pages.foldl (fun s p =>
      if (clusterLook s w.core (p * 4096) (accessWrites w.access) w.user).isSome || hasJoined (s.cluster k) w.core w.uid w.cmd p ||
        inMissQ (s.cluster k) w.core w.uid w.cmd p then s
      else joinMiss (countEvent s w.core 5) k asid p w.waiter) s) s)

/-- Pages that wait for an entry take those that are free, in miss order; n at most. -/
def serveMissQ : Nat → State → Nat → State
  | 0, s, _ => s
  | n + 1, s, k =>
    let q := s.cluster k
    match q.missQ with
    | [] => s
    | (asid, page, w) :: l =>
      if 256 ≤ q.misses.length then s
      else
        let s := s.setCluster k { q with missQ := l }
        serveMissQ n (if stillWaits s page w then joinMiss s k asid page w else s) k

/-! ## The walk (R377, R378) -/

inductive Walk
  | pagemiss (level : Nat)
  | badpte (level e : Nat)
  | keyrange (key : Nat)
  | poison
  /-- a word of the table lies in a line that the host owns: the read waits for it (R425) -/
  | held (line : Nat)
  | leaf (level e : Nat) (group : Nat)
deriving DecidableEq, Repr

def walkIndex (level va : Nat) : Nat := if level = 3 then bits va 46 39 else va / 2 ^ (12 + 9 * level) % 512

/-- A field breaks Table 14.6 or 14.7. -/
def badPte (level e : Nat) : Bool :=
  let leaf := bitAt e 1
  bits e 63 60 != 0 || bitAt e 47 || bits e 11 5 != 0 ||
  (if leaf then
    level == 3 || (bitAt e 4 && level != 0) || (level == 2 && bits e 29 12 != 0) || (level == 1 && bits e 20 12 != 0)
   else level == 0 || bits e 59 48 != 0 || bits e 4 2 != 0)

/-- Walk from a table at a level; `fuel` is the levels left. The words are read at their homes (R377, R413), those of a group for R378 too. -/
def walkFrom (s : State) (cfg : Word) (va : Nat) : Nat → Nat → Walk
  | 0, _ => .pagemiss 0
  | level + 1, table =>
    let a := table + 8 * walkIndex level va
    let e := devGet s a 8
    let g := table + 8 * (walkIndex level va / 16 * 16)
    match devHeld s (if bitAt e 1 && bitAt e 4 then g else a) (if bitAt e 1 && bitAt e 4 then 128 else 8) with
    | some l => .held l
    | none =>
    if poisoned s a 8 then .poison
    else if !bitAt e 0 then .pagemiss level
    else if badPte level e then .badpte level e
    else if !bitAt e 1 then walkFrom s cfg va level (keep (word e) 46 12)
    else if bitAt e 59 && !keyInRange cfg (bits e 58 48) then .keyrange (bits e 58 48)
    else .leaf level e g

/-- The sixteen entries of the group at g make one 64 KiB page (R378). -/
def contGroup (s : State) (g e : Nat) : Bool :=
  let es := (List.range 16).map fun i => devGet s (g + 8 * i) 8
  let base := bits (es.headD 0) 46 12
  bitAt e 4 && base % 16 == 0 &&
  (es.zipIdx.all fun x => bitAt x.1 0 && bitAt x.1 1 && bitAt x.1 4 && !badPte 0 x.1 && bits x.1 59 48 == bits e 59 48 &&
    bits x.1 3 2 == bits e 3 2 && bits x.1 46 12 == base + x.2)

/-- The TLB entry of a leaf. -/
def leafEntry (s : State) (asid va level e g : Nat) : Tlb :=
  let size := match level with
    | 2 => 0x40000000 | 1 => 0x200000 | _ => if contGroup s g e then 0x10000 else 0x1000
  let pa := bits e 46 12 * 4096
  { asid := asid, vbase := va / size * size, size := size, pbase := pa / size * size,
    perm := bit (bitAt e 2) + 2 * bit (bitAt e 3) + 4 * bit (bitAt e 59) + 8 * bits e 58 48, age := s.fresh }

/-- An entry is freed: the pages that wait for one open theirs (R381). -/
def dropMiss (s : State) (k asid page : Nat) : State :=
  serveMissQ (s.cluster k).missQ.length
    (s.modCluster k fun q => { q with misses := q.misses.filter fun m => !(m.asid == asid && m.page == page) }) k

def setMiss (s : State) (k asid page : Nat) (f : Miss → Miss) : State :=
  s.modCluster k fun q => { q with misses := q.misses.map fun m => if m.asid == asid && m.page == page then f m else m }

/-- A fibre whose HOP waits at the directory for the pages of an image (R282). -/
def hopThr (s : State) (uid : Nat) : Option Thr :=
  s.sliceTab.findSome? fun p => (p.2.hops.find? fun h => h.a.t.uid == uid).map fun h => h.a.t

/-- The thread of a waiter; a command stands for the thread that issued it. -/
def waiterThr (s : State) (w : Waiter) : Option Thr :=
  match w.cmd with
  | none => if w.access == 7 then hopThr s w.uid else s.thrOf w.core w.uid
  | some n => ((s.core w.core).running.find? fun x => x.idx == n).map fun x =>
      { Thr.vacant with uid := x.uid, lid := x.lid, sup := x.sup }

/-- A running command goes, by its running number. -/
def dropCmdIdx (s : State) (core num : Nat) : State :=
  s.modCore core fun k => { k with running := k.running.filter fun x => x.idx != num }

/-- A FAIL reply answers a read of the distributor: the LAUNCH command learns of it, and keeps the page in `token` (R456). -/
def failedRead (s : State) (w : Waiter) : Bool :=
  match w.cmd with
  | some n => (s.core w.core).running.any fun x => x.idx == n && isLaunch x.instr
  | none => false
def markFailed (s : State) (page : Nat) (w : Waiter) : State :=
  let f := fun c : Cmd => if w.cmd == some c.idx then { c with miss := none, phase := 7, token := page } else c
  s.modCore w.core fun k => { k with running := k.running.map f }

/-- The record of a FAIL reply: FAULTFAIL with the waiters of the entry; a supervisor thread's is SUPERTRAP, with the cause in VA, the pc
of a wave, the image of a fibre (R345, Tables 14.10 and 14.11). -/
def failFatal (s : State) (page waiters : Nat) (w : Waiter) (t : Thr) : State :=
  if t.sup then
    let detail := match (s.core w.core).rq.find? fun x => x.2.t.uid == t.uid with
      | some r => fibreDws r.2.fib
      | none => match (s.core w.core).slots.find? fun x => x.2.t.uid == t.uid with
        | some x => [x.2.pc.toNat]
        | none => match (s.cluster (clusterOf w.core)).saved.find? fun x => x.wave.t.uid == t.uid with
          | some x => [(savedWave s x).pc.toNat]
          | none => []
    fatal s w.core t w.tid 0x4B 0x4C w.access detail
  else fatalOf s w.core t w.tid 0x4C (page * 4096) waiters w.access []

/-- The words of a command that waits, for the record of its ENGINEFAULT. -/
def waiterWords (s : State) (w : Waiter) : Option (List Nat) :=
  w.cmd.bind fun n => ((s.core w.core).running.find? fun x => x.idx == n).map fun x => (encode x.instr).map (·.toNat)

/-- A fatal fault ends the launch of every waiter, of a command's with ENGINEFAULT (R301); a supervisor's is halted, after a FAIL reply
always with SUPERTRAP (R345, R382). -/
def fatalWaiters (s : State) (page cause : Nat) (detail : List Nat) (l : List Waiter) : State :=
  l.foldl (fun s w =>
    if !stillWaits s page w then s
    else if cause == 0x4C && failedRead s w then markFailed s page w
    else match waiterThr s w with
    | none => s
    | some t =>
      let s := match waiterWords s w with
        | some ws =>
          if cause == 0x4C && t.sup then failFatal s page l.length w t else fatal s w.core t w.tid 0x48 (page * 4096) w.access ws
        | none =>
          if cause == 0x4C then failFatal s page l.length w t else fatal s w.core t w.tid cause (page * 4096) w.access detail
      match w.cmd with | some n => dropCmdIdx s w.core n | none => s) s

/-- Waiters that a poisoned page table ends, with no record (R446). -/
def poisonWaiters (s : State) (page : Nat) (l : List Waiter) : State :=
  (l.filter (stillWaits s page)).foldl (fun s w =>
    let s := match waiterThr s w with
      | some t => if w.access == 7 then (match t.lid with | some l => killLaunch s l | none => s) else consumePoison s w.core t.uid
      | none => s
    match w.cmd with | some n => dropCmdIdx s w.core n | none => s) s

/-- Rig commands that wait on a page for which a fault is recorded condemn their open instruction (R317). -/
def condemnWaiters (s : State) (l : List Waiter) : State :=
  l.foldl (fun s w => match (s.thrOf w.core w.uid).map (·.latch) with
    | some [key, seq, a, b, c, d, e, f] => condemnRig s key seq [a, b, c, d, e, f]
    | _ => s) s

/-! ## The reply at HEAD (R388) -/

/-- A reply entry: OP, page, ASID, CLUSTER, and whether its reserved fields are zero. -/
structure Reply where
  op : Nat
  page : Nat
  asid : Nat
  cluster : Nat
  ok : Bool
deriving DecidableEq, Repr

/-- The entry at HEAD, when there is one. -/
def replyAt (s : State) (d : Nat) : Option Reply :=
  let b := (s.die d).freplyBase.toNat
  let tail := devGet s b 8
  let head := devGet s (b + 8) 8
  if b == 0 || tail == head then none
  else
    let a := b + 64 + 16 * (head % 1024)
    let x := devGet s a 8
    let y := devGet s (a + 8) 8
    let cl := bits y 24 16
    some { op := bits x 1 0, page := bits x 46 12, asid := bits y 15 0, cluster := cl,
           ok := bits x 11 2 == 0 && bits x 63 47 == 0 && bits y 63 25 == 0 && (bits x 1 0 < 2 || cl == 0x1FF) }

/-- The walk of a miss entry has inserted its page, recorded its fault, or ended its waiters: of a RETRY that made it walk again, the
cluster's part is done. -/
def walkEnded (s : State) (k asid page : Nat) : State :=
  match replyAt s (k / 64) with
  | some r =>
    if r.op == 0 && r.asid == asid && r.page == page then
      s.modDie (k / 64) fun x => { x with replyBusy := x.replyBusy.map fun l => l.filter (· != k) }
    else s
  | none => s

/-! ## Records -/

/-- Write the replayable record of a miss entry when the trap queue has room; else the entry is UNRECORDED (R382, R385). -/
def recordMiss (s : State) (k : Nat) (m : Miss) : State :=
  let d := k / 64
  if trapOcc s d < 4032 then
    match m.waiters with
    | [] => walkEnded (dropMiss s k m.asid m.page) k m.asid m.page
    | w :: _ =>
      let id := match (waiterThr s w).bind fun t => t.lid.bind fun l => s.launches.find l with | some l => l.id | none => 0
      let dws := [m.cause + m.asid * 2 ^ 16, m.page * 4096, w.tid + k * 2 ^ 32 + (Nat.min m.waiters.length 0xFFFF) * 2 ^ 48,
        id + w.access % 8 * 2 ^ 32, m.detail]
      walkEnded (setMiss (writeRecord s d dws) k m.asid m.page fun m => { m with st := .recorded }) k m.asid m.page
  else setMiss s k m.asid m.page fun m => { m with st := .unrecorded }

def lacks (e : Tlb) (w : Waiter) : Nat := bit (accessWrites w.access && !bitAt e.perm 0) + 2 * bit (w.user && !bitAt e.perm 1)

/-- PAGE_WALK: the walk of a miss entry in WALK. -/
def execPageWalk (k asid vpage : Nat) (s : State) : Out :=
  match (s.cluster k).misses.find? fun m => m.asid == asid && m.page == vpage && m.st == .walk with
  | none => .next s
  | some m =>
    let va := vpage * 4096
    let cfg := match partOfAsid s asid with | some p => (s.part p).cfg | none => 0
    let root := match partOfAsid s asid with | some p => (s.part p).ptroot | none => 0
    let r := if root.getLsbD 0 then walkFrom s cfg va 4 (keep root 46 12) else .pagemiss 3
    match r with
    | .held l => .next (askHost s l)
    | .pagemiss l => .next (recordMiss (condemnWaiters s m.waiters) k { m with cause := 1, detail := l } |> fun s =>
        setMiss s k asid vpage fun m => { m with cause := 1, detail := l })
    | .badpte l e => .next (fatalWaiters (walkEnded (dropMiss s k asid vpage) k asid vpage) vpage 0x4D [l, e] m.waiters)
    | .keyrange key => .next (fatalWaiters (walkEnded (dropMiss s k asid vpage) k asid vpage) vpage 0x4E [key] m.waiters)
    | .poison => .next (poisonWaiters (walkEnded (dropMiss s k asid vpage) k asid vpage) vpage m.waiters)
    | .leaf l e g =>
      let ent := leafEntry s asid va l e g
      let s := insertEntry s k ent
      let ok := m.waiters.filter fun w => lacks ent w == 0
      let left := m.waiters.filter fun w => lacks ent w != 0
      let s := wakeAll s k vpage ok
      if left.isEmpty then .next (walkEnded (dropMiss s k asid vpage) k asid vpage)
      else
        let det := left.foldl (fun a w => a ||| lacks ent w) 0
        let m' := { m with waiters := left, cause := 2, detail := det }
        .next (recordMiss (condemnWaiters (setMiss s k asid vpage fun _ => m') left) k m')

/-- The record that a cluster writes next: the first one held, if there is room; else the first fatal one, as its reserve record; else that of
the oldest UNRECORDED entry (R385). -/
def writeHeld (k : Nat) (s : State) : State :=
  let q := s.cluster k
  if trapOcc s (k / 64) < 4032 then
    match q.held, q.misses.find? fun m => m.st == .unrecorded with
    | r :: l, _ => writeRecord (s.modCluster k fun q => { q with held := l }) (k / 64) r.dws
    | [], some m => recordMiss s k m
    | [], none => s
  else
    match q.held.find? (·.fatal) with
    | some r => if reserveFree s k then writeReserve (s.modCluster k fun q => { q with held := q.held.erase r }) k r.dws else s
    | none => s

/-- FAULT_RECORD_WRITE: once HEAD can be read (R425). -/
def execFaultRecordWrite (k : Nat) (s : State) : Out :=
  .next (devRead s ((s.die (k / 64)).trapqBase.toNat + 8) 8 (writeHeld k))

/-! ## TLB maintenance (R376) -/

/-- Entries go from the TLBs of some clusters; a running command that may have used one translates the page again before its next access
to it. -/
def removeTlb (s : State) (inPart : Nat → Bool) (gone : Tlb → Bool) : State :=
  let forget := fun (core : Nat) (c : Cmd) =>
    let lost := fun key : Nat => gone { asid := (s.asidOf core).getD 0, vbase := key / 2 / 2 ^ 18 * 2 ^ 30, size := 2 ^ 30, pbase := 0, perm := 0, age := 0 }
    { c with xlat := c.xlat.filter fun x => !lost x.1 }
  let drop := fun (core : Nat) (k : Core) =>
    { k with micro := k.micro.filter fun e => !gone e
             cmdq := k.cmdq.map (forget core), running := k.running.map (forget core)
             mat0 := { k.mat0 with queue := k.mat0.queue.map (forget core) }
             mat1 := { k.mat1 with queue := k.mat1.queue.map (forget core) } }
  { s with
    cores := s.cores.map fun x => if inPart (clusterOf x.1) then (x.1, drop x.1 x.2) else x
    clusters := s.clusters.map fun x => if inPart x.1 then (x.1, { x.2 with tlb := x.2.tlb.filter fun e => !gone e }) else x }

/-- Clusters of the partition that an ASID names. -/
def asidClusters (s : State) (asid k : Nat) : Bool :=
  match partOfAsid s asid with | some p => bitAt (partDies (s.part p).cfg) (k / 64) | none => false

/-- The thread has translated the addresses of an access that it has not sent, or not ended: an atomic that waits for its release, a vector
store that waits for room; the access lies in the pages that an operation names. -/
def translated (inPage : Nat → Bool) (t : Thr) : Bool :=
  match t.wait with
  | .release (.atomic g _ _ _) => g.any fun x => inPage x.1
  | .drain l => l.any fun x => inPage x.1
  | _ => false

/-- The pages in question: an operation removes entries of 1 GiB at most. -/
def inPages (page : Option Nat) (va : Nat) : Bool :=
  winOf va == .shared && match page with | some p => va / 2 ^ 30 == p / 2 ^ 18 | none => true

/-- The threads of these clusters, with their cores. -/
def threadsIn (s : State) (inPart : Nat → Bool) : List (Nat × Thr) :=
  (s.cores.filter fun x => inPart (clusterOf x.1)).flatMap fun x =>
    (wavesOf s x.1).map (fun w => (x.1, w.t)) ++ x.2.rq.map fun e => (x.1, e.2.t)

/-- Threads whose access has been translated but has not ended, when an operation removes entries. -/
def accessUids (s : State) (inPart : Nat → Bool) (page : Option Nat) : List Nat :=
  (threadsIn s inPart).filterMap fun x => if translated (inPages page) x.2 then some x.2.uid else none

/-- Accesses made before rank n, or by these threads, that may have used a removed entry are still out. -/
def accessesOut (s : State) (inPart : Nat → Bool) (page : Option Nat) (n : Nat) (uids : List Nat) : Bool :=
  (s.reqs.any fun x => inPart (clusterOf x.2.core) && inPages page x.2.va && (x.2.order < n || uids.contains x.2.uid)) ||
    (threadsIn s inPart).any fun x => uids.contains x.2.uid && translated (inPages page) x.2

def invPage (s : State) (asid vpn : Nat) : State :=
  removeTlb s (asidClusters s asid) fun e => e.asid == asid && e.vbase ≤ vpn * 4096 && vpn * 4096 < e.vbase + e.size
def invAsid (s : State) (asid : Nat) : State := removeTlb s (asidClusters s asid) fun e => e.asid == asid

/-- An operation of OP 1 to 3 by a thread: the entries go at its first event; the writer goes on when no access made before that is
out. -/
def invalidate (s : State) (core : Nat) (th : Thr) (inv : State → State) (inPart : Nat → Bool) (page : Option Nat) : State :=
  let (n, us, s) := match th.latch with | n :: us => (n, us, s) | [] => (s.fresh, accessUids s inPart page, inv s)
  if accessesOut s inPart page n us then s.modThr core th.uid fun t => { t with latch := n :: us }
  else (s.modThr core th.uid fun t => { t with latch := [] }).resume core th.uid

/-- A pending write to TLBWRITE with this OP. -/
def pendingTlb (s : State) (t : Tid) (op : Nat) : Option (Nat × Thr × Word) :=
  match pendingWrite s t (· == 0x102) with
  | some (core, th, _, v) => if bits v.toNat 1 0 == op then some (core, th, v) else none
  | none => none

/-- TLB_INSERT. -/
def execTlbInsert (t : Tid) (s : State) : Out :=
  match pendingTlb s t 0 with
  | none => .next s
  | some (core, th, v) =>
    let k := clusterOf core
    match entryOf s th.tlbHi th.tlbLo with
    | none => .next ((s.modThr core th.uid fun t => { t with tlbRefused := true }).resume core th.uid)
    | some e =>
      let s := insertEntry s k e
      let s := if v.getLsbD 2 then
          ((s.cluster k).misses.filter fun m => m.asid == e.asid && e.vbase ≤ m.page * 4096 && m.page * 4096 < e.vbase + e.size).foldl
            (fun s m => walkEnded (dropMiss (wakeAll s k m.page m.waiters) k m.asid m.page) k m.asid m.page) s
        else s
      .next ((s.modThr core th.uid fun t => { t with tlbRefused := false }).resume core th.uid)

/-- TLB_INVPAGE. -/
def execTlbInvpage (t : Tid) (s : State) : Out :=
  match pendingTlb s t 1 with
  | none => .next s
  | some (core, th, _) =>
    let asid := bits th.tlbHi.toNat 50 35
    let vpn := bits th.tlbHi.toNat 34 0
    .next (invalidate s core th (invPage · asid vpn) (asidClusters s asid) (some vpn))

/-- TLB_INVASID. -/
def execTlbInvasid (t : Tid) (s : State) : Out :=
  match pendingTlb s t 2 with
  | none => .next s
  | some (core, th, _) =>
    let asid := bits th.tlbHi.toNat 50 35
    .next (invalidate s core th (invAsid · asid) (asidClusters s asid) none)

/-- TLB_INVCLU. -/
def execTlbInvclu (t : Tid) (s : State) : Out :=
  match pendingTlb s t 3 with
  | none => .next s
  | some (core, th, _) =>
    let k := clusterOf core
    .next (invalidate s core th (fun s => removeTlb s (fun x => x == k) fun _ => true) (fun x => x == k) none)

/-! ## Replies (R388) -/

def advanceReply (s : State) (d : Nat) : State :=
  let b := (s.die d).freplyBase.toNat
  (devicePut s (b + 8) [(devGet s (b + 8) 8 + 1) % 2 ^ 32]).modDie d fun x => { x with replyBusy := none }

/-- Clusters of the die that a RETRY or FAIL names. -/
def replyClusters (s : State) (d : Nat) (r : Reply) : List Nat :=
  ((List.range 64).map (64 * d + ·)).filter fun k => asidClusters s r.asid k && (r.cluster == 0x1FF || r.cluster == k)

def hasMiss (s : State) (k : Nat) (r : Reply) (st : MissSt) : Bool :=
  (s.cluster k).misses.any fun m => m.asid == r.asid && m.page == r.page && m.st == st

/-- The entry at HEAD has this OP: HEAD moves past it at once where a reserved field is nonzero. The ring is read once the host does not own
its lines (R425). -/
def onReply (op d : Nat) (s : State) (f : Reply → State → State) : Out :=
  let b := (s.die d).freplyBase.toNat
  .next (if b == 0 then s else
    devRead s b 16 fun s => devRead s (b + 64 + 16 * (devGet s (b + 8) 8 % 1024)) 16 fun s =>
      match replyAt s d with
      | some r => if r.op != op then s else if !r.ok then advanceReply s d else f r s
      | none => s)

/-- FAULT_REPLY_RETRY: recorded entries walk again; HEAD moves once each has inserted the page or recorded a fault again. -/
def execFaultReplyRetry (d : Nat) (s : State) : Out :=
  onReply 0 d s fun r s =>
    match (s.die d).replyBusy with
    | some l => if l.isEmpty then advanceReply s d else s
    | none =>
      let ks := (replyClusters s d r).filter fun k => hasMiss s k r .recorded
      if ks.isEmpty then advanceReply s d
      else
        let s := ks.foldl (fun s k => setMiss s k r.asid r.page fun m => { m with st := .walk }) s
        s.modDie d fun x => { x with replyBusy := some ks }

/-- FAULT_REPLY_FAIL: the waiters' launches end, those of commands with ENGINEFAULT, the others with FAULTFAIL. -/
def execFaultReplyFail (d : Nat) (s : State) : Out :=
  onReply 1 d s fun r s =>
    let s := ((replyClusters s d r).filter fun k => hasMiss s k r .recorded).foldl (fun s k =>
      match (s.cluster k).misses.find? fun m => m.asid == r.asid && m.page == r.page with
      | some m => fatalWaiters (dropMiss s k r.asid r.page) r.page 0x4C [] m.waiters
      | none => s) s
    advanceReply s d

/-- INVAL and INVASID: as `invalidate`, and HEAD moves in the end. -/
def replyInvalidate (s : State) (d : Nat) (inv : State → State) (inPart : Nat → Bool) (page : Option Nat) : State :=
  let (n, us, s) := match (s.die d).replyBusy with | some (n :: us) => (n, us, s) | _ => (s.fresh, accessUids s inPart page, inv s)
  if accessesOut s inPart page n us then s.modDie d fun x => { x with replyBusy := some (n :: us) } else advanceReply s d

/-- FAULT_REPLY_INVAL. -/
def execFaultReplyInval (d : Nat) (s : State) : Out :=
  onReply 2 d s fun r s => replyInvalidate s d (invPage · r.asid r.page) (asidClusters s r.asid) (some r.page)

/-- FAULT_REPLY_INVASID. -/
def execFaultReplyInvasid (d : Nat) (s : State) : Out :=
  onReply 3 d s fun r s => replyInvalidate s d (invAsid · r.asid) (asidClusters s r.asid) none

end Sys2Proof.Machine
end

