-- ==== Sys2Proof/Machine/Ray.lean ====
section
/-!
DEFINITION. The geometry of traversal: exact box and triangle tests, and the parts of a treelet image (09 R264-R267, R273, R274). Every
finite FP32 value is taken as an integer multiple of 2^-149, and every other quantity as a fraction.
-/
namespace Sys2Proof.Machine

/-! ## Exact values -/

/-- A fraction; the denominator is positive. -/
structure Frac where
  num : Int
  den : Nat
deriving DecidableEq, Repr

def Frac.le (a b : Frac) : Bool := a.num * b.den ≤ b.num * a.den
def Frac.lt (a b : Frac) : Bool := a.num * b.den < b.num * a.den
def Frac.max (a b : Frac) : Frac := if a.le b then b else a
def Frac.min (a b : Frac) : Frac := if a.le b then a else b
/-- n / d for d ≠ 0. -/
def Frac.of (n d : Int) : Frac := if d < 0 then ⟨-n, d.natAbs⟩ else ⟨n, d.natAbs⟩

def fpScale : Nat := 2 ^ 149

/-- A finite FP32 value in units of 2^-149. -/
def fin32 (x : Nat) : Option Int :=
  match fvOf .f32 x with
  | .fin n m e => some (scaled n m e (-149))
  | _ => none

/-- A bound of the interval: an infinity is beyond every finite fraction. -/
def bound32 (x : Nat) : Option Int :=
  match fvOf .f32 x with
  | .fin n m e => some (scaled n m e (-149))
  | .inf n => some (if n then -(2 ^ 1200 : Nat) else (2 ^ 1200 : Nat))
  | .nan _ => none

/-- A fraction rounded to nearest even. -/
def Frac.round (f : Fmt) (a : Frac) : Nat :=
  let k := 200 + Nat.log2 a.den
  let n := a.num.natAbs <<< k
  (roundTo f .rne false (a.num < 0) (n / a.den) (-(k : Int)) (n % a.den != 0)).1

/-- A ray whose tests can succeed: origin and direction, and the interval (R268). -/
structure Ray where
  o : List Int
  d : List Int
  tmin : Int
  tmax : Int
deriving DecidableEq, Repr

/-- R272: a non-finite component, a NaN bound or an empty interval makes every test miss. -/
def rayOf (f1 f2 f3 f4 : Nat) : Option Ray :=
  let lo := fun x : Nat => x % 2 ^ 32
  let hi := fun x : Nat => x / 2 ^ 32 % 2 ^ 32
  match fin32 (lo f1), fin32 (hi f1), fin32 (lo f2), fin32 (lo f3), fin32 (hi f3), fin32 (lo f4), bound32 (hi f2), bound32 (hi f4) with
  | some a, some b, some c, some x, some y, some z, some t, some u => if t < u then some ⟨[a, b, c], [x, y, z], t, u⟩ else none
  | _, _, _, _, _, _, _, _ => none

def Ray.lo (r : Ray) : Frac := ⟨r.tmin, fpScale⟩
def Ray.hi (r : Ray) : Frac := ⟨r.tmax, fpScale⟩

/-! ## Boxes (R273) -/

/-- Narrow [near, far] by one slab: none when the ray misses it. -/
def slab (o d lo hi : Int) (x : Option (Frac × Option Frac)) : Option (Frac × Option Frac) :=
  x.bind fun (n, f) =>
    if hi < lo then none
    else if d = 0 then (if lo ≤ o && o ≤ hi then some (n, f) else none)
    else
      let a := Frac.of (lo - o) d
      let b := Frac.of (hi - o) d
      let (a, b) := if d < 0 then (b, a) else (a, b)
      some (n.max a, some (match f with | some f => f.min b | none => b))

/-- The entry distance of a box that meets [tmin, tmax). -/
def boxMeets (r : Ray) (lo hi : List Int) : Option Frac :=
  let x := ((List.range 3).foldl (fun x k => slab (r.o.getD k 0) (r.d.getD k 0) (lo.getD k 0) (hi.getD k 0) x) (some (r.lo, none)))
  x.bind fun (n, f) =>
    if n.lt r.hi && (match f with | some f => n.le f | none => true) then some n else none

/-! ## Triangles (R274) -/

def cross (a b : List Int) : List Int :=
  let g := fun (l : List Int) k => l.getD k 0
  [g a 1 * g b 2 - g a 2 * g b 1, g a 2 * g b 0 - g a 0 * g b 2, g a 0 * g b 1 - g a 1 * g b 0]
def dot (a b : List Int) : Int := a.getD 0 0 * b.getD 0 0 + a.getD 1 0 * b.getD 1 0 + a.getD 2 0 * b.getD 2 0
def sub3 (a b : List Int) : List Int := (List.range 3).map fun k => a.getD k 0 - b.getD k 0

/-- T, u and v of a hit. -/
def triHit (r : Ray) (cull : Bool) (v0 v1 v2 : List Int) : Option (Nat × Nat × Nat) :=
  let e1 := sub3 v1 v0
  let e2 := sub3 v2 v0
  let p := cross r.d e2
  let det := dot e1 p
  let tv := sub3 r.o v0
  let q := cross tv e1
  let un := dot tv p
  let vn := dot r.d q
  let tn := dot e2 q
  if det = 0 || (cull && 0 < dot (cross e1 e2) r.d) then none
  else
    let u := Frac.of un det
    let v := Frac.of vn det
    let w := Frac.of (un + vn) det
    let t := (Frac.of tn det).round .f32
    if u.num < 0 || v.num < 0 || (⟨1, 1⟩ : Frac).lt w then none
    else match bound32 t with
      | some x => if r.tmin ≤ x && x < r.tmax then some (t, u.round .f16, v.round .f16) else none
      | none => none

/-! ## Images -/

def imgGet (m : List Byte) (o n : Nat) : Nat := ((m.drop o).take n).foldr (fun b a => b.toNat + 256 * a) 0

structure Header where
  id : Nat
  size : Nat
  ok : Bool
deriving DecidableEq, Repr

/-- The header of unit 0, its reserved fields checked (R267). -/
def headerOf (m : List Byte) : Header :=
  let size := imgGet m 3 2
  { id := imgGet m 0 3, size := size, ok := 2 ≤ size && size ≤ 256 && imgGet m 5 3 == 0 && imgGet m 32 96 == 0 }

/-- The header box meets the ray's interval; a bound that is not finite meets no ray (notes/assumptions/25.md). -/
def headerMeets (r : Ray) (m : List Byte) : Bool :=
  let c := (List.range 6).filterMap fun k => fin32 (imgGet m (8 + 4 * k) 4)
  c.length == 6 && (boxMeets r (c.take 3) (c.drop 3)).isSome

/-- A child reference (Table 9.4). -/
inductive ChildRef
  | empty
  | node (idx : Nat)
  | leaf (off ltype cnt : Nat) (opq : Bool)
  | exit (tid : Nat)
  | bad
deriving DecidableEq, Repr

def childRef (ntree x : Nat) : ChildRef :=
  match bits x 31 30 with
  | 0 => if x = 0 then .empty else .bad
  | 1 => if bits x 29 11 = 0 && bits x 2 0 = 0 then .node (bits x 10 0 / 8) else .bad
  | 2 =>
    let lt := bits x 17 15
    if bits x 29 19 != 0 || 2 < lt || (lt != 0 && bitAt x 18) then .bad
    else .leaf (bits x 10 0) lt (bits x 14 11) (bitAt x 18)
  | _ => if bits x 5 0 = 0 && bits x 29 6 < ntree then .exit (bits x 29 6) else .bad

/-- Child references of node n of an image, or none when the node makes the treelet invalid. -/
def nodeRefs (ntree : Nat) (m : List Byte) (n : Nat) : Option (List ChildRef) :=
  let o := 128 * n
  let l := (List.range 8).map fun i => childRef ntree (imgGet m (o + 64 + 4 * i) 4)
  let badExp := (List.range 3).any fun k => imgGet m (o + 12 + k) 1 == 0xFF
  if imgGet m 3 2 ≤ n || badExp || imgGet m (o + 15) 1 != 0 || imgGet m (o + 96) 32 != 0 || l.contains .bad then none else some l

/-- The entry distance of child i's box, when it meets the ray (R265). -/
def childMeets (r : Ray) (m : List Byte) (n i : Nat) : Option Frac :=
  let o := 128 * n
  let org := (List.range 3).filterMap fun k => fin32 (imgGet m (o + 4 * k) 4)
  let q := fun k => imgGet m (o + 16 + 6 * i + k) 1
  let step := fun k : Nat => (2 ^ (imgGet m (o + 12 + k) 1 + 22) : Nat)
  if org.length != 3 || (List.range 3).any (fun k => q (k + 3) < q k) then none
  else
    boxMeets r ((List.range 3).map fun k => org.getD k 0 + (q k * step k : Nat))
      ((List.range 3).map fun k => org.getD k 0 + (q (k + 3) * step k : Nat))

def leafSize : Nat → Nat | 0 => 48 | _ => 16

/-- A vertex of a triangle entry. -/
def vertexOf (m : List Byte) (o : Nat) : Option (List Int) :=
  let l := (List.range 3).filterMap fun k => fin32 (imgGet m (o + 4 * k) 4)
  if l.length = 3 then some l else none

end Sys2Proof.Machine
end

