-- ==== Sys2Proof/Machine/Traverse.lean ====
section
/-!
DEFINITION. Traversal: the walk of R272 to R278 as steps over a `TWalk`, TRAV in its four forms, TRAV_EVENT_DELIVERY, HOP and HQPUSH
(09 R263-R284, R291). The walk is made as one event, at the delivery (notes/assumptions/26.md).
-/
namespace Sys2Proof.Machine

/-- Where a walk stands: the registers it writes, the fields of f7 (Table 9.7), the ray-stack accesses of its beginning that have been
made, the node stack (top first), the leaf with its next entry, the leaf's entry distance, and what is to be saved (Table 9.11). -/
structure TWalk where
  f4 : Nat
  f5 : Nat
  f6 : Nat
  flags : Nat
  depth : Nat
  top : Nat
  tkind : Nat
  next : Nat
  nkind : Nat
  made : List (Nat × Nat)
  npush : Nat
  walking : Bool
  tid : Nat
  nodes : List (Nat × Nat)
  leaf : Option (Nat × Nat × Nat × Bool × Nat)
  dist : Option Frac
  save : Option (List Nat × List (Nat × Nat))
  boxes : Nat
  tris : Nat
  /-- the treelets whose walks have started, and the one whose walk is in progress -/
  walked : List Nat
  cur : Option Nat
deriving DecidableEq, Repr

/-- No stack, no walk. -/
def TWalk.start (f4 f5 f6 : Nat) (made : List (Nat × Nat)) : TWalk :=
  { f4 := f4, f5 := f5, f6 := f6, flags := 0, depth := 0, top := 0, tkind := 0, next := 0, nkind := 0, made := made, npush := 0,
    walking := false, tid := 0, nodes := [], leaf := none, dist := none, save := none, boxes := 0, tris := 0, walked := [], cur := none }

def TWalk.opaq (w : TWalk) : Bool := bitAt w.flags 3
def TWalk.cull (w : TWalk) : Bool := bitAt w.flags 2
def TWalk.first (w : TWalk) : Bool := bitAt w.flags 1
def TWalk.inst (w : TWalk) : Bool := bitAt w.flags 0

/-- f7 as the unit writes it (R269). -/
def TWalk.f7 (w : TWalk) : Nat :=
  (w.flags <<< 60) + (w.depth <<< 48) + (if w.depth = 0 then 0 else w.top + (w.tkind <<< 56)) +
    (if w.depth < 2 then 0 else (w.next <<< 24) + (w.nkind <<< 58))

def TWalk.setF7 (w : TWalk) (x : Nat) : TWalk :=
  { w with flags := bits x 63 60, depth := bits x 55 48, top := bits x 23 0, tkind := bits x 57 56, next := bits x 47 24,
           nkind := bits x 59 58 }

/-- What a walk looks at: the registers it only reads, the scene, the treelets of the core's store. -/
structure TravEnv where
  f1 : Nat
  f2 : Nat
  f3 : Nat
  ntree : Nat
  saveOn : Bool
  /-- the image of a treelet, for the walk of this number -/
  image : Nat → Nat → Option (List Byte)
  /-- the entry distance of a ray that can meet nothing -/
  free : Nat

inductive Trv
  | go (w : TWalk)
  | event (e : Nat) (w : TWalk)
  | fatal (cause va : Nat)
  /-- ray-stack entry m must be read, or written with v, before the walk goes on -/
  | need (m : Nat) (v : Option Nat) (w : TWalk)

def TravEnv.ray (e : TravEnv) (w : TWalk) : Option Ray := rayOf e.f1 e.f2 e.f3 w.f4

/-! ## The treelet stack (R270) -/

/-- Push an entry, or RAYSTACK. -/
def pushT (w : TWalk) (id kind : Nat) (k : TWalk → Trv) : Trv :=
  let w1 := { w with next := if w.depth = 0 then 0 else w.top, nkind := if w.depth = 0 then 0 else w.tkind, top := id,
                     tkind := kind, depth := w.depth + 1 }
  if 255 ≤ w.depth then .fatal 0x46 0
  else if w.depth < 2 then k w1
  else
    match w.made with
    | _ :: l => k { w1 with made := l }
    | [] => .need (w.depth - 2) (some (w.next + w.nkind * 2 ^ 24)) w

/-- Pop the top entry; the entry that becomes NEXT comes from the ray stack. -/
def popT (w : TWalk) (k : TWalk → Trv) : Trv :=
  let w1 := { w with depth := w.depth - 1, top := w.next, tkind := w.nkind, next := 0, nkind := 0 }
  if w.depth < 2 then k { w1 with top := 0, tkind := 0 }
  else if w.depth = 2 then k w1
  else
    match w.made with
    | (_, x) :: l => if bits x 25 24 = 3 then .fatal 0x46 0 else k { w1 with next := x % 2 ^ 24, nkind := bits x 25 24, made := l }
    | [] => .need (w.depth - 3) none w

/-- Pop n entries and push them again in the order popped: the top n reversed. -/
def reverseT : Nat → List (Nat × Nat) → TWalk → (TWalk → Trv) → Trv
  | 0, l, w, k => repush l w k
  | n + 1, l, w, k => popT w fun w' => reverseT n (l ++ [(w.top, w.tkind)]) w' k
where
  repush : List (Nat × Nat) → TWalk → (TWalk → Trv) → Trv
    | [], w, k => k w
    | (id, kind) :: l, w, k => pushT w id kind fun w => repush l w k

/-! ## Acceptance (R275) -/

def TWalk.marker (w : TWalk) : Nat := if w.inst then 0xFFFFFFFE else 0xFFFFFFFF

/-- The ray is over: DEPTH 0 and DONE. -/
def doneT (w : TWalk) : Trv :=
  .event 0 { w with depth := 0, top := 0, tkind := 0, next := 0, nkind := 0, nodes := [], leaf := none, walking := false }

/-- Accept {t, prim} with f6's upper half; FIRST ends the ray. -/
def acceptT (w : TWalk) (f5 f6hi : Nat) (last : Bool) (k : TWalk → Trv) : Trv :=
  let w := { w with f5 := f5, f6 := f6hi * 2 ^ 32 + w.marker, f4 := w.f4 % 2 ^ 32 + f5 % 2 ^ 32 * 2 ^ 32 }
  if w.first || last then doneT w else k w

/-! ## The walk (R272, R273) -/

def maskOfRefs (l : List ChildRef) : Nat := l.zipIdx.foldl (fun a x => if x.1 == .empty then a else a + 2 ^ x.2) 0

/-- Deliver PROC or ANYHIT: the walk is saved, and the candidate stands in f5 and f6 (R276). -/
def saveT (e : TravEnv) (w : TWalk) (ev f5 f6 : Nat) : Trv :=
  match w.leaf with
  | none => .go w
  | some (off, lt, cnt, opq, nxt) =>
    if !e.saveOn then .fatal 0x47 0
    else
      let dw0 := w.tid + off <<< 24 + bit opq <<< 35 + lt <<< 36 + cnt <<< 39 + ((nxt + 1) % 16) <<< 43 + w.nodes.length <<< 48 +
        ev <<< 53 + (w.npush % 256) <<< 56
      .event ev { w with save := some ([dw0, w.f5, w.f6, w.f7], w.nodes.reverse), f5 := f5, f6 := f6, flags := 0, depth := 0, top := 0,
                         tkind := 0, next := 0, nkind := 0 }

/-- The next entry of the current leaf. -/
def leafT (e : TravEnv) (w : TWalk) (m : List Byte) (off lt cnt : Nat) (opq : Bool) (nxt : Nat) : Trv :=
  let o := 16 * off + nxt * leafSize lt
  let on := fun w : TWalk => ({ w with leaf := some (off, lt, cnt, opq, nxt + 1) } : TWalk)
  if cnt < nxt then .go { w with leaf := none }
  else
    match lt with
    | 0 =>
      if imgGet m (o + 40) 8 != 0 then .fatal 0x45 w.tid
      else
        let w := { w with tris := w.tris + 1 }
        match e.ray w, vertexOf m o, vertexOf m (o + 12), vertexOf m (o + 24) with
        | some r, some a, some b, some c =>
          (match triHit r w.cull a b c with
          | none => .go (on w)
          | some (t, u, v) =>
            let f5 := t + imgGet m (o + 36) 4 * 2 ^ 32
            if opq || w.opaq then acceptT w f5 (u + v * 2 ^ 16) false fun w => .go (on w)
            else saveT e w 4 f5 ((u + v * 2 ^ 16) * 2 ^ 32 + w.marker))
        | _, _, _, _ => .go (on w)
    | 1 =>
      if imgGet m (o + 8) 8 != 0 then .fatal 0x45 w.tid
      else
        let d := match w.dist with | some d => roundDist e w d | none => e.free % 2 ^ 32
        saveT e w 2 (d + imgGet m o 4 * 2 ^ 32) (imgGet m (o + 4) 4)
    | _ =>
      if imgGet m (o + 3) 13 != 0 then .fatal 0x45 w.tid
      else pushT w (imgGet m o 3) 1 fun w => .go { on w with npush := w.npush + 1 }
where
  /-- The entry distance in FP32; one that is tmin itself is tmin as it stands. -/
  roundDist (e : TravEnv) (w : TWalk) (d : Frac) : Nat :=
    match e.ray w with
    | some r => if d == r.lo then e.f2 / 2 ^ 32 % 2 ^ 32 else d.round .f32
    | none => d.round .f32

/-- The entry distance of the child of node n that is this leaf, whatever tmax is now. What is saved of the walk does not tell children of one
node apart that name one leaf: the lowest-numbered gives it (DESIGN CHOICE, notes/assumptions/110.md). -/
def leafDist (e : TravEnv) (w : TWalk) (m : List Byte) (n : Nat) (off lt cnt : Nat) (opq : Bool) : Option Frac :=
  match e.ray { w with f4 := w.f4 % 2 ^ 32 + 0x7F800000 * 2 ^ 32 }, nodeRefs e.ntree m n with
  | some r, some l => (l.zipIdx.find? fun x => x.1 == .leaf off lt cnt opq).bind fun x => childMeets r m n x.2
  | _, _ => none

/-- The top node: its nearest pending child (R273). -/
def nodeT (e : TravEnv) (w : TWalk) (m : List Byte) (n pend : Nat) (rest : List (Nat × Nat)) : Trv :=
  match nodeRefs e.ntree m n with
  | none => .fatal 0x45 w.tid
  | some refs =>
    let cands := match e.ray w with
      | none => []
      | some r => (List.range 8).filterMap fun i => if bitAt pend i then (childMeets r m n i).map fun d => (d, i) else none
    match cands with
    | [] => .go { w with nodes := rest }
    | c :: l =>
      let best := l.foldl (fun a x => if x.1.lt a.1 then x else a) c
      let p := (cands.filter fun x => x.2 != best.2).foldl (fun a x => a + 2 ^ x.2) 0
      let w := { w with nodes := (n, p) :: rest }
      match refs.getD best.2 .empty with
      | .node k =>
        if 16 ≤ w.nodes.length then .fatal 0x45 w.tid
        else match nodeRefs e.ntree m k with
          | none => .fatal 0x45 w.tid
          | some l => .go { w with nodes := (k, maskOfRefs l) :: w.nodes, boxes := w.boxes + 1 }
      | .exit t => pushT w t 0 fun w => .go { w with npush := w.npush + 1 }
      | .leaf off lt cnt opq =>
        if 128 * imgGet m 3 2 < 16 * off + (cnt + 1) * leafSize lt then .fatal 0x45 w.tid
        else .go { w with leaf := some (off, lt, cnt, opq, 0), dist := some best.1 }
      | _ => .go w

/-- The dispatch on f7 (R272), with the check of TOP (R267). -/
def dispatchT (e : TravEnv) (w : TWalk) : Trv :=
  if w.depth = 0 then doneT w
  else if w.tkind = 3 then .fatal 0x46 0
  else if w.tkind = 1 then .event 3 w
  else if w.tkind = 2 then
    let id := w.top
    popT w fun w =>
      let f6 := if w.f6 % 2 ^ 32 = 0xFFFFFFFE then w.f6 - 0xFFFFFFFE + id else w.f6
      .event 5 { w with f6 := f6, flags := w.flags / 2 * 2 }
  else if e.ntree ≤ w.top then .fatal 0x45 w.top
  else
    match e.image w.walked.length w.top with
    | none => .event 1 w
    | some m =>
      let t := w.top
      popT { w with walked := w.walked ++ [t], cur := some t } fun w =>
        let w := { w with npush := 0, tid := t }
        match e.ray w with
        | none => .go { w with cur := none }
        | some r =>
          if !headerMeets r m then .go { w with cur := none }
          else match nodeRefs e.ntree m 1 with
            | none => .fatal 0x45 t
            | some l => .go { w with walking := true, nodes := [(1, maskOfRefs l)], boxes := w.boxes + 1 }

def stepT (e : TravEnv) (w : TWalk) : Trv :=
  if !w.walking then dispatchT e w
  else
    match e.image (w.walked.length - 1) w.tid with
    | none => .event 1 w
    | some m =>
      match w.leaf, w.nodes with
      | some (off, lt, cnt, opq, nxt), _ => leafT e w m off lt cnt opq nxt
      | none, (n, p) :: rest => nodeT e w m n p rest
      | none, [] => reverseT w.npush [] w fun w => .go { w with walking := false, npush := 0, cur := none }

/-- Run until something is delivered or needed. -/
def runT (e : TravEnv) : Nat → TWalk → Trv
  | 0, w => .go w
  | n + 1, w => match stepT e w with
    | .go w => runT e n w
    | x => x

/-! ## Starting and resuming -/

def sceneOf (s : State) (t : Thr) : List Nat := ((t.lid.bind fun l => s.launches.find l).bind (·.scene)).getD []

def saveAddr (s : State) (core e : Nat) : Nat := tcmKey core (privSize (s.core core).lsplit - 0x4000 + 64 * e)

/-- The walk that a TRAV of this form begins (R272, R278). -/
def beginT (s : State) (core e form : Nat) (f : Fibre) (made : List (Nat × Nat)) (env : TravEnv) : Trv :=
  let r := fun k => (fibreGet f k).toNat
  let w0 : TWalk := TWalk.start (r 4) (r 5) (r 6) made
  if !f.pin then .go (w0.setF7 (r 7))
  else
    let a := saveAddr s core e
    let d0 := memGet s.mem a 8
    let sp := bits d0 52 48
    let nodes := ((List.range sp).map fun j => (memGet s.mem (a + 32 + 2 * j) 1, memGet s.mem (a + 33 + 2 * j) 1)).reverse
    let cnt := bits d0 42 39
    let nx := bits d0 46 43
    let lf := (bits d0 34 24, bits d0 38 36, cnt, bitAt d0 35, if nx = 0 then 16 else nx)
    let w := { w0.setF7 (memGet s.mem (a + 24) 8) with
      walking := true, tid := bits d0 23 0, npush := bits d0 63 56, nodes := nodes, leaf := some lf, walked := [bits d0 23 0],
      cur := some (bits d0 23 0) }
    let w := { w with dist := match env.image 0 w.tid, nodes with
      | some m, (n, _) :: _ => leafDist env w m n lf.1 lf.2.1 cnt lf.2.2.2.1
      | _, _ => none }
    if form = 0 then .go { w with f5 := memGet s.mem (a + 8) 8, f6 := memGet s.mem (a + 16) 8 }
    else acceptT w (r 5) (r 6 / 2 ^ 32) (form == 2) .go

/-! ## Ray-stack accesses (R270) -/

def rayVa (scene : List Nat) (f : Fibre) (m : Nat) : Nat :=
  (scene.getD 2 0 + (fibreGet f 8).toNat % 2 ^ 32 % 2 ^ (scene.getD 3 0) * 1024 + 4 * m) % 2 ^ 64

/-- The fibre of an entry ends its launch. -/
def fatalFibre (s : State) (core e : Nat) (x : RqEntry) (cause va access : Nat) : State :=
  fatal s core x.t (tidWord 1 e core) cause va access (fibreDws x.fib)

/-- What a walk that misses keeps: its form and the accesses it has made. -/
def walkLatch : Wait → List Nat
  | .walk form made _ => 2 ^ 64 :: form :: made.flatMap fun x => [x.1, x.2]
  | _ => []

/-- The accesses that an earlier issue of the TRAV made before it missed. -/
def latchMade : List Nat → List (Nat × Nat)
  | m :: v :: l => (m, v) :: latchMade l
  | _ => []

/-- What a ray-stack access meets. -/
inductive RayAcc
  | ok (p : Place)
  | stop (s : State)

def rayCheck (s : State) (core e : Nat) (x : RqEntry) (k : AccKind) (va : Nat) : RayAcc :=
  let w : Who := { core := core, t := x.t, origin := some x.fib.origin }
  match checkAll s w k [⟨0, va, 4⟩] with
  | .ok ((_, p) :: _) => .ok p
  | .ok [] => .stop s
  | .trap _ _ => .stop (fatalFibre s core e x 0x46 va 6)
  | .miss ps =>
    .stop (s.modThr core x.t.uid fun t => { t with latch := walkLatch t.wait, wait := .miss ps (if k.writes then 14 else 6) })
  | .noTarget va pa => .stop (fatal s core x.t (tidWord 1 e core) 0x40 va 6 [pa])

/-- Store ray-stack entry m: whether the store has been made. One that finds no room in the store buffer waits (R18). -/
def storeStack (s : State) (core e : Nat) (x : RqEntry) (scene : List Nat) (m v : Nat) : Bool × State :=
  let va := rayVa scene x.fib m
  let push := fun p : Nat =>
    if 32 ≤ sbufUsed (s.core core) then (false, s) else (true, pushStore s core x.t.uid va (bytesOf p v 4) none)
  match rayCheck s core e x .store va with
  | .stop s => (false, s)
  | .ok (.near k) =>
    if nearStoreWaits s core x.t.uid va k 4 then push k else (true, storeNear s core (bytesOf k v 4) x.t.fenceRel)
  | .ok (.far p) => push p
  | .ok (.ident _) => (false, s)

/-- Read ray-stack entry m: at once from beside the core, else by a request that the walk waits for. -/
def readStack (s : State) (core e : Nat) (x : RqEntry) (scene : List Nat) (form : Nat) (made : List (Nat × Nat)) (m : Nat) :
    Option Nat × State :=
  let va := rayVa scene x.fib m
  let send := fun (pa : Nat) =>
    let held := heldByCmd s x.t.uid va 4 s.fresh || heldByAtomic s core pa s.fresh
    let (id, s) := newReq s core x.t.uid [(0, pa, 4)] va pa 4 (.load false) .buffered (if held then [] else forwarded s core pa 4)
    (sendReq s id).modThr core x.t.uid fun t => { t with wait := .walk form made (some (m, id)) }
  match rayCheck s core e x .load va with
  | .stop s => (none, s)
  | .ok (.near k) =>
    if nearLoadWaits s core x.t.uid va k 4 then (none, send k)
    else if poisoned s k 4 then (none, consumePoison s core x.t.uid)
    else (some (memGet s.mem k 4), s.modThr core x.t.uid (noteFences [marksAt s k 4]))
  | .ok (.far p) => (none, send p)
  | .ok (.ident o) => (some (tcmGet s core x.t o 4), s)

/-! ## Delivery -/

def countMany (s : State) (core ev : Nat) : Nat → State
  | 0 => s
  | n + 1 => countMany (countEvent s core ev) core ev n

/-- Walks of these treelets start on the core, in this order: they are the last walked there (R419). -/
def noteWalks (s : State) (core : Nat) (t : Thr) : List Nat → State
  | [] => s
  | id :: l =>
    let (n, s) := s.new
    let f := fun y : Treelet => if some y.tbase == tbaseOf s t && y.id == id then { y with used := n } else y
    noteWalks (s.modCore core fun k => { k with treelets := k.treelets.map f }) core t l

/-- The event ev is delivered with the walk's registers (Table 9.10). At EXIT and INST, too, f7 is written as R269 states
(notes/assumptions/86.md). -/
def deliver (s : State) (core e : Nat) (x : RqEntry) (ev : Nat) (w : TWalk) : State :=
  let a := saveAddr s core e
  let s : State := match w.save with
    | none => s
    | some (dws, nodes) =>
      { s with mem := (nodes.zipIdx.foldl (fun m n => memPut m (a + 32 + 2 * n.2) (n.1.1 + n.1.2 * 256) 2) (putDws s.mem a dws)) }
  let f := fibreSet (fibreSet (fibreSet (fibreSet x.fib 4 (word w.f4)) 5 (word w.f5)) 6 (word w.f6)) 7 (word w.f7)
  let f := { f with pc := x.fib.pc + word (8 * (1 + ev)), pin := w.save.isSome }
  let s := s.modCore core fun k => match k.rq.find e with
    | some y => { k with rq := k.rq.put e { y with fib := f, t := { y.t with walkOn := none, walkSaw := [] } } }
    | none => k
  countMany (countMany (s.resume core x.t.uid) core 8 w.boxes) core 9 w.tris

/-- Steps that a walk may take before it is given up for this event. -/
def walkFuel : Nat := 2 ^ 60

/-- The image of a treelet that the core holds. -/
def imageOf (s : State) (core : Nat) (t : Thr) (id : Nat) : Option (List Byte) :=
  (treeletAt s core t id).bind fun t => if t.ready then some t.image else none

/-- The walk of an entry: run it, making its ray-stack accesses in the order in which they come (R270). A walk that waits for one keeps in
`saw` the treelets that it has walked, and no treelet is evicted while a walk on it is in progress (R280). A record of a fault shows the
fibre's registers as they stood at the TRAV (DESIGN CHOICE, notes/assumptions/106.md). -/
def walkEntry : Nat → State → Nat → Nat → RqEntry → Nat → List (Nat × Nat) → List (Nat × List Byte) → State
  | 0, s, _, _, _, _, _, _ => s
  | fuel + 1, s, core, e, x, form, made, saw =>
    let scene := sceneOf s x.t
    let free := Config.freeNat s.freeCtr
    let env : TravEnv := {
      f1 := (fibreGet x.fib 1).toNat, f2 := (fibreGet x.fib 2).toNat, f3 := (fibreGet x.fib 3).toNat, ntree := scene.getD 1 0 % 2 ^ 24,
      saveOn := saveOn (s.core core).lsplit,
      image := fun k id => match saw[k]? with | some y => some y.2 | none => imageOf s core x.t id
      free := free }
    let r := match beginT s core e form x.fib made env with
      | .go w => runT env walkFuel w
      | r => r
    match r with
    | .go _ => s
    | .fatal cause va => fatalFibre s core e x cause va 0
    | .need m v w =>
      let new := w.walked.drop saw.length
      let saw := saw ++ new.map fun id => (id, (imageOf s core x.t id).getD [])
      let s := (noteWalks s core x.t new).modThr core x.t.uid fun t =>
        { t with wait := .walk form made none, walkOn := w.cur, walkSaw := saw }
      (match v with
      | some v =>
        let (done, s) := storeStack s core e x scene m v
        if done then walkEntry fuel s core e x form (made ++ [(m, v)]) saw else s
      | none =>
        let (got, s) := readStack s core e x scene form made m
        match got with
        | some v => walkEntry fuel s core e x form (made ++ [(m, v)]) saw
        | none => s)
    | .event ev w => deliver { noteWalks s core x.t (w.walked.drop saw.length) with freeCtr := s.freeCtr + 1 } core e x ev w

/-- TRAV_EVENT_DELIVERY (R271). -/
def execTravEventDelivery (core e : Nat) (s : State) : Out :=
  match (s.core core).rq.find e with
  | none => .next s
  | some x =>
    match x.t.wait with
    | .walk form made none => .next (walkEntry walkFuel s core e x form made x.t.walkSaw)
    | _ => .next s

/-! ## The instructions -/

/-- A form of TRAV that walks: the fibre is parked at the TRAV until the walk delivers (R271). One that issues again after a miss goes on
where its walk had come to. -/
def travPark (i : Instr) (form : Nat) (s : State) : Out :=
  start i s fun c s =>
    let made := latchMade ((s.issThr c).latch.drop 2)
    ((retireInto s (.walk form made none)).setPc c c.pc).modIssThr c fun t => { t with latch := [] }

/-- TRAV (R272, R278). -/
def execTrav (s : State) : Out := travPark .trav 0 s
/-- TRAV_ACC (R278). -/
def execTravAcc (s : State) : Out := travPark .travAcc 1 s
/-- TRAV_END (R278). -/
def execTravEnd (s : State) : Out := travPark .travEnd 2 s

/-- TRAV_INST (R279). -/
def execTravInst (b : BitVec 8) (s : State) : Out :=
  start (.travInst b) s fun c s =>
    match c.entry.bind fun e => ((s.core c.core).rq.find e).map fun x => (e, x) with
    | none => s
    | some (e, x) =>
      let f7 := (fibreGet x.fib 7).toNat
      let depth := bits f7 55 48
      let f7' := setBits (setBits (setBits (setBits (setBits (f7 ||| 2 ^ 60) 47 24 (bits f7 23 0)) 59 58 2) 23 0 (selVal s c b).toNat) 57 56 0)
        55 48 (depth + 1)
      if 255 ≤ depth then (fatalFibre s c.core e x 0x46 0 0).closeIssue
      else
        let (done, s) :=
          if 2 ≤ depth then storeStack s c.core e x (sceneOf s x.t) (depth - 2) (bits f7 47 24 + bits f7 59 58 * 2 ^ 24)
          else (true, s)
        if done then retire (s.setReg c 7 (word f7')) else parkMissed s c x.t.uid
where
  /-- The store did not go: a miss parks the fibre, whose TRAV issues again; a full buffer forfeits the turn. -/
  parkMissed (s : State) (c : Issue) (uid : Nat) : State :=
    match s.thrOf c.core uid with
    | some t => (match t.wait with | .none => (countEvent s c.core 2).closeIssue | w => (suspend s c w).closeIssue)
    | none => s.closeIssue

/-! ## HOP (R281, R282, R284) -/

/-- The fibre of entry e leaves by HOP: to an owner that the location cache names, else to the directory slice. -/
def leaveByHop (s : State) (core e : Nat) : State :=
  match takeAway s core e with
  | none => s
  | some (a, s) =>
    let s := countEvent s core 11
    let id := fibTop a.fib
    match s.partOf core, tbaseOf s a.t with
    | some p, some tb =>
      (match (s.core core).locs.find? fun x => x.1 == tb && x.2.1 == id with
      | some (_, _, o :: l) => sendMsg s .fibre (.core core) (.core (pickOwner a.fib (o :: l))) 0 (.hop a)
      | _ => sendMsg s .fibre (.core core) (dirNode id) 0 (.seek { a := a, part := p, tbase := tb, id := id, src := core, evict := none }))
    | _, _ => s
where
  /-- The replica of R284. -/
  pickOwner (f : Fibre) (l : List Nat) : Nat := l.getD (hash32 ((fibreGet f 8).toNat % 2 ^ 32) (fibTop f) % l.length) 0

/-- HOP (R281), with the check of TOP (R267). -/
def execHop (s : State) : Out :=
  start .hop s fun c s =>
    match c.entry.bind fun e => ((s.core c.core).rq.find e).map fun x => (e, x) with
    | none => s
    | some (e, x) =>
      let id := fibTop x.fib
      if (sceneOf s x.t).getD 1 0 % 2 ^ 24 ≤ id then (fatalFibre s c.core e x 0x45 id 0).closeIssue
      else if writesOut s x.t.uid then retireInto s (.release .hop)
      else leaveByHop (retire s) c.core e

/-! ## HQPUSH (R291) -/

/-- What a read of a halfword of the TRAYMAP finds. -/
inductive TrayLook
  | found (core : Nat)
  | none
  | poison
  | held (line : Nat)
deriving DecidableEq, Repr

/-- A halfword of the TRAYMAP at its home. -/
def trayHalf (s : State) (pa tag : Nat) : TrayLook :=
  match devHeld s pa 2 with
  | some l => .held l
  | none => if poisoned s pa 2 then .poison else .found (memGet (retag s (lineOf pa) tag).mem pa 2)

/-- A halfword of the TRAYMAP as it stands, through the page tables; none where no translation and no window reaches it
(notes/assumptions/27.md). -/
def trayTarget (s : State) (core : Nat) (va : Nat) : TrayLook :=
  match s.partOf core with
  | none => .none
  | some p =>
    let cfg := (s.part p).cfg
    let root := (s.part p).ptroot
    match winOf va with
    | .clu o => .found (memGet s.mem (spadKey (clusterOf core) o) 2)
    | .shared =>
      if !root.getLsbD 0 then .none
      else match walkFrom s cfg va 4 (keep root 46 12) with
        | .leaf l e g =>
          let ent := leafEntry s (partAsid cfg) va l e g
          if bitAt ent.perm 1 then
            trayHalf s (ownPa s (ent.pbase + (va - ent.vbase))) (if bitAt ent.perm 2 then ent.perm / 8 + 1 else 0)
          else .none
        | .poison => .poison
        | .held l => .held l
        | _ => .none
    | _ => .none

/-- HQPUSH: the record of Table 9.14 leaves once the waits of the release at pkg are over. Where nothing reaches the TRAYMAP's halfword, the
launch ends with NOTARGET and its address as VA (DESIGN CHOICE, notes/assumptions/105.md); while the host owns its line, or one of the page
tables that lead to it, the fibre forfeits its turns. -/
def execHqpush (sa : BitVec 6) (s : State) : Out :=
  start (.hqpush sa) s fun c s =>
    match c.entry.bind fun e => ((s.core c.core).rq.find e).map fun x => (e, x) with
    | none => s
    | some (e, x) =>
      let scene := sceneOf s x.t
      let key := (c.reg sa.toNat).toNat % 2 ^ 32
      let va := scene.getD 4 0 + 2 * (key % (scene.getD 5 1 % 2 ^ 13))
      match trayTarget s c.core va with
      | .found t =>
        if compCore s c.core t then
          let r := fun k => (fibreGet x.fib k).toNat
          let dws := [r 1, r 2, r 3, r 4, r 5, r 6, r 8, key + x.fib.seq * 2 ^ 32]
          retire (sendMsg s .hit (.core c.core) (.core t) x.t.uid (.tray (dws.flatMap fun d => [d % 2 ^ 32, d / 2 ^ 32])))
        else (fatal s c.core x.t (tidWord 1 e c.core) 0x40 0 0 [t]).closeIssue
      | .none => (fatal s c.core x.t (tidWord 1 e c.core) 0x40 va 0 []).closeIssue
      | .poison => (consumePoison s c.core x.t.uid).closeIssue
      | .held l => (askHost s l).closeIssue

end Sys2Proof.Machine
end

