-- ==== Sys2Proof/Machine/Work.lean ====
section
/-!
DEFINITION. Work distribution: tasks, deques, tile buffers, stealing, gangs, and the distributor's records (01 R42, R45-R54; 13 R355-R364).
-/
namespace Sys2Proof.Machine

/-! ## Tile buffers (R49) -/

def tileState (s : State) (k t : Nat) : Nat := ((s.cluster k).tiles.find t).getD 0
/-- 0 EMPTY, 1 FULL, 2 HELD. -/
def setTile (s : State) (k t v : Nat) : State :=
  s.modCluster k fun q => { q with tiles := if v = 0 then q.tiles.del t else q.tiles.put t v }

/-- The tile buffers that commands of a core have changed at their completion on this clk: they change when the core's turn among those of
their cluster comes; a HELD one stays (R49, R303). -/
def applyTiles (s : State) (core : Nat) : State :=
  { s with clusters := s.clusters.map fun x =>
      (x.1, { x.2 with
        tiles := (x.2.tilesNew.filter fun t => t.1 == core).foldl (fun m t =>
          if m.find t.2.1 == some 2 then m else if t.2.2 = 0 then m.del t.2.1 else m.put t.2.1 t.2.2) x.2.tiles
        tilesNew := x.2.tilesNew.filter fun t => t.1 != core }) }

/-- A record is eligible on a cluster. -/
def eligible (s : State) (k : Nat) (t : Task) : Bool :=
  t.ins.all (fun i => tileState s k i == 1) && t.outs.all fun i => tileState s k i == 0

def holdTiles (s : State) (k : Nat) (t : Task) : State := (t.ins ++ t.outs).foldl (fun s i => setTile s k i 2) s

/-! ## What a core may start (R52) -/

/-- A saved thread that may be restored into its slot: not halted, and no page is missing (R370, R390, R395). -/
def restorable (s : State) (x : Saved) : Bool :=
  savedReason s x != 3 && match x.wave.t.wait with | .miss _ _ => false | _ => true

def effOf (s : State) (t : Thr) : Nat := match t.lid.bind fun l => s.launches.find l with | some l => effNow s l | none => 3

/-- A slot 0 to 6 is vacant. -/
def vacantSlot (s : State) (core slot : Nat) : Bool := slot ≤ 6 && ((s.core core).slots.find slot).isNone

/-- Slots that a record of this priority may use: vacant, and not due to a saved thread of equal or higher priority (R370). -/
def openSlots (s : State) (core prio : Nat) : List Nat :=
  (List.range 7).filter fun k => vacantSlot s core k &&
    !((s.core core).hold == false && (s.cluster (clusterOf core)).saved.any fun x =>
      x.core == core && x.slot == k && restorable s x && prio ≤ effOf s x.wave.t)

/-- The slots that a record's launch may take out of those offered: the lowest 2^w1 that SLOTS names; none for a fibre task. The core
takes part in the launch, and its fills are done (R45). -/
def slotsFor (s : State) (core : Nat) (t : Task) (offered : List Nat) : Option (List Nat) :=
  match s.launches.find t.lid with
  | none => none
  | some l =>
    if l.dead || !l.filled.contains core then none
    else if l.mode == 1 then some []
    else
      let n := 2 ^ widthField l.widths 1
      let m := offered.filter fun k => bitAt l.slots k
      if n ≤ m.length then some (m.take n) else none

/-- The order of R52: higher PRIO, then lower LSEQ. -/
def rankBefore (s : State) (a b : Task) : Bool :=
  let q := fun t : Task => match s.launches.find t.lid with | some l => l.lseq | none => 0
  b.prio < a.prio || (a.prio == b.prio && serialLt32 (q a) (q b))

/-- The first record under the keys, of equals the earliest in the list given. Of the gang tasks of one launch, which share PRIO and LSEQ,
that is the one that entered the queue first: the spec names no third key there (notes/assumptions/87.md). -/
def bestTask (s : State) (l : List Task) : Option Task :=
  l.foldl (fun a t => match a with | some x => if rankBefore s t x then some t else a | none => some t) none

/-! ## Starting (R23, R26, R42) -/

/-- A slot before its first bundle. -/
def startWave (s : State) (core slot task group : Nat) (l : Launch) (lid base lanes : Nat) : State :=
  let (uid, s) := s.new
  let w := { Wave.vacant with
    t := { Thr.vacant with uid := uid, lid := some lid, wid := word base, readFloor := uid }, base := word base, lanes := lanes, task := task, group := group,
    pc := word (0xFFFFFFFF00000000 + l.cload + l.entry),
    s := ((Vector.replicate 64 0).set 1 (word base)).set 2 (word lanes) }
  s.modCore core fun k => { k with slots := k.slots.put slot w }

/-- The slots of one group: those whose first WID is below N. -/
def startGroup (s : State) (core task group : Nat) (l : Launch) (lid base : Nat) (slots : List Nat) : State :=
  let n := 2 ^ widthField l.widths 0
  slots.zipIdx.foldl (fun s x =>
    let b := base + x.2 * n
    if b < l.n then startWave s core x.1 task group l lid b (Nat.min n (l.n - b)) else s) s

/-- The fibres of a group task, in WID order. -/
def startFibres (s : State) (core : Nat) (l : Launch) (lid base : Nat) : State :=
  let n := Nat.min (2 ^ widthField l.widths 0) (l.n - base)
  (List.range n).foldl (fun s i =>
    let b := base + i
    let t : Thr := { Thr.vacant with lid := some lid, wid := word b, readFloor := s.fresh }
    let (a, s) := makeFibre s core t (word (0xFFFFFFFF00000000 + l.cload + l.entry)) [word b, word l.arg] b false
    (letIn s core a).2) s

/-- Start a record on these slots of a core; its tile buffers become HELD. -/
def startTask (s : State) (core : Nat) (t : Task) (slots : List Nat) : State :=
  match s.launches.find t.lid with
  | none => s
  | some l =>
    let (id, s) := s.new
    let s := holdTiles s (clusterOf core) t
    let s := { s with tasks := s.tasks.put id { lid := t.lid, core := core, ins := t.ins, outs := t.outs } }
    if l.mode == 1 then startFibres s core l t.lid t.base.toNat else startGroup s core id 0 l t.lid t.base.toNat slots

/-- Cores that take no record: helm cores, fenced cores, cores on hold (R351, R361). -/
def idleBarred (s : State) (core : Nat) : Bool := isHelm s core || (s.core core).fenced || (s.core core).hold

/-- Vacant slots that a steal request does not hold. -/
def freeSlots (s : State) (core prio : Nat) : List Nat :=
  (openSlots s core prio).filter fun k => match (s.core core).stealHeld with | some m => !bitAt m k | none => true

/-- Records of the core's own deque that it could start, nearest its own end first. -/
def startable (s : State) (core : Nat) : List Task :=
  (s.core core).deque.reverse.filter fun t => eligible s (clusterOf core) t && (slotsFor s core t (freeSlots s core t.prio)).isSome

/-- Remove the record nearest the own end that equals t. -/
def dropLast (l : List Task) (t : Task) : List Task := (l.reverse.erase t).reverse

/-- TASK_TAKE (R52): at most one record a clk. Records of an ended launch leave the deque. -/
def execTaskTake (core : Nat) (s : State) : Out :=
  let s := applyTiles s core
  let live := fun t : Task => match s.launches.find t.lid with | some l => !l.dead | none => false
  let s := s.modCore core fun k => { k with deque := k.deque.filter live }
  if idleBarred s core || (s.core core).lastTake == some s.clk then .next s
  else
    match bestTask s (startable s core) with
    | none => .next s
    | some t =>
      match slotsFor s core t (freeSlots s core t.prio) with
      | none => .next s
      | some sl => .next (startTask (s.modCore core fun k => { k with deque := dropLast k.deque t, lastTake := some s.clk }) core t sl)

/-- TASK_COMPLETE (R49): every slot that the task started has ended. -/
def execTaskComplete (id : Nat) (s : State) : Out :=
  match s.tasks.find id with
  | none => .next s
  | some r =>
    if (coresOfCluster (clusterOf r.core)).any fun c => (wavesOf s c).any fun w => w.task == id then .next s
    else
      let k := clusterOf r.core
      let s := r.ins.foldl (fun s t => setTile s k t 0) s
      let s := r.outs.foldl (fun s t => setTile s k t 1) s
      .next ({ s with tasks := s.tasks.del id }.modLaunch r.lid fun l => { l with left := l.left - 1 })

/-! ## Stealing (R53, R363, R364) -/

/-- The ring that boot firmware loads (R442): the other cores of the cluster, then the core of the same number in every other cluster of
the die, then in every other die, cyclically ascending; helm cores are left out. -/
def bootRing (s : State) (core : Nat) : List Nat :=
  let own := (List.range 15).map fun j => core / 16 * 16 + (core + 1 + j) % 16
  let die := (List.range 63).map fun j => core / 1024 * 1024 + (core + 16 * (j + 1)) % 1024
  let pkg := (List.range 5).map fun j => (core + 1024 * (j + 1)) % 6144
  (own ++ die ++ pkg).filter fun c => !isHelm s c

def ringOf (s : State) (core : Nat) : List Nat := ((s.core core).ring).getD (if s.mgmt.ready then bootRing s core else [])

/-- A victim that answers with a refusal at once. -/
def badVictim (s : State) (thief v : Nat) : Bool := v == thief || 6144 ≤ v || idleBarred s v || !s.sameDies thief (dieOf v)

/-- The next victim of the ring; after the last, 256 clk of waiting. -/
def ringNext (s : State) (core : Nat) : State :=
  let n := (s.core core).ringPos + 1
  s.modCore core fun k => { k with
    stealHeld := none
    ringPos := if (ringOf s core).length ≤ n then 0 else n
    backoff := if (ringOf s core).length ≤ n then some (s.clk + 256) else k.backoff }

/-- STEAL_REQUEST. A core that is idle again goes on in its ring where it stopped (notes/assumptions/48.md). -/
def execStealRequest (core : Nat) (s : State) : Out :=
  let k := s.core core
  let vac := (List.range 7).filter (vacantSlot s core)
  if idleBarred s core || k.stealHeld.isSome || k.backoff.isSome || vac.isEmpty || !(startable s core).isEmpty || 6144 ≤ core then .next s
  else
    match (ringOf s core).drop k.ringPos with
    | [] => .next s
    | v :: _ =>
      let s := countEvent s core 13
      if badVictim s core v then .next (ringNext s core)
      else
        let mask := vac.foldl (fun a k => a + 2 ^ k) 0
        let s := s.modCore core fun k => { k with stealHeld := some mask }
        .next (sendMsg s .system (.core core) (.core v) 0 (.steal core mask))

def slotsOfMask (m : Nat) : List Nat := (List.range 7).filter fun k => bitAt m k

/-- The record that a victim gives: eligible, startable by the thief, not kept, with tile references only inside the cluster; nearest the
far end among equals. -/
def stealPick (s : State) (victim thief mask : Nat) : Option Task :=
  bestTask s ((s.core victim).deque.filter fun t =>
    eligible s (clusterOf victim) t && !t.keep && (clusterOf thief == clusterOf victim || (t.ins.isEmpty && t.outs.isEmpty)) &&
      (slotsFor s thief t (slotsOfMask mask)).isSome)

/-- STEAL_ANSWER (R364): one request a clk, in order of arrival. The tile buffers of a record given are HELD from the answer on. -/
def execStealAnswer (core : Nat) (s : State) : Out :=
  let k := s.core core
  let first := k.stealIn.foldl (fun (a : Option (Nat × Nat × Nat)) x => match a with
    | some y => if x.2.2 < y.2.2 || (x.2.2 == y.2.2 && x.1 < y.1) then some x else a
    | none => some x) none
  match first with
  | none => .next s
  | some (thief, mask, at_) =>
    if k.stealAns == some s.clk then .next s
    else
      let s := s.setCore core { k with stealIn := k.stealIn.erase (thief, mask, at_), stealAns := some s.clk }
      match (if idleBarred s core then none else stealPick s core thief mask) with
      | none => .next (sendMsg s .system (.core core) (.core thief) 0 (.stolen none))
      | some t =>
        let s := s.modCore core fun k => { k with deque := k.deque.erase t }
        .next (sendMsg (holdTiles s (clusterOf core) t) .system (.core core) (.core thief) 0 (.stolen (some t)))

/-- STEAL_REPLY_ARRIVAL (R53): a record starts on the held slots; a refusal releases them. While CORESTAT.HOLD, set after the request
left, bars every start (R361), the record waits and the slots stay held: the spec does not settle which rule gives way, and the choice
is the model's (notes/assumptions/88.md). -/
def execStealReplyArrival (core : Nat) (s : State) : Out :=
  match (s.core core).stolen with
  | none => .next s
  | some none => .next (ringNext (s.modCore core fun k => { k with stolen := none }) core)
  | some (some t) =>
    if (s.core core).hold then .next s
    else
    let mask := ((s.core core).stealHeld).getD 0
    let s := s.modCore core fun k => { k with stolen := none, stealHeld := none, ringPos := 0 }
    let s := countEvent s core 14
    match slotsFor s core t (slotsOfMask mask) with
    | some sl => .next (startTask s core t sl)
    | none => .next s

/-- STEAL_BACKOFF_EXPIRY. -/
def execStealBackoffExpiry (core : Nat) (s : State) : Out :=
  match (s.core core).backoff with
  | some t => .next (if t ≤ s.clk then s.modCore core fun k => { k with backoff := none, ringPos := 0 } else s)
  | none => .next s

/-! ## Gangs (R54) -/

/-- Place groups in ascending g on cores with slots left; none when one finds no place. -/
def placeGroups (s : State) (t : Task) (cores : List Nat) : Nat → List (Nat × List Nat) → Option (List (Nat × List Nat))
  | 0, acc => some acc
  | n + 1, acc =>
    let used := fun c => (acc.filter fun x => x.1 == c).flatMap (·.2)
    let fit := fun c => slotsFor s c t ((freeSlots s c t.prio).filter fun k => !(used c).contains k)
    match cores.find? fun c => (fit c).isSome with
    | none => none
    | some c => placeGroups s t cores n (acc ++ [(c, (fit c).getD [])])

/-- GANG_START: the first gang task in rank starts when all its groups find slots. -/
def execGangStart (k : Nat) (s : State) : Out :=
  let live := fun t : Task => match s.launches.find t.lid with | some l => !l.dead | none => false
  let s := s.modCluster k fun q => { q with gangq := q.gangq.filter live }
  match bestTask s (s.cluster k).gangq with
  | none => .next s
  | some t =>
    match s.launches.find t.lid with
    | none => .next s
    | some l =>
      let cores := (coresOfCluster k).filter fun c => !idleBarred s c
      match placeGroups s t cores (2 ^ widthField l.widths 2) [] with
      | none => .next s
      | some pl =>
        let (id, s) := s.new
        let s := s.modCluster k fun q => { q with gangq := q.gangq.erase t }
        let s := { s with tasks := s.tasks.put id { lid := t.lid, core := 16 * k, ins := [], outs := [] } }
        let size := 2 ^ (widthField l.widths 0 + widthField l.widths 1)
        .next (pl.zipIdx.foldl (fun s x => startGroup s x.1.1 id x.2 l t.lid (t.base.toNat + x.2 * size) x.1.2) s)

/-! ## The distributor's records (R47, R355, R358) -/

/-- WIDs of one task. -/
def taskSpan (l : Launch) : Nat :=
  2 ^ (widthField l.widths 0 + widthField l.widths 1 + (if l.gang then widthField l.widths 2 else 0))

/-- The next record of a launch, and where it goes. -/
def nextRecord (s : State) (l : Launch) (lid : Nat) : Task × Nat :=
  ({ base := word (l.written * taskSpan l), kind := bit l.gang, prio := effNow s l, keep := l.keep, lid := lid, ins := [], outs := [] },
    l.targets.getD (l.written % l.targets.length) 0)

/-- The record has a place: every place reserved for a record under way counts as taken, and a launch that has lost all its cores has none. -/
def hasPlace (s : State) (l : Launch) (target : Nat) : Bool :=
  !l.targets.isEmpty &&
  if l.gang then (let q := s.cluster target; q.gangq.length + q.gangReserved < 64)
  else (let k := s.core target; k.deque.length + k.reserved < 64)

/-- Every participating core has a bank for the launch: it is not held (R72). -/
def isBound (s : State) (lid : Nat) (l : Launch) : Bool := l.cores.all fun c => (s.core c).banks.any fun b => b.2 == lid

/-- DISTRIBUTOR_RECORD_WRITE: one record a clk, of the launch of highest effective priority, then lowest LSEQ, that has a place. -/
def execDistributorRecordWrite (d : Nat) (s : State) : Out :=
  if (s.die d).lastRecord == some s.clk then .next s
  else
    let open_ := s.launches.filter fun x => x.2.die == d && !x.2.dead && !x.2.done && x.2.written < x.2.tasks && isBound s x.1 x.2
    let ok := open_.filter fun x => hasPlace s x.2 (nextRecord s x.2 x.1).2
    match ok.foldl (fun (a : Option (Nat × Launch)) x => match a with
      | some y => if effNow s y.2 < effNow s x.2 || (effNow s y.2 == effNow s x.2 && serialLt32 x.2.lseq y.2.lseq) then some x else a
      | none => some x) none with
    | none => .next s
    | some (lid, l) =>
      let (t, target) := nextRecord s l lid
      let s := s.modLaunch lid fun l => { l with written := l.written + 1, eff := t.prio }
      let s := s.modDie d fun x => { x with lastRecord := some s.clk }
      if l.gang then
        .next (sendMsg (s.modCluster target fun q => { q with gangReserved := q.gangReserved + 1 }) .system (.die d) (.cluster target) 0
          (.task none target t))
      else
        .next (sendMsg (s.modCore target fun k => { k with reserved := k.reserved + 1 }) .system (.die d) (.core target) 0
          (.task (some target) (clusterOf target) t))

/-- A record enters the deque or gang queue in which a place is reserved for it. -/
def enterRecord (s : State) (core : Option Nat) (k : Nat) (t : Task) : State :=
  match core with
  | some c => s.modCore c fun x => { x with deque := x.deque ++ [t], reserved := x.reserved - 1 }
  | none => s.modCluster k fun q => { q with gangq := q.gangq ++ [t], gangReserved := q.gangReserved - 1 }

/-- TASK_RECORD_ARRIVAL (R358). -/
def execTaskRecordArrival (id : Nat) (s : State) : Out :=
  match s.msgs.find id with
  | none => .next s
  | some m =>
    match m.body with
    | .task core k t => .next (if msgReady s id m then enterRecord { s with msgs := s.msgs.del id } core k t else s)
    | _ => .next s

/-- PRIORITY_AGING (R362): what the effective priority has risen to stands, whatever AGECFG says later. -/
def execPriorityAging (lid : Nat) (s : State) : Out :=
  match s.launches.find lid with
  | none => .next s
  | some l => .next (s.modLaunch lid fun x => { x with eff := effNow s l })

end Sys2Proof.Machine
end

