-- ==== Sys2Proof/Machine/Reply.lean ====
section
/-!
DEFINITION. What a thread waits for: the meanings of LONG_ACCESS_REPLY, RESERVATION_GRANT, ATOMIC_RELEASE, STORE_BUFFER_SEND and
WAITLINE_RELOAD (01 R30; 03 R82, R83, R95-R101; 06 R193; 07 R206-R219; 08 R255).
-/
namespace Sys2Proof.Machine

/-! ## The replies of an access -/

def arrivedReq (s : State) (id : Nat) : Bool := match s.reqs.find id with | some r => r.stage == .replied | none => false

/-- The bytes that a reply brings, those of the store buffer at the issue included (R89). -/
def replyVal (r : Req) : Nat := overlay r.pa r.n r.val r.fwd

/-- The value of each part of a reply. -/
def replyParts (r : Req) : List (Nat × Nat) :=
  r.parts.map fun p => (p.1, replyVal r / 256 ^ (p.2.1 - r.pa) % 256 ^ p.2.2)

/-- Bytes that the core has written since the request's issue stand (R83). -/
def withLater (r : Req) (d : List Byte) : List Byte := patchData d r.later (lineOf r.pa)
def laterMarksOf (r : Req) (m : Map (Nat × List RelMark)) : Map (Nat × List RelMark) :=
  r.laterMarks.foldl (fun m x => m.put x.1 x.2) (dropMarks m r.later)

/-- A line that a `.lax` load or a PREF.lax brought fills a copy, unless the core has a newer one, and on its way the visitor ways of its die,
when its home lies on another (R82, R214, R409). -/
def fillCopies (s : State) (r : Req) : State :=
  if r.noFill || pwinOf r.pa != .hbm then s
  else
    let line := lineOf r.pa
    let s := fillVisitor s (dieOf r.core) line r.readRank r.data r.lineMarks
    if (s.core r.core).cache.any fun c => c.line == line && r.readRank < c.read then s
    else fillLocal s r.core line r.readRank (withLater r r.data) (laterMarksOf r r.lineMarks)

/-- A reply reaches its core: a `.lax` one fills copies (R82); a fresh one updates the core's copy, unless that is the newer, but for bytes that
the core has written since. R83 does not say how much of the copy: it is the bytes loaded (notes/assumptions/89.md). -/
def takeReply (s : State) (id : Nat) : State :=
  match s.reqs.find id with
  | none => s
  | some r =>
    let s := s.dropReq id
    match r.kind with
    | .load true => fillCopies s r
    | .load false | .watch =>
      let l := (bytesOf r.pa r.val r.n).filter fun x => !r.later.any fun y => y.1 == x.1
      let ms := r.lineMarks.filter fun x => l.any fun y => y.1 == x.1
      let f := fun c : Copy =>
        if c.line == lineOf r.pa && c.read ≤ r.readRank then
          { c with data := patchData c.data l c.line, marks := ms.foldl (fun m x => m.put x.1 x.2) (dropMarks c.marks l) }
        else c
      if r.noFill then s else s.modCore r.core fun k => { k with cache := k.cache.map f }
    | _ => s

/-- What the replies of these requests bring: values by part, the releases of the writes that were read, at the home or in the store buffer,
and whether one is poisoned. -/
def replies (s : State) (ids : List Nat) : List (Nat × Nat) × List (List RelMark) × Bool :=
  let l := ids.filterMap s.reqs.find
  (l.flatMap replyParts, l.map (fun r => r.marks ++ r.fwdMarks), l.any (·.poison))

def consumeAt (s : State) (core uid : Nat) (ids : List Nat) : State := consumePoison (ids.foldl State.dropReq s) core uid

/-- A store to the own cluster after its release waits: one that may not perform at once joins the store buffer, when it has room. -/
def lateStore (s : State) (core uid : Nat) (l : List (Nat × Byte)) (m : RelMark) : Bool × State :=
  match l with
  | (a, _) :: _ =>
    let va := 0xFFFFFFFF10000000 + (a - spadBase) % 0x400000
    if nearStoreWaits s core uid va a l.length then
      (if 32 ≤ sbufUsed (s.core core) then (false, s) else (true, pushStore s core uid va l (some m)))
    else (true, storeRelease s core uid l m)
  | [] => (true, s)

/-- The waits of a release are over (R95): what the thread was to do. -/
def afterRelease (s : State) (core uid : Nat) : After → State
  | .fence m ar =>
    (s.modThr core uid (fenceEnd s.fresh true ar m)).resume core uid
  | .arrive => s.resume core uid
  | .store l m =>
    let (done, s) := lateStore s core uid l m
    if done then s.resume core uid else s
  | .atomic g d acq rel => beginAtomics s core uid g d acq rel
  | .sems _ _ _ _ => s
  | .hop => (match entryOfUid (s.core core) uid with | some e => leaveByHop s core e | none => s)
  | .go x => (match entryOfUid (s.core core) uid with | some e => leaveByGo s core e x | none => s)
  | .fend => endThread s core uid

/-- The access of a suspended thread ends when the last of its replies has arrived, or the waits of its release are over. -/
def accessEnd (s : State) (core : Nat) (th : Thr) : State :=
  let uid := th.uid
  match th.wait with
  | .access ids got d acq marks =>
    if !ids.all (arrivedReq s) then s
    else
      let (vals, ms, bad) := replies s ids
      if bad then consumeAt s core uid ids
      else
        let s := ids.foldl takeReply s
        let s := writeDest s core uid d (got ++ vals)
        (acquireMarks s core uid acq (marks ++ ms)).resume core uid
  | .block ids =>
    if !ids.all (arrivedReq s) then s
    else
      let (vals, _, bad) := replies s ids
      if bad then consumeAt s core uid ids
      else
        let m := vals.foldl (fun (m : Map Nat) x => m.put x.1 x.2) []
        let s := ids.foldl takeReply s
        (s.modThr core uid fun t => { t with latch := m.map (·.2) }).resume core uid
  | .waitline sd va pa other (some id) =>
    if !arrivedReq s id then s
    else
      let (vals, ms, bad) := replies s [id]
      let v := word ((vals.headD (0, 0)).2)
      if bad then consumeAt s core uid [id]
      else
        let s := acquireMarks (takeReply s id) core uid none ms
        if v == other then s.modThr core uid fun t => { t with wait := .waitline sd va pa other none }
        else { s.setRegUid core uid sd v with watchers := s.watchers.del uid }.resume core uid
  | .walk form made (some (m, id)) =>
    if !arrivedReq s id then s
    else
      let (vals, ms, bad) := replies s [id]
      if bad then consumeAt s core uid [id]
      else
        let s := acquireMarks (takeReply s id) core uid none ms
        s.modThr core uid fun t => { t with wait := .walk form (made ++ vals.map fun x => (m, x.2)) none }
  | .release k => if writesOut s uid then s else afterRelease s core uid k
  | _ => s

/-- LONG_ACCESS_REPLY: of the wave on a slot, of one saved from it, or of a fibre. -/
def execLongAccessReply (t : Tid) (s : State) : Out := .next (eachThr s t accessEnd)

/-- A thread that its bundle has suspended issues it again whole, once these pages have been translated (R28, R207). -/
def issueAgain (s : State) (core uid : Nat) (pages : List Nat) : State :=
  let s : State := { s with watchers := s.watchers.del uid }
  let s := s.modWaveUid core uid fun w => { w with pc := w.pc - 8, owed := none, passes := 0, passGot := [] }
  let s := match entryOfUid (s.core core) uid with
    | some e => s.modCore core fun k => match k.rq.find e with
      | some x => { k with rq := k.rq.put e { x with fib := { x.fib with pc := x.fib.pc - 8 } } }
      | none => k
    | none => s
  if pages.isEmpty then s.resume core uid else s.modThr core uid fun t => { t with wait := .miss pages 0 }

/-- Who a suspended thread is, for its translations. -/
def threadWho (s : State) (core : Nat) (t : Thr) : Who :=
  { core := core, t := t, origin := (entryOfUid (s.core core) t.uid).bind fun e => ((s.core core).rq.find e).map (·.fib.origin) }

/-- The load that a WAITLINE makes again once its line has been written. Its address is translated again; where that misses, or leads to a
window that WAITLINE may not name, the bundle issues again (R193; notes/assumptions/113.md). -/
def reloadLine (s : State) (core : Nat) (th : Thr) : State :=
  match th.wait with
  | .waitline sd va _ other none =>
    if (s.watchers.find th.uid).isSome then s
    else match prefLook s (threadWho s core th) .waitline va.toNat with
    | (none, s) => issueAgain s core th.uid [va.toNat / 4096]
    | (some pa, s) =>
      if badRangeP s .waitline pa || pwinOf pa == .none then issueAgain s core th.uid []
      else
        let held := heldByCmd s th.uid va.toNat 8 s.fresh || heldByAtomic s core pa s.fresh
        let (id, s) := newReq s core th.uid [(0, pa, 8)] va.toNat pa 8 .watch .buffered (if held then [] else forwarded s core pa 8)
        (sendReq s id).modThr core th.uid fun t => { t with wait := .waitline sd va pa other (some id) }
  | _ => s

/-- WAITLINE_RELOAD (R193): a write to the line has performed since the last load of the WAITLINE. -/
def execWaitlineReload (t : Tid) (s : State) : Out := .next (eachThr s t reloadLine)

/-! ## Atomics at the core (R217) -/

/-- RESERVATION_GRANT: the atomic unit applies a group's functions to the value granted, gives the elements their values, and sends
the release. -/
def execReservationGrant (id : Nat) (s : State) : Out :=
  match s.reqs.find id with
  | none => .next s
  | some r =>
    match r.kind, r.stage with
    | .atomic f rel, .replied =>
      let (olds, v, _) := atomAll r.n f r.val
      let got := (r.parts.zip olds).map fun x => (x.1.1, x.2)
      let s := s.modThr r.core r.uid fun t => match t.wait with
        | .access ids g d acq marks =>
          { t with wait := .access (ids.filter fun i => i != id) (g ++ got) d acq (marks ++ [r.marks]) }
        | _ => t
      let s := if r.poison then consumePoison s r.core r.uid else updateCopy s r.core (bytesOf r.pa v r.n) (rel.toList ++ r.marks.filter fun m => !m.fence)
      let s := s.modReq id fun r => { r with stage := .releasing }
      .next (sendMsg s .request (.core r.core) (homeNode s r.pa) 0 (.release id))
    | _, _ => .next s

/-- The command of a take still runs. -/
def takeOwned (s : State) (r : Req) : Bool := (cmdOfReq s r).isSome

/-- ATOMIC_RELEASE: the home performs the event of R104, or lets the line of a command that has ended go. -/
def execAtomicRelease (id : Nat) (s : State) : Out :=
  match s.reqs.find id with
  | none => .next s
  | some r =>
    match r.kind, r.stage with
    | .atomic f rel, .released =>
      let s := if r.poison then s else performAtomic s r f rel
      .next (leaveFifo (s.dropReq id) id r.pa)
    | .take _ _, st =>
      if takeOwned s r || st != .replied then .next s else .next (leaveFifo (s.dropReq id) id r.pa)
    | _, _ => .next s

/-! ## The store buffer (R208, R213, R255) -/

/-- Enter the next entries of a vector store that waits for room; its thread goes on when none is left. -/
def drainNext (s : State) (core : Nat) : State :=
  match (wavesOf s core).findSome? fun w => match w.t.wait with
    | .drain (e :: l) => some (w.t.uid, e, l)
    | _ => none with
  | none => s
  | some (uid, e, l) =>
    let s := pushStore s core uid e.1 (lastWins e.2) none
    if l.isEmpty then s.resume core uid else s.modThr core uid fun t => { t with wait := .drain l }

/-- The head of the store buffer may leave. -/
def mayLeave (s : State) (id : Nat) (r : Req) : Bool :=
  !heldByCmd s r.uid r.va r.n r.order &&
  match r.kind with
  | .store _ (some m) => !(levelOf s r.core m.scope m.set).1.isWide || !writesBefore s r.uid id
  | _ => true

/-- STORE_BUFFER_SEND: the oldest entry leaves. -/
def execStoreBufferSend (core : Nat) (s : State) : Out :=
  match (s.core core).sbuf with
  | [] => .next s
  | id :: l =>
    let gone := fun s : State => drainNext (s.modCore core fun k => { k with sbuf := l }) core
    match s.reqs.find id with
    | none => .next (gone s)
    | some r => .next (if mayLeave s id r then gone (sendReq s id) else s)

end Sys2Proof.Machine
end

