-- ==== Sys2Proof/Machine/CmdData.lean ====
section
/-!
DEFINITION. What a data command reads and writes, byte by byte (10 R304-R309, R313, R319; Tables 10.5-10.7): its source and
destination segments, and the value of each destination byte.
-/
namespace Sys2Proof.Machine

/-! ## Segments -/

/-- The lines that segments (address, length) touch, ascending, each with the hull of the bytes touched: (first byte, bytes). -/
def segPieces (l : List (Nat × Nat)) : List (Nat × Nat) :=
  let put := fun (m : Map (Nat × Nat)) (lo n : Nat) =>
    match m.find (lo / 64) with
    | some (a, k) => let a' := Nat.min a lo; m.put (lo / 64) (a', Nat.max (a + k) (lo + n) - a')
    | none => m.put (lo / 64) (lo, n)
  let m := l.foldl (fun m x =>
    (List.range ((x.1 % 64 + x.2 + 63) / 64)).foldl (fun m i =>
      let lo := Nat.max x.1 (64 * (x.1 / 64 + i))
      let hi := Nat.min (x.1 + x.2) (64 * (x.1 / 64 + i + 1))
      if lo < hi then put m lo (hi - lo) else m) m) ([] : Map (Nat × Nat))
  m.map (·.2)

/-- n rows of `bytes` bytes at `a`, each `stride` bytes after the one before it. -/
def rowSegs (a stride n bytes : Nat) : List (Nat × Nat) := (List.range n).map fun r => (a + stride * r, bytes)

def blankHdr : CmdHdr :=
  { we := false, wsem := 0, wthr := 0, se := false, ssem := 0, sinc := 0, token := 0, scope := 0, x0 := false, x1 := false }

/-- Source segments (Table 10.6). A gather's entries are in `acc` once its list has been read. -/
def srcSegs (c : Cmd) : List (Nat × Nat) :=
  let a := opAt c.ops 0
  match c.instr with
  | .cpy _ _ _ len => [(a, len.toNat)]
  | .cpy2 _ _ _ rows rowb sstr _ => rowSegs a (8 * sstr.toNat) rows.toNat rowb.toNat
  | .cpyt _ _ _ rows cols sstr _ esz => rowSegs a (8 * sstr.toNat) rows.toNat (2 ^ esz.toNat * cols.toNat)
  | .cpyb _ _ _ rows cols sstr bsz _ tr =>
    let (n, k) := if tr then (cols.toNat, rows.toNat) else (rows.toNat, cols.toNat)
    rowSegs a (8 * sstr.toNat) n ((k * bszBits bsz + 7) / 8)
  | .cpym _ _ _ _ len _ => [(a, len.toNat)]
  | .cpyr _ _ _ len _ => [(a, len.toNat)]
  | .cpyg _ _ _ _ gsz => c.acc.map fun e => (e, 8 * 2 ^ gsz.toNat)
  | .mld _ _ _ _ st => rowSegs a st.toNat 64 256
  | .sceneb _ _ | .launch _ _ => [(a, 64)]
  | _ => []

/-- Destination segments, by virtual address; those of CPYM are physical. -/
def dstSegs (c : Cmd) : List (Nat × Nat) :=
  let a := opAt c.ops 0
  let b := opAt c.ops 1
  match c.instr with
  | .cpy _ _ _ len => [(b, len.toNat)]
  | .cpy2 _ _ _ rows rowb _ dstr => rowSegs b (8 * dstr.toNat) rows.toNat rowb.toNat
  | .cpyt _ _ _ rows cols _ dstr esz => rowSegs b (8 * dstr.toNat) cols.toNat (2 ^ esz.toNat * rows.toNat)
  | .cpyb _ _ _ rows cols _ bsz role _ =>
    if rows == 0 || cols == 0 then [] else [(b, 2048 * cpybPanels rows.toNat cols.toNat (bszBits bsz) role)]
  | .cpym _ _ doff die len cmask =>
    ((List.range 64).filter fun k => cmask.getLsbD k).map fun k => (spadKey (64 * die.toNat + k) doff.toNat, len.toNat)
  | .cpyr _ _ _ len _ => [(b, len.toNat)]
  | .cpyg _ _ _ count gsz => [(b, 8 * 2 ^ gsz.toNat * count.toNat)]
  | .fillz _ _ len => [(a, len.toNat)]
  | .mst _ _ _ _ st => rowSegs a st.toNat 64 256
  | .mcas _ _ count _ => (List.range count.toNat).map fun e => (a + 24 * e + 8, 8)
  | _ => []

/-- Destinations are given by physical address. -/
def physDst (c : Cmd) : Bool := match c.instr with | .cpym .. => true | _ => false

/-! ## Values -/

/-- A byte that has been read from a virtual address. -/
def gotByte (c : Cmd) (va : Nat) : Option Byte :=
  c.got.findSome? fun x => if x.1 ≤ va then x.2[va - x.1]? else none

def gotBytes (c : Cmd) (va n : Nat) : Option (List Byte) := (List.range n).mapM fun i => gotByte c (va + i)

/-- CPYR on one element (R307): rounding to nearest even, no flag. -/
def cpyrAdd (ty : Nat) (x y : Nat) : Nat :=
  match ty with
  | 0 => (fpAdd .f32 .rne x y).1
  | 1 => (fpAdd .bf16 .rne x y).1
  | 2 => (fpAdd .f16 .rne x y).1
  | 3 => (fpAdd .f64 .rne x y).1
  | 4 => (x + y) % 2 ^ 32
  | _ => (x + y) % 2 ^ 64

/-- The nibble, byte or byte of a halfword of source element (r, c) of CPYB: the missing elements are zero. -/
def cpybElem (c : Cmd) (src sstr b rows cols : Nat) (tr : Bool) (r k : Nat) : Option Nat :=
  if rows ≤ r || cols ≤ k then some 0
  else
    let (row, i) := if tr then (k, r) else (r, k)
    let a := src + 8 * row * sstr + i * b / 8
    if b = 4 then (gotByte c a).map fun x => x.toNat / 16 ^ (i % 2) % 16
    else (gotBytes c a (b / 8)).map ofBytes

/-- The matrix coordinates of element number e of panel p (R306). -/
def panelCoord (pk kp : Nat) (role : Bool) (p e : Nat) : Nat × Nat :=
  let across := 64 * (p / pk) + e / kp
  let deep := kp * (p % pk) + e % kp
  if role then (deep, across) else (across, deep)

/-- One byte of CPYB's panels. -/
def cpybByte (c : Cmd) (src rows cols sstr b : Nat) (role tr : Bool) (off : Nat) : Option Byte :=
  let kp := panelK b
  let pk := ceilDiv (if role then rows else cols) kp
  let el := fun e => let rc := panelCoord pk kp role (off / 2048) e; cpybElem c src sstr b rows cols tr rc.1 rc.2
  let o := off % 2048
  if b = 4 then
    match el (2 * o), el (2 * o + 1) with
    | some x, some y => some (BitVec.ofNat 8 (x + 16 * y))
    | _, _ => none
  else (el (8 * o / b)).map fun x => BitVec.ofNat 8 (x >>> (8 * (o % (b / 8))))

/-- Of overlapping destinations the later one of the order of Table 10.6 stands: the highest row, then the highest column. -/
def cpytSrc (src dst rows cols sstr dstr e va : Nat) : Option Nat :=
  let cand := (List.range cols).filterMap fun k =>
    let base := dst + 8 * k * dstr
    if base ≤ va && va < base + e * rows then some ((va - base) / e, k) else none
  match cand.foldl (fun (a : Option (Nat × Nat)) x => match a with
    | some y => if y.1 ≤ x.1 then some x else a
    | none => some x) none with
  | some (r, k) => some (src + 8 * r * sstr + e * k + (va - (dst + 8 * k * dstr)) % e)
  | none => none

/-- The value of the byte at a destination address: none when the command does not write it, some none when what it needs has not
been read. `line` is the line as the take brought it, `tile` the accumulators of the command's context. -/
def outByte (c : Cmd) (line : List Byte) (tile : Nat → Nat) (va : Nat) : Option (Option Byte) :=
  let a := opAt c.ops 0
  let b := opAt c.ops 1
  match c.instr with
  | .cpy _ _ _ len => if b ≤ va && va < b + len.toNat then some (gotByte c (a + (va - b))) else none
  | .cpy2 _ _ _ rows rowb sstr dstr =>
    ((List.range rows.toNat).reverse.find? fun r =>
      let d := b + 8 * r * dstr.toNat; d ≤ va && va < d + rowb.toNat).map fun r =>
        gotByte c (a + 8 * r * sstr.toNat + (va - (b + 8 * r * dstr.toNat)))
  | .cpyt _ _ _ rows cols sstr dstr esz =>
    (cpytSrc a b rows.toNat cols.toNat sstr.toNat dstr.toNat (2 ^ esz.toNat) va).map (gotByte c)
  | .cpyb _ _ _ rows cols sstr bsz role tr =>
    let n := 2048 * cpybPanels rows.toNat cols.toNat (bszBits bsz) role
    if rows != 0 && cols != 0 && b ≤ va && va < b + n then
      some (cpybByte c a rows.toNat cols.toNat sstr.toNat (bszBits bsz) role tr (va - b))
    else none
  | .cpym _ _ doff _ len _ =>
    let o := (va - spadBase) % 0x400000
    if doff.toNat ≤ o && o < doff.toNat + len.toNat then some (gotByte c (a + (o - doff.toNat))) else none
  | .cpyr _ _ _ len ty =>
    if b ≤ va && va < b + len.toNat then
      let e := cpyrSize ty
      let o := (va - b) / e * e
      let old := if line.isEmpty then gotBytes c (b + o) e
        else some ((List.range e).map fun i => line.getD ((b + o) % 64 + i) 0)
      match gotBytes c (a + o) e, old with
      | some x, some y => some (some (BitVec.ofNat 8 (cpyrAdd ty.toNat (ofBytes y) (ofBytes x) >>> (8 * ((va - b) % e)))))
      | _, _ => some none
    else none
  | .cpyg _ _ _ count gsz =>
    let e := 8 * 2 ^ gsz.toNat
    if b ≤ va && va < b + e * count.toNat then some (gotByte c (c.acc.getD ((va - b) / e) 0 + (va - b) % e)) else none
  | .fillz _ _ len => if a ≤ va && va < a + len.toNat then some (some 0) else none
  | .mst _ _ t _ st =>
    let r := (va - a) / st.toNat
    let o := (va - a) % st.toNat
    if a ≤ va && r < 64 && o < 256 then
      some (some (BitVec.ofNat 8 (tile (4096 * t.toNat + 64 * r + o / 4) >>> (8 * (o % 4)))))
    else none
  | .mcas _ _ count _ =>
    let r := (va - a) / 24
    let o := (va - a) % 24
    if a ≤ va && r < count.toNat && 8 ≤ o && o < 16 then some (some (BitVec.ofNat 8 (c.acc.getD r 0 >>> (8 * (o - 8))))) else none
  | _ => none

/-! ## Tile buffers that a command's ranges cover (R303) -/

/-- The numbers of the 4 KiB pages that lie whole inside a range. -/
def pagesIn (lo len : Nat) : List Nat :=
  let a := (lo + 0xFFF) / 0x1000
  (List.range ((lo + len) / 0x1000 - a)).map (a + ·)

/-- The copy commands, whose FLAGS change tile buffers. -/
def isCopy : Instr → Bool
  | .cpy .. | .cpy2 .. | .cpyt .. | .cpyb .. | .cpym .. | .cpyr .. | .cpyg .. | .fillz .. => true
  | _ => false

/-- The pages whole inside a command's source or destination range, from its lowest to its highest byte, when its FLAGS name them. The
source of a gather has no range: each of its entries is one (notes/assumptions/91.md). -/
def flagPages (c : Cmd) (write : Bool) : List Nat :=
  let h := (hdrOf c.instr).getD blankHdr
  if !isCopy c.instr || !(if write then h.x0 else h.x1) then []
  else match c.instr, write with
    | .cpym .., true => (dstSegs c).flatMap fun x => pagesIn x.1 x.2
    | .cpyg .., false => []
    | _, _ => ((cmdRanges c.ops c.instr).filter fun r => r.write == write).flatMap fun r => pagesIn r.lo r.len

end Sys2Proof.Machine
end

