-- ==== Sys2Proof/Machine/Command.lean ====
section
/-!
DEFINITION. The life of a command (10 R295-R303): its issue, its translations, its reads, the takes and writes of its destination lines,
its end; the data commands' own part of them (R304-R309), and MCAS (R319).
-/
namespace Sys2Proof.Machine

/-! ## Issue (R296) -/

def cmdHdr (i : Instr) : CmdHdr := (hdrOf i).getD blankHdr
def Cmd.hdr (c : Cmd) : CmdHdr := cmdHdr c.instr

/-- Registers of a matrix operand (R311). -/
def cmdVecs (c : Issue) : Instr → List VReg
  | .mma _ va vb _ _ _ _ => panel va ++ panel vb
  | .mmax _ va vb vs _ _ _ _ => panel va ++ panel vb ++ [c.vreg vs.toNat]
  | _ => []
where
  panel (r : BitVec 5) : List VReg := (List.range 8).map fun i => c.vreg (r.toNat + i)

/-- The command that a bundle hands over. -/
def newCmd (s : State) (c : Issue) (i : Instr) (num : Nat) : Cmd :=
  let t := s.issThr c
  let scope := (cmdHdr i).scope.toNat
  let met := !(cmdHdr i).we || semHolds (semCount s c.core (cmdHdr i).wsem.toNat) (cmdHdr i).wthr.toNat
  { num := num, clk := s.clk, set := scopeSet s c.core scope, floors := t.floors, wrote := [], idx := 0, uid := t.uid, lid := t.lid, sup := t.sup,
    origin := c.entry.bind fun e => ((s.core c.core).rq.find e).map (·.fib.origin),
    instr := i, ops := cmdOps c i, vecs := cmdVecs c i, running := false, waited := met, xlat := [], reads := [], out := [],
    got := [], dsts := [], takes := [], started := 0, phase := 0, token := 0, acc := [], miss := none, tiles := [], marks := [], wid := t.wid, recIdx := t.recIdx }

def State.modMat (s : State) (core : Nat) (ctx : Bool) (f : MatCtx → MatCtx) : State :=
  s.modCore core fun k => if ctx then { k with mat1 := f k.mat1 } else { k with mat0 := f k.mat0 }

/-- The command enters its queue, its token register is pending, and the thread goes on; the slot of a matrix command leaves the
rotation until it completes (R310). -/
def enqueueCmd (s : State) (c : Issue) (x : Cmd) : State :=
  let h := x.hdr
  let s := noteAccess s c
  let s := s.modIssThr c fun t =>
    { t with latch := [], pend := if h.token == 0 then t.pend else t.pend ++ [(h.token.toNat, x.num)] }
  match cmdCtx x.instr with
  | some ctx => retireInto (s.modMat c.core ctx fun m => { m with queue := m.queue ++ [x] }) (.matrix x.num)
  | none => retire (s.modCore c.core fun k => { k with cmdq := k.cmdq ++ [x] })

/-- The issue of a command (R296). -/
def issueCommand (i : Instr) (s : State) : Out :=
  start i s fun c s =>
    let (num, s) := s.new
    enqueueCmd s c (newCmd s c i num)

/-! ## Start (R298) -/

/-- The wait of a command is satisfied. -/
def waitMet (s : State) (core : Nat) (c : Cmd) : Bool :=
  !c.hdr.we || semHolds (semCount s core c.hdr.wsem.toNat) c.hdr.wthr.toNat

/-- A command may start: its wait, which on its issue clk is tested as the count stood at the start of the clk, and the stores and atomics before
it (R108). -/
def mayStart (s : State) (core : Nat) (c : Cmd) : Bool :=
  (if c.clk == s.clk then c.waited else waitMet s core c) && !writesBefore s c.uid c.num

/-- What a command's scope names (R92). -/
def Cmd.acq (c : Cmd) : Acq := { scope := c.hdr.scope.toNat, set := c.set }
/-- It acts at scope slot, and its core counts a scope miss (R94). -/
def Cmd.missed (s : State) (core : Nat) (c : Cmd) : Bool := (levelOf s core c.acq.scope c.set).2

/-- The lowest running-command number in no use (R380). -/
def freeNum (k : Core) : Option Nat := (List.range 128).find? fun n => k.running.all fun c => c.idx != n

def cmdAt (s : State) (core idx : Nat) : Option Cmd := (s.core core).running.find? fun c => c.idx == idx
def setCmd (s : State) (core : Nat) (c : Cmd) : State :=
  s.modCore core fun k => { k with running := k.running.map fun x => if x.num == c.num then c else x }
def endCmd (s : State) (core num : Nat) : State :=
  s.modCore core fun k => { k with running := k.running.filter fun x => x.num != num }

/-- A satisfied wait is an acquire at SCOPE (R299): the command's reads are fresh, so what is left of it is its scope miss, and what the command
hands on at its completion of what it has acquired (R100). -/
def acquireCmd (s : State) (core : Nat) (c : Cmd) : State × Cmd :=
  if !c.hdr.we then (s, c)
  else (if c.missed s core then countScopeMiss s core else s,
    { c with floors := c.floors.join (((s.core core).semFloors.find c.hdr.wsem.toNat).getD Floors.zero) })

/-! ## Ends other than completion (R301, R446) -/

/-- The command ends its launch, or halts its supervisor thread, with ENGINEFAULT. -/
def engineFault (s : State) (core : Nat) (c : Cmd) (va : Nat) (write : Bool) : State :=
  endCmd (fatal s core (cmdThr c) (tidWord 2 c.idx core) 0x48 va (if write then 4 else 3) ((encode c.instr).map (·.toNat))) core c.num

/-- The command has read a poisoned word. -/
def cmdPoison (s : State) (core : Nat) (c : Cmd) : State :=
  match c.lid with
  | some l => killLaunch s l
  | none => endCmd (removeThr s core c.uid) core c.num

/-! ## Translation (R301) -/

/-- Who a command reads and writes as; the distributor reads as a user (R456). -/
def cmdWho (core : Nat) (c : Cmd) : Who :=
  { core := core, t := { cmdThr c with sup := c.sup && !isLaunch c.instr }, origin := c.origin }
/-- How a command makes an access: the entry lines of an MCAS follow a row of their own in Table 2.6. -/
def engKind (c : Cmd) (write : Bool) : AccKind :=
  match c.instr with
  | .mcas _ _ count _ => if !write then .engRead else if c.acc.length == 4 * count.toNat then .mcas else .engWrite
  | _ => if write then .engWrite else .engRead

inductive XRes
  | done (c : Cmd)
  | miss (c : Cmd) (page : Nat)
  | fail (va : Nat)

/-- Translate the page of va: key 2·page, plus 1 for a write, to the physical page and its tag. -/
def xlatePage (s : State) (core : Nat) (write : Bool) (c : Cmd) (va : Nat) : XRes :=
  match winOf va with
  | .shared =>
    if (c.xlat.find (2 * (va / 4096) + bit write)).isSome then .done c
    else
      match lookup s (cmdWho core c) (engKind c write) va with
      | .miss => .miss c (va / 4096)
      | .hit pa =>
        if badRangeP s (engKind c write) pa || !hasTarget s core pa then .fail va
        else .done { c with xlat := c.xlat.put (2 * (va / 4096) + bit write) (pa / 4096 * 4096 + keyTag s core va) }
  | .clu o =>
    if isLatent s (clusterOf core) o then .fail va
    else (match c.origin with
      | some g => if clusterOf g != clusterOf core then .fail va else .done c
      | none => .done c)
  | _ => .fail va

/-- Translate the pages of pieces, in order. -/
def xlateAll (s : State) (core : Nat) (write : Bool) : List (Nat × Nat) → Cmd → XRes
  | [], c => .done c
  | x :: l, c => match xlatePage s core write c x.1 with
    | .done c => xlateAll s core write l c
    | r => r

/-- The physical address of a virtual one, and its tag, once its page has been translated. -/
def cmdPa (core : Nat) (c : Cmd) (write : Bool) (va : Nat) : Nat × Nat :=
  match winOf va with
  | .clu o => (spadKey (clusterOf core) o, 0)
  | _ => let x := (c.xlat.find (2 * (va / 4096) + bit write)).getD 0
    (x / 4096 * 4096 + va % 4096, x % 4096)

/-- Translate for reading, then for writing; a miss pauses the command, a failure ends its launch. -/
def withXlate (s : State) (core : Nat) (c : Cmd) (rd wr : List (Nat × Nat)) (k : State → Cmd → State) : State :=
  match xlateAll s core false rd c with
  | .fail va => engineFault s core c va false
  | .miss c p => setCmd s core { c with miss := some (p, 3) }
  | .done c => match xlateAll s core true wr c with
    | .fail va => engineFault s core c va true
    | .miss c p => setCmd s core { c with miss := some (p, 4) }
    | .done c => k s c

/-! ## Requests -/

/-- A request of a command. -/
def cmdReq (s : State) (core : Nat) (c : Cmd) (va pa n tag : Nat) (k : ReqKind) (f : Req → Req) : Nat × State :=
  let (id, s) := s.new
  let r0 := Req.blank core c.uid [] va pa n k .buffered id
  let r : Req := { r0 with lid := c.lid, actor := c.wid, index := c.recIdx, key := tag }
  (id, { s with reqs := s.reqs.put id (f r) })

/-- Reads that carry the multicast mark (R412). -/
def cmdMarked (c : Cmd) : Bool := match c.instr with | .cpym .. => true | _ => false

/-- Send a fresh read for each piece. -/
def sendReads (s : State) (core : Nat) (c : Cmd) : State × Cmd :=
  c.reads.foldl (fun (x : State × Cmd) p =>
    let (s, c) := x
    let (pa, tag) := cmdPa core c false p.1
    let (id, s) := cmdReq s core c p.1 pa p.2 tag (.eng c.num) fun r => { r with marked := cmdMarked c }
    (sendReq s id, { c with out := c.out ++ [id] })) (s, { c with reads := [] })

/-- Bytes of the low n bytes of a value. -/
def valBytes (v n : Nat) : List Byte := (List.range n).map fun i => BitVec.ofNat 8 (v >>> (8 * i))

/-- Take in the reads that have been answered; none when one was poisoned. -/
def collectReads (s : State) (c : Cmd) : Option (State × Cmd) :=
  c.out.foldl (fun x id => x.bind fun (s, c) => match s.reqs.find id with
    | none => some (s, { c with out := c.out.filter (· != id) })
    | some r =>
      if r.stage != .replied then some (s, c)
      else if r.poison then none
      else some (s.dropReq id, { c with out := c.out.filter (· != id), got := c.got ++ [(r.va, valBytes r.val r.n)] })) (some (s, c))

/-! ## Lines of the destination (R109, R300) -/

/-- Physical lines with the virtual (or, for CPYM, physical) address of their first byte, ascending. -/
def dstLines (core : Nat) (c : Cmd) (segs : List (Nat × Nat)) : List (Nat × Nat) :=
  let l := (segPieces segs).map fun x =>
    let va := x.1 / 64 * 64
    ((if physDst c then va else (cmdPa core c true va).1) / 64, va)
  (l.mergeSort fun a b => a.1 ≤ b.1)

/-- Pieces of a destination line that a reduction has to read itself once it holds it, since its home lies beyond the package. -/
def farReduce (c : Cmd) (pa va : Nat) : List (Nat × Nat) :=
  match c.instr with
  | .cpyr .. => if beyond pa then (segPieces (dstSegs c)).filter fun x => x.1 / 64 == va / 64 else []
  | _ => []

def tileOf (s : State) (core : Nat) (c : Cmd) (j : Nat) : Nat :=
  match cmdCtx c.instr with
  | some x => ((matCtxOf (s.core core) x).elems.find j).getD 0
  | none => 0

/-- The bytes that a line receives, none while some are missing. -/
def lineBytes (s : State) (core : Nat) (c : Cmd) (pl va : Nat) (data : List Byte) : Option (List (Nat × Byte)) :=
  ((List.range 64).filterMap fun i => (outByte c data (tileOf s core c) (va + i)).map fun b => (64 * pl + i, b)).mapM fun x =>
    x.2.map fun b => (x.1, b)

/-- Writes wait until every read is done when the source and the destination overlap. -/
def writesOpen (c : Cmd) : Bool := c.phase != 5 || (c.reads.isEmpty && c.out.isEmpty)

/-- A read of this piece is still to be sent, or out. -/
def readOut (s : State) (c : Cmd) (x : Nat × Nat) : Bool :=
  c.reads.contains x || c.out.any fun id => match s.reqs.find id with | some r => r.va == x.1 | none => false

/-- Let go, with its bytes, each line that has been granted, those of a multicast on the paging channel (Table 15.1); a reduction first reads one whose home lies beyond the package. -/
def releaseTakes (s : State) (core : Nat) (c : Cmd) : Option (State × Cmd) :=
  c.takes.foldl (fun x t => x.bind fun (s, c) => match s.reqs.find t.1 with
    | none => some (s, { c with takes := c.takes.filter fun y => y.1 != t.1 })
    | some r =>
      if r.stage != .replied || !writesOpen c then some (s, c)
      else
        match c.instr, r.poison with
        | .cpyr .., true => none
        | _, _ => match lineBytes s core c (lineOf r.pa) t.2 (if beyond r.pa then [] else r.data) with
          | none => some (s, { c with reads := c.reads ++ (farReduce c r.pa t.2).filter fun p => (gotBytes c p.1 p.2).isNone && !readOut s c p })
          | some l =>
            let s := s.modReq t.1 fun r => { r with fwd := l, stage := .releasing }
            some (sendMsg s (if physDst c then .paging else .request) (.core core) (homeNode s r.pa) 0 (.release t.1), c)) (some (s, c))

/-- No take is on its way to its grant. -/
def noTakeOut (s : State) (c : Cmd) : Bool :=
  c.takes.all fun t => match s.reqs.find t.1 with
    | some r => r.stage == .replied || r.stage == .releasing || r.stage == .released
    | none => true

/-- Take the next line. -/
def nextTake (s : State) (core : Nat) (c : Cmd) (mcas : Bool) : State × Cmd :=
  match c.dsts with
  | [] => (s, c)
  | (pl, va) :: l =>
    if !noTakeOut s c then (s, c)
    else
      let tag := if physDst c then 0 else (cmdPa core c true va).2
      let (id, s) := cmdReq s core c va (64 * pl) 64 tag (.take c.num mcas) id
      (sendReq s id, { c with dsts := l, takes := c.takes ++ [(id, va)], wrote := c.wrote ++ [pl] })

/-- The lines not yet taken, where their translations put them now. -/
def retarget (core : Nat) (c : Cmd) : Cmd :=
  if physDst c then c
  else { c with dsts := (c.dsts.map fun x => ((cmdPa core c true x.2).1 / 64, x.2)).mergeSort fun a b => a.1 ≤ b.1 }

def moved (c : Cmd) : Bool := c.reads.isEmpty && c.out.isEmpty && c.dsts.isEmpty && c.takes.isEmpty

/-- Move bytes as far as the replies allow. What is still to be read or taken is translated again when an invalidation has taken its
translation away (R376). -/
def moveBytes (s : State) (core : Nat) (c : Cmd) : State :=
  withXlate s core c c.reads (if physDst c then [] else c.dsts.map fun x => (x.2, 64)) fun s c =>
    match collectReads s (retarget core c) with
    | none => cmdPoison s core c
    | some (s, c) =>
      let (s, c) := sendReads s core c
      match releaseTakes s core c with
      | none => cmdPoison s core c
      | some (s, c) =>
        let (s, c) := nextTake s core c false
        setCmd s core (if moved c then { c with phase := 2 } else c)

/-- The tile buffers that the command's FLAGS change: FULL in its destination, then EMPTY in its source. -/
def flaggedTiles (core : Nat) (c : Cmd) : List (Nat × Nat × Nat) :=
  let at_ := fun (write : Bool) (v p : Nat) =>
    let pa := if write && physDst c then 4096 * p else (cmdPa core c write (4096 * p)).1
    match pwinOf pa with
    | .spad k => some (k, (pa - spadBase) % 0x400000 / 4096, v)
    | _ => none
  (flagPages c true).filterMap (at_ true 1) ++ (flagPages c false).filterMap (at_ false 0)

/-- The ranges are translated: what is to be read, and the lines to be taken. -/
def beginMove (s : State) (core : Nat) (c : Cmd) : State :=
  let src := segPieces (srcSegs c)
  let dst := dstLines core c (dstSegs c)
  let srcLines := src.map fun x => (cmdPa core c false x.1).1 / 64
  let meets := dst.any fun d => srcLines.contains d.1
  moveBytes s core { c with reads := src, dsts := dst, tiles := flaggedTiles core c, phase := if meets then 5 else 1 }

/-- Pieces to be translated for reading and for writing: also pages that only the FLAGS need. -/
def readPieces (c : Cmd) : List (Nat × Nat) :=
  segPieces (srcSegs c) ++ (match c.instr with | .cpyr .. => segPieces (dstSegs c) | _ => []) ++
    (flagPages c false).map fun p => (4096 * p, 64)
def writePieces (c : Cmd) : List (Nat × Nat) :=
  if physDst c then [] else segPieces (dstSegs c) ++ (flagPages c true).map fun p => (4096 * p, 64)

/-- A physical destination that fails check 5 of R86: a latent tile (notes/assumptions/90.md). -/
def badPhysDst (s : State) (c : Cmd) : Option Nat :=
  if !physDst c then none
  else ((dstSegs c).flatMap fun x => (List.range (x.2 / 0x1000 + 2)).filterMap fun i =>
    let a := Nat.max x.1 (x.1 / 0x1000 * 0x1000 + 0x1000 * i)
    if a < x.1 + x.2 && badRangeP s .engWrite a then some a else none).head?

/-- A command that only moves bytes. -/
def progressMove (s : State) (core : Nat) (c : Cmd) : State :=
  if c.phase == 0 || c.phase == 4 then
    withXlate s core c (readPieces c) (writePieces c) fun s c =>
      match badPhysDst s c with
      | some pa => engineFault s core c pa true
      | none => beginMove s core c
  else moveBytes s core c

/-! ## CPYG (R308) -/

/-- The list has been read: entries that no element can be read from end the launch. -/
def gatherEntries (s : State) (core : Nat) (c : Cmd) (a count e : Nat) : State :=
  let l := (List.range count).map fun i => ofBytes ((gotBytes c (a + 8 * i) 8).getD [])
  let bad := fun va => va % Nat.min e 64 != 0 || badAddress s (cmdWho core c) ⟨0, va, 1⟩ || badAddress s (cmdWho core c) ⟨0, va + e - 1, 1⟩ ||
    badRangeV s (cmdWho core c) .engRead ⟨0, va, 1⟩ || badRangeV s (cmdWho core c) .engRead ⟨0, va + e - 1, 1⟩
  match l.find? bad with
  | some va => engineFault s core c va false
  | none => progressMove s core { c with acc := l, got := [], phase := 4 }

def progressGather (s : State) (core : Nat) (c : Cmd) (count e : Nat) : State :=
  let a := opAt c.ops 0
  let list := segPieces [(a, 8 * count)]
  if c.phase == 0 then
    withXlate s core c list [] fun s c =>
      let (s, c) := sendReads s core { c with reads := list, phase := 3 }
      setCmd s core c
  else if c.phase == 3 then
    match collectReads s c with
    | none => cmdPoison s core c
    | some (s, c) => if c.out.isEmpty then gatherEntries s core c a count e else setCmd s core c
  else progressMove s core c

/-! ## PREF2, FLUSH (R305, R309) -/

/-- PREF2: every line that a load could reach is fetched into its home slice. -/
def progressPref (s : State) (core : Nat) (c : Cmd) (a len : Nat) (lax : Bool) : State :=
  let s := (segPieces [(a, len)]).foldl (fun s p =>
    if winOf p.1 != .shared then s
    else
      let (pa, s) := prefLook s (cmdWho core c) .load p.1
      match pa with
      | none => s
      | some pa =>
        if pwinOf pa != .hbm then s
        else
          let (id, s) := cmdReq s core c p.1 (pa / 64 * 64) 64 (keyTag s core p.1) (.pref lax) fun r => { r with uid := 0, noFill := true }
          sendReq s id) s
  setCmd s core { c with phase := 2 }

/-- A slice writes a newer line to HBM; with INV every copy of it goes. -/
def flushLine (s : State) (inv : Bool) (line : Nat) : State :=
  let s := { s with dirty := s.dirty.del line }
  if !inv then s
  else
    let s := s.modSlice (sliceOf (64 * line)) fun q => { q with home := q.home.filter fun x => x != line }
    { s with visitors := s.visitors.filter fun x => x.2.line != line
             cores := s.cores.map fun x => (x.1, { x.2 with cache := x.2.cache.filter fun y => y.line != line }) }

def progressFlush (s : State) (core : Nat) (c : Cmd) (a len : Nat) (inv : Bool) : State :=
  let l := segPieces [(a, len)]
  withXlate s core c l [] fun s c =>
    let s := l.foldl (fun s p =>
      let pa := (cmdPa core c false p.1).1
      if pwinOf pa == .hbm then flushLine s inv (lineOf pa) else s) s
    setCmd s core { c with phase := 2 }

/-! ## MCAS (R107, R319) -/

/-- Entry e of the block as it was read at issue: address, expected value, new value, physical address. -/
def mcasEntry (c : Cmd) (e : Nat) : Nat × Nat × Nat × Nat :=
  (c.acc.getD (4 * e) 0, c.acc.getD (4 * e + 1) 0, c.acc.getD (4 * e + 2) 0, c.acc.getD (4 * e + 3) 0)

/-- The value of a doubleword in the lines that are held. -/
def heldValue (s : State) (c : Cmd) (pa : Nat) : Nat :=
  (c.takes.findSome? fun t => (s.reqs.find t.1).bind fun r =>
    if lineOf r.pa == lineOf pa then some (ofBytes ((List.range 8).map fun i => r.data.getD (pa % 64 + i) 0)) else none).getD 0

/-- The commit, at the instant all reservations are held: every entry is compared; all are written, or none. -/
def commitMcas (s : State) (core : Nat) (c : Cmd) (count : Nat) (o : Ord) : State :=
  let es := (List.range count).map (mcasEntry c)
  let obs := es.map fun e => heldValue s c e.2.2.2
  let fails := (List.range count).filter fun e => obs.getD e 0 != (mcasEntry c e).2.1
  let ok := fails.isEmpty
  let mark : List RelMark :=
    if ordRel o then [{ scope := c.acq.scope, core := core, set := c.set, floors := c.floors, fence := false }] else []
  let read := (es.flatMap fun e => marksAt s e.2.2.2 8).eraseDups
  let s := c.takes.foldl (fun s t => match s.reqs.find t.1 with
    | none => s
    | some r =>
      let b := if ok then (es.filter fun e => lineOf e.2.2.2 == lineOf r.pa).flatMap fun e => bytesOf e.2.2.2 e.2.2.1 8 else []
      let s := endWindow s (lineOf r.pa)
      let s := s.modReq t.1 fun r => { r with fwd := b, stage := .releasing, own := mark }
      sendMsg s .request (.core core) (homeNode s r.pa) 0 (.release t.1)) s
  setCmd s core { c with token := if ok then 2 ^ 64 - 1 else fails.headD 0, phase := 3, acc := if ok then [] else obs, marks := read }

/-- The entry lines, ascending, with an address of each. -/
def mcasLines (c : Cmd) (count : Nat) : List (Nat × Nat) :=
  ((List.range count).foldl (fun (m : Map Nat) e => let x := mcasEntry c e; m.put (x.2.2.2 / 64) (x.1 / 64 * 64)) [])

/-- The entries whose lines are still to be taken, where their translations put them now. -/
def mcasTargets (core : Nat) (c : Cmd) (count : Nat) (lines : List Nat) : Cmd :=
  { c with acc := (List.range count).flatMap fun e =>
      let x := mcasEntry c e
      [x.1, x.2.1, x.2.2.1, if lines.contains (x.1 / 64) then (cmdPa core c true x.1).1 else x.2.2.2] }

def progressMcas (s : State) (core : Nat) (c : Cmd) (count : Nat) (o : Ord) : State :=
  if c.phase == 0 then
    withXlate s core c [] ((List.range count).map fun e => ((mcasEntry c e).1, 8)) fun s c =>
      let c := mcasTargets core c count ((List.range count).map fun e => (mcasEntry c e).1 / 64)
      let (s, c) := nextTake s core { c with dsts := mcasLines c count, phase := 1 } true
      setCmd s core c
  else if c.phase == 1 && c.acc.length == 4 * count then
    let held := c.takes.all fun t => match s.reqs.find t.1 with | some r => r.stage == .replied | none => false
    let sick := c.takes.any fun t => match s.reqs.find t.1 with | some r => r.poison && r.stage == .replied | none => false
    if sick then cmdPoison s core c
    else if c.dsts.isEmpty && held then commitMcas s core c count o
    else
      withXlate s core c [] (c.dsts.map fun x => (x.2, 64)) fun s c =>
        let c := mcasTargets core (retarget core c) count (c.dsts.map fun x => x.2 / 64)
        let (s, c) := nextTake s core c true
        setCmd s core c
  else if c.phase == 3 then
    let left := c.takes.filter fun t => (s.reqs.find t.1).isSome
    if !left.isEmpty then s
    else if c.acc.isEmpty then setCmd s core { c with takes := [], phase := 2 }
    else progressMove s core { c with takes := [], phase := 4 }
  else progressMove s core c

/-- MCAS at issue (R319): a block outside the cluster is read first, and the bundle issues again with it. -/
def issueMcas (i : Instr) (block : RegOp) (count : Nat) (s : State) : Out :=
  start i s fun c s =>
    let a := (regOpVal c block).toNat
    let w := issWho s c
    match mcasEntries s c count a with
    | some l =>
      let pas := match checkAll s w .mcas ((List.range l.length).map fun e => ⟨e, (l.getD e (0, 0, 0)).1, 8⟩) with
        | .ok pl => pl.map fun x => match x.2 with | Place.far pa => pa | Place.near key => key | _ => 0
        | _ => []
      let (num, s) := (useBanks s (clusterOf c.core) (threadPos s c.core) (blockBanks s c i)).new
      let x := newCmd s c i num
      let acc := l.zipIdx.flatMap fun e => [e.1.1, e.1.2.1, e.1.2.2, pas.getD e.2 0]
      enqueueCmd s c { x with acc := acc, xlat := mcasTags s c l pas }
    | none =>
      match checkAll s w .engRead ((List.range (3 * count)).map fun k => ⟨k, a + 8 * k, 8⟩) with
      | .ok pl =>
        let (s, ids) := sendLoads c w.t false pl.length (pl.filterMap fun x => match x.2 with
          | Place.far pa => some (x.1.lane, x.1, pa)
          | Place.near pa => some (x.1.lane, x.1, pa)
          | _ => none) (noteAccess s c) []
        (suspend (countEvent s c.core 4) c (.block ids)).closeIssue
      | _ => s
where
  /-- The tags of the entries' pages, where the takes look for them. -/
  mcasTags (s : State) (c : Issue) (l : List (Nat × Nat × Nat)) (pas : List Nat) : Map Nat :=
    (l.zip pas).foldl (fun m x => m.put (2 * (x.1.1 / 4096) + 1) (x.2 / 4096 * 4096 + keyTag s c.core x.1.1)) []

/-! ## Tile buffers (R303) -/

/-- The completion sets tile buffers, in the order of R49. A phase-buffered tile of another cluster waits for DEVELOP. -/
def flagTiles (s : State) (core : Nat) (c : Cmd) : State :=
  c.tiles.foldl (fun s x =>
    let (k, t, v) := x
    if v == 1 && k != clusterOf core && isPhase s k (4096 * t) then s.modCluster k fun q => { q with tilesLate := q.tilesLate ++ [t] }
    else s.modCluster k fun q => { q with tilesNew := q.tilesNew ++ [(core, t, v)] }) s

/-! ## Completion (R302) -/

/-- Change the spilled contexts of a core that have this uid, with their images. -/
def modSpilled (s : State) (core uid : Nat) (f : Thr → Fibre → Thr × Fibre) : State :=
  let k := s.core core
  k.spill.zipIdx.foldl (fun s x =>
    if x.1.t.uid != uid then s
    else
      let y := f x.1.t (fibreOfImage s (spillPlace k x.2))
      devicePut (s.modCore core fun k => { k with spill := k.spill.set x.2 { t := y.1, fib := y.2 } }) (spillPlace k x.2) (fibreDws y.2)) s

/-- Change a fibre wherever it is: in a run queue, an arrival queue, a spill area, a message, or at a directory. -/
def State.modFibre (s : State) (uid : Nat) (f : Thr → Fibre → Thr × Fibre) : State :=
  let away := fun a : Away => if a.t.uid == uid then let x := f a.t a.fib; { a with t := x.1, fib := x.2 } else a
  let entry := fun e : RqEntry => if e.t.uid == uid then let x := f e.t e.fib; { e with t := x.1, fib := x.2 } else e
  let body := fun b : Body => match b with
    | .fibre a => .fibre (away a)
    | .hop a => .hop (away a)
    | .seek h => .seek { h with a := away h.a }
    | b => b
  let s : State := { s with
    cores := s.cores.map fun k => (k.1, { k.2 with rq := k.2.rq.map fun e => (e.1, entry e.2), arrivals := k.2.arrivals.map away })
    msgs := s.msgs.map fun m => (m.1, { m.2 with body := body m.2.body })
    sliceTab := s.sliceTab.map fun p => (p.1, { p.2 with hops := p.2.hops.map fun h => { h with a := away h.a } }) }
  (s.cores.map (·.1)).foldl (fun s k => modSpilled s k uid f) s

def notPending (num : Nat) (t : Thr) : Thr := { t with pend := t.pend.filter fun p => p.2 != num }

/-- The thread whose token this is goes on if it waits for that register. -/
def resumeToken (s : State) (core uid reg : Nat) : State :=
  match s.thrOf core uid with
  | some t => if t.wait == .token reg then s.resume core uid else s
  | none => s

/-- What the completion of a command is a release of (R100, R110): what its thread and its wait had acquired, and its own writes, which no local
copy read before now may miss. -/
def cmdFloors (s : State) (c : Cmd) : Floors := c.floors.join ⟨0, 0, (c.wrote.eraseDups.map fun l => (l, s.fresh)).foldl (fun (m : Map Nat) x => m.put x.1 x.2) []⟩

/-- What a completion does to its thread, still on its core or moved away, and whether its core counts a scope miss: the reading of a token is an
acquire at the command's scope, whose end is the write of the token; so is the event of an MCAS with that order (Table 3.6, R99). The pair
always synchronises (R101). -/
def completionAcquire (s : State) (core : Nat) (c : Cmd) (here : Bool) : (Thr → Thr) × Bool :=
  let r : Option (Thr → Thr) × Bool := match c.instr with
    | .mcas _ _ _ o => if ordAcq o then acquireOutcome s core c.acq c.marks else (none, false)
    | _ => (none, false)
  let read := fun t : Thr =>
    if c.hdr.token == 0 then t
    else
      let t := acquireFn s core c.acq t
      if here then raiseFloors core core (cmdFloors s c) t else { t with locFloor := s.fresh, visFloor := s.fresh }
  (fun t => read (match r.1 with | some f => f t | none => t), r.2)

/-- Write a token: in the thread on its core, or in the fibre wherever it has gone. -/
def writeToken (s : State) (core : Nat) (c : Cmd) (v : Nat) : State :=
  let reg := c.hdr.token.toNat
  let here := (s.thrOf core c.uid).isSome
  let (f, missed) := completionAcquire s core c here
  let s := if missed then countScopeMiss s core else s
  let f := fun t : Thr => f (notPending c.num t)
  if here then
    let s := s.modThr core c.uid f
    if reg = 0 then s else resumeToken (s.setRegUid core c.uid reg (word v)) core c.uid reg
  else
    let s := s.modFibre c.uid fun t x => (f t, if reg = 0 then x else fibreSet x reg (word v))
    match s.cores.find? fun k => (entryOfUid k.2 c.uid).isSome with
    | some k => if reg = 0 then s else resumeToken s k.1 c.uid reg
    | none => s

/-- The signal of a completion reaches its semaphore, with its release: it is added in the update of this clk (R229). -/
def signalCmd (s : State) (core : Nat) (c : Cmd) : State :=
  if c.hdr.se then
    s.modCore core fun k => { k with semIn := k.semIn ++ [(c.hdr.ssem.toNat, false, c.hdr.sinc.toNat, core, c.num, cmdFloors s c)] }
  else s

/-- The slot of a matrix command rejoins the rotation. -/
def rejoin (s : State) (core : Nat) (c : Cmd) : State :=
  match s.thrOf core c.uid with
  | some t => (match t.wait with | .matrix n => if n == c.num then s.resume core c.uid else s | _ => s)
  | none => s

/-- A command completes with this token. -/
def completeCmd (s : State) (core : Nat) (c : Cmd) (token : Nat) : State :=
  let s := if !c.hdr.we && c.missed s core then countScopeMiss s core else s
  let s := flagTiles s core c
  let s := rejoin (endCmd s core c.num) core c
  signalCmd (writeToken s core c token) core c

/-! ## The data commands at issue -/

/-- CPY (R305). -/
def execCpy (h : CmdHdr) (src dst : RegOp) (len : BitVec 32) (s : State) : Out := issueCommand (.cpy h src dst len) s
/-- CPY2 (R305). -/
def execCpy2 (h : CmdHdr) (src dst : RegOp) (rows rowb sstr dstr : BitVec 16) (s : State) : Out :=
  issueCommand (.cpy2 h src dst rows rowb sstr dstr) s
/-- CPYT (R305). -/
def execCpyt (h : CmdHdr) (src dst : RegOp) (rows cols : BitVec 12) (sstr dstr : BitVec 18) (esz : BitVec 2) (s : State) : Out :=
  issueCommand (.cpyt h src dst rows cols sstr dstr esz) s
/-- CPYB (R306). -/
def execCpyb (h : CmdHdr) (src dst : RegOp) (rows cols : BitVec 12) (sstr : BitVec 18) (bsz : BitVec 2) (role tr : Bool)
    (s : State) : Out := issueCommand (.cpyb h src dst rows cols sstr bsz role tr) s
/-- CPYM (R305). -/
def execCpym (h : CmdHdr) (src : RegOp) (doff : BitVec 22) (die : BitVec 3) (len : BitVec 32) (cmask : BitVec 64) (s : State) : Out :=
  issueCommand (.cpym h src doff die len cmask) s
/-- CPYR (R307). -/
def execCpyr (h : CmdHdr) (src dst : RegOp) (len : BitVec 32) (ty : BitVec 3) (s : State) : Out :=
  issueCommand (.cpyr h src dst len ty) s
/-- CPYG (R308). -/
def execCpyg (h : CmdHdr) (src dst : RegOp) (count : BitVec 32) (gsz : BitVec 3) (s : State) : Out :=
  issueCommand (.cpyg h src dst count gsz) s
/-- PREF2 (R305). -/
def execPref2 (h : CmdHdr) (addr : RegOp) (len : BitVec 32) (s : State) : Out := issueCommand (.pref2 h addr len) s
/-- FLUSH (R309). -/
def execFlush (h : CmdHdr) (addr : RegOp) (len : BitVec 32) (s : State) : Out := issueCommand (.flush h addr len) s
/-- FILLZ (R305). -/
def execFillz (h : CmdHdr) (addr : RegOp) (len : BitVec 32) (s : State) : Out := issueCommand (.fillz h addr len) s
/-- MCAS (R319). -/
def execMcas (h : CmdHdr) (block : RegOp) (count : BitVec 4) (o : Ord) (s : State) : Out :=
  issueMcas (.mcas h block count o) block count.toNat s

end Sys2Proof.Machine
end

