-- ==== Sys2Proof/Machine/Trans.lean ====
section
/-!
DEFINITION. The special functions of Table 8.4 (08 R238): a value computed with 1152 fraction bits, rounded once. Exact results are
told apart first; every other result is irrational, so its rounding has a nonzero rest (notes/assumptions/10.md).
-/
namespace Sys2Proof.Machine

/-- Fraction bits. -/
def fxBits : Nat := 1152
def fxOne : Nat := 2 ^ fxBits
/-- ln 2, log2 e and π at that scale. -/
def fxLn2 : Nat := 0xb17217f7d1cf79abc9e3b39803f2f6af40f343267298b62d8a0d175b8baafa2be7b876206debac98559552fb4afa1b10ed2eae35c138214427573b291169b8253e96ca16224ae8c51acbda11317c387eb9ea9bc3b136603b256fa0ec7657f74b72ce87b19d6548caf5dfa6bd38303248655fa1872f20e3a2da2d97c50f3fd5c607f4ca11fb5bfb90610d30f88fe551a2
def fxLog2e : Nat := 0x171547652b82fe1777d0ffda0d23a7d11d6aef551bad2b4b1164a2cd9a342648fbc3887eeaa2ed9ac49b25eeb82d7c167d52173cc1895213f897f5e06a7be73665fc529264c2fb3ab643687aaf3ab440c16bd777e75050a8d1a39e8af56c64a7833352906deb692ce4f199e108cf392819cfc406b19abb71ec25e11f75c6142e64ca16da20b1d74a12c719098b4040cc0
def fxPi : Nat := 0x3243f6a8885a308d313198a2e03707344a4093822299f31d0082efa98ec4e6c89452821e638d01377be5466cf34e90c6cc0ac29b7c97c50dd3f84d5b5b54709179216d5d98979fb1bd1310ba698dfb5ac2ffd72dbd01adfb7b8e1afed6a267e96ba7c9045f12c7f9924a19947b3916cf70801f2e2858efc16636920d871574e69a458fea3f4933d7e0d95748f728eb658

def fxMul (a b : Nat) : Nat := (a * b) >>> fxBits

/-- 1 + t + t²/2 + …: k counts down the terms left, n is the number of the next. -/
def expSeries : Nat → Nat → Nat → Nat → Nat
  | 0, _, _, _ => 0
  | k + 1, n, t, term => term + expSeries k (n + 1) t (fxMul term t / (n + 1))

def squareTimes : Nat → Nat → Nat
  | 0, x => x
  | k + 1, x => squareTimes k (fxMul x x)

/-- 2^f for 0 ≤ f < 1. -/
def fxExp2 (f : Nat) : Nat := squareTimes 8 (expSeries 110 0 (fxMul f fxLn2 / 256) fxOne)

/-- z + z³/3 + z⁵/5 + … -/
def atanhSeries : Nat → Nat → Nat → Nat → Nat
  | 0, _, _, _ => 0
  | k + 1, n, z2, term => term / n + atanhSeries k (n + 2) z2 (fxMul term z2)

/-- log2 of x in [1, 2). -/
def fxLog2 (x : Nat) : Nat :=
  let z := ((x - fxOne) <<< fxBits) / (x + fxOne)
  fxMul (2 * atanhSeries 370 1 (fxMul z z) z) fxLog2e

/-- term − term·y²/((n+1)(n+2)) + …, the signs alternating: the sum of the even places, and of the odd ones. -/
def trigSeries : Nat → Nat → Nat → Nat → Nat × Nat
  | 0, _, _, _ => (0, 0)
  | k + 1, n, y2, term =>
    let (e, o) := trigSeries k (n + 2) y2 (fxMul term y2 / ((n + 1) * (n + 2)))
    (term + o, e)

/-- sin(π·r) for 0 ≤ r ≤ 1/2. -/
def fxSinPi (r : Nat) : Nat :=
  if 4 * r ≤ fxOne then
    let y := fxMul r fxPi
    let (a, b) := trigSeries 110 1 (fxMul y y) y
    a - b
  else
    let y := fxMul (fxOne / 2 - r) fxPi
    let (a, b) := trigSeries 110 0 (fxMul y y) fxOne
    a - b

/-- m · 2^e at the fixed scale, exact for e ≥ −1152. -/
def fxOf (m : Nat) (e : Int) : Nat :=
  let k := e + (fxBits : Int)
  if 0 ≤ k then m <<< k.toNat else m >>> (-k).toNat

/-- A value at the fixed scale times 2^k, rounded, with a rest below. -/
def fxRound (f : Fmt) (mode : RMode) (neg : Bool) (v : Nat) (k : Int) : FR :=
  roundTo f mode false neg v (k - (fxBits : Int)) true

/-- 2^a. -/
def exp2V (f : Fmt) (mode : RMode) (a : FV) : FR :=
  match a with
  | .nan s => nanR f s
  | .inf n => (if n then 0 else fmtInf f false, 0)
  | .fin n m e =>
    if m = 0 then roundTo f mode false false 1 0 false
    else
      let big := 12 ≤ (Nat.log2 m : Int) + e
      if big then
        if n then fxRound f mode false fxOne (-4096) else roundTo f mode false false 1 4096 false
      else
        let x := fxOf m e
        let whole := x >>> fxBits
        let frac := x % fxOne
        if frac = 0 then roundTo f mode false false 1 (if n then -(whole : Int) else whole) false
        else if n then fxRound f mode false (fxExp2 (fxOne - frac)) (-(whole : Int) - 1)
        else fxRound f mode false (fxExp2 frac) whole

/-- log2 a. -/
def log2V (f : Fmt) (mode : RMode) (a : FV) : FR :=
  match a with
  | .nan s => nanR f s
  | .inf n => if n then nanR f true else (fmtInf f false, 0)
  | .fin n m e =>
    if m = 0 then (fmtInf f true, fDZ)
    else if n then nanR f true
    else
      let l := Nat.log2 m
      let k : Int := (l : Int) + e
      if m = 2 ^ l then (if k = 0 then (0, 0) else roundTo f mode false (k < 0) k.natAbs 0 false)
      else
        let g := fxLog2 (m <<< (fxBits - l))
        let v : Int := k * (fxOne : Nat) + (g : Int)
        fxRound f mode (v < 0) (if v < 0 then v.natAbs - 1 else v.natAbs) 0

/-- sin(π·x), x a number of half-turns at the fixed scale: the sign, and the magnitude. -/
def sinTurn (x : Nat) : Bool × Nat :=
  let r := x % (2 * fxOne)
  let neg := fxOne ≤ r
  let h := r % fxOne
  (neg, fxSinPi (if 2 * h ≤ fxOne then h else fxOne - h))

/-- sin(π·a). -/
def sinV (f : Fmt) (mode : RMode) (a : FV) : FR :=
  match a with
  | .nan s => nanR f s
  | .inf _ => nanR f true
  | .fin n m e =>
    let zero := (bit n * fmtSign f, 0)
    if m = 0 || 0 ≤ e then zero
    else
      let x := fxOf m e
      if x % fxOne = 0 then zero
      else
        let (sg, v) := sinTurn x
        let neg := sg != n
        if x % fxOne = fxOne / 2 then roundTo f mode false neg 1 0 false
        else fxRound f mode neg v 0

/-- cos(π·a). -/
def cosV (f : Fmt) (mode : RMode) (a : FV) : FR :=
  match a with
  | .nan s => nanR f s
  | .inf _ => nanR f true
  | .fin _ m e =>
    let x := if 1 ≤ e then 0 else fxOf m e
    if x % fxOne = 0 then roundTo f mode false (x % (2 * fxOne) != 0) 1 0 false
    else if x % fxOne = fxOne / 2 then (0, 0)
    else
      let (neg, v) := sinTurn (x + fxOne / 2)
      fxRound f mode neg v 0

/-- tanh a = (1 − E) / (1 + E) with E = 2^(−2a·log2 e). -/
def tanhV (f : Fmt) (mode : RMode) (a : FV) : FR :=
  match a with
  | .nan s => nanR f s
  | .inf n => roundTo f mode false n 1 0 false
  | .fin n m e =>
    if m = 0 then (bit n * fmtSign f, 0)
    else if 8 ≤ (Nat.log2 m : Int) + e then fxRound f mode n (fxOne - 1) 0
    else
      let y := fxMul (2 * fxOf m e) fxLog2e
      let x := if y % fxOne = 0 then fxOne >>> (y >>> fxBits) else (fxExp2 (fxOne - y % fxOne)) >>> (y >>> fxBits + 1)
      fxRound f mode n (((fxOne - x) <<< fxBits) / (fxOne + x)) 0

/-- 1 / √a. -/
def rsqV (f : Fmt) (mode : RMode) (a : FV) : FR :=
  match a with
  | .nan s => nanR f s
  | .inf n => if n then nanR f true else (0, 0)
  | .fin n m e =>
    if m = 0 then (fmtInf f n, fDZ)
    else if n then nanR f true
    else
      let odd := e % 2 != 0
      let m' := if odd then 2 * m else m
      let e' := if odd then e - 1 else e
      let g := 2 * guardBits
      let r := isqrt (2 ^ (2 * g) / m')
      roundTo f mode false false r (-(e' / 2) - g) (r * r * m' != 2 ^ (2 * g))

/-- 1 / a. -/
def rcpV (f : Fmt) (mode : RMode) (a : FV) : FR := divV f mode (.fin false 1 0) a

end Sys2Proof.Machine
end

