-- ==== Sys2Proof/Machine/Vector.lean ====
section
/-!
DEFINITION. Meanings of the vector operations other than memory, tray, rays and the matrix engine (08 R235-R251, R261, R262). Written
from the tables of chapter 08 row by row.
-/
namespace Sys2Proof.Machine

/-- Replace the active elements of vd (R231), raising each element's flags in its lane. -/
def vecFp (i : Instr) (vd : BitVec 5) (w : Nat) (f : Issue → State → Nat → FR) (s : State) : Out :=
  start i s fun c s =>
    let l := (activeElems c.mask w).map fun k => (k, f c s k)
    let s := s.setVReg c vd.toNat (putElems w (c.vreg vd.toNat) (l.map fun x => (x.1, x.2.1)))
    retire (raiseLanes s (l.map fun x => (laneOf w x.1, x.2.2)))

/-- The same without flags. -/
def vecInt (i : Instr) (vd : BitVec 5) (w : Nat) (f : Issue → State → Nat → Nat) (s : State) : Out :=
  start i s fun c s => retire (s.setVReg c vd.toNat (mergeElems c.mask w (c.vreg vd.toNat) (f c s)))

/-- The whole of vd. -/
def vecAll (i : Instr) (vd : BitVec 5) (f : Issue → State → VReg) (s : State) : Out :=
  start i s fun c s => retire (s.setVReg c vd.toNat (f c s))

/-- A scalar register. -/
def vecScalar (i : Instr) (r : Nat) (f : Issue → State → Word) (s : State) : Out :=
  start i s fun c s => retire (s.setReg c r (f c s))

def ew (e : FpE) : Nat := fmtBits (fpeFmt e)

/-- BF16 widened exactly (Table 5.9); a NaN keeps its code's top bits. -/
def wideBf (e : FpE) (v : BitVec 16) : Nat :=
  match e with
  | .f16 | .bf16 => v.toNat
  | .f32 => v.toNat <<< 16
  | .f64 =>
    match fvOf .bf16 v.toNat with
    | .nan _ => (bit (bitAt v.toNat 15) <<< 63) + 0x7FF0000000000000 + (v.toNat % 2 ^ 7) <<< 45
    | _ => (cvtFF .bf16 .f64 .rne false v.toNat).1

/-- Element k of the second source of an FP operation. -/
def srcF (c : Issue) (e : FpE) (y : VSrc) (k : Nat) : Nat :=
  match y with | .reg vb => elem (ew e) (c.vreg vb.toNat) k | .imm v => wideBf e v

/-- Element k of the second source of an integer operation. -/
def srcI (c : Issue) (et : BitVec 3) (y : VSrc) (k : Nat) : Nat :=
  match y with | .reg vb => elem (etWidth et) (c.vreg vb.toNat) k | .imm v => immElem et (etWidth et) v

/-- The control value of VBFX, VBFI, VROT and the slides (R240, R244). -/
def ctlVal (c : Issue) (y : VSrc) : Nat :=
  match y with | .reg vb => (c.reg vb.toNat).toNat | .imm v => v.toNat

def fp2 (i : Instr) (vd va : BitVec 5) (y : VSrc) (e : FpE) (f : Fmt → RMode → Nat → Nat → Nat → FR) (s : State) : Out :=
  vecFp i vd (ew e) (fun c _ k => f (fpeFmt e) (issRm c) (elem (ew e) (c.vreg va.toNat) k) (srcF c e y k)
    (elem (ew e) (c.vreg vd.toNat) k)) s

def fp1 (i : Instr) (vd va : BitVec 5) (e : FpE) (f : Fmt → RMode → Nat → FR) (s : State) : Out :=
  vecFp i vd (ew e) (fun c _ k => f (fpeFmt e) (issRm c) (elem (ew e) (c.vreg va.toNat) k)) s

/-- Integer operations on numbers read by et's signedness; the result modulo 2^w. -/
def int2 (i : Instr) (vd va : BitVec 5) (y : VSrc) (et : BitVec 3) (f : Nat → Bool → Int → Int → Int → Int) (s : State) : Out :=
  let w := etWidth et
  let sg := et.toNat < 4
  vecInt i vd w (fun c _ k => ofSigned w (f w sg (readInt w sg (elem w (c.vreg va.toNat) k)) (readInt w sg (srcI c et y k))
    (readInt w sg (elem w (c.vreg vd.toNat) k)))) s

/-- Bit operations. -/
def bits2 (i : Instr) (vd va : BitVec 5) (y : VSrc) (et : BitVec 3) (f : Nat → Nat → Nat → Nat) (s : State) : Out :=
  let w := etWidth et
  vecInt i vd w (fun c _ k => f w (elem w (c.vreg va.toNat) k) (srcI c et y k)) s

def bits1 (i : Instr) (vd va : BitVec 5) (et : BitVec 3) (f : Nat → Nat → Nat) (s : State) : Out :=
  let w := etWidth et
  vecInt i vd w (fun c _ k => f w (elem w (c.vreg va.toNat) k)) s

/-- Width-only movement: element k from the elements of the registers. -/
def move (i : Instr) (vd : BitVec 5) (et : BitVec 3) (f : Issue → State → Nat → Nat → Nat) (s : State) : Out :=
  let w := etWidthOnly et
  vecInt i vd w (fun c s k => f c s w k) s

/-! ## Values -/

/-- Table 8.2. -/
def classBits (f : Fmt) (x : Nat) : Nat :=
  match fvOf f x with
  | .inf n => if n then 1 else 128
  | .nan sg => if sg then 256 else 512
  | .fin n m _ =>
    if m = 0 then if n then 8 else 16
    else if m < 2 ^ fmtMant f then if n then 4 else 32
    else if n then 2 else 64

/-- VROUND (R237). -/
def roundElem (f : Fmt) (mode : RMode) (x : Nat) : FR :=
  match fvOf f x with
  | .nan s => nanR f s
  | .inf n => (fmtInf f n, 0)
  | .fin n m e => ((roundTo f .rne false n (roundInt mode n m e).1.natAbs 0 false).1, 0)

/-- VFRACT (R237). -/
def fractElem (f : Fmt) (mode : RMode) (x : Nat) : FR :=
  match fvOf f x with
  | .nan s => nanR f s
  | .inf _ => nanR f true
  | .fin n m e =>
    let k := (-e).toNat
    let r := if 0 ≤ e then 0 else m % 2 ^ k
    if r = 0 then (bit (mode == .rdn) * fmtSign f, 0)
    else roundTo f mode false false (if n then 2 ^ k - r else r) e false

/-- VLDEXP (R237): exponents beyond 10000 give what 10000 gives. -/
def ldexpElem (f : Fmt) (mode : RMode) (x b : Nat) : FR :=
  match fvOf f x with
  | .nan s => nanR f s
  | .inf n => (fmtInf f n, 0)
  | .fin n m e =>
    let v := toSigned (fmtBits f) b
    roundTo f mode false n m (e + (if v < -10000 then -10000 else if 10000 < v then 10000 else v)) false

/-- VFREXP (R237). -/
def frexpElem (f : Fmt) (x : Nat) : FR :=
  let w := fmtBits f
  match fvOf f x with
  | .nan s => (2 ^ (w - 1) - 1, if s then fIV else 0)
  | .inf _ => (2 ^ (w - 1) - 1, 0)
  | .fin _ m e => (if m = 0 then 2 ^ (w - 1) else ofSigned w ((Nat.log2 m : Int) + e), 0)

def copysign (f : Fmt) (a b : Nat) : Nat := a % fmtSign f + bit (bitAt b (fmtBits f - 1)) * fmtSign f

/-- Table 5.14 on FP values, with the flags of R125. -/
def vcondF (cd : VCond) (a b : FV) : Bool × Nat :=
  let sig := if isSig a || isSig b then fIV else 0
  let any := if isNan a || isNan b then fIV else 0
  let un := isNan a || isNan b
  match cd with
  | .eq => (fvEq a b, sig)
  | .ne => (!fvEq a b, sig)
  | .lt => (!un && fvLt a b, any)
  | .le => (!un && !fvLt b a, any)
  | .gt => (!un && fvLt b a, any)
  | .ge => (!un && !fvLt a b, any)
  | .un => (un, sig)
  | .or => (!un, sig)

def vcondI (cd : VCond) (a b : Int) : Bool :=
  match cd with
  | .eq => a == b | .ne => a != b | .lt => a < b | .le => a ≤ b | .gt => b < a | .ge => b ≤ a | .un => false | .or => true

/-- A lane mask from what holds for each element (R241): every element of the lane, and the lane active. -/
def laneMask (m : Word) (w : Nat) (holds : Nat → Bool) : Word :=
  word ((List.range 64).foldl (fun a k =>
    let ok := if w = 64 then active m 64 (k / 2) && holds (k / 2)
      else m.getLsbD k && (List.range (32 / w)).all fun j => holds (k * (32 / w) + j)
    if ok then a + 2 ^ k else a) 0)

/-! ## Reductions and scans (R131, R132) -/

/-- One combination: its value and flags. -/
abbrev Comb := Nat → Nat → FR

inductive RedOp | add | min | max | and | or
deriving DecidableEq, Repr

def combOf (o : RedOp) (et : BitVec 3) (mode : RMode) : Comb × Nat × Nat :=
  match o with
  | .and => let w := etWidth et; (fun a b => (a &&& b, 0), 2 ^ w - 1, w)
  | .or => let w := etWidth et; (fun a b => (a ||| b, 0), 0, w)
  | _ =>
    if et.toNat < 4 then
      let w := etWidth et
      match o with
      | .min => (fun a b => (if toSigned w b < toSigned w a then b else a, 0), 2 ^ (w - 1) - 1, w)
      | .max => (fun a b => (if toSigned w a < toSigned w b then b else a, 0), 2 ^ (w - 1), w)
      | _ => (fun a b => ((a + b) % 2 ^ w, 0), 0, w)
    else
      let f : Fmt := match et.toNat with | 4 => .f16 | 5 => .bf16 | 6 => .f32 | _ => .f64
      match o with
      | .min => (minMax f false false, fmtInf f false, fmtBits f)
      | .max => (minMax f true false, fmtInf f true, fmtBits f)
      | _ => (fpAdd f mode, fmtSign f, fmtBits f)

/-- One level of the tree: adjacent pairs, each flag with the first element of its pair. -/
def redLevel (g : Comb) (span : Nat) : Nat → List Nat → List Nat × List (Nat × Nat)
  | i, a :: b :: l =>
    let r := g a b
    let (t, fl) := redLevel g span (i + 1) l
    (r.1 :: t, (2 * span * i, r.2) :: fl)
  | _, l => (l, [])

def redTree (g : Comb) : Nat → Nat → List Nat → List Nat × List (Nat × Nat)
  | 0, _, l => (l, [])
  | k + 1, span, l =>
    if l.length ≤ 1 then (l, [])
    else
      let (t, fl) := redLevel g span 0 l
      let (r, fl') := redTree g k (2 * span) t
      (r, fl ++ fl')

/-- Sources of a reduction or scan: the element, or the identity where inactive. -/
def redSrc (c : Issue) (va : BitVec 5) (w ident : Nat) : List Nat :=
  (List.range (numElems w)).map fun k => if active c.mask w k then elem w (c.vreg va.toNat) k else ident

def reduce (i : Instr) (o : RedOp) (vd va : BitVec 5) (et : BitVec 3) (s : State) : Out :=
  start i s fun c s =>
    let (g, ident, w) := combOf o et (issRm c)
    let (r, fl) := redTree g 8 1 (redSrc c va w ident)
    let s := s.setVReg c vd.toNat (vregOf w (r.take 1))
    retire (raiseLanes s (fl.map fun x => (laneOf w x.1, x.2)))

/-- One doubling step at distance d. -/
def scanStep (g : Comb) (d : Nat) (y : List Nat) : List FR :=
  (List.range y.length).map fun i => if i < d then (y.getD i 0, 0) else g (y.getD (i - d) 0) (y.getD i 0)

def scanSteps (g : Comb) : Nat → Nat → List Nat → List Nat × List (Nat × Nat)
  | 0, _, y => (y, [])
  | k + 1, d, y =>
    if y.length ≤ d then (y, [])
    else
      let r := scanStep g d y
      let (z, fl) := scanSteps g k (2 * d) (r.map (·.1))
      (z, (r.zipIdx.map fun x => (x.2, x.1.2)) ++ fl)

def scan (i : Instr) (o : RedOp) (vd va : BitVec 5) (et : BitVec 3) (s : State) : Out :=
  start i s fun c s =>
    let (g, ident, w) := combOf o et (issRm c)
    let (y, fl) := scanSteps g 8 1 (redSrc c va w ident)
    let s := s.setVReg c vd.toNat (mergeElems c.mask w (c.vreg vd.toNat) fun k => y.getD k 0)
    retire (raiseLanes s (fl.map fun x => (laneOf w x.1, x.2)))

/-! ## Conversions (R248, R249) -/

inductive VTy | int (w : Nat) (signed : Bool) | fp (f : Fmt)
deriving DecidableEq, Repr

/-- Table 5.8. -/
def vtyOf (ty : BitVec 4) : VTy :=
  match ty.toNat with
  | 0 => .int 8 true | 1 => .int 16 true | 2 => .int 32 true | 3 => .int 64 true | 4 => .fp .f16 | 5 => .fp .bf16 | 6 => .fp .f32
  | 7 => .fp .f64 | 8 => .int 8 false | 9 => .int 16 false | 10 => .int 32 false | 11 => .int 64 false | 12 => .fp .e4m3
  | 13 => .fp .e5m2 | _ => .fp .e2m1

def VTy.width : VTy → Nat | .int w _ => w | .fp f => fmtBits f

/-- et in the column that the other type's kind names. -/
def etTy (et : BitVec 3) (isFp : Bool) : VTy :=
  if isFp then .fp (match et.toNat with | 4 => .f16 | 5 => .bf16 | 6 => .f32 | _ => .f64)
  else .int (etWidth et) (et.toNat < 4)

/-- Table 4.7. -/
def convert (src dst : VTy) (mode : RMode) (sat : Bool) (x : Nat) : FR :=
  match src, dst with
  | .fp a, .fp b => cvtFF a b mode sat x
  | .int w sg, .fp b => cvtIF b mode (readInt w sg x)
  | .fp a, .int w sg => cvtFI a mode w sg x
  | .int w sg, .int v sg' => (ofSigned v (if sat then satTo v sg' (readInt w sg x) else readInt w sg x), 0)

def tyFp : VTy → Bool | .fp _ => true | _ => false

/-! ## MX (R138, R139, R250, R251) -/

def mxEmax : Fmt → Int | .e2m1 => 2 | .e4m3 => 8 | _ => 15

/-- The scale of a block, or none when it holds a NaN or an infinity. -/
def mxScale (f src : Fmt) (l : List Nat) : Option Nat :=
  let vs := l.map (fvOf src)
  if vs.any fun v => match v with | .fin _ _ _ => false | _ => true then none
  else
    let top := vs.foldl (fun (a : Option Int) v => match v with
      | .fin _ m e => if m = 0 then a else
        let x := (Nat.log2 m : Int) + e
        some (match a with | some b => if x < b then b else x | none => x)
      | _ => a) none
    match top with
    | none => some 0
    | some t =>
      let v := t - mxEmax f + 127
      some (if v < 0 then 0 else if 254 < v then 254 else v.toNat)

/-- The quantised elements of a block (R138). -/
def mxQuant (f src : Fmt) (scale : Nat) (x : Nat) : Nat :=
  match fvOf src x with
  | .fin n m e => (roundTo f .rne true n m (e - ((scale : Int) - 127)) false).1
  | _ => 0

/-- Source block b. -/
def blockOf (w : Nat) (v : VReg) (b : Nat) : List Nat := (List.range 32).map fun k => elem w v (32 * b + k)

/-- An MX element times its scale, in the result format (R139). -/
def mxDequant (f dst : Fmt) (scale x : Nat) : FR :=
  match fvOf f x with
  | .nan s => (fmtNaN dst, if s && f == .e5m2 then fIV else 0)
  | v =>
    if scale = 0xFF then (fmtNaN dst, 0)
    else match v with
    | .nan _ => (fmtNaN dst, 0)
    | .inf n => (fmtInf dst n, 0)
    | .fin n m e => roundTo dst .rne false n m (e + ((scale : Int) - 127)) false

def mxSrc (et : BitVec 3) : Fmt := if et == 5 then .bf16 else .f32
def mxElem (ty : BitVec 4) : Fmt := match ty.toNat with | 12 => .e4m3 | 13 => .e5m2 | _ => .e2m1

/-! ## Dot products (R261) -/

/-- Σ products + d, exact, rounded once; the flags of Table 4.8. -/
def dotFp (dst : Fmt) (mode : RMode) (ps : List (FV × FV)) (d : FV) : FR :=
  let bad := ps.any fun p => match p with
    | (.inf _, .fin _ 0 _) => true | (.fin _ 0 _, .inf _) => true | _ => false
  let sig := isSig d || ps.any fun p => isSig p.1 || isSig p.2
  let nan := isNan d || ps.any fun p => isNan p.1 || isNan p.2
  let infs := (ps.filterMap fun p => match p with
      | (.inf a, b) => some (a != fvSign b) | (a, .inf b) => some (fvSign a != b) | _ => none) ++
    (match d with | .inf n => [n] | _ => [])
  if bad then nanR dst true
  else if nan then nanR dst sig
  else if infs.contains true && infs.contains false then nanR dst true
  else
    match infs with
    | n :: _ => (fmtInf dst n, 0)
    | [] =>
      let ts := (d :: ps.map fun p => match p with
        | (.fin n1 m1 e1, .fin n2 m2 e2) => FV.fin (n1 != n2) (m1 * m2) (e1 + e2)
        | _ => .fin false 0 0)
      let e0 := ts.foldl (fun a t => match t with | .fin _ _ e => if e < a then e else a | _ => a) 0
      let v := ts.foldl (fun (a : Int) t => match t with | .fin n m e => a + scaled n m e e0 | _ => a) 0
      if v = 0 then
        let allNeg := ts.all fun t => fvSign t
        let allPos := ts.all fun t => !fvSign t
        (bit (allNeg || (!allPos && mode == .rdn)) * fmtSign dst, 0)
      else roundTo dst mode false (v < 0) v.natAbs e0 false

/-! ## VHASH (R262) -/

def hash64 (a b : Nat) : Nat :=
  let h := (a ^^^ (b * 0x9E3779B97F4A7C15 % 2 ^ 64)) % 2 ^ 64
  let h := (h ^^^ (h >>> 33)) * 0xFF51AFD7ED558CCD % 2 ^ 64
  let h := (h ^^^ (h >>> 33)) * 0xC4CEB9FE1A85EC53 % 2 ^ 64
  h ^^^ (h >>> 33)

/-- The elements of a register that a VCOMPRESS packs. -/
def compress (c : Issue) (w : Nat) (va vd : VReg) : VReg :=
  let l := (activeElems c.mask w).map (elem w va)
  vregOf w (l ++ (List.range (numElems w - l.length)).map fun j => elem w vd (l.length + j))

/-- Place of element k among the active ones. -/
def rankOf (m : Word) (w k : Nat) : Nat := ((List.range k).filter fun j => active m w j).length

/-! ## The instructions -/

/-- VADD (R235). -/
def execVadd (vd va : BitVec 5) (y : VSrc) (ms : BitVec 6) (e : FpE) (s : State) : Out :=
  fp2 (.vadd vd va y ms e) vd va y e (fun f m a b _ => fpAdd f m a b) s

/-- VSUB (R235). -/
def execVsub (vd va : BitVec 5) (y : VSrc) (ms : BitVec 6) (e : FpE) (s : State) : Out :=
  fp2 (.vsub vd va y ms e) vd va y e (fun f m a b _ => fpSub f m a b) s

/-- VMUL (R235). -/
def execVmul (vd va : BitVec 5) (y : VSrc) (ms : BitVec 6) (e : FpE) (s : State) : Out :=
  fp2 (.vmul vd va y ms e) vd va y e (fun f m a b _ => fpMul f m a b) s

/-- VFMA (R235). -/
def execVfma (vd va : BitVec 5) (y : VSrc) (ms : BitVec 6) (e : FpE) (s : State) : Out :=
  fp2 (.vfma vd va y ms e) vd va y e (fun f m a b d => fpFma f m false false a b d) s

/-- VFMS (R235). -/
def execVfms (vd va : BitVec 5) (y : VSrc) (ms : BitVec 6) (e : FpE) (s : State) : Out :=
  fp2 (.vfms vd va y ms e) vd va y e (fun f m a b d => fpFma f m false true a b d) s

/-- VFNMA (R235). -/
def execVfnma (vd va : BitVec 5) (y : VSrc) (ms : BitVec 6) (e : FpE) (s : State) : Out :=
  fp2 (.vfnma vd va y ms e) vd va y e (fun f m a b d => fpFma f m true false a b d) s

/-- VMIN (R235). -/
def execVmin (vd va : BitVec 5) (y : VSrc) (ms : BitVec 6) (e : FpE) (s : State) : Out :=
  fp2 (.vmin vd va y ms e) vd va y e (fun f _ a b _ => minMax f false false a b) s

/-- VMAX (R235). -/
def execVmax (vd va : BitVec 5) (y : VSrc) (ms : BitVec 6) (e : FpE) (s : State) : Out :=
  fp2 (.vmax vd va y ms e) vd va y e (fun f _ a b _ => minMax f true false a b) s

/-- VMINP (R235). -/
def execVminp (vd va : BitVec 5) (y : VSrc) (ms : BitVec 6) (e : FpE) (s : State) : Out :=
  fp2 (.vminp vd va y ms e) vd va y e (fun f _ a b _ => minMax f false true a b) s

/-- VMAXP (R235). -/
def execVmaxp (vd va : BitVec 5) (y : VSrc) (ms : BitVec 6) (e : FpE) (s : State) : Out :=
  fp2 (.vmaxp vd va y ms e) vd va y e (fun f _ a b _ => minMax f true true a b) s

/-- VABS (R235). -/
def execVabs (vd va : BitVec 5) (ms : BitVec 6) (e : FpE) (s : State) : Out :=
  fp1 (.vabs vd va ms e) vd va e (fun f _ a => (fpAbs f a, 0)) s

/-- VNEG (R235). -/
def execVneg (vd va : BitVec 5) (ms : BitVec 6) (e : FpE) (s : State) : Out :=
  fp1 (.vneg vd va ms e) vd va e (fun f _ a => (fpNeg f a, 0)) s

/-- VCLASS (R236). -/
def execVclass (vd va : BitVec 5) (ms : BitVec 6) (e : FpE) (s : State) : Out :=
  fp1 (.vclass vd va ms e) vd va e (fun f _ a => (classBits f a, 0)) s

/-- VROUND (R237). -/
def execVround (vd va : BitVec 5) (rm : BitVec 3) (ms : BitVec 6) (e : FpE) (s : State) : Out :=
  fp1 (.vround vd va rm ms e) vd va e (fun f m a => roundElem f (if rm.toNat < 4 then rmOf rm.toNat else m) a) s

/-- VFRACT (R237). -/
def execVfract (vd va : BitVec 5) (ms : BitVec 6) (e : FpE) (s : State) : Out :=
  fp1 (.vfract vd va ms e) vd va e (fun f m a => fractElem f m a) s

/-- VCOPYSIGN (R237). -/
def execVcopysign (vd va : BitVec 5) (y : VSrc) (ms : BitVec 6) (e : FpE) (s : State) : Out :=
  fp2 (.vcopysign vd va y ms e) vd va y e (fun f _ a b _ => (copysign f a b, 0)) s

/-- VLDEXP (R237). -/
def execVldexp (vd va : BitVec 5) (y : VSrc) (ms : BitVec 6) (e : FpE) (s : State) : Out :=
  fp2 (.vldexp vd va y ms e) vd va y e (fun f m a b _ => ldexpElem f m a b) s

/-- VFREXP (R237). -/
def execVfrexp (vd va : BitVec 5) (ms : BitVec 6) (e : FpE) (s : State) : Out :=
  fp1 (.vfrexp vd va ms e) vd va e (fun f _ a => frexpElem f a) s

/-- VDIV (R238). -/
def execVdiv (vd va : BitVec 5) (y : VSrc) (ms : BitVec 6) (e : FpE) (s : State) : Out :=
  fp2 (.vdiv vd va y ms e) vd va y e (fun f m a b _ => fpDiv f m a b) s

/-- VSQRT (R238). -/
def execVsqrt (vd va : BitVec 5) (ms : BitVec 6) (e : FpE) (s : State) : Out :=
  fp1 (.vsqrt vd va ms e) vd va e (fun f m a => fpSqrt f m a) s

/-- VRCP (R238). -/
def execVrcp (vd va : BitVec 5) (ms : BitVec 6) (e : FpE) (s : State) : Out :=
  fp1 (.vrcp vd va ms e) vd va e (fun f m a => rcpV f m (fvOf f a)) s

/-- VRSQ (R238). -/
def execVrsq (vd va : BitVec 5) (ms : BitVec 6) (e : FpE) (s : State) : Out :=
  fp1 (.vrsq vd va ms e) vd va e (fun f m a => rsqV f m (fvOf f a)) s

/-- VEXP2 (R238). -/
def execVexp2 (vd va : BitVec 5) (ms : BitVec 6) (e : FpE) (s : State) : Out :=
  fp1 (.vexp2 vd va ms e) vd va e (fun f m a => exp2V f m (fvOf f a)) s

/-- VLOG2 (R238). -/
def execVlog2 (vd va : BitVec 5) (ms : BitVec 6) (e : FpE) (s : State) : Out :=
  fp1 (.vlog2 vd va ms e) vd va e (fun f m a => log2V f m (fvOf f a)) s

/-- VSIN (R238). -/
def execVsin (vd va : BitVec 5) (ms : BitVec 6) (e : FpE) (s : State) : Out :=
  fp1 (.vsin vd va ms e) vd va e (fun f m a => sinV f m (fvOf f a)) s

/-- VCOS (R238). -/
def execVcos (vd va : BitVec 5) (ms : BitVec 6) (e : FpE) (s : State) : Out :=
  fp1 (.vcos vd va ms e) vd va e (fun f m a => cosV f m (fvOf f a)) s

/-- VTANH (R238). -/
def execVtanh (vd va : BitVec 5) (ms : BitVec 6) (e : FpE) (s : State) : Out :=
  fp1 (.vtanh vd va ms e) vd va e (fun f m a => tanhV f m (fvOf f a)) s

/-- VIADD (R239). -/
def execViadd (vd va : BitVec 5) (y : VSrc) (ms : BitVec 6) (et : BitVec 3) (s : State) : Out :=
  int2 (.viadd vd va y ms et) vd va y et (fun _ _ a b _ => a + b) s

/-- VISUB (R239). -/
def execVisub (vd va : BitVec 5) (y : VSrc) (ms : BitVec 6) (et : BitVec 3) (s : State) : Out :=
  int2 (.visub vd va y ms et) vd va y et (fun _ _ a b _ => a - b) s

/-- VIMUL (R239). -/
def execVimul (vd va : BitVec 5) (y : VSrc) (ms : BitVec 6) (et : BitVec 3) (s : State) : Out :=
  int2 (.vimul vd va y ms et) vd va y et (fun _ _ a b _ => a * b) s

/-- VIMULH (R239). -/
def execVimulh (vd va : BitVec 5) (y : VSrc) (ms : BitVec 6) (et : BitVec 3) (s : State) : Out :=
  int2 (.vimulh vd va y ms et) vd va y et (fun w _ a b _ => (a * b) / ((2 ^ w : Nat) : Int)) s

/-- VIMAD (R239). -/
def execVimad (vd va : BitVec 5) (y : VSrc) (ms : BitVec 6) (et : BitVec 3) (s : State) : Out :=
  int2 (.vimad vd va y ms et) vd va y et (fun _ _ a b d => a * b + d) s

/-- VIMIN (R239). -/
def execVimin (vd va : BitVec 5) (y : VSrc) (ms : BitVec 6) (et : BitVec 3) (s : State) : Out :=
  int2 (.vimin vd va y ms et) vd va y et (fun _ _ a b _ => if b < a then b else a) s

/-- VIMAX (R239). -/
def execVimax (vd va : BitVec 5) (y : VSrc) (ms : BitVec 6) (et : BitVec 3) (s : State) : Out :=
  int2 (.vimax vd va y ms et) vd va y et (fun _ _ a b _ => if a < b then b else a) s

/-- VIABS (R239). -/
def execViabs (vd va : BitVec 5) (ms : BitVec 6) (et : BitVec 3) (s : State) : Out :=
  vecInt (.viabs vd va ms et) vd (etWidth et) (fun c _ k => ofSigned (etWidth et) ((readInt (etWidth et) (et.toNat < 4) (elem (etWidth et) (c.vreg va.toNat) k)).natAbs : Int)) s

/-- VAND (R239). -/
def execVand (vd va : BitVec 5) (y : VSrc) (ms : BitVec 6) (et : BitVec 3) (s : State) : Out :=
  bits2 (.vand vd va y ms et) vd va y et (fun _ a b => a &&& b) s

/-- VOR (R239). -/
def execVor (vd va : BitVec 5) (y : VSrc) (ms : BitVec 6) (et : BitVec 3) (s : State) : Out :=
  bits2 (.vor vd va y ms et) vd va y et (fun _ a b => a ||| b) s

/-- VXOR (R239). -/
def execVxor (vd va : BitVec 5) (y : VSrc) (ms : BitVec 6) (et : BitVec 3) (s : State) : Out :=
  bits2 (.vxor vd va y ms et) vd va y et (fun _ a b => a ^^^ b) s

/-- VANDN (R239). -/
def execVandn (vd va : BitVec 5) (y : VSrc) (ms : BitVec 6) (et : BitVec 3) (s : State) : Out :=
  bits2 (.vandn vd va y ms et) vd va y et (fun w a b => a &&& (2 ^ w - 1 - b)) s

/-- VSHL (R239). -/
def execVshl (vd va : BitVec 5) (y : VSrc) (ms : BitVec 6) (et : BitVec 3) (s : State) : Out :=
  bits2 (.vshl vd va y ms et) vd va y et (fun w a b => (a <<< (b % w)) % 2 ^ w) s

/-- VSHR (R239). -/
def execVshr (vd va : BitVec 5) (y : VSrc) (ms : BitVec 6) (et : BitVec 3) (s : State) : Out :=
  bits2 (.vshr vd va y ms et) vd va y et (fun w a b => a >>> (b % w)) s

/-- VSHA (R239). -/
def execVsha (vd va : BitVec 5) (y : VSrc) (ms : BitVec 6) (et : BitVec 3) (s : State) : Out :=
  bits2 (.vsha vd va y ms et) vd va y et (fun w a b => ofSigned w (toSigned w a / ((2 ^ (b % w) : Nat) : Int))) s

/-- VPOPC (R239). -/
def execVpopc (vd va : BitVec 5) (ms : BitVec 6) (et : BitVec 3) (s : State) : Out :=
  bits1 (.vpopc vd va ms et) vd va et (fun w a => popcNat w a) s

/-- VCLZ (R239). -/
def execVclz (vd va : BitVec 5) (ms : BitVec 6) (et : BitVec 3) (s : State) : Out :=
  bits1 (.vclz vd va ms et) vd va et (fun w a => clzNat w a) s

/-- VSATADD (R239). -/
def execVsatadd (vd va : BitVec 5) (y : VSrc) (ms : BitVec 6) (et : BitVec 3) (s : State) : Out :=
  int2 (.vsatadd vd va y ms et) vd va y et (fun w sg a b _ => satTo w sg (a + b)) s

/-- VSATSUB (R239). -/
def execVsatsub (vd va : BitVec 5) (y : VSrc) (ms : BitVec 6) (et : BitVec 3) (s : State) : Out :=
  int2 (.vsatsub vd va y ms et) vd va y et (fun w sg a b _ => satTo w sg (a - b)) s

/-- VIDIV (R239). -/
def execVidiv (vd va : BitVec 5) (y : VSrc) (ms : BitVec 6) (et : BitVec 3) (s : State) : Out :=
  int2 (.vidiv vd va y ms et) vd va y et (fun w sg a b _ => divInt w sg a b) s

/-- VIREM (R239). -/
def execVirem (vd va : BitVec 5) (y : VSrc) (ms : BitVec 6) (et : BitVec 3) (s : State) : Out :=
  int2 (.virem vd va y ms et) vd va y et (fun w sg a b _ => remInt w sg a b) s

/-- VBITSEL (R240). -/
def execVbitsel (vd va vb : BitVec 5) (ms : BitVec 6) (et : BitVec 3) (s : State) : Out :=
  move (.vbitsel vd va vb ms et) vd et (fun c _ w k =>
    let m := elem w (c.vreg vb.toNat) k
    (elem w (c.vreg va.toNat) k &&& m) ||| (elem w (c.vreg vd.toNat) k &&& (2 ^ w - 1 - m))) s

/-- VBFX (R240). -/
def execVbfx (vd va : BitVec 5) (y : VSrc) (ms : BitVec 6) (et : BitVec 3) (s : State) : Out :=
  vecInt (.vbfx vd va y ms et) vd (etWidth et) (fun c _ k =>
    ofSigned (etWidth et) (bfxField (etWidth et) (et.toNat < 4) (elem (etWidth et) (c.vreg va.toNat) k) (ctlVal c y))) s

/-- VBFI (R240). -/
def execVbfi (vd va : BitVec 5) (y : VSrc) (ms : BitVec 6) (et : BitVec 3) (s : State) : Out :=
  vecInt (.vbfi vd va y ms et) vd (etWidth et) (fun c _ k =>
    bfiField (etWidth et) (elem (etWidth et) (c.vreg vd.toNat) k) (elem (etWidth et) (c.vreg va.toNat) k) (ctlVal c y)) s

/-- VCMP (R241). -/
def execVcmp (vd va : BitVec 5) (cd : VCond) (y : VSrc) (ms : BitVec 6) (e : FpE) (s : State) : Out :=
  start (.vcmp vd va cd y ms e) s fun c s =>
    let w := ew e
    let f := fpeFmt e
    let r := fun k => vcondF cd (fvOf f (elem w (c.vreg va.toNat) k)) (fvOf f (srcF c e y k))
    let s := s.setReg c (32 + vd.toNat) (laneMask c.mask w fun k => (r k).1)
    retire (raiseLanes s ((activeElems c.mask w).map fun k => (laneOf w k, (r k).2)))

/-- VICMP (R241). -/
def execVicmp (vd va : BitVec 5) (cd : VCond) (y : VSrc) (ms : BitVec 6) (et : BitVec 3) (s : State) : Out :=
  vecScalar (.vicmp vd va cd y ms et) (32 + vd.toNat) (fun c _ =>
    let w := etWidth et
    let sg := et.toNat < 4
    laneMask c.mask w fun k => vcondI cd (readInt w sg (elem w (c.vreg va.toNat) k)) (readInt w sg (srcI c et y k))) s

/-- VWHILE (R242). -/
def execVwhile (vd va vb : BitVec 5) (ms : BitVec 6) (et : BitVec 3) (s : State) : Out :=
  vecScalar (.vwhile vd va vb ms et) (32 + vd.toNat) (fun c _ =>
    let sg := et.toNat < 4
    let x := readInt 64 sg (c.reg va.toNat).toNat
    let y := readInt 64 sg (c.reg vb.toNat).toNat
    laneMask c.mask (etWidth et) fun k => x + (k : Int) < y) s

/-- VMATCH (R243). -/
def execVmatch (vd va : BitVec 5) (ms : BitVec 6) (et : BitVec 3) (s : State) : Out :=
  vecScalar (.vmatch vd va ms et) (32 + vd.toNat) (fun c _ =>
    let w := etWidthOnly et
    laneMask c.mask w fun k => (List.range k).any fun j =>
      active c.mask w j && elem w (c.vreg va.toNat) j == elem w (c.vreg va.toNat) k) s

/-- VMOV (R244). -/
def execVmov (vd va : BitVec 5) (ms : BitVec 6) (et : BitVec 3) (s : State) : Out :=
  move (.vmov vd va ms et) vd et (fun c _ w k => elem w (c.vreg va.toNat) k) s

/-- VSPLAT (R244). -/
def execVsplat (vd va : BitVec 5) (ms : BitVec 6) (et : BitVec 3) (s : State) : Out :=
  move (.vsplat vd va ms et) vd et (fun c _ _ _ => (c.reg va.toNat).toNat) s

/-- The immediate of VMOVI, by the element type that et names (R150, R153). -/
def moviElem (et : BitVec 3) (v : BitVec 16) : Nat :=
  match et.toNat with
  | 2 => ofSigned 32 (toSigned 16 v.toNat) | 3 => ofSigned 64 (toSigned 16 v.toNat)
  | 6 => wideBf .f32 v | 7 => wideBf .f64 v | _ => v.toNat

/-- VMOVI (R244). -/
def execVmovi (vd : BitVec 5) (imm : BitVec 16) (ms : BitVec 6) (et : BitVec 3) (s : State) : Out :=
  move (.vmovi vd imm ms et) vd et (fun _ _ _ _ => moviElem et imm) s

/-- VEXT (R244). -/
def execVext (vd va vb : BitVec 5) (ms : BitVec 6) (et : BitVec 3) (s : State) : Out :=
  vecScalar (.vext vd va vb ms et) vd.toNat (fun c _ =>
    let w := etWidthOnly et
    word (elem w (c.vreg va.toNat) ((c.reg vb.toNat).toNat % numElems w))) s

/-- VINS (R244). -/
def execVins (vd va vb : BitVec 5) (ms : BitVec 6) (et : BitVec 3) (s : State) : Out :=
  move (.vins vd va vb ms et) vd et (fun c _ w k =>
    if k = (c.reg vb.toNat).toNat % numElems w then (c.reg va.toNat).toNat else elem w (c.vreg vd.toNat) k) s

/-- VPERM (R244). -/
def execVperm (vd va vb : BitVec 5) (ms : BitVec 6) (et : BitVec 3) (s : State) : Out :=
  move (.vperm vd va vb ms et) vd et (fun c _ w k => elem w (c.vreg va.toNat) (elem w (c.vreg vb.toNat) k % numElems w)) s

/-- VROT (R244). -/
def execVrot (vd va : BitVec 5) (y : VSrc) (ms : BitVec 6) (et : BitVec 3) (s : State) : Out :=
  move (.vrot vd va y ms et) vd et (fun c _ w k => elem w (c.vreg va.toNat) ((k + ctlVal c y) % numElems w)) s

/-- VSLIDEUP (R244). -/
def execVslideup (vd va : BitVec 5) (y : VSrc) (ms : BitVec 6) (et : BitVec 3) (s : State) : Out :=
  move (.vslideup vd va y ms et) vd et (fun c _ w k => if ctlVal c y ≤ k then elem w (c.vreg va.toNat) (k - ctlVal c y) else 0) s

/-- VSLIDEDN (R244). -/
def execVslidedn (vd va : BitVec 5) (y : VSrc) (ms : BitVec 6) (et : BitVec 3) (s : State) : Out :=
  move (.vslidedn vd va y ms et) vd et (fun c _ w k => if k + ctlVal c y < numElems w then elem w (c.vreg va.toNat) (k + ctlVal c y) else 0) s

/-- VIOTA (R244). -/
def execViota (vd : BitVec 5) (ms : BitVec 6) (et : BitVec 3) (s : State) : Out :=
  move (.viota vd ms et) vd et (fun c _ w k => rankOf c.mask w k % 2 ^ w) s

/-- VSEL (R244). -/
def execVsel (vd va vb : BitVec 5) (ms : BitVec 6) (et : BitVec 3) (s : State) : Out :=
  vecAll (.vsel vd va vb ms et) vd (fun c _ =>
    mergeElems c.mask (etWidthOnly et) (c.vreg vb.toNat) (elem (etWidthOnly et) (c.vreg va.toNat))) s

/-- VCOMPRESS (R244). -/
def execVcompress (vd va : BitVec 5) (ms : BitVec 6) (et : BitVec 3) (s : State) : Out :=
  vecAll (.vcompress vd va ms et) vd (fun c _ => compress c (etWidthOnly et) (c.vreg va.toNat) (c.vreg vd.toNat)) s

/-- VEXPAND (R244). -/
def execVexpand (vd va : BitVec 5) (ms : BitVec 6) (et : BitVec 3) (s : State) : Out :=
  move (.vexpand vd va ms et) vd et (fun c _ w k => elem w (c.vreg va.toNat) (rankOf c.mask w k)) s

/-- VSHFL (R244). -/
def execVshfl (vd va vb : BitVec 5) (ms : BitVec 6) (et : BitVec 3) (s : State) : Out :=
  move (.vshfl vd va vb ms et) vd et (fun c _ w k => elem w (c.vreg va.toNat) ((k ^^^ (c.reg vb.toNat).toNat) % numElems w)) s

/-- VREDADD (R246). -/
def execVredadd (vd va : BitVec 5) (ms : BitVec 6) (et : BitVec 3) (s : State) : Out :=
  reduce (.vredadd vd va ms et) .add vd va et s

/-- VREDMIN (R246). -/
def execVredmin (vd va : BitVec 5) (ms : BitVec 6) (et : BitVec 3) (s : State) : Out :=
  reduce (.vredmin vd va ms et) .min vd va et s

/-- VREDMAX (R246). -/
def execVredmax (vd va : BitVec 5) (ms : BitVec 6) (et : BitVec 3) (s : State) : Out :=
  reduce (.vredmax vd va ms et) .max vd va et s

/-- VREDAND (R246). -/
def execVredand (vd va : BitVec 5) (ms : BitVec 6) (et : BitVec 3) (s : State) : Out :=
  reduce (.vredand vd va ms et) .and vd va et s

/-- VREDOR (R246). -/
def execVredor (vd va : BitVec 5) (ms : BitVec 6) (et : BitVec 3) (s : State) : Out :=
  reduce (.vredor vd va ms et) .or vd va et s

/-- VSCANADD (R247). -/
def execVscanadd (vd va : BitVec 5) (ms : BitVec 6) (et : BitVec 3) (s : State) : Out :=
  scan (.vscanadd vd va ms et) .add vd va et s

/-- VSCANMIN (R247). -/
def execVscanmin (vd va : BitVec 5) (ms : BitVec 6) (et : BitVec 3) (s : State) : Out :=
  scan (.vscanmin vd va ms et) .min vd va et s

/-- VSCANMAX (R247). -/
def execVscanmax (vd va : BitVec 5) (ms : BitVec 6) (et : BitVec 3) (s : State) : Out :=
  scan (.vscanmax vd va ms et) .max vd va et s

/-- VCVT (R248, R249). -/
def execVcvt (vd va : BitVec 5) (ty : BitVec 4) (sat : Bool) (ms : BitVec 6) (et : BitVec 3) (s : State) : Out :=
  vecFp (.vcvt vd va ty sat ms et) vd (etTy et true).width (fun c _ k =>
    convert (vtyOf ty) (etTy et true) (issRm c) false (elem (etTy et true).width (c.vreg va.toNat) k)) s

/-- VCVTI (R248, R249). -/
def execVcvti (vd va : BitVec 5) (ty : BitVec 4) (sat : Bool) (ms : BitVec 6) (et : BitVec 3) (s : State) : Out :=
  vecFp (.vcvti vd va ty sat ms et) vd (etTy et false).width (fun c _ k =>
    convert (vtyOf ty) (etTy et false) (issRm c) false (elem (etTy et false).width (c.vreg va.toNat) k)) s

/-- VNARROW (R248, R249). -/
def execVnarrow (vd va : BitVec 5) (ty : BitVec 4) (sat : Bool) (ms : BitVec 6) (et : BitVec 3) (s : State) : Out :=
  start (.vnarrow vd va ty sat ms et) s fun c s =>
    let dst := vtyOf ty
    let src := etTy et (tyFp dst)
    let rs := (activeElems c.mask src.width).map fun k => (k, convert src dst (issRm c) sat (elem src.width (c.vreg va.toNat) k))
    let low := (List.range (numElems src.width)).map fun k => match rs.find? fun x => x.1 == k with
      | some x => x.2.1
      | none => elem dst.width (c.vreg vd.toNat) k
    let s := s.setVReg c vd.toNat (vregOf dst.width low)
    retire (raiseLanes s (rs.map fun x => (laneOf src.width x.1, x.2.2)))

/-- VWIDEN (R248, R249). -/
def execVwiden (vd va : BitVec 5) (ty : BitVec 4) (sat : Bool) (ms : BitVec 6) (et : BitVec 3) (s : State) : Out :=
  vecFp (.vwiden vd va ty sat ms et) vd (etTy et (tyFp (vtyOf ty))).width (fun c _ k =>
    convert (vtyOf ty) (etTy et (tyFp (vtyOf ty))) (issRm c) false (elem (vtyOf ty).width (c.vreg va.toNat) k)) s

/-- VQMX (R250). Its IV belongs to the lane of a block's element 0, and an inactive lane raises nothing (R129): DEDUCED
(notes/assumptions/103.md). -/
def execVqmx (vd va : BitVec 5) (ty : BitVec 4) (ms : BitVec 6) (et : BitVec 3) (s : State) : Out :=
  start (.vqmx vd va ty ms et) s fun c s =>
    let src := mxSrc et
    let f := mxElem ty
    let w := fmtBits src
    let bs := (List.range (numElems w / 32)).map fun b =>
      let l := blockOf w (c.vreg va.toNat) b
      (b, l, mxScale f src l)
    let qs := bs.flatMap fun x => match x.2.2 with
      | none => List.replicate 32 0
      | some sc => x.2.1.map (mxQuant f src sc)
    let img := ofElems (fmtBits f) qs + (ofElems 8 (bs.map fun x => x.2.2.getD 0xFF)) <<< (8 * 224)
    let s := s.setVReg c vd.toNat (BitVec.ofNat 2048 img)
    retire (raiseLanes s (bs.filterMap fun x =>
      if x.2.2.isNone && (activeElems c.mask w).contains (32 * x.1) then some (laneOf w (32 * x.1), fIV) else none))

/-- VDQMX (R251). -/
def execVdqmx (vd va : BitVec 5) (ty : BitVec 4) (ms : BitVec 6) (et : BitVec 3) (s : State) : Out :=
  vecFp (.vdqmx vd va ty ms et) vd (fmtBits (mxSrc et)) (fun c _ k =>
    mxDequant (mxElem ty) (mxSrc et) (elem 8 (c.vreg va.toNat) (224 + k / 32)) (elem (fmtBits (mxElem ty)) (c.vreg va.toNat) k)) s

/-- VDOT4 (R261): byte j of lane k of the second source is imm's in the wide form (Table 5.9). -/
def execVdot4 (vd va : BitVec 5) (y : VSrc) (ms : BitVec 6) (et : BitVec 3) (s : State) : Out :=
  vecFp (.vdot4 vd va y ms et) vd 32 (fun c _ k =>
    let a := (List.range 4).map fun j => elem 8 (c.vreg va.toNat) (4 * k + j)
    let b := (List.range 4).map fun j => match y with
      | .reg vb => elem 8 (c.vreg vb.toNat) (4 * k + j)
      | .imm v => v.toNat >>> (8 * (j % 2)) % 256
    let d := elem 32 (c.vreg vd.toNat) k
    if et.toNat < 4 then
      let sa := et.toNat != 1
      let sb := et.toNat == 0
      (ofSigned 32 ((a.zip b).foldl (fun t p => t + readInt 8 sa p.1 * readInt 8 sb p.2) (d : Int)), 0)
    else
      let f : Fmt := if et == 4 then .e4m3 else .e5m2
      dotFp .f32 (issRm c) ((a.zip b).map fun p => (fvOf f p.1, fvOf f p.2)) (fvOf .f32 d)) s

/-- VBFDOT (R261). -/
def execVbfdot (vd va vb : BitVec 5) (ms : BitVec 6) (s : State) : Out :=
  vecFp (.vbfdot vd va vb ms) vd 32 (fun c _ k =>
    let p := fun j => (fvOf .bf16 (elem 16 (c.vreg va.toNat) (2 * k + j)), fvOf .bf16 (elem 16 (c.vreg vb.toNat) (2 * k + j)))
    dotFp .f32 (issRm c) [p 0, p 1] (fvOf .f32 (elem 32 (c.vreg vd.toNat) k))) s

/-- VHASH (R262). -/
def execVhash (vd va vb : BitVec 5) (ms : BitVec 6) (et : BitVec 3) (s : State) : Out :=
  move (.vhash vd va vb ms et) vd et (fun c _ w k =>
    let a := elem w (c.vreg va.toNat) k
    let b := elem w (c.vreg vb.toNat) k
    if w = 32 then hash32 a b else hash64 a b) s

end Sys2Proof.Machine
end

