-- ==== Sys2Proof/Machine/Matrix.lean ====
section
/-!
DEFINITION. The matrix engine: its arithmetic (04 R133-R137), the meanings of the matrix commands and of VACCRD and VACCWR, and the steps of
its two contexts (08 R260; 10 R310-R313).
-/
namespace Sys2Proof.Machine

/-! ## Arithmetic -/

/-- The exact sum of products, scaled by a power of two; NaN and infinities as IEEE addition has them (R133, R135). -/
def groupSum (ps : List (FV × FV)) (scale : Int) : FV :=
  let bad := ps.any fun p => match p with
    | (.nan _, _) => true | (_, .nan _) => true
    | (.inf _, .fin _ 0 _) => true | (.fin _ 0 _, .inf _) => true | _ => false
  let infs := ps.filterMap fun p => match p with
    | (.inf a, b) => some (a != fvSign b) | (a, .inf b) => some (fvSign a != b) | _ => none
  if bad || (infs.contains true && infs.contains false) then .nan false
  else
    match infs with
    | n :: _ => .inf n
    | [] =>
      let ts := ps.map fun p => match p with
        | (.fin n1 m1 e1, .fin n2 m2 e2) => (n1 != n2, m1 * m2, e1 + e2)
        | _ => (false, 0, (0 : Int))
      let e0 := ts.foldl (fun a t => if t.2.2 < a then t.2.2 else a) 0
      let v := ts.foldl (fun (a : Int) t => a + scaled t.1 t.2.1 t.2.2 e0) 0
      .fin (if v = 0 then ts.all (·.1) else v < 0) v.natAbs (e0 + scale)

/-- acc_round of acc + c, with the flags it raises: bit 0 OVF, bit 1 NAN (R135). -/
def accStep (sat : Bool) (acc : Nat) (c : FV) : Nat × Nat :=
  let (r, fl) := addV .f32 .rne (fvOf .f32 acc) c
  match fvOf .f32 r with
  | .nan _ => (0x7FC00000, 2)
  | .inf n => if sat then (0x7F7FFFFF + bit n * 2 ^ 31, 1) else (r, bit (fl &&& fOF != 0))
  | _ => (r, 0)

/-- A matrix operand type: element value for the floating-point types, integer for the others. -/
def matFp (ty : BitVec 4) (x : Nat) : FV := match vtyOf ty with | .fp f => fvOf f x | .int _ _ => .fin false x 0
def matInt (ty : BitVec 4) (x : Nat) : Int := match vtyOf ty with | .int w true => toSigned w x | _ => x
def matIsInt (ty : BitVec 4) : Bool := match vtyOf ty with | .int _ _ => true | _ => false

/-- A row of A against a column of B. -/
structure MatOp where
  ta : BitVec 4
  tb : BitVec 4
  sat : Bool
  /-- K, and the scales of block g of a row and of a column, when there are any -/
  k : Nat
  a : Nat → Nat → Nat
  b : Nat → Nat → Nat
  scales : Option ((Nat → Nat → Nat) × (Nat → Nat → Nat))

/-- One output element, from the value acc (R133-R135). -/
def MatOp.elem (o : MatOp) (i j acc : Nat) : Nat × Nat :=
  (List.range (ceilDiv o.k 32)).foldl (fun r g =>
    let ks := (List.range (Nat.min 32 (o.k - 32 * g))).map (32 * g + ·)
    if matIsInt o.ta then
      let v := ks.foldl (fun (s : Int) k => s + matInt o.ta (o.a i k) * matInt o.tb (o.b j k)) 0
      (ofSigned 32 (toSigned 32 r.1 + v), 0)
    else
      let ps := ks.map fun k => (matFp o.ta (o.a i k), matFp o.tb (o.b j k))
      let c := match o.scales with
        | none => groupSum ps 0
        | some (sa, sb) =>
          if sa i g = 0xFF || sb j g = 0xFF then FV.nan false else groupSum ps ((sa i g : Int) - 127 + ((sb j g : Int) - 127))
      let (v, fl) := accStep o.sat r.1 c
      (v, r.2 ||| fl)) (acc, 0)

/-! ## Accumulators (R310) -/

def MatCtx.get (m : MatCtx) (j : Nat) : Nat := (m.elems.find j).getD 0
/-- A zero is not listed. -/
def MatCtx.put (m : MatCtx) (j v : Nat) : MatCtx := { m with elems := if v = 0 then m.elems.del j else m.elems.put j v }

/-- All elements of a tile, from their old values; the flags of all. -/
def tileMap (m : MatCtx) (tile : Nat) (f : Nat → Nat → Nat → Nat × Nat) : MatCtx × Nat :=
  (List.range 4096).foldl (fun x e =>
    let j := 4096 * tile + e
    let (v, fl) := f (e / 64) (e % 64) (m.get j)
    (x.1.put j v, x.2 ||| fl)) (m, 0)

/-- Flags of a step of a context become sticky bits of MSTAT (R136). -/
def setMstat (s : State) (core : Nat) (ctx : Bool) (fl : Nat) : State :=
  s.modCore core fun k => { k with mstat := k.mstat ||| fl <<< (2 * bit ctx) }

/-- Element e of width b of consecutive registers. -/
def panelElem (l : List VReg) (b e : Nat) : Nat := elem b (l.getD (e * b / 2048) 0) (e % (2048 / b))

/-- The operands of an MMA or MMAX (R311, R312). -/
def regsOp (c : Cmd) (ta tb : BitVec 4) (sat mx : Bool) : MatOp :=
  let b := matBits ta
  let kp := panelK b
  let g := kp / 32
  let vs := c.vecs.getD 16 0
  { ta := ta, tb := tb, sat := sat, k := kp
    a := fun i k => panelElem (c.vecs.take 8) b (i * kp + k)
    b := fun j k => panelElem ((c.vecs.drop 8).take 8) b (j * kp + k)
    scales := if mx then some (fun i n => elem 8 vs (i * g + n), fun j n => elem 8 vs (128 + j * g + n)) else none }

/-! ## The commands at issue -/

/-- MMA (R311). -/
def execMma (h : CmdHdr) (va vb : BitVec 5) (tile : BitVec 2) (ctx : Bool) (ta tb : BitVec 4) (s : State) : Out :=
  issueCommand (.mma h va vb tile ctx ta tb) s
/-- MMAX (R311, R312). -/
def execMmax (h : CmdHdr) (va vb vs : BitVec 5) (tile : BitVec 2) (ctx : Bool) (ta tb : BitVec 4) (s : State) : Out :=
  issueCommand (.mmax h va vb vs tile ctx ta tb) s
/-- MZERO (R313). -/
def execMzero (h : CmdHdr) (tmask : BitVec 4) (ctx : Bool) (s : State) : Out := issueCommand (.mzero h tmask ctx) s
/-- MLD (R313). -/
def execMld (h : CmdHdr) (addr : RegOp) (tile : BitVec 2) (ctx : Bool) (stride : BitVec 32) (s : State) : Out :=
  issueCommand (.mld h addr tile ctx stride) s
/-- MST (R313). -/
def execMst (h : CmdHdr) (addr : RegOp) (tile : BitVec 2) (ctx : Bool) (stride : BitVec 32) (s : State) : Out :=
  issueCommand (.mst h addr tile ctx stride) s

/-! ## Steps (R310) -/

/-- A matrix or rig command that runs on the engine. -/
def matRunning (k : Core) : Option Cmd := k.running.find? fun c => (cmdCtx c.instr).isSome

def isRig : Instr → Bool | .rmmak .. | .rmman .. => true | _ => false

/-- A VACCRD or VACCWR of the core was issued before this command to its context and has not taken effect (R260). -/
def behindAccum (s : State) (core : Nat) (ctx : Bool) (num : Nat) : Bool :=
  (s.core core).slots.any fun w => match w.2.t.wait, w.2.t.latch with
    | .accumulator n x, _ => x == ctx && n ≤ num
    | .none, [n, x] => x == bit ctx && n ≤ num
    | _, _ => false

/-- The head of a context, when its step is ready. -/
def readyHead (s : State) (core : Nat) (ctx : Bool) : Option Cmd :=
  match (matCtxOf (s.core core) ctx).queue with
  | c :: _ => if mayStart s core c && !behindAccum s core ctx c.num then some c else none
  | [] => none

/-- The head of a context occupies the engine: it runs under a number of its own, and holds its place in the queue until it
completes. -/
def startStep (s : State) (core : Nat) (ctx : Bool) (c : Cmd) (n : Nat) : State :=
  let (s, c) := acquireCmd s core c
  let s := s.modMat core ctx fun m => { m with queue := { c with running := true, phase := 1 } :: m.queue.drop 1 }
  s.modCore core fun k => { k with matLast := ctx, running := k.running ++ [{ c with idx := n, running := true, acc := [s.clk] }] }

/-- The arrived members of a rig in chain order, with the numbers of their commands. -/
def chain (g : Rig) : List (Nat × Nat) :=
  g.members.filterMap fun m => (g.arrived.find? fun x => x.1 == m).map fun x => (m, x.2.2)

/-- The member's command heads its context, and its engine is free. -/
def memberReady (s : State) (core num : Nat) : Option (Bool × Cmd × Nat) :=
  let k := s.core core
  match matRunning k, freeNum k with
  | none, some n =>
    (match (readyHead s core false).filter fun c => c.num == num with
    | some c => some (false, c, n)
    | none => ((readyHead s core true).filter fun c => c.num == num).map fun c => (true, c, n))
  | _, _ => none

/-- Every member has arrived, and the instruction can occupy the named context of each: the heads, in chain order (R315). -/
def rigHeads (s : State) (g : Rig) : Option (List (Nat × Bool × Cmd × Nat)) :=
  let ch := chain g
  let heads := ch.filterMap fun x => (memberReady s x.1 x.2).map fun h => (x.1, h)
  if g.running || g.abandon || ch.length != g.members.length || heads.length != ch.length || ch.isEmpty then none else some heads

/-- The rig whose open instruction this command of a core belongs to. -/
def rigOfCmd (s : State) (core num : Nat) : Option Rig :=
  (s.rigs.find? fun r => r.2.arrived.any fun x => x.1 == core && x.2.2 == num).map (·.2)

/-- A rig instruction that could start, in the contexts whose turn it is on every member. -/
def rigPreferred (s : State) (g : Rig) : Bool :=
  match rigHeads s g with
  | some l => l.all fun h => h.2.1 != (s.core h.1).matLast
  | none => false

/-- The context that ran the last step of a core lets the other one go first: that one has a step ready (R310). -/
def yieldsTurn (s : State) (core : Nat) (ctx : Bool) : Bool :=
  ctx == (s.core core).matLast &&
  match readyHead s core (!ctx) with
  | some c => !isRig c.instr || (match rigOfCmd s core c.num with | some g => rigPreferred s g | none => false)
  | none => false

/-- MATRIX_TILE_STEP: the engine starts a step, of the context that did not run the last one when both are ready. -/
def execMatrixTileStep (core : Nat) (s : State) : Out :=
  let k := s.core core
  let own := fun x => (readyHead s core x).filter fun c => !isRig c.instr
  match matRunning k, freeNum k with
  | none, some n =>
    (match own (!k.matLast), own k.matLast with
    | some c, _ => .next (startStep s core (!k.matLast) c n)
    | none, some c => .next (if yieldsTurn s core k.matLast then s else startStep s core k.matLast c n)
    | none, none => .next s)
  | _, _ => .next s

/-- The step is over: its command leaves the context and completes. -/
def endStep (s : State) (core : Nat) (ctx : Bool) (c : Cmd) : State :=
  let s := s.modMat core ctx fun m => { m with queue := m.queue.filter fun q => q.num != c.num }
  (completeCmd (countEvent s core 10) core c 0).modCore core fun k => k.wakeAccum s.clk

/-- What a step leaves in its tile. -/
def applyStep (s : State) (core : Nat) (ctx : Bool) (c : Cmd) : State :=
  let m := matCtxOf (s.core core) ctx
  let put := fun (x : MatCtx × Nat) => setMstat (s.modMat core ctx fun _ => x.1) core ctx x.2
  match c.instr with
  | .mma h _ _ t _ ta tb => put (tileMap m t.toNat (regsOp c ta tb h.x0 false).elem)
  | .mmax h _ _ _ t _ ta tb => put (tileMap m t.toNat (regsOp c ta tb h.x0 true).elem)
  | .mzero _ tm _ => s.modMat core ctx fun m => { m with elems := m.elems.filter fun x => !tm.getLsbD (x.1 / 4096) }
  | .mld _ _ t _ st =>
    let a := opAt c.ops 0
    put (tileMap m t.toNat fun i j old => (((gotBytes c (a + i * st.toNat + 4 * j) 4).map ofBytes).getD old, 0))
  | _ => s

/-- A step has lasted its time (Table 10.9), or moved its last byte. -/
def stepDone (s : State) (c : Cmd) : Bool :=
  match c.instr with
  | .mma .. | .mmax .. => c.acc.headD 0 + 256 ≤ s.clk
  | .mzero .. => c.acc.headD 0 + 16 ≤ s.clk
  | .mld .. | .mst .. => c.phase == 2
  | _ => false

/-- MATRIX_STEP_COMPLETE. -/
def execMatrixStepComplete (core : Nat) (ctx : Bool) (s : State) : Out :=
  match matRunning (s.core core) with
  | some c => .next (if cmdCtx c.instr == some ctx && stepDone s c then endStep (applyStep s core ctx c) core ctx c else s)
  | none => .next s

/-! ## VACCRD, VACCWR (R260) -/

/-- The bundle has waited for the earlier matrix commands; what it noted for that is no longer needed. -/
def doneAccum (s : State) (c : Issue) : State := s.modIssThr c fun t => { t with latch := [] }

def accRow (c : Issue) (tile : BitVec 2) (vb : BitVec 5) : Nat := 4096 * tile.toNat + 64 * ((c.reg vb.toNat).toNat % 64)

/-- VACCRD: lane j receives element (row, j). -/
def execVaccrd (vd : BitVec 5) (tile : BitVec 2) (ctx : Bool) (vb : BitVec 5) (ms : BitVec 6) (et : BitVec 3) (s : State) : Out :=
  start (.vaccrd vd tile ctx vb ms et) s fun c s =>
    let m := matCtxOf (s.core c.core) ctx
    let row := accRow c tile vb
    retire ((doneAccum s c).setVReg c vd.toNat (mergeElems c.mask 32 (c.vreg vd.toNat) fun j => m.get (row + j)))

/-- VACCWR: element (row, j) receives lane j. -/
def execVaccwr (vd : BitVec 5) (tile : BitVec 2) (ctx : Bool) (vb : BitVec 5) (ms : BitVec 6) (et : BitVec 3) (s : State) : Out :=
  start (.vaccwr vd tile ctx vb ms et) s fun c s =>
    let row := accRow c tile vb
    retire ((doneAccum s c).modMat c.core ctx fun m =>
      (activeElems c.mask 32).foldl (fun m j => m.put (row + j) (elem 32 (c.vreg vd.toNat) j)) m)

end Sys2Proof.Machine
end

