-- ==== Sys2Proof/Machine/Rig.lean ====
section
/-!
DEFINITION. Rigs: the meanings of RMMAK and RMMAN and of their events (04 R137; 10 R314-R317).
-/
namespace Sys2Proof.Machine

/-! ## Operands (R314) -/

/-- What a rig command names. -/
structure RigArgs where
  split : Bool
  kb : Nat
  mx : Bool
  ta : BitVec 4
  tb : BitVec 4
  ctx : Bool
  tile : Nat
  sat : Bool

def rigArgs : Instr → Option RigArgs
  | .rmmak h _ _ _ kb mx ta tb ctx tile _ _ => some ⟨true, kb.toNat, mx, ta, tb, ctx, tile.toNat, h.x0⟩
  | .rmman h _ _ _ kb mx ta tb ctx tile _ _ => some ⟨false, kb.toNat, mx, ta, tb, ctx, tile.toNat, h.x0⟩
  | _ => none

def byteOf (c : Cmd) (va : Nat) : Nat := match gotByte c va with | some b => b.toNat | none => 0

/-- Element k of row or column i of panels at va. -/
def panelCode (c : Cmd) (va : Nat) (ty : BitVec 4) (i k : Nat) : Nat :=
  let b := matBits ty
  let kp := panelK b
  let e := i * kp + k % kp
  let at_ := va + 2048 * (k / kp)
  if b = 4 then byteOf c (at_ + e / 2) / 16 ^ (e % 2) % 16
  else (List.range (b / 8)).foldl (fun a j => a + byteOf c (at_ + e * (b / 8) + j) * 256 ^ j) 0

/-- Scale of row or column i, block g. -/
def panelScale (c : Cmd) (va kb : Nat) (ty : BitVec 4) (i g : Nat) : Nat := byteOf c (va + 2048 * (32 * kb / panelK (matBits ty)) + i * kb + g)

/-- The product that a member computes, with the A operand of member `ca`. -/
def rigOp (r : RigArgs) (ca cb : Cmd) : MatOp :=
  { ta := r.ta, tb := r.tb, sat := r.sat, k := 32 * r.kb
    a := fun i k => panelCode ca (opAt ca.ops 0) r.ta i k
    b := fun j k => panelCode cb (opAt cb.ops 1) r.tb j k
    scales := if r.mx then some (panelScale ca (opAt ca.ops 0) r.kb r.ta, panelScale cb (opAt cb.ops 1) r.kb r.tb) else none }

/-! ## Arrival (R315) -/

/-- The launches of the arrived members and of the arriving one end. -/
def rigMismatch (s : State) (c : Issue) (g : Rig) (rig word1 : Nat) : State :=
  let end_ := fun (s : State) (core uid : Nat) => match s.thrOf core uid with
    | some t => fatal s core t (tidOfUid s core uid 0) 0x49 rig 0 [g.word1, word1]
    | none => s
  (g.arrived.foldl (fun s x => end_ s x.1 x.2.1) (end_ s c.core (s.issThr c).uid)).closeIssue

/-- A rig command at issue: its pages have been translated, and the member arrives. -/
def issueRig (i : Instr) (s : State) : Out :=
  start i s fun c s =>
    match rigIssue s c i with
    | none => s
    | some (key, seq, shape) =>
      match s.rigs.find key with
      | none => s
      | some g =>
        let word1 := ((encode i).getD 1 0).toNat
        if !g.arrived.isEmpty && !(g.seq == seq && g.shape == shape) then rigMismatch s c g (key % 256) word1
        else
          let (num, s) := s.new
          let x := newCmd s c i num
          let x := match xlateAll s c.core false (segPieces ((cmdRanges x.ops i).map fun r => (r.lo, r.len))) x with
            | .done x => x
            | _ => x
          let g := if g.arrived.isEmpty then { g with seq := seq, shape := shape, word1 := word1 } else g
          let g := { g with arrived := g.arrived ++ [(c.core, x.uid, num)] }
          enqueueCmd { s with rigs := s.rigs.put key g } c x

/-- RMMAK (R314). -/
def execRmmak (h : CmdHdr) (rseq : BitVec 32) (sreg : BitVec 6) (rig : BitVec 8) (kb : BitVec 6) (mx : Bool) (ta tb : BitVec 4) (ctx : Bool)
    (tile : BitVec 2) (apanel bpanel : RegOp) (s : State) : Out :=
  issueRig (.rmmak h rseq sreg rig kb mx ta tb ctx tile apanel bpanel) s
/-- RMMAN (R314). -/
def execRmman (h : CmdHdr) (rseq : BitVec 32) (sreg : BitVec 6) (rig : BitVec 8) (kb : BitVec 6) (mx : Bool) (ta tb : BitVec 4) (ctx : Bool)
    (tile : BitVec 2) (apanel bpanel : RegOp) (s : State) : Out :=
  issueRig (.rmman h rseq sreg rig kb mx ta tb ctx tile apanel bpanel) s

/-! ## The run (R316) -/

/-- What the member at a position reads: the panels of A for an N-split only at position 0. -/
def memberReads (c : Cmd) (pos : Nat) : List (Nat × Nat) :=
  match rigArgs c.instr with
  | none => []
  | some r =>
    segPieces ((if r.split || pos == 0 then [(opAt c.ops 0, rigPanel r.kb r.mx r.ta)] else []) ++ [(opAt c.ops 1, rigPanel r.kb r.mx r.tb)])

/-- RIG_RUN: every member has arrived, and the instruction occupies the named context of each, where no other context's turn comes
first. -/
def execRigRun (part rig : Nat) (s : State) : Out :=
  let key := rigKey part rig
  match (s.rigs.find key).bind fun g => (rigHeads s g).map fun l => (g, l) with
  | none => .next s
  | some (g, heads) =>
    if heads.any fun h => yieldsTurn s h.1 h.2.1 then .next s
    else
      let s := { s with rigs := s.rigs.put key { g with running := true } }
      .next (heads.zipIdx.foldl (fun s x =>
        let (core, ctx, c, n) := x.1
        moveBytes (startStep s core ctx c n) core
          { c with idx := n, running := true, acc := [s.clk], phase := 1, reads := memberReads c x.2 }) s)

/-! ## The end (R137, R316) -/

/-- acc_round of a sum of two accumulator values. -/
def addAcc (o : MatOp) (x y : Nat) : Nat × Nat := if matIsInt o.ta then ((x + y) % 2 ^ 32, 0) else accStep o.sat x (fvOf .f32 y)

/-- One element of a K-split: the last member's new value, and the flags of each member. -/
def splitElem (ops : List MatOp) (i j acc : Nat) : Nat × List Nat :=
  let r := ops.foldl (fun (x : Option Nat × List Nat) o =>
    let (p, fl) := o.elem i j 0
    match x.1 with
    | none => (some p, x.2 ++ [fl])
    | some t => let (t', fl') := addAcc o t p; (some t', x.2 ++ [fl ||| fl'])) (none, [])
  match ops.getLast?, r.1 with
  | some o, some t =>
    let (v, fl) := addAcc o acc t
    (v, r.2.dropLast ++ [(r.2.getLast?.getD 0) ||| fl])
  | _, _ => (acc, r.2)

/-- The members' commands as they run, in chain order. -/
def runningMembers (s : State) (g : Rig) : List (Nat × Cmd × RigArgs) :=
  (chain g).filterMap fun x => ((s.core x.1).running.find? fun c => c.num == x.2).bind fun c => (rigArgs c.instr).map fun r => (x.1, c, r)

/-- RMMAK: the last member's tile, and every member's flags. -/
def finishSplit (s : State) (l : List (Nat × Cmd × RigArgs)) : State :=
  match l.getLast? with
  | none => s
  | some (core, _, r) =>
    let ops := l.map fun x => rigOp x.2.2 x.2.1 x.2.1
    let m := matCtxOf (s.core core) r.ctx
    let (m, fls) := (List.range 4096).foldl (fun (x : MatCtx × List Nat) e =>
      let j := 4096 * r.tile + e
      let (v, fl) := splitElem ops (e / 64) (e % 64) (m.get j)
      (x.1.put j v, (x.2.zip fl).map fun y => y.1 ||| y.2)) (m, l.map fun _ => 0)
    let s := s.modMat core r.ctx fun _ => m
    (l.zip fls).foldl (fun s x => setMstat s x.1.1 x.1.2.2.ctx x.2) s

/-- RMMAN: every member's tile. -/
def finishColumns (s : State) (l : List (Nat × Cmd × RigArgs)) : State :=
  match l with
  | [] => s
  | (_, first, _) :: _ => l.foldl (fun s x =>
    let (core, c, r) := x
    let y := tileMap (matCtxOf (s.core core) r.ctx) r.tile (rigOp r first c).elem
    setMstat (s.modMat core r.ctx fun _ => y.1) core r.ctx y.2) s

/-- RIG_COMPLETE: every panel has been read; the accumulators are written, and every member completes. -/
def execRigComplete (part rig : Nat) (s : State) : Out :=
  let key := rigKey part rig
  match s.rigs.find key with
  | none => .next s
  | some g =>
    let l := runningMembers s g
    if !g.running || l.length != g.members.length || l.isEmpty || !l.all fun x => x.2.1.phase == 2 then .next s
    else
      let s := if l.all fun x => x.2.2.split then finishSplit s l else finishColumns s l
      let s := { s with rigs := s.rigs.put key { g with arrived := [], running := false, abandon := false, waitedAt := none } }
      .next (l.foldl (fun s x => endStep s x.1 x.2.2.ctx x.2.1) s)

/-! ## Abandonment (R317) -/

/-- RIG_ABANDON: a trap or a recorded fault at a member's issue has condemned the open instruction. -/
def execRigAbandon (part rig : Nat) (s : State) : Out :=
  match s.rigs.find (rigKey part rig) with
  | some g => .next (if g.abandon then abandonRig s (rigKey part rig) else s)
  | none => .next s

/-- The rig at which a thread of a core has arrived. -/
def rigOfUid (s : State) (core uid : Nat) : Option (Nat × Rig) := s.rigs.find? fun r => r.2.arrived.any fun x => x.1 == core && x.2.1 == uid

/-- RIG_PREEMPT_TIMEOUT: a pre-emption request has waited 65,536 clk at a member. -/
def execRigPreemptTimeout (core slot : Nat) (s : State) : Out :=
  match ((s.core core).slots.find slot).bind fun w => rigOfUid s core w.t.uid with
  | some (key, g) => (match g.waitedAt with
    | some t => .next (if t + 65536 ≤ s.clk then abandonRig s key else s)
    | none => .next s)
  | none => .next s

/-- A pre-emption request meets a rig member: it waits (R317). -/
def rigWaits (s : State) (core uid : Nat) : State :=
  match rigOfUid s core uid with
  | some (key, g) => if g.waitedAt.isNone then { s with rigs := s.rigs.put key { g with waitedAt := some s.clk } } else s
  | none => s

end Sys2Proof.Machine
end

