-- ==== Sys2Proof/Machine/WorkCmds.lean ====
section
/-!
DEFINITION. Semaphore, work, frame and scene commands: the meanings of SEMOP, SEMSET, SPAWNT, LSTAT, FPOST, FCLK, SCENEB at issue and their
part of a command's progress (10 R318, R321-R325).
-/
namespace Sys2Proof.Machine

/-! ## SEMOP, SEMSET (R318) -/

/-- SEMOP. -/
def execSemop (h : CmdHdr) (core : BitVec 16) (sem : BitVec 8) (v : BitVec 16) (s : State) : Out := issueCommand (.semop h core sem v) s
/-- SEMSET. -/
def execSemset (h : CmdHdr) (core : BitVec 16) (sem : BitVec 8) (v : BitVec 16) (s : State) : Out := issueCommand (.semset h core sem v) s

/-- The change is sent when the command starts. -/
def sendSem (s : State) (core : Nat) (c : Cmd) (target sem : Nat) (set : Bool) (v : Nat) : State :=
  let t := if target = 0xFFFF then core else target
  let s := sendMsg s .system (.core core) (.core t) 0 (.sem sem set v core c.num)
  setCmd s core { c with phase := 1 }

/-! ## SPAWNT (R321) -/

/-- SPAWNT: the task belongs to the issuing launch from the issue on. -/
def execSpawnt (h : CmdHdr) (reg : BitVec 6) (s : State) : Out :=
  start (.spawnt h reg) s fun c s =>
    let t := s.issThr c
    let (num, s) := s.new
    let s := match t.lid with
      | some l => s.modLaunch l fun x => { x with left := x.left + 1 }
      | none => s
    enqueueCmd s c (newCmd s c (.spawnt h reg) num)

/-- The task record in a command's registers (Table 1.10). -/
def spawnTask (c : Cmd) (lid : Nat) : Task :=
  let d := opAt c.ops
  { base := word (d 0), kind := bits (d 1) 1 0, prio := bits (d 1) 3 2, keep := bitAt (d 1) 4, lid := lid,
    ins := tileRefs (d 2), outs := tileRefs (d 3) }

/-- The record enters the own end of the deque once there is a place that no record under way holds (R51). DESIGN CHOICE (log 93): no
record is ever placed on a helm core (R351), so the SPAWNT of a fibre there stays running. -/
def progressSpawnt (s : State) (core : Nat) (c : Cmd) : State :=
  let k := s.core core
  match c.lid with
  | none => s
  | some lid =>
    if k.deque.length + k.reserved < 64 && !isHelm s core then
      setCmd (s.modCore core fun k => { k with deque := k.deque ++ [spawnTask c lid] }) core { c with phase := 2 }
    else s

/-! ## LSTAT (R322) -/

/-- LSTAT. -/
def execLstat (h : CmdHdr) (id : BitVec 32) (s : State) : Out := issueCommand (.lstat h id) s

/-- A bank is free on the core, and no bound launch's code region overlaps this one (R72, R74). -/
def fillOpen (s : State) (core : Nat) (l : Launch) : Bool :=
  let k := s.core core
  (k.banks.length < 4) && k.codes.all fun x => x.2.1 + x.2.2 ≤ l.cload || l.cload + l.csize ≤ x.2.1

/-- The launch waits for a bank or a code region. -/
def isHeld (s : State) (lid : Nat) (l : Launch) : Bool :=
  l.cores.any fun c => !(s.core c).banks.any (fun b => b.2 == lid) && !fillOpen s c l

/-- The answer of a die's distributor (Table 10.12): of the launches recorded under this LAUNCHID the one whose LAUNCH started last. -/
def lstatWord (s : State) (d part id : Nat) : Nat :=
  let open_ := s.launches.filter fun x => x.2.die == d && x.2.part == part && x.2.id == id && !x.2.done
  let old := (s.die d).recent.filter fun x => x.2.1 == id && x.2.2.1 == part
  let all := open_.map (fun x => (x.2.started, x.2.lseq * 2 ^ 32 + (if isHeld s x.1 x.2 then 1 else 2) * 256)) ++
    old.map fun x => (x.1, x.2.2.2.1 * 2 ^ 32 + 3 * 256 + x.2.2.2.2)
  ((all.foldl (fun (a : Option (Nat × Nat)) x => match a with
    | some y => if y.1 < x.1 then some x else a
    | none => some x) none).map (·.2)).getD 0

def answerLstat (s : State) (core : Nat) (c : Cmd) (id : Nat) : State :=
  let v := match s.partOf core with | some p => lstatWord s (dieOf core) p id | none => 0
  setCmd s core { c with phase := 2, token := v }

/-! ## FPOST, FCLK (R323, R324, R434) -/

/-- The frame clock in nanoseconds: 3 clk each, and the corrections; it never decreases but at its first lock (R433). -/
def State.nanos (s : State) : Nat := Nat.max s.frame.floor ((s.clk / 3 : Int) + s.frame.off).toNat

/-- FPOST. -/
def execFpost (h : CmdHdr) (base : RegOp) (bytes fnum : BitVec 32) (out : BitVec 4) (s : State) : Out :=
  issueCommand (.fpost h base bytes fnum out) s
/-- FCLK. -/
def execFclk (h : CmdHdr) (t : RegOp) (s : State) : Out := issueCommand (.fclk h t) s

def State.output (s : State) (o : Nat) : Output := (s.mgmt.outputs.find o).getD Output.reset
def State.setOutput (s : State) (o : Nat) (x : Output) : State := { s with mgmt := { s.mgmt with outputs := s.mgmt.outputs.put o x } }

/-- A frame number is newer than the last one published. -/
def newerFrame (last : Option Nat) (n : Nat) : Bool :=
  match last with
  | none => true
  | some l => let d := (n + 2 ^ 32 - l % 2 ^ 32) % 2 ^ 32; 1 ≤ d && d < 2 ^ 31

/-- The publication: BASE is the physical address of the frame's first page. -/
def publish (s : State) (core : Nat) (c : Cmd) (pa bytes fnum out : Nat) : State :=
  let x := s.output out
  if bitAt x.w0 63 && s.partOf core == some (bits x.w0 50 48) && newerFrame x.fnum fnum then
    let (n, s) := s.new
    let f : Frame := { fnum := fnum, base := pa, bytes := bytes, time := s.nanos, rank := n }
    setCmd (s.setOutput out { x with fnum := some fnum, latest := some f }) core { c with phase := 2, token := s.nanos }
  else setCmd s core { c with phase := 2, token := 2 ^ 64 - 1 }

def progressFpost (s : State) (core : Nat) (c : Cmd) (bytes fnum out : Nat) : State :=
  let a := opAt c.ops 0
  withXlate s core c [(a, 64)] [] fun s c =>
    let pa := (cmdPa core c false a).1
    if pwinOf pa == .hbm then publish s core c pa bytes fnum out else engineFault s core c a false

/-! ## SCENEB (R263, R325) -/

/-- SCENEB. -/
def execSceneb (h : CmdHdr) (table : RegOp) (s : State) : Out := issueCommand (.sceneb h table) s

/-- Every constraint of Table 9.1. -/
def sceneOk (d : List Nat) : Bool :=
  let w := fun i => d.getD i 0
  w 0 % 0x8000 == 0 && bits (w 1) 23 0 != 0 && bits (w 1) 47 24 < bits (w 1) 23 0 && bits (w 1) 63 48 == 0 && w 2 % 1024 == 0 &&
    w 3 ≤ 24 && w 4 % 2 == 0 && bits (w 5) 12 0 != 0 && w 5 ≤ 6144 && w 6 == 0 && w 7 == 0

def sceneStatus (s : State) (core : Nat) (c : Cmd) (lid : Nat) : State :=
  let a := opAt c.ops 0
  let d := (List.range 8).map fun i => ofBytes ((gotBytes c (a + 8 * i) 8).getD [])
  match (s.launches.find lid).bind (·.scene) with
  | some _ => setCmd s core { c with phase := 2, token := 2 }
  | none =>
    if sceneOk d then setCmd (s.modLaunch lid fun l => { l with scene := some d }) core { c with phase := 2, token := 0 }
    else setCmd s core { c with phase := 2, token := 1 }

/-- SCENEB tests the binding when it starts, then reads the table. -/
def progressSceneb (s : State) (core : Nat) (c : Cmd) : State :=
  match c.lid with
  | none => s
  | some lid =>
    if c.phase == 0 then
      if ((s.launches.find lid).bind (·.scene)).isSome then setCmd s core { c with phase := 2, token := 2 }
      else
        withXlate s core c (segPieces (srcSegs c)) [] fun s c =>
          let (s, c) := sendReads s core { c with reads := segPieces (srcSegs c), phase := 3 }
          setCmd s core c
    else
      match collectReads s c with
      | none => cmdPoison s core c
      | some (s, c) => if c.out.isEmpty then sceneStatus s core c lid else setCmd s core c

end Sys2Proof.Machine
end

