-- ==== Sys2Proof/Machine/LaunchCmd.lean ====
section
/-!
DEFINITION. LAUNCH and what the distributor does with it: the checks of the header and the placement table, acceptance, the fills of
participating cores, completion (01 R43-R46; 02 R72, R74; 10 R320; 13 R354-R357, R456).
-/
namespace Sys2Proof.Machine

/-- LAUNCH (R320). -/
def execLaunch (h : CmdHdr) (hdr : RegOp) (s : State) : Out := issueCommand (.launch h hdr) s

/-! ## What the command has read

`acc` holds the stage (0 header, 1 head of the placement table, 2 its entries, 3 translation of the constants and the code, 4 accepted),
the header's eight doublewords, the head's first doubleword, and the entries. -/

def launchStage (c : Cmd) : Nat := c.acc.headD 0
def hdrDw (c : Cmd) (i : Nat) : Nat := c.acc.getD (1 + i) 0
def headDw (c : Cmd) : Nat := c.acc.getD 9 0
def placeEntries (c : Cmd) : List Nat := c.acc.drop 10

def dwsAt (c : Cmd) (va n : Nat) : List Nat := (List.range n).map fun i => ofBytes ((gotBytes c (va + 8 * i) 8).getD [])

def constPieces (c : Cmd) : List (Nat × Nat) := segPieces [(hdrDw c 5, 8 * bits (hdrDw c 1) 15 8)]
def codePieces (c : Cmd) : List (Nat × Nat) := segPieces [(hdrDw c 3, bits (hdrDw c 4) 31 0)]

/-- What a stage reads or translates. -/
def stagePieces (c : Cmd) : List (Nat × Nat) :=
  match launchStage c with
  | 0 => [(opAt c.ops 0, 64)]
  | 1 => [(hdrDw c 6, 64)]
  | 2 => segPieces [(hdrDw c 6 + 64, 2 * bits (headDw c) 12 0)]
  | 3 => constPieces c ++ codePieces c
  | _ => []

/-- The reads of a stage: a miss pauses the command; a failure is known to the check that follows (R456). -/
def progressLaunch (s : State) (core : Nat) (c : Cmd) : State :=
  if c.phase == 0 then
    let l := stagePieces c
    match xlateAll s core false l c with
    | .miss c p => setCmd s core { c with miss := some (p, 3) }
    | .fail va => if launchStage c == 0 then engineFault s core c va false else setCmd s core { c with phase := 7 }
    | .done c =>
      let (s, c) := sendReads s core { c with reads := if launchStage c == 3 then [] else l, phase := 3 }
      setCmd s core c
  else if c.phase == 3 then
    match collectReads s c with
    | none => cmdPoison s core c
    | some (s, c) => setCmd s core c
  else s

/-! ## The checks (R44, R357) -/

/-- Checks 0x01 to 0x07, and what of 0x08 the header alone decides. -/
def headerCode (d : Nat → Nat) : Nat :=
  let w := word (d 0)
  let f := fun k => widthField w k
  let mode := bits (d 1) 1 0
  let sum := f 0 + f 1 + f 2 + f 3 + f 4 + f 5
  if 2 ≤ mode then 1
  else if bits (d 0) 63 48 != 0 || bits (d 1) 7 4 != 0 || bits (d 1) 31 23 != 0 then 2
  else if 64 < sum || (if mode = 0 then 6 < f 0 || 2 < f 1 || 4 < f 2 else 7 < f 0 || f 1 != 0 || f 2 != 0) then 3
  else if 2 ^ sum < d 2 then 4
  else if 176 < bits (d 1) 15 8 then 5
  else if mode = 0 && countBits (bits (d 1) 22 16) 7 < 2 ^ f 1 then 6
  else if d 3 % 256 != 0 || d 5 % 8 != 0 || d 6 % 64 != 0 || bits (d 4) 63 32 % 256 != 0 || bits (d 7) 31 0 % 8 != 0 ||
      bits (d 4) 31 0 % 256 != 0 || bits (d 4) 63 32 < 0x600 then 7
  else if bits (d 4) 31 0 ≤ bits (d 7) 31 0 then 8
  else 0

/-- The private-memory size that check 0x08 uses (R70). -/
def launchPriv (s : State) (core : Nat) : Nat :=
  let l := (s.core core).lsplit
  privSize l - (if saveOn l then 0x4000 else 0)

/-- Compute cores of a partition that are not fenced. -/
def partCores (s : State) (p : Nat) : List Nat :=
  ((List.range 6).filter fun d => bitAt (partDies (s.part p).cfg) d).flatMap fun d =>
    ((List.range 1024).map (1024 * d + ·)).filter fun c => !(s.core c).fenced

def gangOf (c : Cmd) : Bool := widthField (word (hdrDw c 0)) 2 != 0
def fibreOf (c : Cmd) : Bool := bits (hdrDw c 1) 1 0 == 1

/-- The participating cores (R45, R356). -/
def participants (s : State) (p : Nat) (c : Cmd) : List Nat :=
  if fibreOf c || bitAt (headDw c) 13 then partCores s p
  else if gangOf c then ((placeEntries c).eraseDups.flatMap coresOfCluster).filter fun x => !(s.core x).fenced
  else (placeEntries c).eraseDups

/-- A code region meets a helm core's supervisor range. -/
def meetsSuper (s : State) (core cload csize : Nat) : Bool :=
  let h := (s.die (dieOf core)).helmcore
  isHelm s core && cload < 256 * bits h 42 32 && 256 * bits h 26 16 < cload + csize

/-- COUNT of a head is out of range: it has no entries that could be read. -/
def countBad (h : Nat) : Bool := bits h 12 0 == 0 || 6144 < bits h 12 0

/-- The head is invalid (Table 13.6). -/
def headBad (c : Cmd) (l : List Nat) : Bool :=
  let h := l.headD 0
  bits h 63 16 != 0 || countBad h || (l.drop 1).any (· != 0) || bitAt h 14 != gangOf c

/-- An entry is invalid. -/
def entryBad (s : State) (p : Nat) (gang : Bool) (e : Nat) : Bool :=
  if gang then
    383 < e || !bitAt (partDies (s.part p).cfg) (e / 64) ||
      (coresOfCluster e).all fun c => isHelm s c || (s.core c).fenced
  else 6143 < e || !bitAt (partDies (s.part p).cfg) (dieOf e) || (s.core e).fenced || isHelm s e

/-- The launch's code does not fit a core's private memory (check 0x08). -/
def tooSmall (s : State) (c : Cmd) (core : Nat) : Bool :=
  launchPriv s core < bits (hdrDw c 4) 63 32 + bits (hdrDw c 4) 31 0

/-- The status that the placement table leaves: 0x08 where a participating core's memory is too small, whatever else is
wrong with the table, or 0x09. -/
def placeCode (s : State) (p : Nat) (c : Cmd) : Nat :=
  let cs := (participants s p c).filter fun x => x < 6144 && bitAt (partDies (s.part p).cfg) (dieOf x)
  let cload := bits (hdrDw c 4) 63 32
  let csize := bits (hdrDw c 4) 31 0
  if cs.any (tooSmall s c) then 8
  else if bitAt (headDw c) 64 || (placeEntries c).any (entryBad s p (gangOf c)) || cs.any fun x => meetsSuper s x cload csize then 9
  else 0

/-! ## Rejection and acceptance -/

/-- A completed or rejected launch enters the 64 that a distributor records, under the start of its LAUNCH (R322). -/
def remember (s : State) (d : Nat) (x : Nat × Nat × Nat × Nat × Nat) : State :=
  s.modDie d fun y => { y with recent := (y.recent ++ [x]).drop (y.recent.length + 1 - 64) }

def rejectLaunch (s : State) (core p : Nat) (c : Cmd) (code : Nat) : State :=
  let s := remember s (dieOf core) (c.started, bits (hdrDw c 1) 63 32, p, 0, code)
  setCmd s core { c with phase := 2, token := code }

/-- The next launch sequence number of a partition (R355). -/
def nextLseq (n : Nat) : Nat := if n % 2 ^ 32 = 2 ^ 32 - 1 then 1 else n % 2 ^ 32 + 1

/-- The launch that a header and a placement table describe. -/
def makeLaunch (s : State) (core p : Nat) (c : Cmd) (lseq : Nat) : Launch :=
  let d := hdrDw c
  let w := word (d 0)
  let gang := gangOf c
  let span := 2 ^ (widthField w 0 + widthField w 1 + widthField w 2)
  let tasks := ceilDiv (d 2) span
  { part := p, die := dieOf core, lseq := lseq, id := bits (d 1) 63 32, mode := bits (d 1) 1 0, prio := bits (d 1) 3 2,
    eff := bits (d 1) 3 2, accepted := s.clk, widths := w, slots := bits (d 1) 22 16, ncon := bits (d 1) 15 8, n := d 2, code := word (d 3),
    csize := bits (d 4) 31 0, cload := bits (d 4) 63 32, const := word (d 5), place := word (d 6), entry := bits (d 7) 31 0,
    arg := bits (d 7) 63 32, tasks := tasks, written := 0, keep := bitAt (headDw c) 15, gang := gang, targets := placeEntries c,
    cores := participants s p c, filled := [], left := tasks, entries := placeEntries c, fills := [], words := (encode c.instr).map (·.toNat),
    dead := false, done := false, failed := false, byCore := core, byCmd := c.num, started := c.started, scene := none }

/-- A LAUNCH of the partition that started before this one is still under check. -/
def earlierCheck (s : State) (p : Nat) (c : Cmd) : Bool :=
  s.cores.any fun k => s.partOf k.1 == some p && k.2.running.any fun x =>
    isLaunch x.instr && x.started < c.started && launchStage x < 4 && x.phase != 2 && x.phase != 6

/-- The launch is recorded: it takes the next LSEQ, in start order (R320). -/
def recordLaunch (s : State) (core p : Nat) (c : Cmd) : State :=
  let q := nextLseq (s.part p).lseq
  let l := makeLaunch s core p c q
  let (lid, s) := s.new
  let s := s.modPart p fun x => { x with lseq := q }
  let s := { s with launches := s.launches.put lid l }
  let s := recordCheckpoint s p lid l.id (l.mode == 1)
  setCmd s core { c with phase := 1, xlat := [], acc := 4 :: c.acc.drop 1 }

/-- Incomplete launches of a die, and of a partition. -/
def openLaunches (s : State) (ok : Launch → Bool) : Nat := (s.launches.filter fun x => !x.2.done && ok x.2).length

/-- The die and the partition have room (R354), and the package accepts launches (R446, R450). -/
def launchRoom (s : State) (core p : Nat) : Bool :=
  openLaunches s (fun l => l.die == dieOf core) < 256 && openLaunches s (fun l => l.part == p) < partQuota (s.part p).cfg && !s.mgmt.failed && !s.mgmt.draining

/-- Another deferred LAUNCH of the partition that started earlier has room too. -/
def earlierDeferred (s : State) (p : Nat) (c : Cmd) : Bool :=
  s.cores.any fun k => s.partOf k.1 == some p && k.2.running.any fun x =>
    isLaunch x.instr && x.started < c.started && x.phase == 6 && launchRoom s k.1 p

/-- Acceptance: not before the LAUNCHes that started earlier, and only while there is room still. -/
def acceptLaunch (s : State) (core p : Nat) (c : Cmd) : State :=
  if earlierCheck s p c || earlierDeferred s p c then s
  else if launchRoom s core p then recordLaunch s core p c
  else setCmd s core { c with acc := 0 :: c.acc.drop 1 |>.take 9, phase := 6 }

/-- The next stage of the reads. -/
def nextStage (s : State) (core n : Nat) (c : Cmd) (more : List Nat) : State :=
  setCmd s core { c with acc := n :: c.acc.drop 1 ++ more, got := [], phase := 0 }

/-- The header's own checks, once there is room. What check 0x08 says of every core of the partition it says of the participating ones,
whatever the placement table names. -/
def checkHeader (s : State) (core p : Nat) (c : Cmd) : State :=
  match headerCode (hdrDw c) with
  | 0 =>
    if if fibreOf c then (partCores s p).any (tooSmall s c) else (partCores s p).all (tooSmall s c) then rejectLaunch s core p c 8
    else nextStage s core 1 c []
  | n => rejectLaunch s core p c n

/-- The check that the stage of a command calls for. -/
def checkStage (s : State) (core p : Nat) (c : Cmd) : State :=
  let failed := c.phase == 7
  match launchStage c with
  | 0 =>
    if failed then engineFault s core c (opAt c.ops 0) false
    else
      let c := { c with acc := 0 :: dwsAt c (opAt c.ops 0) 8 }
      if launchRoom s core p && !earlierDeferred s p c then checkHeader s core p c else setCmd s core { c with phase := 6 }
  | 1 =>
    if failed then rejectLaunch s core p c 9
    else
      let h := dwsAt c (hdrDw c 6) 8
      let h0 := h.headD 0 + bit (headBad c h) * 2 ^ 64
      if bitAt h0 13 && (partCores s p).any (tooSmall s c) then rejectLaunch s core p c 8
      else if countBad h0 || bitAt h0 64 && bitAt h0 13 then rejectLaunch s core p c 9
      else nextStage s core 2 c [h0]
  | 2 =>
    if failed then rejectLaunch s core p c 9
    else
      let es := (List.range (bits (headDw c) 12 0)).map fun i => ofBytes ((gotBytes c (hdrDw c 6 + 64 + 2 * i) 2).getD [])
      let c := { c with acc := c.acc ++ es }
      match placeCode s p c with
      | 0 => nextStage s core 3 c []
      | n => rejectLaunch s core p c n
  | 3 => if failed then rejectLaunch s core p c 10 else acceptLaunch s core p c
  | _ => s

/-- LAUNCH_HEADER_CHECK (R44): what the command has read is checked, stage by stage; the last stage accepts. -/
def execLaunchHeaderCheck (core num : Nat) (s : State) : Out :=
  match cmdAt s core num, s.partOf core with
  | some c, some p =>
    .next (if isLaunch c.instr && (c.phase == 7 && launchStage c < 4 || c.phase == 3 && c.out.isEmpty) then checkStage s core p c else s)
  | _, _ => .next s

/-- LAUNCH_DEFERRED (R354): the deferred LAUNCHes are checked in start order. -/
def execLaunchDeferred (core num : Nat) (s : State) : Out :=
  match cmdAt s core num, s.partOf core with
  | some c, some p =>
    .next (if isLaunch c.instr && c.phase == 6 && launchRoom s core p && !earlierDeferred s p c then checkHeader s core p c else s)
  | _, _ => .next s

/-! ## Fills (R45, R72, R74, R456) -/

/-- The command that a launch came from, while it runs. -/
def launchCmd (s : State) (l : Launch) : Option Cmd := (s.core l.byCore).running.find? fun c => c.num == l.byCmd

/-- A fill that cannot be read ends the new launch. -/
def fillFault (s : State) (lid : Nat) (l : Launch) (va : Nat) : State :=
  let idx := match launchCmd s l with | some c => c.idx | none => 0
  let dws := recordDws s l.byCore 0x48 1 va (tidWord 2 idx l.byCore) 0 l.id 3 l.words
  killLaunch (postRecord (freezeOutputs s l.part) (clusterOf l.byCore) ⟨true, dws⟩) lid

/-- What the tables say of a page, for a launch whose command has ended: its physical address and tag, a miss, a failure, a poisoned word,
or a line that the host owns. -/
inductive Walked
  | found (pa tag : Nat)
  | miss
  | fail
  | poison
  | held (line : Nat)
deriving DecidableEq, Repr

def walkPa (s : State) (core va : Nat) : Walked :=
  match s.partOf core, winOf va with
  | _, .clu o => if isLatent s (clusterOf core) o then .fail else .found (spadKey (clusterOf core) o) 0
  | some p, .shared =>
    let cfg := (s.part p).cfg
    let root := (s.part p).ptroot
    if !root.getLsbD 0 then .miss
    else
      match walkFrom s cfg va 4 (keep root 46 12) with
      | .leaf l e g =>
        let ent := leafEntry s (partAsid cfg) va l e g
        let pa := ownPa s (ent.pbase + (va - ent.vbase))
        if !bitAt ent.perm 1 then .miss
        else if badRangeP s .engRead pa || !hasTarget s core pa then .fail
        else .found pa (if bitAt ent.perm 2 then ent.perm / 8 + 1 else 0)
      | .pagemiss _ => .miss
      | .poison => .poison
      | .held l => .held l
      | .badpte _ _ | .keyrange _ => .fail
  | _, _ => .fail

/-- The pieces of a fill through the tables: all of them, or the first that is not found. -/
def walkAll (s : State) (core : Nat) : List (Nat × Nat × Bool) → Except (Walked × Nat) (List (Nat × Nat × Bool × Nat × Nat))
  | [] => .ok []
  | x :: l =>
    match walkPa s core x.1, walkAll s core l with
    | .found pa tag, .ok r => .ok ((x.1, x.2.1, x.2.2, pa, tag) :: r)
    | .found _ _, .error e => .error e
    | e, _ => .error (e, x.1)

def fillReq (s : State) (core lid va pa n tag : Nat) (marked : Bool) : Nat × State :=
  let (id, s) := s.new
  let r : Req := { Req.blank core 0 [] va pa n (.fill lid) .buffered id with key := tag, marked := marked }
  (id, sendReq { s with reqs := s.reqs.put id r } id)

/-- The reads of a core's fill: address, bytes, whether marked (R412), physical address and tag. -/
def startFill (s : State) (core lid : Nat) (l : Launch) (pcs : List (Nat × Nat × Bool × Nat × Nat)) : State :=
  let b := ((List.range 4).find? fun b => ((s.core core).banks.find b).isNone).getD 0
  let s := s.modCore core fun k => { k with banks := k.banks.put b lid, codes := k.codes.put lid (l.cload, l.csize) }
  let (s, ids) := pcs.foldl (fun (x : State × List Nat) p =>
    let (id, s) := fillReq x.1 core lid p.1 p.2.2.2.1 p.2.1 p.2.2.2.2 p.2.2.1
    (s, x.2 ++ [id])) (s, [])
  s.modLaunch lid fun l => { l with fills := l.fills ++ [(core, ids)] }

/-- A core's fill begins: its pages are translated through the command, or through the tables when the command has ended; then a page
that misses is looked up again at the next event (DESIGN CHOICE, log 94: no command is left whose identifier a record could give). -/
def beginFill (s : State) (core lid : Nat) (l : Launch) : State :=
  let cp := segPieces [(l.const.toNat, 8 * l.ncon)]
  let kp := segPieces [(l.code.toNat, l.csize)]
  let all := cp.map (fun x => (x.1, x.2, false)) ++ kp.map fun x => (x.1, x.2, true)
  match launchCmd s l with
  | some c =>
    if c.phase == 7 then fillFault s lid l (c.token * 4096)
    else if c.miss.isSome then s
    else
      match xlateAll s l.byCore false (cp ++ kp) c with
      | .fail va => fillFault s lid l va
      | .miss c p => setCmd s l.byCore { c with miss := some (p, 3) }
      | .done c =>
        startFill (setCmd s l.byCore c) core lid l (all.map fun x =>
          let y := cmdPa l.byCore c false x.1
          (x.1, x.2.1, x.2.2, y.1, y.2))
  | none =>
    match walkAll s l.byCore all with
    | .ok pcs => startFill s core lid l pcs
    | .error (.fail, va) => fillFault s lid l va
    | .error (.poison, _) => killLaunch s lid
    | .error (.held n, _) => askHost s n
    | .error _ => s

/-- Every read of a fill has been answered: the bank and the code region receive their bytes. -/
def finishFill (s : State) (core lid : Nat) (l : Launch) (ids : List Nat) : State :=
  let rs := ids.filterMap s.reqs.find
  if rs.any (·.poison) then killLaunch s lid
  else
    let b := match (s.core core).banks.find? fun b => b.2 == lid with | some b => b.1 | none => 5
    let bytes := rs.flatMap fun r => (valBytes r.val r.n).zipIdx.map fun x => (r.va + x.2, x.1, r.marked)
    let const := bytes.filterMap fun x => if x.2.2 then none else some (bankKey core b (x.1 - l.const.toNat), x.2.1)
    let code := bytes.filterMap fun x => if x.2.2 then some (tcmKey core (l.cload + (x.1 - l.code.toNat)), x.2.1) else none
    let zero := (List.range (1408 - 8 * l.ncon)).map fun i => (bankKey core b (8 * l.ncon + i), (0 : Byte))
    let p := (code ++ const).foldl (fun p x => cleanByte p x.1) s.poison
    let s := { s with mem := memPutAll s.mem (zero ++ const ++ code), poison := p }
    let s := ids.foldl State.dropReq s
    s.modLaunch lid fun l => { l with filled := core :: l.filled, fills := l.fills.filter fun x => x.1 != core }

/-- LAUNCH_FILL: a participating core's bank and code. -/
def execLaunchFill (core lid : Nat) (s : State) : Out :=
  match s.launches.find lid with
  | none => .next s
  | some l =>
    if l.dead || l.done || l.filled.contains core || !l.cores.contains core then .next s
    else
      match l.fills.find? fun x => x.1 == core with
      | some (_, ids) => .next (if ids.all (arrivedReq s) then finishFill s core lid l ids else s)
      | none => .next (if fillOpen s core l then beginFill s core lid l else s)

/-! ## Completion (R46) -/

/-- A fibre of the launch is in a run queue, an arrival queue, a spill area, or the mesh. -/
def fibresLeft (s : State) (lid : Nat) : Bool :=
  let mine := fun t : Thr => t.lid == some lid
  (s.cores.any fun k => k.2.rq.any (fun e => mine e.2.t) || k.2.arrivals.any (fun a => mine a.t) || k.2.spill.any fun a => mine a.t) ||
  (s.msgs.any fun m => match m.2.body with
    | .fibre a | .hop a => mine a.t
    | .seek h => mine h.a.t
    | _ => false) ||
  s.sliceTab.any fun p => p.2.hops.any fun h => mine h.a.t

/-- LAUNCH_COMPLETE: its banks and code regions are free again, and its LAUNCH command has its token. -/
def execLaunchComplete (lid : Nat) (s : State) : Out :=
  match s.launches.find lid with
  | none => .next s
  | some l =>
    if l.done || l.written < l.tasks || l.left != 0 || fibresLeft s lid then .next s
    else
      let s := s.modLaunch lid fun l => { l with done := true }
      let s := { s with cores := s.cores.map fun (k : Nat × Core) =>
        (k.1, { k.2 with banks := k.2.banks.filter fun b => b.2 != lid, codes := k.2.codes.filter fun x => x.1 != lid }) }
      let s := { s with reqs := s.reqs.filter fun r => !(r.2.stage == .replied && r.2.kind == .fill lid) }
      let s := remember s l.die (l.started, l.id, l.part, l.lseq, 0)
      let s := recordDone s l.part lid
      .next (s.modCore l.byCore fun k => { k with running := k.running.map fun c =>
        if c.num == l.byCmd then { c with phase := 2, token := l.lseq * 2 ^ 32 } else c })

end Sys2Proof.Machine
end

