-- ==== Sys2Proof/Machine/Context.lean ====
section
/-!
DEFINITION. Saving and restoring wave slots: CONTEXT_SAVE_COMPLETE, SLOT_RESTORE, SLOT_LEND, DEBUG_HALTREQ, the writes of CTXSYNC, PREEMPT,
and WAYCFG (13 R369-R371; 14 R390-R395).
-/
namespace Sys2Proof.Machine

/-! ## Saving a slot (R391-R393) -/

/-- What a wave's image keeps of its suspension: a wait that its rule lets be reissued is given up, with REISSUE; a WAITLINE and a
SEMW have moved their pc on and go back to it, and the whole bundle raises its flags again (R130, R194, R393). A VACCRD or VACCWR that issues
again waits for what its context then holds (R260). -/
def imageWait (w : Wave) : Wave × Bool :=
  let again := fun (pc : Word) => ({ w with pc := pc, owed := none, t := { w.t with wait := .none } }, true)
  let anew := ({ w with owed := none, t := { w.t with wait := .none, latch := [] } }, true)
  match w.t.wait with
  | .waitline _ _ _ _ _ | .semw _ _ _ _ => again (w.pc - 8)
  | .accumulator _ _ => anew
  | .token _ => again w.pc
  | .none => if w.t.latch == [0] then again w.pc else if w.t.latch.length == 2 then anew else (w, false)
  | .block _ | .miss _ _ => (w, true)
  | _ => (w, false)

/-- The request that such a wave leaves behind. -/
def leftBehind (w : Wave) : List Nat :=
  match w.t.wait with
  | .waitline _ _ _ _ (some id) => [id]
  | _ => []

/-- Images on chip beyond the cache's 56: the oldest leaves to the area (R391). -/
def trimCache (s : State) (k : Nat) : State :=
  match (s.cluster k).saved.filter fun x => x.onChip with
  | old :: rest =>
    if rest.length < 56 then s
    else
      (writeImage s old).modCluster k fun q => { q with saved := q.saved.map fun y =>
        if y.core == old.core && y.slot == old.slot then { y with onChip := false } else y }
  | [] => s

/-- A PREEMPT for this core, with its slot mask. -/
def preemptOf (core : Nat) (c : Cmd) : Option Nat :=
  match c.instr with | .preempt _ t slots => if t.toNat == core then some slots.toNat else none | _ => none

/-- The PREEMPT that waits for this thread's save learns of it, whatever becomes of the slot: `acc` as in `progressPreempt`. -/
def tellPreempt (s : State) (core slot uid : Nat) : State :=
  let tell := fun c : Cmd => match preemptOf core c, c.acc with
    | some _, [saved, skipped, k, u, m] => if k == slot && u == uid then { c with acc := [saved + 2 ^ k, skipped, k + 1, 0, m] } else c
    | _, _ => c
  { s with cores := s.cores.map fun x => (x.1, { x.2 with running := x.2.running.map tell }) }

/-- CONTEXT_SAVE_COMPLETE: the slot's image is in the context cache and the slot is vacant. A slot is not saved between an operation and
the completion of its bundle, while a matrix command of it is in progress, or while it is arrived at a rig (R369); a single step halts only
where it would next issue (R395). -/
def execContextSaveComplete (core slot : Nat) (s : State) : Out :=
  match (s.core core).slots.find slot with
  | none => .next s
  | some w =>
    let busy : Bool := match w.t.wait with | .matrix _ => true | x => w.saving == 4 && x != .none
    let reason := if w.saving == 4 then 3 else w.saving
    if w.saving == 0 || busy then .next s
    else
      let k := clusterOf core
      let gone := leftBehind w
      let (v, again) := imageWait w
      let x : Saved := { core := core, slot := slot, wave := { v with saving := 0, released := false }, reason := reason, onChip := true, reissue := again,
                          bar := barBits w }
      let s := { s with reqs := s.reqs.filter fun r => !gone.contains r.1, watchers := s.watchers.del w.t.uid }
      let s := s.modCore core fun c => { c with slots := c.slots.del slot }
      let s := tellPreempt (trimCache (s.modCluster k fun q => { q with saved := q.saved ++ [x] }) k) core slot w.t.uid
      if reason == 3 then
        let l := w.t.lid.bind fun i => s.launches.find i
        .next (postRecord s k ⟨false, recordDws s core 0x60 2 3 (tidWord 0 slot core) 0 (match l with | some l => l.id | none => 0) 0 [v.pc.toNat]⟩)
      else .next s

/-! ## Restoring, lending, halting -/

/-- The wave of an image as it resumes (R392): with REISSUE it issues the bundle at pc again whole, without it as its next bundle. -/
def resumed (s : State) (x : Saved) : Wave :=
  let w := savedWave s x
  if savedReissue s x then { w with passes := 0, passGot := [] } else w

/-- SLOT_RESTORE (R370): into the same vacant slot, unless the core is held or a record that it could start outranks the thread. An image that
lies in the area only is read there, once the host does not own its lines (R391, R425). A trap that its last bundle owes is taken now, if
nothing else is awaited (R130). -/
def execSlotRestore (core slot : Nat) (s : State) : Out :=
  match (s.cluster (clusterOf core)).saved.find? fun x => x.core == core && x.slot == slot with
  | none => .next s
  | some x =>
    let k := s.core core
    let barred := match k.stealHeld with | some m => bitAt m slot | none => false
    let outranked := (startable s core).any fun t => effOf s x.wave.t < t.prio
    if (k.slots.find slot).isSome || barred || k.hold || !restorable s x || outranked then .next s
    else
      .next (devRead s (imageAddr s core slot) (if x.onChip then 0 else 0x2400) fun s =>
        let w := resumed s x
        let s := s.modCluster (clusterOf core) fun q => { q with saved := q.saved.filter fun y => !(y.core == core && y.slot == slot) }
        let s := s.modCore core fun k => { k with slots := k.slots.put slot w }
        if w.t.wait == .none then payOwed s core w.t.uid else s)

/-- A page of the thread's cluster whose fault has been recorded, or waits to be (Table 14.9). -/
def faulted (s : State) (core page : Nat) : Bool :=
  (s.cluster (clusterOf core)).misses.any fun m => m.page == page && some m.asid == s.asidOf core && m.st != .walk

/-- SLOT_LEND (R390). -/
def execSlotLend (core slot : Nat) (s : State) : Out :=
  match (s.core core).slots.find slot with
  | none => .next s
  | some w =>
    match w.t.wait with
    | .miss pages _ =>
      if bitAt (s.cluster (clusterOf core)).faultcfg 0 && w.saving == 0 && !hasImage s core slot && pages.any (faulted s core) then
        .next (s.modCore core fun k => { k with slots := k.slots.put slot { w with saving := 2 } })
      else .next s
    | _ => .next s

/-- Ask for a slot's save. -/
def askSave (s : State) (core slot : Nat) (w : Wave) (reason : Nat) : State :=
  rigWaits (s.modCore core fun k => { k with slots := k.slots.put slot { w with saving := reason } }) core w.t.uid

/-- DEBUG_HALTREQ (R395): a written HALTREQ bit acts on a user slot without an image. -/
def execDebugHaltreq (core slot : Nat) (s : State) : Out :=
  if !bitAt (s.core core).haltReq slot then .next s
  else
    let s := s.modCore core fun k => { k with haltReq := k.haltReq &&& (255 - 2 ^ slot) }
    match (s.core core).slots.find slot with
    | some w => .next (if w.t.sup || w.saving % 4 != 0 || hasImage s core slot then s else askSave s core slot w 3)
    | none => .next s

/-! ## CTXSYNC (R394) -/

/-- Threads of the cluster's cores that wait for their write of CTXSYNC: core, uid, value. -/
def syncers (s : State) (k : Nat) : List (Nat × Nat × Word) :=
  ((List.range 16).map (16 * k + ·) ++ [6144 + k]).flatMap fun c =>
    ((wavesOf s c).map (·.t) ++ (s.core c).rq.map fun x => x.2.t).filterMap fun t => match t.wait with
      | .sysop 0x110 v => some (c, t.uid, v)
      | _ => none

/-- CTXSYNC_WRITEBACK: with WB, every on-chip image is written to its place; a write with DROP then goes on to CTXSYNC_DROP. -/
def execCtxsyncWriteback (k : Nat) (s : State) : Out :=
  match (syncers s k).find? fun x => x.2.2 != 4#64 with
  | none => .next s
  | some (core, uid, v) =>
    let s := if v.getLsbD 0 then ((s.cluster k).saved.filter fun x => x.onChip).foldl writeImage s else s
    if v.getLsbD 0 && v.getLsbD 1 then .next (s.modThr core uid fun t => { t with wait := .sysop 0x110 4 })
    else .next (s.resume core uid)

/-- CTXSYNC_DROP: the on-chip copies go, and the area stands; what they have taken since it was written is written first. -/
def execCtxsyncDrop (k : Nat) (s : State) : Out :=
  match (syncers s k).find? fun x => x.2.2 == 4#64 with
  | none => .next s
  | some (core, uid, _) =>
    let s := ((s.cluster k).saved.filter fun x => x.onChip).foldl writeImage s
    let s := s.modCluster k fun q => { q with saved := q.saved.map fun x => { x with onChip := false } }
    .next (s.resume core uid)

/-! ## PREEMPT (R369) -/

def execPreempt (h : CmdHdr) (core : BitVec 13) (slots : BitVec 8) (s : State) : Out :=
  issueCommand (.preempt h core slots) s

/-- The slots of the core that running PREEMPTs name that started before this one. -/
def preemptsBefore (s : State) (core started : Nat) : Nat :=
  ((s.cores.flatMap fun x => x.2.running.filter fun c => c.started < started).filterMap (preemptOf core)).foldl (· ||| ·) 0

/-- One slot of a running PREEMPT: `acc` holds the saved mask, the skipped mask, the next slot, the thread that is being saved, and the slots
that earlier PREEMPTs name, which this one skips. -/
def progressPreempt (s : State) (by_ : Nat) (c : Cmd) (core slots : Nat) : State :=
  let put := fun x : List Nat => setCmd s by_ { c with acc := x }
  match c.acc with
  | [saved, skipped, k, uid, m] =>
    let skip := put [saved, skipped + 2 ^ k, k + 1, 0, m]
    if 8 ≤ k then setCmd s by_ { c with phase := 2, token := saved + skipped * 256 }
    else if !bitAt slots k then put [saved, skipped, k + 1, 0, m]
    else if uid != 0 then (if (slotOfUid (s.core core) uid).isNone then skip else s)
    else if bitAt m k then skip
    else
      match (s.core core).slots.find k with
      | some w =>
        if w.t.sup || w.saving % 4 != 0 || hasImage s core k then skip
        else askSave (put [saved, skipped, k, w.t.uid, m]) core k w (if w.saving == 4 then 3 else 1)
      | none => skip
  | _ => put [0, 0, 0, 0, preemptsBefore s core c.started]

/-! ## WAYCFG (R371) -/

def execWaycfg (h : CmdHdr) (slice : BitVec 9) (ways : BitVec 12) (mode : Bool) (s : State) : Out :=
  issueCommand (.waycfg h slice ways mode) s

/-- The address of way w of slice p (R64). -/
def wayBase (p w : Nat) : Nat := 0x010000000000 + p * 0x400000 + w * 0x40000

/-- The bytes of a way are zero. -/
def clearWay (s : State) (p w : Nat) : State :=
  let a := wayBase p w
  let out := fun n : Nat => n < a || a + 0x40000 ≤ n
  { s with mem := s.mem.filter fun c => out c.1
           poison := s.poison.filter fun x => out (8 * x.1)
           marks := s.marks.filter fun x => out x.1 }

/-- Lines that leave the home ways when a set has room for n of them. -/
def overflow (s : State) (p n : Nat) : List Nat :=
  let home := (s.slice p).home
  home.filter fun l => n < (home.dropWhile (· != l)).countP fun x => lineSet x == lineSet l

/-- A reservation, an engine's take or an MCAS's hold covers a line. -/
def covered (s : State) (line : Nat) : Bool := ((s.fifos.find line).getD []) != []

/-- Give way w of slice p the role of slice scratch, or of cache. -/
def changeWay (s : State) (p w : Nat) (scratch : Bool) : State :=
  let old := sliceScratch s p
  let lost := if scratch then
      let t : State := { s with waysScratch := s.waysScratch.put p (old ||| 2 ^ w) }
      overflow s p (homeWays t p)
    else []
  let new := if scratch then old ||| 2 ^ w else old &&& (4095 - 2 ^ w)
  let s := clearWay { s with waysScratch := if new = 0 then s.waysScratch.del p else s.waysScratch.put p new } p w
  let s := lost.foldl (fun s l => { s with dirty := s.dirty.del l }) s
  let s := s.modSlice p fun q => { q with home := q.home.filter fun l => !lost.contains l }
  { s with visitors := s.visitors.filter fun v => !(v.1 == p / 48 && sliceOf (64 * v.2.line) % 48 == p % 48) }

/-- One way of a running WAYCFG: `acc` holds the changing ways and the next one. -/
def progressWaycfg (s : State) (core : Nat) (c : Cmd) (p ways : Nat) (mode : Bool) : State :=
  let put := fun (s : State) (c : Cmd) => setCmd s core c
  let changing := fun (s : State) (n : Nat) => { s with waysChanging := if n = 0 then s.waysChanging.del p else s.waysChanging.put p n }
  match c.acc with
  | [chg, w] =>
    if 12 ≤ w then put s { c with phase := 2, token := chg }
    else if !bitAt chg w then put s { c with acc := [chg, w + 1] }
    else if bitAt (sliceDisabled s p) w then put (changing s 0) { c with acc := [chg - 2 ^ w, w + 1] }
    else
      let old := sliceScratch s p
      let n := homeWays { s with waysScratch := s.waysScratch.put p (old ||| 2 ^ w) } p
      let a := wayBase p w / 64
      let held := if mode then (overflow s p n).any (covered s)
        else s.fifos.any fun f => a ≤ f.1 && f.1 < a + 4096 && f.2 != []
      if held then changing s (2 ^ w) else put (changing (changeWay s p w mode) 0) { c with acc := [chg, w + 1] }
  | _ =>
    let dis := sliceDisabled s p
    let cur := sliceScratch s p
    let chg := bits (ways &&& (4095 - dis % 4096) &&& (cur ^^^ (if mode then 4095 else 0))) 11 0
    if mode && 12 < countBits dis 12 + countBits (cur ||| chg) 12 + 4 then put s { c with phase := 2, token := 0x10000 }
    else put s { c with acc := [chg, 0] }

end Sys2Proof.Machine
end

