-- ==== Sys2Proof/Machine/Commands.lean ====
section
/-!
DEFINITION. The events of a command's life: COMMAND_START, COMMAND_LINE_TAKE, COMMAND_COMPLETE (10 R298-R302). COMMAND_LINE_TAKE is one
stretch of a running command's work: its translations, its reads, the takes of its lines, its writes.
-/
namespace Sys2Proof.Machine

/-- What a command does as it starts. -/
def beginCmd (s : State) (core : Nat) (c : Cmd) : State :=
  match c.instr with
  | .semop _ t q v => sendSem s core c t.toNat q.toNat false v.toNat
  | .semset _ t q v => sendSem s core c t.toNat q.toNat true v.toNat
  | .launch _ _ => setCmd s core { c with acc := [0] }
  | _ => s

/-- The frame clock has reached the time that an FCLK waits for (R324). -/
def clockDue (s : State) (c : Cmd) : Bool := match c.instr with | .fclk _ _ => opAt c.ops 0 ≤ s.nanos | _ => false

/-- An FCLK whose time has come completes on that clk. -/
def clockCmd (s : State) (core : Nat) (c : Cmd) : State := if clockDue s c then completeCmd s core c s.nanos else s

/-- COMMAND_START: of the queued commands that may start, the one issued first, while a running number is free. The signal of an FCLK that
completes as it starts is counted on that clk. -/
def execCommandStart (core : Nat) (s : State) : Out :=
  let k := s.core core
  match (k.cmdq.filter (mayStart s core)).foldl (fun (a : Option Cmd) c => match a with
      | some x => if c.num < x.num then some c else a
      | none => some c) none, freeNum k with
  | some c, some i =>
    let (n, s) := s.new
    let (s, c) := acquireCmd s core { c with running := true, idx := i, started := n }
    let s := s.modCore core fun k => { k with cmdq := k.cmdq.filter (fun x => x.num != c.num), running := k.running ++ [c] }
    .next (match c.instr with
      | .fclk _ _ =>
        let t := clockCmd s core c
        if c.hdr.se && clockDue s c then semChanges t core c.hdr.ssem.toNat else t
      | _ => beginCmd s core c)
  | _, _ => .next s

/-- A stretch of work. -/
def workCmd (s : State) (core : Nat) (c : Cmd) : State :=
  match c.instr with
  | .cpyg _ _ _ count gsz => progressGather s core c count.toNat (8 * 2 ^ gsz.toNat)
  | .pref2 h _ len => progressPref s core c (opAt c.ops 0) len.toNat h.x0
  | .flush h _ len => progressFlush s core c (opAt c.ops 0) len.toNat h.x0
  | .mcas _ _ count o => progressMcas s core c count.toNat o
  | .rmmak .. | .rmman .. => if c.phase == 1 then moveBytes s core c else s
  | .semop .. | .semset .. => s
  | .launch _ _ => progressLaunch s core c
  | .spawnt _ _ => progressSpawnt s core c
  | .lstat _ id => answerLstat s core c id.toNat
  | .fpost _ _ bytes fnum out => progressFpost s core c bytes.toNat fnum.toNat out.toNat
  | .fclk _ _ => s
  | .sceneb _ _ => progressSceneb s core c
  | .waycfg _ p ways mode => progressWaycfg s core c p.toNat ways.toNat mode
  | .preempt _ t slots => progressPreempt s core c t.toNat slots.toNat
  | .mma .. | .mmax .. | .mzero .. => s
  | _ => progressMove s core c

/-- COMMAND_LINE_TAKE: not while a translation of the command is missing, nor once its writes have performed. -/
def execCommandLineTake (core num : Nat) (s : State) : Out :=
  match cmdAt s core num with
  | none => .next s
  | some c => .next (if c.miss.isSome || c.phase == 2 then s else workCmd s core c)

/-- The command has done all its work; a SEMOP or SEMSET has it on the clk after its change (R318). -/
def workDone (s : State) (c : Cmd) : Bool :=
  c.phase == 2 && match c.instr with | .semop .. | .semset .. => c.acc.headD 0 < s.clk | _ => true

/-- A command whose clk of completion the spec fixes completes on this one. -/
def completesNow (s : State) (c : Cmd) : Bool :=
  match c.instr with
  | .semop .. | .semset .. => workDone s c
  | _ => clockDue s c

/-- COMMAND_COMPLETE (R302, R318, R324); a matrix command ends with its step. -/
def execCommandComplete (core num : Nat) (s : State) : Out :=
  match cmdAt s core num with
  | none => .next s
  | some c => .next (match c.instr with
    | .fclk _ _ => clockCmd s core c
    | _ => if workDone s c && (cmdCtx c.instr).isNone then completeCmd s core c c.token else s)

end Sys2Proof.Machine
end

