-- ==== Sys2Proof/Machine/Control.lean ====
section
/-!
DEFINITION. Meanings of control transfer, user traps and QWIDTH (06 R186-R188, R192, R203, R204).
-/
namespace Sys2Proof.Machine

/-- The bundle's target is `pc`; the fetch there is checked when the thread next issues (R187). -/
def jumpTo (s : State) (pc : Word) : State := s.modIssue fun c => { c with next := pc }

/-- NOP (R186). -/
def execNop (s : State) : Out := start .nop s fun _ s => retire s

/-- VNOP: the empty vector slot (R146). -/
def execVnop (s : State) : Out := start .vnop s fun _ s => retire s

/-- Table 5.13: a signed test of sa against zero. -/
def bcond (c : BCond) (x : Word) : Bool :=
  let v := x.toInt
  match c with
  | .z => v == 0 | .nz => v != 0 | .lt => v < 0 | .ge => 0 ≤ v | .gt => 0 < v | .le => v ≤ 0

/-- BC (R186). -/
def execBc (sa : BitVec 6) (cd : BCond) (imm : BitVec 32) (s : State) : Out :=
  start (.bc sa cd imm) s fun c s => retire (if bcond cd (c.reg sa.toNat) then jumpTo s (c.pc + sext32 imm) else s)

/-- JMP (R186). -/
def execJmp (imm : BitVec 32) (s : State) : Out :=
  start (.jmp imm) s fun c s => retire (jumpTo s (c.pc + sext32 imm))

/-- JMPI (R186). -/
def execJmpi (sa : BitVec 6) (b : BitVec 8) (s : State) : Out :=
  start (.jmpi sa b) s fun c s => retire (jumpTo s (c.reg sa.toNat + selVal s c b))

/-- CALL (R186): the link is PC + 8. -/
def execCall (sd : BitVec 6) (imm : BitVec 32) (s : State) : Out :=
  start (.call sd imm) s fun c s => retire (jumpTo (s.setReg c sd.toNat (c.pc + 8)) (c.pc + sext32 imm))

/-- CALLI (R186): the target is read before the link is written. -/
def execCalli (sd sa : BitVec 6) (b : BitVec 8) (s : State) : Out :=
  start (.calli sd sa b) s fun c s =>
    retire (jumpTo (s.setReg c sd.toNat (c.pc + 8)) (c.reg sa.toNat + selVal s c b))

/-- RET (R186). -/
def execRet (sa : BitVec 6) (s : State) : Out :=
  start (.ret sa) s fun c s => retire (jumpTo s (c.reg sa.toNat))

/-- TRAP (R203): the bundle completes and takes USER with the code, TRAPPC naming PC + 8. -/
def execTrap (code : BitVec 16) (s : State) : Out :=
  start (.trap code) s fun c s => takeTrap (countEvent s c.core 1) c ⟨6, c.pc + 8, 0, code.toNat, 0, false⟩

/-- BRK (R203): BREAK with TRAPPC naming itself, or a halt when the debugger has set BRKHALT for the slot (R395). -/
def execBrk (s : State) : Out :=
  start .brk s fun c s =>
    if c.entry.isNone && !c.sup && bitAt (s.core c.core).dbgctl c.slot && !hasImage s c.core c.slot then
      (s.modIssWave c fun w => { w with saving := 3 }).closeIssue
    else takeTrap s c (Trap.simple 5 c.pc)

/-- TRET (R204): pc := TRAPPC and ACTIVE := 0; with ACTIVE zero, and in a fibre, it is ILLEGAL (`illegalNow`). -/
def execTret (s : State) : Out :=
  start .tret s fun c s => stepHalt ((countEvent s c.core 1).modIssWave c trapReturn).closeIssue c

/-- QWIDTH (R192): level field k of the WID in sa, by the widths of c181. -/
def execQwidth (sd sa : BitVec 6) (b : BitVec 8) (s : State) : Out :=
  scalarOp (.qwidth sd sa b) sd s fun c s =>
    let k := (selVal s c b).toNat
    if 5 < k then 0
    else
      let w := constWord s c.core (s.issThr c) 181
      let base := ((List.range k).map fun j => widthField w j).foldl (· + ·) 0
      word (((c.reg sa.toNat).toNat >>> base) % 2 ^ widthField w k)

end Sys2Proof.Machine
end

