-- ==== Sys2Proof/Machine/Directory.lean ====
section
/-!
DEFINITION. The treelet directory and the paging engine: DIRECTORY_HOP, PAGING_COMPLETE, EVICTION_REPORT, DIRECTORY_WINDOW_EXPIRY
(09 R264, R267, R280-R284; 15 R418-R422).
-/
namespace Sys2Proof.Machine

/-! ## A core's treelet store (R280) -/

def freeUnits (k : Core) : List Nat :=
  ((List.range (treeUnits k.lsplit)).map (privUnits k.lsplit + ·)).filter fun u => k.treelets.all fun t => !t.units.contains u

/-- A walk on the treelet is in progress on the core, or a pinned fibre names it there (R280). -/
def treeletUsed (s : State) (core : Nat) (t : Treelet) : Bool :=
  (s.core core).rq.any fun x =>
    s.partOf core == some t.part && tbaseOf s x.2.t == some t.tbase &&
    (x.2.t.walkOn == some t.id || x.2.fib.pin && memGet s.mem (saveAddr s core x.1) 8 % 2 ^ 24 == t.id)

/-- Treelets that may be evicted, the least recently walked first, ties to the lowest id (R419). -/
def evictables (s : State) (core : Nat) : List Treelet :=
  ((s.core core).treelets.filter fun t => t.ready && !treeletUsed s core t).mergeSort fun a b =>
    a.used < b.used || (a.used == b.used && a.id ≤ b.id)

/-- A core evicts its copy: it is no owner from now on, and the report goes to the directory slice (R420). -/
def evictAt (s : State) (core : Nat) (t : Treelet) : State :=
  let s := modEntry s t.part t.tbase t.id fun e =>
    { e.without core with evicting := e.evicting ++ [core] }
  let s := s.modCore core fun k => { k with treelets := k.treelets.filter fun x => !(x.part == t.part && x.tbase == t.tbase && x.id == t.id) }
  sendMsg s .system (.core core) (dirNode t.id) 0 (.evicted t.part t.tbase t.id core)

/-- Evict until so many units are free. -/
def makeRoom (s : State) (core n : Nat) : State :=
  (evictables s core).foldl (fun s t => if (freeUnits (s.core core)).length < n then evictAt s core t else s) s

/-! ## The choice of an owner (R419) -/

def candidates (s : State) (p n start : Nat) (owners : List Nat) : List Nat :=
  ((List.range 6144).map fun i => (start + i) % 6144).filter fun c =>
    s.partOf c == some p && !(s.core c).fenced && !(s.core c).hold && n ≤ treeUnits (s.core c).lsplit && !owners.contains c

def chooseOwner (s : State) (p b i n : Nat) (owners : List Nat) : Option Nat :=
  let l := candidates s p n (hash32 i (b % 2 ^ 32) % 6144) owners
  match l.find? fun c => n ≤ (freeUnits (s.core c)).length with
  | some c => some c
  | none => l.find? fun c => n ≤ (freeUnits (s.core c)).length + ((evictables s c).map fun t => t.units.length).sum

/-! ## Paging (R264) -/

inductive PageRes
  | ok (pa tag : Nat)
  | miss (page : Nat)
  | bad (va : Nat)
deriving DecidableEq, Repr

/-- The translation of an address of an image through the TLB of a core's cluster. -/
def imagePa (s : State) (core va : Nat) (user : Bool) : PageRes :=
  match winOf va with
  | .shared =>
    match clusterLook s core va false user with
    | none => .miss (va / 4096)
    | some e =>
      let pa := ownPa s (e.pbase + (va - e.vbase))
      if badRangeP s .engRead pa || !hasTarget s core pa then .bad va
      else .ok pa (if bitAt e.perm 2 then e.perm / 8 + 1 else 0)
  | _ => .bad va

/-- What an image needs: SIZE, and the address and tag of each of its pages. -/
inductive ImageRes
  | ok (size : Nat) (pages : List (Nat × Nat))
  | miss (page : Nat)
  | bad (va : Nat)
  | invalid
  /-- the host owns a line of the header (R425) -/
  | held (line : Nat)

def imagePages (s : State) (core va n : Nat) (user : Bool) : ImageRes → Nat → ImageRes
  | .ok size l, i =>
    if n ≤ 4096 * i then .ok size l
    else match imagePa s core (va + 4096 * i) user with
      | .ok pa tag => .ok size (l ++ [(pa, tag)])
      | .miss p => .miss p
      | .bad v => .bad v
  | r, _ => r

/-- The header of the treelet with this id is valid (R267). -/
def headerOk (id : Nat) (m : List Byte) : Bool := let h := headerOf m; h.ok && h.id == id

def imageLook (s : State) (core va id : Nat) (user : Bool) : ImageRes :=
  match imagePa s core va user with
  | .miss p => .miss p
  | .bad v => .bad v
  | .ok pa tag =>
    match devHeld s pa 128 with
    | some l => .held l
    | none =>
    let h := memBytes (retag (retag s (lineOf pa) tag) (lineOf pa + 1) tag).mem pa 128
    if !headerOk id h then .invalid
    else
      let size := (headerOf h).size
      (List.range 8).foldl (imagePages s core va (128 * size) user) (.ok size [])

/-- Units of 16 KiB that an image occupies. -/
def unitsOf (size : Nat) : Nat := ceilDiv (128 * size) 0x4000

/-- Start the copy into a core's store: its lines are read at their homes, with the multicast mark (R412). -/
def startPaging (s : State) (core p b i size : Nat) (pages : List (Nat × Nat)) : State :=
  let n := unitsOf size
  let s := makeRoom s core n
  let (s, ids) := (List.range (2 * size)).foldl (fun (x : State × List Nat) l =>
    let (pa, tag) := pages.getD (l / 64) (0, 0)
    let (id, s) := x.1.new
    let r : Req := { Req.blank core 0 [] (b + i * 0x8000 + 64 * l) (pa + 64 * (l % 64)) 64 (.paging i) .buffered id with key := tag, marked := true }
    (sendReq { s with reqs := s.reqs.put id r } id, x.2 ++ [id])) (s, [])
  s.modCore core fun k =>
    { k with treelets := k.treelets ++
        [{ part := p, tbase := b, id := i, units := (freeUnits k).take n, image := [], used := 0, ready := false, reqs := ids }] }

/-! ## HOPs at the directory (Table 9.12) -/

/-- Forward a fibre to an owner, or to the core that is paging; the owner set goes back to the sender (R282, R284). -/
def forwardHop (s : State) (h : HopMsg) (owners : List Nat) : State :=
  let dst := owners.getD (hash32 ((fibreGet h.a.fib 8).toNat % 2 ^ 32) h.id % owners.length) 0
  let (n, s) := s.new
  let s := modEntry s h.part h.tbase h.id fun e => { e with hops := e.hops + 1, last := n }
  let s := sendMsg s .fibre (dirNode h.id) (.core dst) 0 (.hop h.a)
  sendMsg s .system (dirNode h.id) (.core h.src) 0 (.owners h.tbase h.id owners)

/-- The resident treelet of a slice that was least recently hopped to, the lowest id of equals (R418). -/
def oldestHopped (dir : List DirEntry) : Option DirEntry :=
  (dir.filter fun e => !e.owners.isEmpty).foldl (fun (a : Option DirEntry) e => match a with
    | some x => if e.last < x.last || (e.last == x.last && e.id < x.id) then some e else a
    | none => some e) none

/-- Every owner of a treelet evicts its copy, as soon as nothing uses that (R280, R420). -/
def evictCopies (s : State) (e : DirEntry) : State :=
  e.owners.foldl (fun s c =>
    match (evictables s c).find? fun t => t.part == e.part && t.tbase == e.tbase && t.id == e.id with
    | some t => evictAt s c t
    | none => s) s

/-- The directory slice is full: the resident treelet that was least recently hopped to goes, and the message waits for that (R418). -/
def evictOldest (s : State) (p : Nat) (h : HopMsg) : State :=
  match h.evict with
  | some (part, b, i) => (match dirEntry s part b i with | some e => evictCopies s e | none => s)
  | none => match oldestHopped (s.slice p).dir with
    | some e => evictCopies (s.modSlice p fun q => { q with hops := q.hops.map fun x =>
        if x.a.t.uid == h.a.t.uid then { x with evict := some (e.part, e.tbase, e.id) } else x }) e
    | none => s

/-- A message whose treelet to be evicted is gone waits for none. -/
def HopMsg.refresh (dir : List DirEntry) (h : HopMsg) : HopMsg :=
  { h with evict := h.evict.filter fun k => dir.any fun e => e.isKey k.1 k.2.1 k.2.2 }

/-- The fibre's launch ends at the directory. The fibre holds no run-queue entry: its record names entry 0 of the core that it left (DESIGN
CHOICE, notes/assumptions/84.md). -/
def fatalHop (s : State) (h : HopMsg) (cause va : Nat) (detail : List Nat) : State :=
  fatal s h.src h.a.t (tidWord 1 0 h.src) cause va 7 detail

/-- A HOP for a Cold treelet: it is paged to a new owner. -/
def coldHop (s : State) (h : HopMsg) : Bool × State :=
  let va := h.tbase + h.id * 0x8000
  if 2048 ≤ (s.slice (dirSlice h.id)).dir.length then (false, evictOldest s (dirSlice h.id) h)
  else
    match imageLook s h.src va h.id (!h.a.t.sup) with
    | .miss page =>
      let k := clusterOf h.src
      (match s.asidOf h.src with
      | some asid =>
        if hasJoined (s.cluster k) h.src h.a.t.uid none page then (false, s)
        else (false, joinMiss (countEvent s h.src 5) k asid page
          { core := h.src, uid := h.a.t.uid, cmd := none, tid := tidWord 1 0 h.src, access := 7, user := !h.a.t.sup })
      | none => (true, s))
    | .bad v => (true, fatalHop s h 0x40 v [])
    | .held l => (false, askHost s l)
    | .invalid => (true, fatalHop s h 0x45 h.id (fibreDws h.a.fib))
    | .ok size pages =>
      match chooseOwner s h.part h.tbase h.id (unitsOf size) [] with
      | none => (false, s)
      | some c =>
        let s := s.modSlice (dirSlice h.id) fun q => { q with dir := q.dir ++
          [{ part := h.part, tbase := h.tbase, id := h.id, owners := [], paging := some c, evicting := [], losing := none, asked := none,
             hops := 0, last := 0 }] }
        (true, forwardHop (startPaging s c h.part h.tbase h.id size pages) h [c])

/-- One message: whether it has left the directory. A treelet without an owner is Evicting until each of its owners has reported, and holds
the message; a fibre of an ended launch is discarded (R39). -/
def hopOne (s : State) (h : HopMsg) : Bool × State :=
  if launchDead s h.a.t then (true, s)
  else
    match dirEntry s h.part h.tbase h.id with
    | none => coldHop s h
    | some e =>
      match e.owners, e.paging with
      | [], none => (false, s)
      | [], some c => if e.evicting.isEmpty then (true, forwardHop s h [c]) else (false, s)
      | l, _ => (true, forwardHop s h l)

/-- DIRECTORY_HOP: the first of the slice's messages that can go on. -/
def execDirectoryHop (p : Nat) (s : State) : Out :=
  let s := s.modSlice p fun q => { q with hops := q.hops.map (HopMsg.refresh q.dir) }
  .next ((s.slice p).hops.foldl (fun (x : Bool × State) h =>
    if x.1 then x
    else
      let (gone, s) := hopOne x.2 h
      (gone, if gone then s.modSlice p fun q => { q with hops := q.hops.erase h } else s)) (false, s)).2

/-! ## The end of a paging -/

/-- Fibres parked for a paging that is over become ready (R283). -/
def unpark (s : State) (core : Nat) : State :=
  (s.core core).rq.foldl (fun s x =>
    if x.2.t.wait == .parked && !topPaging s core { t := x.2.t, fib := x.2.fib } then s.resume core x.2.t.uid else s) s

/-- Every read of the image has arrived. -/
def finishPaging (s : State) (core : Nat) (t : Treelet) : State :=
  let rs := t.reqs.filterMap s.reqs.find
  let s := t.reqs.foldl State.dropReq s
  let isIt := fun x : Treelet => x.part == t.part && x.tbase == t.tbase && x.id == t.id
  let image := rs.flatMap fun r => (bytesOf 0 r.val 64).map (·.2)
  let users := (s.core core).rq.filter fun x => x.2.t.wait == .parked && fibTop x.2.fib == t.id && tbaseOf s x.2.t == some t.tbase
  match rs.find? fun r => r.noFill && r.data.isEmpty with
  | some r => users.foldl (fun s x => fatal s core x.2.t (tidWord 1 x.1 core) 0x40 r.va 7 [r.pa]) (evictAt s core t)
  | none =>
  if rs.any fun r => r.poison then users.foldl (fun s x => consumePoison s core x.2.t.uid) (evictAt s core t)
  else if !headerOk t.id image then
    users.foldl (fun s x => fatalFibre s core x.1 x.2 0x45 t.id 7) (evictAt s core t)
  else
    let (n, s) := s.new
    let f := fun x : Treelet => if isIt x then { x with image := image, ready := true, used := n, reqs := [] } else x
    let s := s.modCore core fun k => { k with treelets := k.treelets.map f }
    modEntry s t.part t.tbase t.id fun e => { e with owners := e.owners ++ [core], paging := none, last := if e.owners.isEmpty then n else e.last }

/-- PAGING_COMPLETE: copies that have arrived become resident, and fibres parked for them ready. -/
def execPagingComplete (core : Nat) (s : State) : Out :=
  let full := fun (s : State) (t : Treelet) => !t.ready && t.reqs.all fun i => match s.reqs.find i with | some r => r.stage == .replied | none => false
  .next (unpark (((s.core core).treelets.filter (full s)).foldl (fun s t => finishPaging s core t) s) core)

/-! ## Reports and windows (R420) -/

def isReport : Body → Bool | .evicted .. => true | _ => false

/-- EVICTION_REPORT: the earliest report that has reached the slice; a treelet without an owner becomes Cold. -/
def execEvictionReport (p : Nat) (s : State) : Out :=
  match s.msgs.find? fun m => m.2.dst == .slice p && msgReady s m.1 m.2 && isReport m.2.body with
  | none => .next s
  | some (n, m) =>
    match m.body with
    | .evicted part b i core =>
    let s := { s with msgs := s.msgs.del n }
    .next (dropCold (modEntry s part b i fun e =>
      { e.without core with evicting := e.evicting.filter (· != core) }) i)
    | _ => .next s

/-- A deferred eviction of a replica takes place as soon as nothing uses the copy. -/
def loseReplica (s : State) (e : DirEntry) : State :=
  match e.losing with
  | none => s
  | some c =>
    match (evictables s c).find? fun t => t.part == e.part && t.tbase == e.tbase && t.id == e.id with
    | none => s
    | some t => evictAt s c t

/-- Start the paging of a replica to core c. A page of the image that the TLB of the core's cluster does not hold is asked for, by a miss entry
that no thread waits in, and the paging starts once it is there (notes/assumptions/112.md). -/
def pageReplica (s : State) (e : DirEntry) (c n : Nat) : State :=
  let set := fun (s : State) (f : DirEntry → DirEntry) => modEntry s e.part e.tbase e.id f
  let room := n ≤ (freeUnits (s.core c)).length + ((evictables s c).map fun t => t.units.length).sum
  match imageLook s c (e.tbase + e.id * 0x8000) e.id true with
  | .ok size pages =>
    if room then set (startPaging s c e.part e.tbase e.id size pages) fun e => { e with paging := some c, asked := none }
    else set s fun e => { e with asked := none }
  | .miss page =>
    if e.asked == some (c, page) then
      (if (s.cluster (clusterOf c)).misses.any fun m => m.page == page && some m.asid == s.asidOf c then s else set s fun e => { e with asked := none })
    else match s.asidOf c with
      | some asid => joinMiss (set s fun e => { e with asked := some (c, page) }) (clusterOf c) asid page
          { core := c, uid := 0, cmd := none, tid := tidWord 1 0 c, access := 7, user := true }
      | none => s
  | .held l => askHost s l
  | _ => set s fun e => { e with asked := none }

/-- Units that the copies of a treelet occupy. -/
def unitsHeld (s : State) (e : DirEntry) : Nat :=
  match e.owners with
  | c :: _ => (((s.core c).treelets.find? fun t => t.part == e.part && t.tbase == e.tbase && t.id == e.id).map fun t => t.units.length).getD 0
  | [] => 0

/-- A hot treelet gains a replica (R420), on the owner that R419 chooses. -/
def gainReplica (s : State) (e : DirEntry) : State :=
  let n := unitsHeld s e
  if n = 0 then s
  else match chooseOwner s e.part e.tbase e.id n e.owners with
    | none => s
    | some c => pageReplica s e c n

/-- What an earlier window has started goes on: an eviction that R280 deferred, the paging of a replica whose pages were missing. -/
def goOn (s : State) (e : DirEntry) : State :=
  let s := loseReplica s e
  match e.asked with
  | some (c, _) => if e.owners.isEmpty then modEntry s e.part e.tbase e.id fun e => { e with asked := none } else pageReplica s e c (unitsHeld s e)
  | none => s

/-- A treelet at the end of a window (R420); one whose replica is being paged gains no other meanwhile (DESIGN CHOICE,
notes/assumptions/112.md). -/
def endOfWindow (hot rep : Nat) (s : State) (e : DirEntry) : State :=
  if hot != 0 && hot ≤ e.hops && e.owners.length < rep then (if e.paging.isNone && e.asked.isNone then gainReplica s e else s)
  else if 2 ≤ e.owners.length && e.hops < hot / 4 then
    let e' := { e with losing := e.owners.getLast? }
    loseReplica (modEntry s e.part e.tbase e.id fun x => { x with losing := e'.losing }) e'
  else s

/-- DIRECTORY_WINDOW_EXPIRY: at the end of a window, replicas are gained and lost. -/
def execDirectoryWindowExpiry (p : Nat) (s : State) : Out :=
  let pol := (s.die (p / 48)).dirpol
  let s := (s.slice p).dir.foldl goOn s
  if s.clk < (s.slice p).dirStart + 256 * bits pol 31 16 then .next s
  else
    let s := (s.slice p).dir.foldl (endOfWindow (bits pol 15 0) (bits pol 34 32)) s
    .next (s.modSlice p fun q => { q with dirStart := s.clk, dir := q.dir.map fun e => { e with hops := 0 } })

end Sys2Proof.Machine
end

