-- ==== Sys2Proof/Machine/Delivery.lean ====
section
/-!
DEFINITION. MESH_MESSAGE_DELIVERY: what the arrival of each kind of message does (15 R403-R406, R409, R421; 01 R35).
-/
namespace Sys2Proof.Machine

/-- A request reaches its home, where it is the latest, or the slice of its own die that it passes first: there a load looks for a visitor copy,
and a write has its line dropped and goes on (R409). A write ends a multicast window of its line when it arrives (R412). -/
def arriveReq (s : State) (id : Nat) : State :=
  match s.reqs.find id with
  | none => s
  | some r =>
    if r.stage == .sentVis && needsWrite r.kind then
      let here : Node := .slice (visitorSlice (dieOf r.core) (lineOf r.pa))
      let s := dropVisitors s (dieOf r.core) (lineOf r.pa)
      sendMsg (s.modReq id fun r => { r with stage := .sent }) .request here (homeNode s r.pa) 0 (.req id)
    else
      let (n, s) := s.new
      let s := if isWrite r.kind then endWindow (dropVisitors s (dieOf r.core) (lineOf r.pa)) (lineOf r.pa) else s
      let r' := { r with stage := if r.stage == .sentVis then .atVis else .atHome, arrived := n, arrClk := s.clk }
      let s : State := { s with reqs := s.reqs.put id r' }
      if beyond r.pa then servePort s id r' else s

/-- Whoever waits for a reply is still there. -/
def replyWanted (s : State) (r : Req) (id : Nat) : Bool :=
  match r.kind with
  | .load _ | .watch => (s.thrOf r.core r.uid).isSome
  | .pref _ | .store _ _ => false
  | .atomic _ _ => true
  | .take _ _ => true
  | .eng _ => (cmdOfReq s r).isSome
  | .fill l => match s.launches.find l with | some x => !x.dead && !x.done | none => false
  | .paging _ => (s.core r.core).treelets.any fun t => t.reqs.contains id

/-- A reply arrives at its core. A prefetch fills the local cache; a write beyond the package has performed. -/
def arriveReply (s : State) (id : Nat) : State :=
  match s.reqs.find id with
  | none => s
  | some r =>
    if replyWanted s r id then s.modReq id fun r => { r with stage := .replied }
    else
      let s := s.dropReq id
      match r.kind with
      | .pref true => fillCopies s r
      | _ => s

/-- A release arrives at its home. Beyond the package the home has performed an atomic already; a command's bytes go on there. -/
def arriveRelease (s : State) (id : Nat) : State :=
  match s.reqs.find id with
  | none => s
  | some r =>
    match homeNode s r.pa with
    | .port _ | .host =>
      (match r.kind with
      | .take _ _ =>
        let (n, s) := s.new
        let r' := { r with stage := .released, arrived := n }
        let s : State := { s with reqs := s.reqs.put id r' }
        if r.fwd.isEmpty then leaveFifo (s.dropReq id) id r.pa else leaveByPort s id r'
      | _ => s.dropReq id)
    | _ =>
      let s := if needsWrite r.kind then dropVisitors s (dieOf r.core) (lineOf r.pa) else s
      let s := if r.fwd.isEmpty then s else endWindow s (lineOf r.pa)
      s.modReq id fun r => { r with stage := .released }

/-- A fibre that came by HOP: the core's own location cache loses a treelet that it does not hold (R421), and the fibre waits for the
paging of its treelet (R283). -/
def arriveHop (s : State) (core : Nat) (a : Away) : Away × State :=
  let top := fibTop a.fib
  let s := if (treeletAt s core a.t top).isSome then s
    else match tbaseOf s a.t with
      | some b => s.modCore core fun k => { k with locs := k.locs.filter fun x => !(x.1 == b && x.2.1 == top) }
      | none => s
  (if topPaging s core a then { a with t := { a.t with wait := .parked } } else a, s)

/-- The location cache takes an owner set: 1024 entries, never one that names the core itself (R282, R421). A full one loses its oldest entry
(DESIGN CHOICE, notes/assumptions/111.md). -/
def learnOwners (s : State) (core b i : Nat) (l : List Nat) : State :=
  if l.contains core || l.any fun c => (s.core c).fenced then s
  else s.modCore core fun k =>
    let rest := k.locs.filter fun x => !(x.1 == b && x.2.1 == i)
    { k with locs := (if 1024 ≤ rest.length then rest.drop 1 else rest) ++ [(b, i, l)] }

/-- A change of a semaphore arrives: an increment by another core's command has everything earlier set aside for who counts it (R99, R102). -/
def arriveSem (s : State) (core q : Nat) (set : Bool) (v byCore byCmd : Nat) : State :=
  let f : Floors := if byCore == core then
      match (s.core core).running.find? fun c => c.num == byCmd with | some c => c.floors | none => Floors.zero
    else ⟨s.fresh, s.fresh, []⟩
  s.modCore core fun k => { k with semIn := k.semIn ++ [(q, set, v, byCore, byCmd, f)] }

/-- A message at a fenced core (R448): a fibre or a record lost there ends its launch, a thief gets no record. -/
def arriveFenced (s : State) (core : Nat) (b : Body) : State :=
  match b with
  | .fibre a | .hop a => (match a.t.lid with | some l => killLaunch s l | none => s)
  | .stolen (some t) => killLaunch s t.lid
  | .steal thief _ => sendMsg s .system (.core core) (.core thief) 0 (.stolen none)
  | .sem q set v byCore byCmd => arriveSem s core q set v byCore byCmd
  | _ => s

/-- A message at a core. -/
def arriveAt (s : State) (core : Nat) (b : Body) : State :=
  if (s.core core).fenced then arriveFenced s core b
  else
  match b with
  | .fibre a => s.modCore core fun k => { k with arrivals := k.arrivals ++ [a] }
  | .hop a =>
    let (a, s) := arriveHop s core a
    s.modCore core fun k => { k with arrivals := k.arrivals ++ [a] }
  | .owners tb i l => learnOwners s core tb i l
  | .tray ws => s.modCore core fun k => { k with trayIn := k.trayIn ++ [ws] }
  | .sem q set v byCore byCmd => arriveSem s core q set v byCore byCmd
  | .steal thief mask => s.modCore core fun k => { k with stealIn := k.stealIn ++ [(thief, mask, s.clk)] }
  | .stolen t => s.modCore core fun k => { k with stolen := some t }
  | _ => s

/-- Messages that an event of their own takes; fibres while the arrival queue is full (R35), records while the tray is (R292). -/
def staysOut (s : State) (m : Msg) : Bool :=
  match m.body, m.dst with
  | .task .., _ | .evicted .., _ => true
  | .tray _, .core c => trayFull s (.core c)
  | .fibre _, .core c | .hop _, .core c => 32 ≤ (s.core c).arrivals.length
  | _, _ => false

/-- MESH_MESSAGE_DELIVERY: a message that may arrive (`msgReady`) does. -/
def execMeshMessageDelivery (id : Nat) (s : State) : Out :=
  match s.msgs.find id with
  | none => .next s
  | some m =>
    if !msgReady s id m || staysOut s m then .next s
    else
      let s : State := { s with msgs := s.msgs.del id }
      .next (match m.body, m.dst with
        | .req r, _ => arriveReq s r
        | .reply r, _ => arriveReply s r
        | .grant r, _ => s.modReq r fun r => { r with stage := .replied }
        | .release r, _ => arriveRelease s r
        | .seek h, .slice p => s.modSlice p fun q => { q with hops := q.hops ++ [h] }
        | b, .core c => arriveAt s c b
        | _, _ => s)

end Sys2Proof.Machine
end

