-- ==== Sys2Proof/Machine/Host.lean ====
section
/-!
DEFINITION. The host port: CXL.mem accesses to this package's memory, back-invalidation, write-backs, the completion of the device's own
accesses to host memory, snoops (15 R423-R426; 03 R114).
-/
namespace Sys2Proof.Machine

def holdCode : HostHold → Nat | .none => 0 | .shared => 1 | .owned => 2

/-- Requests of the host at a slice that will take a filter entry of their own. -/
def hostComing (s : State) (p : Nat) : Nat :=
  (s.reqs.filter fun r => ofHost r.2 && sliceOf r.2.pa == p && (match r.2.remote with | some (_, h) => h != 0 | none => false) &&
    (hostEntry s (lineOf r.2.pa)).isNone).length

/-- The slice has room in its filter for what the request asks to hold. -/
def hostRoom (s : State) (q : HostReq) : Bool :=
  q.hold == .none || (hostEntry s (lineOf q.addr)).isSome ||
    (s.slice (sliceOf q.addr)).filter.length + hostComing s (sliceOf q.addr) < 1024

/-- The request reaches the home slice of its line. -/
def admitHost (s : State) (q : HostReq) : State :=
  let (id, s) := s.new
  let k : ReqKind := match q.data with
    | some d => .store ((List.range q.n).map fun i => (q.addr + i, d.getD i 0)) none
    | none => .load false
  let r : Req := { Req.blank 6528 0 [] q.addr q.addr q.n k .atHome id with
    arrived := id, arrClk := s.clk, remote := some (hostPkg, holdCode q.hold) }
  { s with reqs := s.reqs.put id r }

/-- The least recently granted line that the host holds at a slice is asked for. -/
def askOldest (s : State) (p : Nat) : State :=
  match (s.slice p).filter.foldl (fun (a : Option HostLine) x => match a with
    | some y => if x.rank < y.rank then some x else a
    | none => some x) none with
  | some x => askHost s x.line
  | none => s

/-- Waiting requests enter, in order, as there is room; one that finds none has the oldest entry asked for. -/
def pumpHost (s : State) : State :=
  let wait := s.hostWait
  wait.foldl (fun s q =>
    if hostRoom s q then admitHost s q
    else askOldest { s with hostWait := s.hostWait ++ [q] } (sliceOf q.addr)) { s with hostWait := [] }

/-- HOST_MEM_REQUEST: bytes of one HBM line; any other address is answered with an error. -/
def execHostMemRequest (q : HostReq) (s : State) : Out :=
  if pwinOf q.addr != .hbm || q.n == 0 || lineOf q.addr != lineOf (q.addr + q.n - 1) then .next (emit s [.host q.addr none])
  else .next (pumpHost { s with hostWait := s.hostWait ++ [q] })

/-- HOST_BACK_INVALIDATE_RESPONSE: the host gives up a line that it was asked for; data it had changed performs at the home first. -/
def execHostBackInvalidateResponse (line : Nat) (data : Option (List Byte)) (s : State) : Out :=
  match hostEntry s line with
  | none => .next s
  | some x =>
    if !x.asked then .next s
    else
      let s := match data with
        | some d => hostBytes s line d
        | none => s
      let s := s.modSlice (sliceOf (64 * line)) fun q => { q with filter := q.filter.filter fun y => y.line != line }
      .next (pumpHost (pumpDev s.devWait.length s))

/-- HOST_WRITEBACK (R411, R426): always accepted. -/
def execHostWriteback (line : Nat) (data : List Byte) (s : State) : Out :=
  .next (if pwinOf (64 * line) == .hbm then arriveWb s line data else s)

/-- The request has been sent to the host: an access that nothing holds at the port, or the bytes of a command's line. -/
def atHost (s : State) (id : Nat) (r : Req) : Bool :=
  pwinOf r.pa == .host && match r.kind with | .take _ _ => r.stage == .released | _ => portOpen s id r

/-- The request is at the host, and none that was sent before it still is (R424). -/
def firstAtHost (s : State) (id : Nat) (r : Req) : Bool :=
  atHost s id r && s.reqs.all fun x => x.1 == id || !(atHost s x.1 x.2 && x.2.arrived < r.arrived)

/-- HOST_COMPLETION: the host performs the oldest access, or completes it with an error. -/
def execHostCompletion (id : Nat) (data : Option (List Byte)) (s : State) : Out :=
  match s.reqs.find id with
  | none => .next s
  | some r =>
    if !firstAtHost s id r then .next s
    else
      match data, r.kind with
      | none, _ => .next (leaveFifo (failReq s id) id r.pa)
      | some _, .take _ _ => .next (leaveFifo (s.dropReq id) id r.pa)
      | some _, .store l rel =>
        .next (sendReply (noteBeyond (s.modReq id fun r => { r with stage := .replying }) r l rel) id r)
      | some d, _ =>
        let d := (List.range r.n).map fun i => d.getD i 0
        let s := s.modReq id fun r => { r with stage := .replying, val := ofBytes d, marks := marksBeyond s r d, data := d, noFill := true }
        .next (sendReply s id r)

/-- HOST_SNOOP: the device caches no host line. -/
def execHostSnoop (addr : Nat) (s : State) : Out := .next (emit s [.snoopMiss addr])

end Sys2Proof.Machine
end

