-- ==== Sys2Proof/Machine/StayEvents.lean ====
section
/-!
DEFINITION. The stay fabric's events: STAY_PACKET_RECEIVE, STAY_ACK_RECEIVE, STAY_RESEND_TIMEOUT, STAY_CONTEXT_IDLE, STAY_ACK_TIMER,
STAY_PORT_STATE_CHANGE (15 R428-R431). A µs is 3,000 clk (R432).
-/
namespace Sys2Proof.Machine

def micros (n : Nat) : Nat := 3000 * n

/-! ## Receiving (R430) -/

def isReplyBody : StayBody → Bool | .reply _ _ => true | _ => false

/-- A request of another package reaches the home slice of its line (R114). -/
def admitRemote (s : State) (src tag addr n : Nat) (k : ReqKind) : State :=
  if pwinOf addr != .hbm then s
  else
    let (id, s) := s.new
    let r : Req := { Req.blank 6528 0 [] addr addr n k .atHome id with arrived := id, arrClk := s.clk, remote := some (src, tag) }
    { s with reqs := s.reqs.put id r }

/-- A reply to a request of this package; a write waits for one to each of its packets. A read's reply without data is poisoned. -/
def remoteReply (s : State) (tag : Nat) (data : List Byte) : State :=
  match s.reqs.find tag with
  | none => s
  | some r =>
    if pwinOf r.pa matches .stay _ _ then
      if 1 < r.val && needsWrite r.kind && !(r.kind matches .atomic _ _) then s.modReq tag fun r => { r with val := r.val - 1 }
      else
        match r.kind with
        | .atomic f rel =>
          let (_, v, wr) := atomAll r.n f (ofBytes data)
          let read := marksBeyond s r data
          let s := s.modReq tag fun r => { r with stage := .granted, val := ofBytes data, marks := read, poison := data.isEmpty }
          let s := if wr && !data.isEmpty then noteBeyond s { r with own := read.filter fun m => !m.fence } (bytesOf r.pa v r.n) rel else s
          sendMsg s .reply (homeNode s r.pa) (.core r.core) 0 (.grant tag)
        | .take _ _ => leaveFifo (s.dropReq tag) tag r.pa
        | .store l rel => sendReply (noteBeyond (s.modReq tag fun r => { r with stage := .replying }) r l rel) tag r
        | _ => sendReply (s.modReq tag fun r =>
            { r with stage := .replying, val := ofBytes data, marks := marksBeyond s r data, data := data, poison := !needsWrite r.kind && data.isEmpty, noFill := true }) tag r
    else s

def deliverBody (s : State) (src : Nat) : StayBody → State
  | .read tag addr n => admitRemote s src tag addr n (.load false)
  | .write tag addr d => admitRemote s src tag addr d.length (.store ((List.range d.length).map fun i => (addr + i, d.getD i 0)) none)
  | .atomic tag addr n f => admitRemote s src tag addr n (.atomic f none)
  | .reply tag d => remoteReply s tag d

def recvOf (s : State) (src : Nat) (reply : Bool) (lane : Nat) : Option (Nat × StayRecv) :=
  s.stayRecv.find? fun x => x.2.src == src && x.2.reply == reply && x.2.lane == lane

def sendAck (s : State) (r : StayRecv) : State := emit s [.ack r.src r.reply r.lane r.burst (r.seq.getD 0)]

/-- Count a delivered packet: every sixteenth is acknowledged at once. -/
def countPacket (s : State) (id : Nat) (r : StayRecv) : State :=
  let r := { r with count := r.count + 1, since := if r.count = 0 then s.clk else r.since }
  if 16 ≤ r.count then sendAck { s with stayRecv := s.stayRecv.put id { r with count := 0 } } r
  else { s with stayRecv := s.stayRecv.put id r }

/-- STAY_PACKET_RECEIVE: in sequence it is delivered; a duplicate is discarded and acknowledged again; one out of sequence is lost. -/
def execStayPacketReceive (p : StayPacket) (s : State) : Out :=
  let reply := isReplyBody p.body
  let old := recvOf s p.src reply p.lane
  if p.start then
    match old with
    | some (id, r) =>
      if serialLt32 r.burst p.burst then
        .next (deliverBody (countPacket s id { r with burst := p.burst, seq := some p.seq, count := 0 }) p.src p.body)
      else .next (sendAck s r)
    | none =>
      let (id, s) := s.new
      let r : StayRecv := { src := p.src, reply := reply, lane := p.lane, burst := p.burst, seq := some p.seq, count := 0, since := s.clk }
      .next (deliverBody (countPacket s id r) p.src p.body)
  else
    match old with
    | none => .next s
    | some (id, r) =>
      let d := (p.seq + 2 ^ 16 - r.seq.getD 0) % 2 ^ 16
      if r.burst != p.burst then .next s
      else if d == 1 then .next (deliverBody (countPacket s id { r with seq := some p.seq }) p.src p.body)
      else if d == 0 || 2 ^ 15 ≤ d then .next (sendAck s r)
      else .next s

/-- STAY_ACK_TIMER: what has not been acknowledged is. -/
def execStayAckTimer (id : Nat) (s : State) : Out :=
  match s.stayRecv.find id with
  | some r => .next (if r.count = 0 then s else sendAck { s with stayRecv := s.stayRecv.put id { r with count := 0 } } r)
  | none => .next s

/-! ## Sending (Table 15.10) -/

/-- Contexts that wait for one of a port's 512 try again. -/
def pumpAll (s : State) : State :=
  s.stayCtx.foldl (fun s x => pump x.2.queue.length s x.1) s

/-- STAY_ACK_RECEIVE: packets up to this sequence number are free. -/
def execStayAckReceive (id upto : Nat) (s : State) : Out :=
  match s.stayCtx.find id with
  | none => .next s
  | some c =>
    let done := fun u : Unacked => (upto + 2 ^ 16 - u.pkt.seq) % 2 ^ 16 < 2 ^ 15
    let s := s.modCtx id fun c => { c with unacked := c.unacked.dropWhile done, active := s.clk }
    .next (pump c.queue.length s id)

/-- Send again every packet that is not acknowledged. -/
def resendAll (s : State) (id : Nat) (fresh : Bool) : State :=
  match s.stayCtx.find id with
  | none => s
  | some c =>
    let s := s.modCtx id fun c => { c with active := s.clk, unacked := c.unacked.map fun u =>
      { u with sent := s.clk, resends := if fresh then 1 else u.resends + 1 } }
    emit s (c.unacked.map fun u => .packet c.port c.dst u.pkt)

/-- Every access with a packet in a failed context ends its launch. -/
def failCtx (s : State) (id : Nat) (c : StayCtx) : State :=
  let ids := c.unacked.filterMap (·.req) ++ c.queue.filterMap (·.2)
  let fail := fun (s : State) (i : Nat) => match s.reqs.find i with | some r => leaveFifo (failReq s i) i r.pa | none => s
  pumpAll (ids.eraseDups.foldl fail { s with stayCtx := s.stayCtx.del id })

/-- The next port of the mask that has not been tried, in ascending order from the present one. -/
def nextPort (s : State) (c : StayCtx) : Option Nat :=
  let l := (portsTo s c.dst).filter fun p => p != c.port && !c.tried.contains p
  match l.find? fun p => c.port < p with
  | some p => some p
  | none => l.head?

/-- STAY_RESEND_TIMEOUT: a packet has been unacknowledged for 2 µs. -/
def execStayResendTimeout (id : Nat) (s : State) : Out :=
  match s.stayCtx.find id with
  | none => .next s
  | some c =>
    if !c.unacked.any fun u => u.sent + micros 2 ≤ s.clk then .next s
    else if c.unacked.all fun u => u.resends < 4 then .next (resendAll s id false)
    else
      match nextPort s c with
      | none => .next (failCtx s id c)
      | some p => .next (resendAll (s.modCtx id fun c => { c with tried := c.tried ++ [c.port], port := p }) id true)

/-- STAY_CONTEXT_IDLE: 4 µs with nothing sent, received or unacknowledged. -/
def execStayContextIdle (id : Nat) (s : State) : Out :=
  match s.stayCtx.find id with
  | none => .next s
  | some c =>
    if c.open_ && c.unacked.isEmpty && c.queue.isEmpty && c.active + micros 4 ≤ s.clk then
      .next (pumpAll { s with stayCtx := s.stayCtx.del id })
    else .next s

/-! ## Ports (R427, R428) -/

def portOf (s : State) (p : Nat) : Port := (s.mgmt.ports.find p).getD { en := false, st := 0, lanes := 0 }

/-- A stay port takes a STATE; a change raises vector 8. -/
def setPortState (s : State) (p st lanes : Nat) : State :=
  let old := portOf s p
  let s : State := { s with mgmt := { s.mgmt with ports := s.mgmt.ports.put p { old with st := st, lanes := lanes } } }
  if old.st == st then s else emit s [.vector 8]

/-- STAY_PORT_STATE_CHANGE. -/
def execStayPortStateChange (p st lanes : Nat) (s : State) : Out := .next (setPortState s p st lanes)

end Sys2Proof.Machine
end

