-- ==== Sys2Proof/Machine/Frame.lean ====
section
/-!
DEFINITION. The frame clock and the presentation of frames: FRAME_TIMING_SEND, FRAME_TIMING_RECEIVE, FRAME_HOLDOVER_TIMEOUT,
PRESENT_INSTANT (15 R432-R436).
-/
namespace Sys2Proof.Machine

/-! ## Outputs (R434-R436) -/

/-- The instant t_k of an output. -/
def presentAt (x : Output) (k : Nat) : Nat := x.w1 + k * bits x.w0 31 0

/-- The first k whose instant has not passed. -/
def firstInstant (x : Output) (now : Nat) : Nat :=
  let p := bits x.w0 31 0
  if now ≤ x.w1 || p = 0 then 0 else ceilDiv (now - x.w1) p

/-- Write a presentation record, then TAIL; REPEAT raises vector 6. -/
def presentRecord (s : State) (o : Nat) (x : Output) (f : Option Frame) (cause t : Nat) (rep : Bool) : State :=
  let base := x.w2 / 4096 * 4096
  let i := x.tail
  let (n, b, l, at_) := match f with | some f => (f.fnum, f.base, f.bytes, f.time) | none => (0, 0, 0, 0)
  let dws := [i % 2 ^ 32 + cause * 2 ^ 32 + bit rep * 2 ^ 34, n, b, l, t, at_, 0, 0]
  let s := devicePut (devicePut s (base + 64 + 64 * (i % 2 ^ bits x.w2 3 0)) dws) base [i + 1]
  let s := s.setOutput o { x with tail := i + 1 }
  if rep then emit s [.vector 6] else s

/-- The output at its instant t: a new frame, the last one again, or nothing (R435). -/
def present (s : State) (o t : Nat) (x : Output) : State :=
  let early := fun f : Frame => f.time + 1000 * bits x.w0 47 32 ≤ t && (match x.frozen with | some r => f.rank < r | none => true)
  let newer := fun f : Frame => match x.shown with | some g => g.rank < f.rank | none => true
  match x.latest.filter fun f => early f && newer f with
  | some f => presentRecord s o { x with shown := some f } (some f) 0 t false
  | none =>
    if !bitAt x.w0 62 then s.setOutput o x
    else match x.shown with
      | some f => presentRecord s o x (some f) (if x.frozen.isSome then 2 else 1) t true
      | none => presentRecord s o x none 3 t false

/-- PRESENT_INSTANT: the next instant of an enabled output has come. -/
def execPresentInstant (o : Nat) (s : State) : Out :=
  let x := s.output o
  let t := presentAt x x.k
  if bitAt x.w0 63 && t ≤ s.nanos then .next (present s o t { x with k := x.k + 1 }) else .next s

/-! ## The clock (R432, R433) -/

/-- FRAME_TIMING_SEND: the master's time goes to every port in state up, once a µs. -/
def execFrameTimingSend (s : State) : Out :=
  let f := s.frame
  let due := match f.lastSend with | some c => c + micros 1 ≤ s.clk | none => true
  if !f.master || !due then .next s
  else
    let up := (List.range 18).filter fun p => (portOf s p).st == 2
    .next (emit { s with frame := { f with lastSend := some s.clk } } (up.map fun p => .timing p s.nanos))

/-- The instants of the outputs start over from the clock's new time. -/
def rebaseOutputs (s : State) : State :=
  { s with mgmt := { s.mgmt with outputs := s.mgmt.outputs.map fun x => (x.1, { x.2 with k := firstInstant x.2 s.nanos }) } }

/-- Slew towards the master's time: at most 1 ns in 10 µs, which is 100 ppm; a clock that is ahead waits rather than go back. -/
def slew (s : State) (time : Nat) : State :=
  let f := s.frame
  let d : Int := time - s.nanos
  let room : Int := if f.slewed + micros 10 ≤ s.clk then 1 else 0
  let a := if d < -room then -room else if room < d then room else d
  if a = 0 then s else { s with frame := { f with off := f.off + a, floor := s.nanos, slewed := s.clk } }

/-- FRAME_TIMING_RECEIVE: the first lock after reset sets the clock in one step, any other message corrects it. -/
def execFrameTimingReceive (time tier : Nat) (s : State) : Out :=
  let f := s.frame
  if f.master then .next s
  else
    let changed := !f.lock || f.holdover
    let note := fun f : FrameClock => { f with lock := true, holdover := false, locked := true, tier := Nat.min tier 15, lastMsg := s.clk }
    let s := if f.locked then { slew s time with frame := note (slew s time).frame }
      else rebaseOutputs { s with frame :=
        { note f with off := (time : Int) - (s.clk / 3 : Nat), floor := 0, slewed := s.clk, steps := (f.steps + 1) % 2 ^ 16 } }
    .next (if changed then emit s [.vector 7] else s)

/-- FRAME_HOLDOVER_TIMEOUT: no timing message for 100 µs. -/
def execFrameHoldoverTimeout (s : State) : Out :=
  let f := s.frame
  if f.lock && f.lastMsg + micros 100 ≤ s.clk then
    .next (emit { s with frame := { f with lock := false, holdover := true } } [.vector 7])
  else .next s

end Sys2Proof.Machine
end

