-- ==== Sys2Proof/Machine/Fence.lean ====
section
/-!
DEFINITION. The RAS log, fencing, storage errors: FENCE_GO, STORAGE_ERROR (16 R446-R448).
-/
namespace Sys2Proof.Machine

/-! ## The RAS log (R447) -/

/-- Write a record, then TAIL, and raise vector 9; the ring overwrites its oldest records. -/
def rasRecord (s : State) (kind unit : Nat) (hard : Bool) (pa launchid : Nat) : State :=
  let base := s.mgmt.rasbase / 4096 * 4096
  let log := Nat.max 4 (s.mgmt.rasbase % 16)
  let i := s.mgmt.rasTail
  let dws := [i % 2 ^ 32 + Config.unitKind kind % 256 * 2 ^ 32 + bit hard * 2 ^ 40, unit, pa, launchid, s.nanos, 0, 0, 0]
  let s := devicePut (devicePut s (base + 64 + 64 * (i % 2 ^ log)) dws) base [i + 1]
  emit { s with mgmt := { s.mgmt with rasTail := i + 1 } } [.vector 9]

/-- Count an error of a unit. -/
def countError (s : State) (kind unit : Nat) : State :=
  let key := kind * 2 ^ 32 + unit
  { s with mgmt := { s.mgmt with errors := s.mgmt.errors.put key ((s.mgmt.errors.find key).getD 0 + 1) } }

/-! ## Fencing (R448) -/

/-- Launches with something on a core: a thread, a saved image, a fibre there or on its way, a task record there or on its way, a
spilled context, a command. -/
def launchesOn (s : State) (core : Nat) : List Nat :=
  let k := s.core core
  let thr := fun t : Thr => t.lid
  let cmds := k.cmdq ++ k.running ++ k.mat0.queue ++ k.mat1.queue
  let msgs := s.msgs.filterMap fun m => if m.2.dst == .core core then
      (match m.2.body with
      | .fibre a | .hop a => a.t.lid
      | .task _ _ t | .stolen (some t) => some t.lid
      | _ => none)
    else none
  ((k.slots.filterMap fun x => thr x.2.t) ++
    ((s.cluster (clusterOf core)).saved.filterMap fun x => if x.core == core then thr x.wave.t else none) ++
    (k.rq.filterMap fun x => thr x.2.t) ++ (k.arrivals ++ k.spill).filterMap (fun a => thr a.t) ++
    k.deque.map (·.lid) ++ (match k.stolen with | some (some t) => [t.lid] | _ => []) ++ cmds.filterMap (·.lid) ++ msgs).eraseDups

/-- The core's requests: stores are discarded, reservations released with no write, takes dropped; each line goes on without them. -/
def dropRequests (s : State) (core : Nat) : State :=
  (s.reqs.filter fun r => r.2.core == core && r.2.remote.isNone).foldl (fun s r =>
    let s := s.dropReq r.1
    if ((s.fifos.find (lineOf r.2.pa)).getD []).contains r.1 then leaveFifo s r.1 r.2.pa else s) s

/-- Rig entries that name the core become no entry, and what is open on them is abandoned. -/
def dropRigs (s : State) (core : Nat) : State :=
  (s.rigs.filter fun r => r.2.members.contains core).foldl (fun s r =>
    let s := abandonRig s r.1
    { s with rigs := s.rigs.del r.1 }) s

/-- The core leaves every directory entry and location cache; a treelet without an owner is Cold (R422). -/
def leaveDirectory (s : State) (core : Nat) : State :=
  let out := fun e : DirEntry => { e.without core with evicting := e.evicting.filter (· != core) }
  { s with
    sliceTab := s.sliceTab.map fun q => (q.1, { q.2 with dir := (q.2.dir.map out).filter fun e =>
      !(e.owners.isEmpty && e.paging.isNone && e.evicting.isEmpty) })
    cores := s.cores.map fun k => (k.1, { k.2 with locs := k.2.locs.filter fun x => !x.2.2.contains core }) }

/-- Launches lose the core from placement (R357). One that has nothing on the core is not ended, even where it has no place left for its tasks:
it waits (R448; notes/assumptions/60.md). -/
def leavePlacement (s : State) (core : Nat) : State :=
  let lost := (coresOfCluster (clusterOf core)).all fun c => (s.core c).fenced || isHelm s c
  let f := fun l : Launch => if l.done then l else
    { l with cores := l.cores.filter (· != core), filled := l.filled.filter (· != core),
             targets := l.targets.filter fun t => if l.gang then !(lost && t == clusterOf core) else t != core }
  { s with launches := s.launches.map fun x => (x.1, f x.2) }

/-- Fence one core: what was on it ends, and the core is empty. -/
def fenceCore (s : State) (core : Nat) : State :=
  if (s.core core).fenced then s
  else
    let s := (launchesOn s core).foldl killLaunch s
    let s := leaveDirectory (dropRigs (dropRequests s core) core) core
    let k := s.core core
    let thieves := k.stealIn.map (·.1)
    let s := s.setCore core { Core.reset with fenced := true, lsplit := k.lsplit, spillBase := k.spillBase, spillSize := k.spillSize,
                                              ring := k.ring, ringBase := k.ringBase, sems := k.sems, cnts := k.cnts, cntcfg := k.cntcfg,
                                              scopeMiss := k.scopeMiss, semIn := k.semIn, hold := k.hold }
    let s := s.modCluster (clusterOf core) fun q => { q with saved := q.saved.filter fun x => x.core != core }
    let s := thieves.foldl (fun s t => sendMsg s .system (.core core) (.core t) 0 (.stolen none)) s
    leavePlacement s core

/-- The miss entries of a cluster are freed, and their waiters' launches end; so do the launches of its gang queue. -/
def fenceCluster (s : State) (k : Nat) : State :=
  let q := s.cluster k
  let waiters := (q.misses.flatMap (·.waiters) ++ q.missQ.map (·.2.2)).filterMap fun w => (waiterThr s w).bind (·.lid)
  let tasks := q.gangq.map (·.lid) ++ s.msgs.filterMap fun m => match m.2.body with
    | .task none c t => if c == k then some t.lid else none
    | _ => none
  let s := (waiters ++ tasks).eraseDups.foldl killLaunch s
  let s := s.modCluster k fun q => { q with misses := [], missQ := [], wakes := [], gangq := [] }
  (coresOfCluster k ++ [6144 + k]).foldl fenceCore s

/-- Every cluster of a die is fenced: its partition's outputs freeze (R435). -/
def freezeFenced (s : State) (d : Nat) : State :=
  let all := (List.range 1024).all fun c => (s.core (1024 * d + c)).fenced
  match s.partOfDie d with | some p => if all then freezeOutputs s p else s | none => s

/-- A fencing: REPLACE is set and vector 10 raised. -/
def fence (s : State) (cluster : Bool) (n : Nat) : State :=
  let s := if cluster then fenceCluster s n else fenceCore s n
  let s := freezeFenced s (if cluster then n / 64 else dieOf n)
  emit { s with mgmt := { s.mgmt with replace := true } } [.vector 10]

/-- The write of FENCE with GO, of a core or cluster that exists. -/
def writeFence (s : State) (v : Nat) : State :=
  let cl := bitAt v 13
  let n := if cl then bits v 8 0 else bits v 12 0
  if !bitAt v 14 || (if cl then 384 ≤ n else 6144 ≤ n) then s else fence s cl n

/-! ## Storage errors (Table 16.5) -/

/-- Poison the doublewords of n bytes at a memory key. -/
def poisonAt (s : State) (a n : Nat) : State :=
  { s with poison := (List.range (ceilDiv n 8)).foldl (fun p i => Map.put p (a / 8 + i) 255) s.poison }

/-- Disable a slice way (R408): its contents and its scratch role go; fewer than four usable ways set FAILED. -/
def disableWay (s : State) (p w : Nat) : State :=
  let scratch := bitAt (sliceScratch s p) w
  let s := if scratch then changeWay s p w false else s
  let s : State := { s with waysDisabled := s.waysDisabled.put p (sliceDisabled s p ||| 2 ^ w)
                            waysChanging := if s.waysChanging.find p == some (2 ^ w) then s.waysChanging.del p else s.waysChanging }
  let lost := overflow s p (homeWays s p)
  let s := lost.foldl (fun s l => { s with dirty := s.dirty.del l }) s
  let s := s.modSlice p fun q => { q with home := q.home.filter fun l => !lost.contains l }
  let s : State := { s with visitors := s.visitors.filter fun v => !(v.1 == p / 48 && sliceOf (64 * v.2.line) % 48 == p % 48) }
  { s with mgmt := { s.mgmt with replace := true, failed := s.mgmt.failed || 12 < countBits (sliceDisabled s p) 12 + 4 } }

/-- An uncorrectable error of a slice way. -/
def slicePoison (s : State) (p w line : Nat) : State :=
  let s := if (s.dirty.find line).isSome then poisonAt s (64 * line) 64 else s
  disableWay (s.modSlice p fun q => { q with home := q.home.filter fun l => l != line }) p w

/-- The row of Table 16.5 and the unit's number. -/
def errorUnit : StorageErr → Nat × Nat
  | .hbm line _ => (0, (homeOf (64 * line)).1)
  | .slice p _ _ _ => (1, p)
  | .tcm c _ _ => (2, c)
  | .scratch k _ _ => (3, k)
  | .cache c _ _ => (4, c)
  | .treelet c _ _ => (5, c)
  | .tlb c _ _ => (6, c)
  | .clusterTlb k _ _ => (11, k)
  | .coreParity c => (7, c)
  | .clusterParity k => (8, k)
  | .link _ => (9, 0)
  | .stayLink p _ => (10, p)

/-- Corrected, in the table's second column. -/
def errorFixed : StorageErr → Bool
  | .hbm _ f | .slice _ _ _ f | .tcm _ _ f | .scratch _ _ f | .cache _ _ f | .treelet _ _ f | .tlb _ _ f | .clusterTlb _ _ f | .link f | .stayLink _ f => f
  | .coreParity _ | .clusterParity _ => false

/-- The physical address of an error, where the storage has one. -/
def errorAddr : StorageErr → Nat
  | .hbm line _ | .slice _ _ line _ | .cache _ line _ => 64 * line
  | .scratch k off _ => spadKey k off
  | _ => 0

/-- What an uncorrectable error does to the storage. -/
def errorEffect (s : State) : StorageErr → State
  | .hbm line _ =>
    if (s.dirty.find line).isSome then s
    else (poisonAt s (64 * line) 64).modSlice (sliceOf (64 * line)) fun q => { q with home := q.home.filter fun l => l != line }
  | .slice p w line _ => slicePoison s p w line
  | .tcm c off _ => poisonAt s (tcmKey c off) 1
  | .scratch k off _ => poisonAt s (spadKey k off) 1
  | .cache c line _ => s.modCore c fun k => { k with cache := k.cache.filter fun x => x.line != line }
  | .treelet c id _ =>
    match (s.core c).treelets.find? fun t => t.id == id with
    | some t => evictAt s c t
    | none => s
  | .tlb c n _ => s.modCore c fun k => { k with micro := k.micro.eraseIdx n }
  | .clusterTlb k n _ => s.modCluster k fun q => { q with tlb := q.tlb.eraseIdx n }
  | .coreParity c => fence s false c
  | .clusterParity k => fence s true k
  | .link _ => { s with mgmt := { s.mgmt with failed := true } }
  | .stayLink p _ => setPortState s p 3 (portOf s p).lanes

/-- The LAUNCHID of a launch that the error ends by fencing, or 0. -/
def errorLaunch (s : State) (e : StorageErr) : Nat :=
  let on := match e with
    | .coreParity c => launchesOn s c
    | .clusterParity k => (coresOfCluster k).flatMap (launchesOn s)
    | _ => []
  match on.head?.bind fun l => s.launches.find l with | some l => l.id | none => 0

/-- STORAGE_ERROR: it is counted and logged, and an uncorrectable one takes effect. -/
def execStorageError (e : StorageErr) (s : State) : Out :=
  let (kind, unit) := errorUnit e
  let id := errorLaunch s e
  let t := if errorFixed e then s else errorEffect s e
  .next (rasRecord (countError t kind unit) kind unit (!errorFixed e) (errorAddr e) id)

end Sys2Proof.Machine
end

