-- ==== Sys2Proof/Machine/Mgmt.lean ====
section
/-!
DEFINITION. The management interface: ownership (16 R437, R438), attestation (R443, R444), keys (R445), draining (R450), the
configuration words of the package and of each die (15 R401-R436; 13 R349, R350), with the events of each.
-/
namespace Sys2Proof.Machine

def State.modMgmt (s : State) (f : Mgmt → Mgmt) : State := { s with mgmt := f s.mgmt }

/-! ## Ownership (Tables 16.1, 16.2) -/

def masterCode : Master → Nat | .host => 1 | .board => 2 | .fabric => 3

/-- DENIED increments, also for claims of this clk that are decided again (R438). -/
def denied (s : State) : State :=
  let up := fun n => Nat.min 0xFFFF (n + 1)
  s.modMgmt fun m => { m with denied := up m.denied, claims := m.claims.map fun x => (x.1, (x.2.1.1, x.2.1.2.1, up x.2.1.2.2), x.2.2) }

/-- A write by a master: it takes effect for the owner alone (R437). -/
def asOwner (s : State) (m : Master) (f : State → State) : State := if s.mgmt.owner == masterCode m then f s else denied s

/-- OWNER and OFFER change; a change of OWNER raises vector 13. -/
def setOwner (s : State) (o : Nat) : State :=
  let t := s.modMgmt fun m => { m with owner := o, offer := 0, claims := none }
  if s.mgmt.owner == o then t else emit t [.vector 13]

/-- An offer is open for 100 ms. -/
def offerOpen (s : State) : Bool := s.clk < s.mgmt.offerAt + micros 100000

/-- A claim by master p: OWNER, OFFER and DENIED before and after it (Table 16.2). -/
def decideClaim (isOpen : Bool) (x : Nat × Nat × Nat) (p : Nat) : Nat × Nat × Nat :=
  if x.1 == 0 || (x.2.1 == p && isOpen) then (p, 0, x.2.2) else (x.1, x.2.1, Nat.min 0xFFFF (x.2.2 + 1))

/-- Claims in the order in which those of one clk are decided: board controller, host, fabric manager. -/
def claimOrder (l : List Nat) : List Nat := [2, 1, 3].flatMap fun p => List.replicate (l.count p) p

/-- A claim: those that have reached the device on this clk are decided together (R438). -/
def claim (s : State) (m : Master) : State :=
  let was := (s.mgmt.owner, s.mgmt.offer, s.mgmt.denied)
  let x := match s.mgmt.claims with | some (t, b, l) => if t == s.clk then (b, l) else (was, []) | none => (was, [])
  let l := x.2 ++ [masterCode m]
  let r := (claimOrder l).foldl (decideClaim (offerOpen s)) x.1
  let t := s.modMgmt fun m => { m with owner := r.1, offer := r.2.1, denied := r.2.2, claims := some (s.clk, x.1, l) }
  if s.mgmt.owner == x.1.1 && r.1 != x.1.1 then emit t [.vector 13] else t

/-- MGMT_CLAIM. -/
def execMgmtClaim (m : Master) (s : State) : Out := .next (claim s m)

def offerTo (s : State) (p : Nat) : State := s.modMgmt fun m => { m with offer := p % 4, offerAt := s.clk, claims := none }

/-- MGMT_OFFER. -/
def execMgmtOffer (m : Master) (p : Nat) (s : State) : Out := .next (asOwner s m fun s => offerTo s p)

/-- MGMT_RELEASE. -/
def execMgmtRelease (m : Master) (s : State) : Out := .next (asOwner s m fun s => setOwner s 0)

/-- MGMT_OFFER_EXPIRY: an offer is open for 100 ms. -/
def execMgmtOfferExpiry (s : State) : Out :=
  .next (if s.mgmt.offer != 0 && !offerOpen s then s.modMgmt fun m => { m with offer := 0, claims := none } else s)

/-- MGMT_OWNER_PATH_DOWN: the owner's path has reported down for this many clk; 10 ms end the ownership. -/
def execMgmtOwnerPathDown (downFor : Nat) (s : State) : Out :=
  .next (if s.mgmt.owner != 0 && micros 10000 ≤ downFor then setOwner s 0 else s)

/-! ## HEALTH (Table 16.4) -/

def capped (s : State) : Bool := (List.range 6).any fun d => (s.die d).level != 0

def health (s : State) : Nat :=
  let m := s.mgmt
  m.bootstat + bit m.ready * 2 ^ 8 + bit m.replace * 2 ^ 9 + bit m.failed * 2 ^ 10 + bit m.draining * 2 ^ 11 + bit m.drained * 2 ^ 12 +
    bit m.thermtrip * 2 ^ 13 + bit (capped s) * 2 ^ 14

/-! ## Attestation (R443, R444) -/

/-- Bytes of a digest. -/
def digestBytes (d : BitVec 384) : List Byte := (bytesOf 0 d.toNat 48).map (·.2)

/-- The digest that bring-up measures of an image. -/
def imageMeasured (i : Nat) : BitVec 384 := Config.sha384 (Config.imageBytes i)

/-- M0 to M3, the SVNs and the fused minimum (Table 16.11). -/
def measurements : List Byte :=
  let le := fun v : BitVec 32 => (bytesOf 0 v.toNat 4).map (·.2)
  digestBytes (imageMeasured 0) ++ digestBytes (imageMeasured 1) ++ digestBytes (imageMeasured 2) ++ digestBytes Config.configDigest ++
    le (Config.imageSvn 0) ++ le (Config.imageSvn 1) ++ le (Config.imageSvn 2) ++ le Config.fusedSvn

/-- The report key of report number q: the ephemeral public key that it publishes. -/
def reportKey (q : Nat) : List Byte := (List.range 96).map (Config.ephemeralByte q)

/-- The report of Table 16.11 and the zeros after it. -/
def report (s : State) : List Byte :=
  let le := fun v n => (bytesOf 0 v n).map (·.2)
  let q := s.mgmt.aseq + 1
  let head := s.mgmt.nonce.flatMap (fun w => le w.toNat 8) ++ le q 8 ++ le (3772 + 2 ^ 32) 8 ++
    measurements ++ le (health s) 8 ++ le (resources s) 8 ++ le (s.fabnum % 64) 8 ++
    reportKey q
  head ++ (List.range 3380).map (Config.signatureByte head) ++ List.replicate 324 0

/-- GO: the destination is checked, and the report is on its way. -/
def attest (s : State) : State :=
  let m := s.mgmt
  if m.attBusy then s
  else if Config.hbmBytes ≤ m.attdest || (Config.firmwareLo ≤ m.attdest && m.attdest ≤ Config.firmwareHi) then
    s.modMgmt fun m => { m with attErr := true }
  else if Config.hssSignatures ≤ m.aseq then s.modMgmt fun m => { m with attErr := false, exhausted := true }
  else s.modMgmt fun m => { m with attErr := false, attBusy := true }

/-- ATTEST_GO. -/
def execAttestGo (m : Master) (s : State) : Out := .next (asOwner s m attest)

/-- Write these groups of bytes, one line each, together: once the host holds none of the lines, none has a reservation or a take, and no
earlier write of the device waits. Until then the host is asked for them (R109, R425). -/
def writeLines (s : State) (l : List (List (Nat × Byte))) (k : State → State) : State :=
  let lines := l.filterMap fun g => g.head?.map fun x => lineOf x.1
  if s.devWait.isEmpty && lines.all (devMayWrite s) then k (l.foldl devWriteLine s) else lines.foldl askHost s

/-- ATTEST_COMPLETE: the report's writes have performed, and BUSY clears. -/
def execAttestComplete (s : State) : Out :=
  if !s.mgmt.attBusy then .next s
  else
    .next (writeLines s (byLine ((report s).zipIdx.map fun x => (s.mgmt.attdest + x.2, x.1))) fun s =>
      s.modMgmt fun m => { m with attBusy := false, aseq := m.aseq + 1 })

/-! ## Keys (R445) -/

/-- A slot changes: lines of that slot that lie in HBM alone read under the new key from now on. -/
def setKey (s : State) (slot : Nat) (k : Option (BitVec 512)) : State :=
  let old := keyOfTag s (slot + 1)
  let new := some (k.getD 0)
  let s := (s.lineKeys.filter fun x => x.2 == slot + 1 && !resident s x.1).foldl (fun s x => recrypt s x.1 old new) s
  s.modMgmt fun m => { m with keys := match k with | some v => m.keys.put slot v | none => m.keys.del slot }

/-- KEYCMD with its outcome: DONE in bit 13, ERR in bit 14. -/
def keyDone (s : State) (slot op : Nat) (err : Bool) : State :=
  s.modMgmt fun m => { m with keycmd := slot % 2 ^ 11 + op * 2 ^ 11 + 2 ^ 13 + bit err * 2 ^ 14 }

def loadKey (s : State) (slot : Nat) : State :=
  match Config.unwrapKey s.mgmt.keydata (reportKey s.mgmt.aseq) with
  | some k => keyDone (setKey s slot (some k)) slot 0 false
  | none => keyDone s slot 0 true

/-- KEY_LOAD. -/
def execKeyLoad (m : Master) (slot : Nat) (s : State) : Out := .next (asOwner s m fun s => loadKey s slot)
/-- KEY_ERASE. -/
def execKeyErase (m : Master) (slot : Nat) (s : State) : Out := .next (asOwner s m fun s => keyDone (setKey s slot none) slot 1 false)

/-! ## FENCE, draining (R448, R450) -/

/-- FENCE_GO. -/
def execFenceGo (m : Master) (v : Word) (s : State) : Out := .next (asOwner s m fun s => writeFence s v.toNat)

def setDrain (s : State) (on : Bool) : State :=
  if on then (if s.mgmt.draining then s else s.modMgmt fun m => { m with draining := true, idleSince := none })
  else if s.mgmt.drained then s
  else s.modMgmt fun m => { m with draining := false, idleSince := none }

/-- DRAIN_SET. -/
def execDrainSet (m : Master) (s : State) : Out := .next (asOwner s m fun s => setDrain s true)
/-- DRAIN_CLEAR. -/
def execDrainClear (m : Master) (s : State) : Out := .next (asOwner s m fun s => setDrain s false)

/-- No delivery context is open and no launch incomplete. -/
def packageIdle (s : State) : Bool := !(s.stayCtx.any fun c => c.2.open_) && s.launches.all fun l => l.2.done || l.2.dead

/-- Every host write-back that waits in a slice's buffer goes. -/
def drainAll (s : State) : State :=
  (s.sliceTab.map (·.1)).foldl (fun s p => (List.range (s.slice p).wb.length).foldl (fun s _ => drainWb s p) s) s

/-- DRAIN_COMPLETE: the first event that finds the package idle starts the 4 µs, a later one ends them. -/
def execDrainComplete (s : State) : Out :=
  let m := s.mgmt
  if !m.draining || m.drained then .next s
  else if !packageIdle s then .next (s.modMgmt fun m => { m with idleSince := none })
  else
    match m.idleSince with
    | none => .next (s.modMgmt fun m => { m with idleSince := some s.clk })
    | some t =>
      if s.clk < t + micros 4 then .next s
      else
        let s : State := { drainAll s with dirty := [] }
        let off := fun p : Port => { p with en := false }
        .next (emit (s.modMgmt fun m => { m with drained := true, ports := m.ports.map fun x => (x.1, off x.2) }) [.vector 14])

/-! ## Partitions (R349, R350) -/

def nodeDie : Node → Option Nat
  | .core c => some (dieOf c)
  | .slice p => some (p / 48)
  | .cluster k => some (k / 64)
  | .die d => some d
  | _ => none

/-- A message that carries a task record or a fibre from or to a die. -/
def carriesWork (d : Nat) (m : Msg) : Bool :=
  (nodeDie m.src == some d || nodeDie m.dst == some d) &&
    match m.body with | .fibre _ | .hop _ | .seek _ | .task _ _ _ | .stolen (some _) => true | _ => false

/-- A core holds work of a launch: a thread, a task record, a fibre, or a command (R350). -/
def holdsWork (k : Core) : Bool :=
  let cmds := k.cmdq ++ k.running ++ k.mat0.queue ++ k.mat1.queue
  (k.slots.any fun x => x.1 < 7 && !x.2.t.sup) || !k.deque.isEmpty || k.reserved != 0 || !k.rq.isEmpty || !k.arrivals.isEmpty || !k.spill.isEmpty ||
    (match k.stolen with | some (some _) => true | _ => false) || cmds.any fun c => c.lid.isSome

/-- A die holds no work of any launch: none in its cores and clusters, none that its distributor has still to write or to complete, none in
the mesh on its way there or away. The waves of supervisors count for nothing here (notes/assumptions/95.md). -/
def dieEmpty (s : State) (d : Nat) : Bool :=
  (s.launches.all fun l => l.2.done || l.2.die != d) && (s.msgs.all fun m => !carriesWork d m.2) &&
  (s.sliceTab.all fun p => p.1 / 48 != d || p.2.hops.isEmpty) &&
  (s.cores.all fun k => dieOf k.1 != d || 6144 ≤ k.1 || !holdsWork k.2) &&
  s.clusters.all fun q => q.1 / 64 != d || (q.2.gangq.isEmpty && q.2.gangReserved == 0 && q.2.saved.isEmpty)

/-- The partitions that these registers make break no rule of R350. -/
def partsOk (cfg : Nat → Word) : Bool :=
  let en := (List.range 6).filter fun p => partEn (cfg p)
  let pairs := en.flatMap fun p => (en.filter fun q => p < q).map fun q => (cfg p, cfg q)
  let apart := fun a b : Word => partKeyBase a + partKeyCount a ≤ partKeyBase b || partKeyBase b + partKeyCount b ≤ partKeyBase a
  pairs.all (fun x => partDies x.1 &&& partDies x.2 == 0 && partAsid x.1 != partAsid x.2 &&
    (apart x.1 x.2 || partKeyCount x.1 == 0 || partKeyCount x.2 == 0)) &&
  en.all (fun p => partDies (cfg p) != 0 && partQuota (cfg p) != 0 && partKeyBase (cfg p) + partKeyCount (cfg p) ≤ 2048) &&
  (List.range 6).all fun p => partQuota (cfg p) ≤ 256

def partMembers (w : Word) : Nat := if partEn w then partDies w else 0

/-- Firmware reloads every core's steal ring (R442). -/
def reloadRings (s : State) : State := { s with cores := s.cores.map fun x => (x.1, { x.2 with ring := none, ringPos := 0 }) }

/-- A write of PARTCFGp: refused as a whole where the partitions would break a rule, or a die that changes hands holds work. A change has the
steal rings loaded anew. -/
def writePartcfg (s : State) (p : Nat) (v : Word) : State :=
  let new := v &&& 0x81FF7FFFFFFFFF3F
  let old := (s.part p).cfg
  let moved := (List.range 6).filter fun d => bitAt (partMembers old ^^^ partMembers new) d
  if partsOk (fun q => if q == p then new else (s.part q).cfg) && moved.all (dieEmpty s) then
    (if new == old then s else reloadRings (s.modPart p fun r => { r with cfg := new }))
  else s

/-- PARTCFG_WRITE. -/
def execPartcfgWrite (m : Master) (p : Nat) (v : Word) (s : State) : Out := .next (asOwner s m fun s => writePartcfg s p v)

/-! ## Slices and outputs (R407, R434) -/

/-- The nearest value in a range (R401). -/
def clampTo (lo hi v : Nat) : Nat := if v < lo then lo else if hi < v then hi else v

/-- A write of SLICECFG: ways whose role changes lose their contents, a line newer than HBM after it has been written there. -/
def writeSlicecfg (s : State) (d : Nat) (v : Nat) : State :=
  let n := clampTo 0 4 (bits v 2 0) + clampTo 0 64 (bits v 14 8) * 2 ^ 8 + clampTo 0 8 (bits v 19 16) * 2 ^ 16
  let same := bits n 2 0 == bits (s.die d).slicecfg 2 0
  let s := s.modDie d fun x => { x with slicecfg := n }
  if same then s
  else
    let s : State := { s with visitors := s.visitors.filter fun x => x.1 != d }
    ((List.range 48).map (48 * d + ·)).foldl (fun s p =>
      let lost := overflow s p (homeWays s p)
      if lost.isEmpty then s
      else
        let s := lost.foldl (fun s l => { s with dirty := s.dirty.del l }) s
        s.modSlice p fun q => { q with home := q.home.filter fun l => !lost.contains l }) s

/-- SLICECFG_WRITE. -/
def execSlicecfgWrite (m : Master) (d : Nat) (v : Word) (s : State) : Out := .next (asOwner s m fun s => writeSlicecfg s d v.toNat)

/-- A write of word w of OUTCFGo; W0 clears FREEZE, and the instants run from now. -/
def writeOutcfg (s : State) (o w : Nat) (v : Nat) : State :=
  let x := s.output o
  let x := match w with
    | 0 => { x with w0 := bits v 63 62 * 2 ^ 62 + bits v 50 32 * 2 ^ 32 + clampTo 100000 (2 ^ 32 - 1) (bits v 31 0), frozen := none }
    | 1 => { x with w1 := v }
    | _ => { x with w2 := bits v 46 12 * 4096 + clampTo 4 12 (bits v 3 0) }
  s.setOutput o (if w < 2 then { x with k := firstInstant x s.nanos } else x)

/-- OUTCFG_WRITE. -/
def execOutcfgWrite (m : Master) (o w : Nat) (v : Word) (s : State) : Out := .next (asOwner s m fun s => writeOutcfg s o w v.toNat)

/-! ## The other words (R401) -/

/-- A ROUTE value: no bit of a column that the router's skip channel does not lead towards, or would pass (R404). -/
def routeOk (col x0 v : Nat) : Bool :=
  (List.range 24).all fun x => !bitAt v x || (if col < 4 then x0 + 4 ≤ x else x + 4 ≤ x0)

/-- A word of a die's block. -/
def writeDieWord (s : State) (d off v : Nat) : State :=
  if off < 0x280 then
    let i := off / 8
    let (x, y) := routerXY d (i % 8) (i / 8)
    if routeOk (i % 8) x v then { s with routes := if v % 2 ^ 24 = 0 then s.routes.del (24 * y + x) else s.routes.put (24 * y + x) (v % 2 ^ 24) } else s
  else if off = 0x300 then writeSlicecfg s d v
  else if off = 0x308 then s.modDie d fun x => { x with memcfg := clampTo 1 255 (bits v 11 4) * 16 + bits v 0 0 }
  else if off = 0x310 then
    s.modDie d fun x => { x with dirpol := bits v 15 0 + clampTo 1 65535 (bits v 31 16) * 2 ^ 16 + clampTo 1 4 (bits v 34 32) * 2 ^ 32 }
  else s

/-- An attestation word; none is written while a report is under way (R443). -/
def writeAttest (s : State) (off v : Nat) : State :=
  if s.mgmt.attBusy then s
  else if off < 0xE0 then s.modMgmt fun m => { m with nonce := m.nonce.set ((off - 0xB0) / 8) (word v) }
  else if off = 0xE0 then s.modMgmt fun m => { m with attdest := bits v 46 12 * 4096 }
  else if bitAt v 0 then attest s
  else s

/-- KEYCMD: a refused operation reports ERR. -/
def writeKeycmd (s : State) (v : Nat) : State :=
  let slot := bits v 10 0
  match bits v 12 11 with
  | 0 => loadKey s slot
  | 1 => keyDone (setKey s slot none) slot 1 false
  | op => keyDone s slot op true

/-- A word of the package block, as its own rule stores it; words that are read only, or are none, ignore the write. -/
def writePkgWord (s : State) (m : Master) (off v : Nat) : State :=
  if off = 0x0 then { s with fabnum := v % 64 }
  else if off = 0x8 then { s with frame := { s.frame with master := bitAt v 0 } }
  else if off = 0x10 then
    if bitAt v 4 then claim s m else if bitAt v 5 then setOwner s 0 else offerTo s (bits v 3 2)
  else if off = 0x28 then setDrain s (bitAt v 0)
  else if off = 0x30 then s.modMgmt fun m => { m with pwrcap := clampTo 500 3000 (bits v 11 0) + bits v 12 12 * 2 ^ 12 }
  else if off = 0x48 then writeFence (s.modMgmt fun m => { m with fence := bits v 13 0 }) v
  else if off = 0x50 then writeKeycmd s v
  else if 0x58 ≤ off && off ≤ 0x98 then s.modMgmt fun m => { m with keydata := m.keydata.set ((off - 0x58) / 8) (word v) }
  else if off = 0xA0 then s.modMgmt fun m => { m with rasbase := bits v 46 12 * 4096 + clampTo 4 12 (bits v 3 0) }
  else if 0xB0 ≤ off && off ≤ 0xE8 then writeAttest s off v
  else if 0x100 ≤ off && off < 0x190 then
    let p := (off - 0x100) / 8
    s.modMgmt fun m => { m with ports := m.ports.put p { portOf s p with en := bitAt v 0 } }
  else if 0x200 ≤ off && off < 0x400 then
    s.modMgmt fun m => { m with destmap := if v % 2 ^ 18 = 0 then m.destmap.del ((off - 0x200) / 8) else m.destmap.put ((off - 0x200) / 8) (v % 2 ^ 18) }
  else if 0x400 ≤ off && off < 0x600 && off % 32 < 24 then writeOutcfg s ((off - 0x400) / 32) (off % 32 / 8) v
  else s

/-- CONFIG_WRITE: a doubleword of the package block or of a die's block. CLAIM alone needs no ownership (R437). -/
def execConfigWrite (m : Master) (die : Option Nat) (off : Nat) (v : Word) (s : State) : Out :=
  if off % 8 != 0 then .next s
  else
    match die with
    | some d => .next (asOwner s m fun s => writeDieWord s d off v.toNat)
    | none =>
      if off = 0x10 && v.getLsbD 4 then .next (claim s m) else .next (asOwner s m fun s => writePkgWord s m off v.toNat)

/-! ## Snapshots (R455) -/

/-- The records of a die's cores at one clk. -/
def snapRecord (s : State) (seq c : Nat) : List Nat :=
  let k := s.core c
  (seq % 2 ^ 32 + c * 2 ^ 32) :: s.nanos :: ((List.range 4).map fun i => (k.cnts.find i).getD 0) ++ [k.scopeMiss, 0]

/-- SNAP: the records are written, the writer goes on, vector 15 is raised. -/
def execSnap (t : Tid) (s : State) : Out :=
  match pendingWrite s t (· == 0x211) with
  | none => .next s
  | some (core, th, _, v) =>
    let d := dieOf core
    let a := keep v 46 12
    let seq := (s.die d).snapSeq
    let line := fun i => (snapRecord s seq (1024 * d + i)).zipIdx.flatMap fun x => bytesOf (a + 64 * i + 8 * x.2) x.1 8
    .next (writeLines s ((List.range 1024).map line) fun s =>
      emit ((s.modDie d fun x => { x with snapSeq := (x.snapSeq + 1) % 2 ^ 32 }).resume core th.uid) [.vector 15])

/-! ## Power and heat (R451, R452) -/

/-- HEALTH.CAPPED raises vector 12 when it changes. -/
def setLevel (s : State) (d l j : Nat) : State :=
  let t := s.modDie d fun x => { x with level := l, junction := j, lastTick := some s.clk }
  if capped s == capped t then t else emit t [.vector 12]

/-! ## Reset (R440) -/

/-- The package as reset leaves it: what is kept across a warm reset, and the environment's agenda. -/
def coldState (s : State) : State :=
  { State.reset with
    clk := s.clk, resetClk := s.clk + 1, agenda := s.agenda, fresh := s.fresh, freeCtr := s.freeCtr, sent := s.sent
    frame := { FrameClock.reset with off := -((s.clk / 3 : Nat) : Int), slewed := s.clk, lastMsg := s.clk }
    mgmt := { Mgmt.reset with thermtrip := s.mgmt.thermtrip, exhausted := s.mgmt.exhausted, aseq := s.mgmt.aseq } }

/-- A step of Table 16.3 has failed: its code, and the package halts. -/
def bringUpFails (s : State) (code : Nat) : State := s.modMgmt fun m => { m with bootstat := code, halted := true }

/-- Step 4: what fails its self-test is fenced or disabled. -/
def selfTest (s : State) : State :=
  let s := ((List.range 384).filter Config.clusterFails).foldl (fun s k => fence s true k) s
  let s := ((List.range 6144).filter Config.coreFails).foldl (fun s c => fence s false c) s
  ((List.range 288).flatMap fun p => ((List.range 12).filter (Config.wayFails p)).map fun w => (p, w)).foldl (fun s x => disableWay s x.1 x.2) s

/-- A slice has fewer than four usable ways. -/
def slicesShort (s : State) : Bool := (List.range 288).any fun p => 12 < countBits (sliceDisabled s p) 12 + 4

/-- The helm core of a die (R351): core 1023, or the highest that is not fenced. -/
def chooseHelm (s : State) (d : Nat) : Option Nat :=
  ((List.range 1024).map fun i => 1024 * d + (1023 - i)).find? fun c => !(s.core c).fenced

/-- Boot firmware starts one supervisor wave on a core (R13, R344): its program, its constants (R346) and its entry are the firmware's. -/
def startSupervisor (s : State) (core : Nat) : State :=
  let (uid, s) := s.new
  let code := (List.range 0x8000).map fun i => (tcmKey core (0x14000 + i), Config.firmwareByte core (0x14000 + i))
  let bank := (List.range 1408).map fun i => (bankKey core 4 i, Config.firmwareByte core i)
  { s with mem := memPutAll s.mem (code ++ bank) }.modCore core fun k =>
    { k with slots := k.slots.put 0 { supWave uid with pc := Config.firmwareEntry core } }

/-- Step 6: the translation service cores, then each die's helm core. -/
def startBoot (s : State) : State :=
  let s := ((List.range 384).filter fun k => !(s.core (6144 + k)).fenced).foldl (fun s k => startSupervisor s (6144 + k)) s
  (List.range 6).foldl (fun s d =>
    match chooseHelm s d with
    | none => s
    | some c => startSupervisor (s.modDie d fun x => { x with helmcore := x.helmcore / 2 ^ 13 * 2 ^ 13 + c }) c) s

/-- What the signatures of an image's header cover: the digest and the SVN (DEDUCED, notes/assumptions/97.md). -/
def headerBytes (i : Nat) : List Byte := digestBytes (Config.imageDigest i) ++ (bytesOf 0 (Config.imageSvn i).toNat 4).map (·.2)

/-- An image may run (R439): its signatures verify under keys with the fused digests, its digest is its own, its SVN is not below the fused
minimum. -/
def imageRuns (i : Nat) : Bool :=
  Config.ecdsaVerifies (Config.imageEcdsaKey i) (Config.sha384 (headerBytes i)) (Config.imageEcdsa i) &&
  Config.lmsVerifies (Config.imageLmsKey i) (headerBytes i) (Config.imageLms i) &&
  Config.sha384 (Config.imageEcdsaKey i) == Config.fusedEcdsa && Config.sha384 (Config.imageLmsKey i) == Config.fusedLms &&
  imageMeasured i == Config.imageDigest i && Config.fusedSvn.toNat ≤ (Config.imageSvn i).toNat

/-- An area of the firmware region (R441): 252 pages at most. -/
def firmwareArea (kind unit : Nat) : Word := word (Config.firmwareLo + 4096 * (Config.firmwarePage kind unit % (524288 - 255)))

/-- Step 5: the areas of the firmware region are allocated (R441; notes/assumptions/97.md). -/
def allocate (s : State) : State :=
  let s := (List.range 6528).foldl (fun s c => s.modCore c fun k => { k with spillBase := firmwareArea 0 c }) s
  let s := (List.range 384).foldl (fun s k => s.modCluster k fun q => { q with ctxbase := firmwareArea 1 k }) s
  (List.range 6).foldl (fun s d => s.modDie d fun x =>
    { x with trapqBase := firmwareArea 2 d, freplyBase := firmwareArea 3 d,
             reqbase := firmwareArea 4 d + word (Config.firmwarePage 5 d % 65) }) s

/-- Step 6: the images of the service cores and of the helms are checked, and started. -/
def startImages (s : State) : State :=
  if imageRuns 1 && imageRuns 2 then (startBoot s).modMgmt fun m => { m with bootstat := 7, ready := true, booting := false }
  else bringUpFails s 0x16

/-- The step that bring-up stands at is done (Table 16.3): the next one begins, or its code is written. One ends on each clk: DESIGN CHOICE, the
spec gives their order, not their time (notes/assumptions/97.md). -/
def bootStep (s : State) : State :=
  let next := fun s : State => s.modMgmt fun m => { m with bootstat := m.bootstat + 1 }
  if !s.mgmt.booting || s.mgmt.halted then s
  else match s.mgmt.bootstat with
    | 1 => next s
    | 2 => if imageRuns 0 then next s else bringUpFails s 0x12
    | 3 => if Config.stepPasses 3 then next s else bringUpFails s 0x13
    | 4 => if slicesShort (selfTest s) then bringUpFails (selfTest s) 0x14 else next (selfTest s)
    | 5 => next (allocate s)
    | 6 => startImages s
    | _ => s

/-- RESET: bring-up begins, unless the package is held for a thermal trip. -/
def execReset (s : State) : Out :=
  let t := coldState s
  .next (if t.mgmt.thermtrip then t.modMgmt fun m => { m with halted := true } else t)

/-- At 110 °C the package is held in reset until power is cycled. -/
def trip (s : State) (d j : Nat) : State :=
  let t := coldState (s.modMgmt fun m => { m with thermtrip := true })
  (t.modMgmt fun m => { m with halted := true }).modDie d fun x => { x with junction := j }

/-- THERMTRIP: a junction reaches 110 °C. -/
def execThermtrip (d : Nat) (s : State) : Out := .next (trip s d 110)

/-- POWER_CONTROL_TICK: each 10 µs the controller sets its level for the cap, and raises it by 8 while the die is too hot. It finds the junction at
95 °C, where it was below, and at 110 °C. -/
def execPowerControlTick (d level junction : Nat) (s : State) : Out :=
  let x := s.die d
  let due := match x.lastTick with | some t => t + micros 10 ≤ s.clk | none => true
  if !due then .next s
  else if 110 ≤ junction then .next (trip s d junction)
  else
    let was := (s.mgmt.hot.find d).getD false
    let hot := 100 ≤ junction || (was && 98 ≤ junction)
    let base := if bitAt s.mgmt.pwrcap 12 then level else 0
    let l := if hot then Nat.min 48 (Nat.max base (x.level + 8)) else base
    let s := if x.junction < 95 && 95 ≤ junction then emit s [.vector 11] else s
    .next (setLevel (s.modMgmt fun m => { m with hot := m.hot.put d hot }) d l junction)

/-- THERMAL_ALERT: a junction reaches 95 °C. -/
def execThermalAlert (d : Nat) (s : State) : Out :=
  .next (if (s.die d).junction < 95 then emit (s.modDie d fun x => { x with junction := 95 }) [.vector 11] else s)

/-- The event is one of Table 16.2, which are served while the package is brought up, and after that has failed (R440). -/
def ofOwnership : Instr → Bool
  | .mgmtClaim _ | .mgmtOffer _ _ | .mgmtRelease _ | .mgmtOfferExpiry | .mgmtOwnerPathDown _ => true
  | .configWrite _ none off _ => off == 0x10
  | _ => false

/-- A package that is held in reset, that a failed step has halted, or that is being brought up takes no event but RESET and those of its
ownership (R440, R452). -/
def heldOff (s : State) (i : Instr) : Bool :=
  (s.mgmt.halted || s.mgmt.booting) && !(ofOwnership i || i == .reset)

end Sys2Proof.Machine
end

