-- ==== Sys2Proof/Machine/ScalarFp.lean ====
section
/-!
DEFINITION. Meanings of the scalar floating-point operations (06 R181-R185).
-/
namespace Sys2Proof.Machine

/-- The format of a part, and the parts of T (Table 6.2) as bit offsets. -/
def fptFmt : FpT → Fmt | .f64 => .f64 | .f32 => .f32 | .f32x2 => .f32
def fptParts : FpT → List Nat | .f64 => [0] | .f32 => [0] | .f32x2 => [0, 32]

def partOf (t : FpT) (p : Nat) (x : Word) : Nat := x.toNat >>> p % 2 ^ fmtBits (fptFmt t)

/-- Part p of opb; an immediate is an f32 value, widened exactly for f64 and used in both parts of f32x2 (R181). -/
def opbPart (s : State) (c : Issue) (t : FpT) (p : Nat) : Opb → Nat
  | .sel b => partOf t p (selVal s c b)
  | .imm v => match t with
    | .f64 => widenImm v.toNat
    | _ => v.toNat
where
  /-- Exact widening; a NaN code keeps its place as quiet or signalling. -/
  widenImm (x : Nat) : Nat :=
    match fvOf .f32 x with
    | .nan _ => (bit (bitAt x 31) <<< 63) + 0x7FF0000000000000 + (x % 2 ^ 23) <<< 29
    | _ => (cvtFF .f32 .f64 .rne false x).1

/-- Each part of sd from the parts of sa, opb and the old sd; the flags of every part (R182, R185). -/
def fpOp (i : Instr) (sd sa : BitVec 6) (y : Issue → State → Nat → Nat) (t : FpT) (f : RMode → Nat → Nat → Nat → FR)
    (s : State) : Out :=
  start i s fun c s =>
    let rs := (fptParts t).map fun p =>
      (p, f (issRm c) (partOf t p (c.reg sa.toNat)) (y c s p) (partOf t p (c.reg sd.toNat)))
    let v := rs.foldl (fun a x => a + x.2.1 <<< x.1) 0
    let fl := rs.foldl (fun a x => a ||| x.2.2) 0
    retire (raiseScalar (s.setReg c sd.toNat (word v)) fl)

def fpOp2 (i : Instr) (sd sa : BitVec 6) (y : Opb) (t : FpT) (f : RMode → Nat → Nat → Nat → FR) (s : State) : Out :=
  fpOp i sd sa (fun c s p => opbPart s c t p y) t f s

/-- FADD (R182). -/
def execFadd (sd sa : BitVec 6) (y : Opb) (t : FpT) (s : State) : Out :=
  fpOp2 (.fadd sd sa y t) sd sa y t (fun m x y _ => fpAdd (fptFmt t) m x y) s

/-- FSUB (R182). -/
def execFsub (sd sa : BitVec 6) (y : Opb) (t : FpT) (s : State) : Out :=
  fpOp2 (.fsub sd sa y t) sd sa y t (fun m x y _ => fpSub (fptFmt t) m x y) s

/-- FMUL (R182). -/
def execFmul (sd sa : BitVec 6) (y : Opb) (t : FpT) (s : State) : Out :=
  fpOp2 (.fmul sd sa y t) sd sa y t (fun m x y _ => fpMul (fptFmt t) m x y) s

/-- FFMA (R182): the addend is the old sd. -/
def execFfma (sd sa : BitVec 6) (y : Opb) (t : FpT) (s : State) : Out :=
  fpOp2 (.ffma sd sa y t) sd sa y t (fun m x y z => fpFma (fptFmt t) m false false x y z) s

/-- FDIV (R182). -/
def execFdiv (sd sa : BitVec 6) (y : Opb) (t : FpT) (s : State) : Out :=
  fpOp2 (.fdiv sd sa y t) sd sa y t (fun m x y _ => fpDiv (fptFmt t) m x y) s

/-- FSQRT (R182). -/
def execFsqrt (sd sa : BitVec 6) (t : FpT) (s : State) : Out :=
  fpOp (.fsqrt sd sa t) sd sa (fun _ _ _ => 0) t (fun m x _ _ => fpSqrt (fptFmt t) m x) s

/-- FMIN (R182, Table 4.6). -/
def execFmin (sd sa : BitVec 6) (y : Opb) (t : FpT) (s : State) : Out :=
  fpOp2 (.fmin sd sa y t) sd sa y t (fun _ x y _ => minMax (fptFmt t) false false x y) s

/-- FMAX (R182, Table 4.6). -/
def execFmax (sd sa : BitVec 6) (y : Opb) (t : FpT) (s : State) : Out :=
  fpOp2 (.fmax sd sa y t) sd sa y t (fun _ x y _ => minMax (fptFmt t) true false x y) s

/-- FSET (R183). -/
def execFset (sd sa : BitVec 6) (y : Opb) (c : FCond) (t : FpT) (s : State) : Out :=
  fpOp2 (.fset sd sa y c t) sd sa y t
    (fun _ x y _ => let r := fpCond c (fvOf (fptFmt t) x) (fvOf (fptFmt t) y); (bit r.1, r.2)) s

/-- FABS (R183): the sign bit of each part cleared, no flag. -/
def execFabs (sd sa : BitVec 6) (t : FpT) (s : State) : Out :=
  fpOp (.fabs sd sa t) sd sa (fun _ _ _ => 0) t (fun _ x _ _ => (fpAbs (fptFmt t) x, 0)) s

/-- The conversions of Table 5.15, on the source register's value (R184). -/
def fcvtVal (m : RMode) (code : Nat) (x : Nat) : FR :=
  let ext := fun (r : FR) => (ofSigned 64 (toSigned 32 r.1), r.2)
  match code with
  | 0 => cvtFF .f64 .f32 m false x
  | 1 => cvtFF .f32 .f64 m false (x % 2 ^ 32)
  | 2 => cvtFF .f32 .f16 m false (x % 2 ^ 32)
  | 3 => cvtFF .f16 .f32 m false (x % 2 ^ 16)
  | 4 => cvtFF .f32 .bf16 m false (x % 2 ^ 32)
  | 5 => cvtFF .bf16 .f32 m false (x % 2 ^ 16)
  | 6 => cvtFI .f64 m 64 true x
  | 7 => cvtFI .f64 m 64 false x
  | 8 => cvtIF .f64 m (toSigned 64 x)
  | 9 => cvtIF .f64 m x
  | 10 => ext (cvtFI .f32 m 32 true (x % 2 ^ 32))
  | 11 => cvtFI .f32 m 32 false (x % 2 ^ 32)
  | 12 => cvtIF .f32 m (toSigned 32 x)
  | 13 => cvtIF .f32 m ((x % 2 ^ 32 : Nat) : Int)
  | 14 => cvtFI .f64 .rtz 64 true x
  | _ => ext (cvtFI .f32 .rtz 32 true (x % 2 ^ 32))

/-- FCVT (R184). -/
def execFcvt (sd sa : BitVec 6) (code : BitVec 4) (s : State) : Out :=
  start (.fcvt sd sa code) s fun c s =>
    let r := fcvtVal (issRm c) code.toNat (c.reg sa.toNat).toNat
    retire (raiseScalar (s.setReg c sd.toNat (word r.1)) r.2)

end Sys2Proof.Machine
end

