-- ==== Sys2Proof/Machine/Dispatch.lean ====
section
/-!
DEFINITION. One arm per row of the table: its meaning.
-/
namespace Sys2Proof.Machine

def exec (i : Instr) (s : State) : Host.Outcome State Fault Refusal :=
  match i with
  | .nop => Sys2Proof.Machine.execNop s
  | .bc sa c imm => Sys2Proof.Machine.execBc sa c imm s
  | .jmp imm => Sys2Proof.Machine.execJmp imm s
  | .jmpi sa b => Sys2Proof.Machine.execJmpi sa b s
  | .call sd imm => Sys2Proof.Machine.execCall sd imm s
  | .calli sd sa b => Sys2Proof.Machine.execCalli sd sa b s
  | .ret sa => Sys2Proof.Machine.execRet sa s
  | .trap code => Sys2Proof.Machine.execTrap code s
  | .tret => Sys2Proof.Machine.execTret s
  | .brk => Sys2Proof.Machine.execBrk s
  | .mfsr sd num => Sys2Proof.Machine.execMfsr sd num s
  | .mtsr sa num => Sys2Proof.Machine.execMtsr sa num s
  | .qwidth sd sa b => Sys2Proof.Machine.execQwidth sd sa b s
  | .waitline sd sa b => Sys2Proof.Machine.execWaitline sd sa b s
  | .add sd sa y zx sat w => Sys2Proof.Machine.execAdd sd sa y zx sat w s
  | .sub sd sa y zx sat w => Sys2Proof.Machine.execSub sd sa y zx sat w s
  | .mul sd sa y zx sat w => Sys2Proof.Machine.execMul sd sa y zx sat w s
  | .mulh sd sa y zx w => Sys2Proof.Machine.execMulh sd sa y zx w s
  | .mulhn sd sa y zx w => Sys2Proof.Machine.execMulhn sd sa y zx w s
  | .div sd sa y zx w => Sys2Proof.Machine.execDiv sd sa y zx w s
  | .divn sd sa y zx w => Sys2Proof.Machine.execDivn sd sa y zx w s
  | .rem sd sa y zx w => Sys2Proof.Machine.execRem sd sa y zx w s
  | .remn sd sa y zx w => Sys2Proof.Machine.execRemn sd sa y zx w s
  | .and sd sa y zx w => Sys2Proof.Machine.execAnd sd sa y zx w s
  | .or sd sa y zx w => Sys2Proof.Machine.execOr sd sa y zx w s
  | .xor sd sa y zx w => Sys2Proof.Machine.execXor sd sa y zx w s
  | .andn sd sa y zx w => Sys2Proof.Machine.execAndn sd sa y zx w s
  | .shl sd sa y zx w => Sys2Proof.Machine.execShl sd sa y zx w s
  | .shr sd sa y zx w => Sys2Proof.Machine.execShr sd sa y zx w s
  | .sha sd sa y zx w => Sys2Proof.Machine.execSha sd sa y zx w s
  | .rol sd sa y zx w => Sys2Proof.Machine.execRol sd sa y zx w s
  | .min sd sa y zx w => Sys2Proof.Machine.execMin sd sa y zx w s
  | .max sd sa y zx w => Sys2Proof.Machine.execMax sd sa y zx w s
  | .minn sd sa y zx w => Sys2Proof.Machine.execMinn sd sa y zx w s
  | .maxn sd sa y zx w => Sys2Proof.Machine.execMaxn sd sa y zx w s
  | .abs sd sa zx w => Sys2Proof.Machine.execAbs sd sa zx w s
  | .clz sd sa zx w => Sys2Proof.Machine.execClz sd sa zx w s
  | .ctz sd sa zx w => Sys2Proof.Machine.execCtz sd sa zx w s
  | .popc sd sa zx w => Sys2Proof.Machine.execPopc sd sa zx w s
  | .brev sd sa zx w => Sys2Proof.Machine.execBrev sd sa zx w s
  | .sext sd sa y zx w => Sys2Proof.Machine.execSext sd sa y zx w s
  | .bfx sd sa y zx w => Sys2Proof.Machine.execBfx sd sa y zx w s
  | .bfi sd sa y zx w => Sys2Proof.Machine.execBfi sd sa y zx w s
  | .seq sd sa y w => Sys2Proof.Machine.execSeq sd sa y w s
  | .sne sd sa y w => Sys2Proof.Machine.execSne sd sa y w s
  | .slt sd sa y w => Sys2Proof.Machine.execSlt sd sa y w s
  | .sltn sd sa y w => Sys2Proof.Machine.execSltn sd sa y w s
  | .sel sd sa y => Sys2Proof.Machine.execSel sd sa y s
  | .lea sd sa y sh => Sys2Proof.Machine.execLea sd sa y sh s
  | .li sd imm => Sys2Proof.Machine.execLi sd imm s
  | .lih sd imm => Sys2Proof.Machine.execLih sd imm s
  | .fadd sd sa y t => Sys2Proof.Machine.execFadd sd sa y t s
  | .fsub sd sa y t => Sys2Proof.Machine.execFsub sd sa y t s
  | .fmul sd sa y t => Sys2Proof.Machine.execFmul sd sa y t s
  | .ffma sd sa y t => Sys2Proof.Machine.execFfma sd sa y t s
  | .fdiv sd sa y t => Sys2Proof.Machine.execFdiv sd sa y t s
  | .fsqrt sd sa t => Sys2Proof.Machine.execFsqrt sd sa t s
  | .fmin sd sa y t => Sys2Proof.Machine.execFmin sd sa y t s
  | .fmax sd sa y t => Sys2Proof.Machine.execFmax sd sa y t s
  | .fset sd sa y c t => Sys2Proof.Machine.execFset sd sa y c t s
  | .fcvt sd sa code => Sys2Proof.Machine.execFcvt sd sa code s
  | .fabs sd sa t => Sys2Proof.Machine.execFabs sd sa t s
  | .ldb sd sa y lax => Sys2Proof.Machine.execLdb sd sa y lax s
  | .ldbn sd sa y lax => Sys2Proof.Machine.execLdbn sd sa y lax s
  | .ldh sd sa y lax => Sys2Proof.Machine.execLdh sd sa y lax s
  | .ldhn sd sa y lax => Sys2Proof.Machine.execLdhn sd sa y lax s
  | .ldw sd sa y lax => Sys2Proof.Machine.execLdw sd sa y lax s
  | .ldwn sd sa y lax => Sys2Proof.Machine.execLdwn sd sa y lax s
  | .ldd sd sa y lax => Sys2Proof.Machine.execLdd sd sa y lax s
  | .stb sd sa y => Sys2Proof.Machine.execStb sd sa y s
  | .sth sd sa y => Sys2Proof.Machine.execSth sd sa y s
  | .stw sd sa y => Sys2Proof.Machine.execStw sd sa y s
  | .std sd sa y => Sys2Proof.Machine.execStd sd sa y s
  | .lda sd sa y scope => Sys2Proof.Machine.execLda sd sa y scope s
  | .stl sd sa y scope => Sys2Proof.Machine.execStl sd sa y scope s
  | .pref sa y lax => Sys2Proof.Machine.execPref sa y lax s
  | .amo sd sa vb k o scope => Sys2Proof.Machine.execAmo sd sa vb k o scope s
  | .amow sd sa vb k o scope => Sys2Proof.Machine.execAmow sd sa vb k o scope s
  | .cas sd sa vb vc o scope => Sys2Proof.Machine.execCas sd sa vb vc o scope s
  | .casw sd sa vb vc o scope => Sys2Proof.Machine.execCasw sd sa vb vc o scope s
  | .amof sd sa vb k single o scope => Sys2Proof.Machine.execAmof sd sa vb k single o scope s
  | .fence o scope => Sys2Proof.Machine.execFence o scope s
  | .barc => Sys2Proof.Machine.execBarc s
  | .barg => Sys2Proof.Machine.execBarg s
  | .develop => Sys2Proof.Machine.execDevelop s
  | .trim sd sa b => Sys2Proof.Machine.execTrim sd sa b s
  | .semw sd sa sem thr scope => Sys2Proof.Machine.execSemw sd sa sem thr scope s
  | .sems sd sa sem inc scope => Sys2Proof.Machine.execSems sd sa sem inc scope s
  | .trav => Sys2Proof.Machine.execTrav s
  | .travAcc => Sys2Proof.Machine.execTravAcc s
  | .travEnd => Sys2Proof.Machine.execTravEnd s
  | .travInst b => Sys2Proof.Machine.execTravInst b s
  | .hop => Sys2Proof.Machine.execHop s
  | .go sa b => Sys2Proof.Machine.execGo sa b s
  | .spawn sd imm => Sys2Proof.Machine.execSpawn sd imm s
  | .fend => Sys2Proof.Machine.execFend s
  | .fyield => Sys2Proof.Machine.execFyield s
  | .hqpush sa => Sys2Proof.Machine.execHqpush sa s
  | .rgen sd sa b => Sys2Proof.Machine.execRgen sd sa b s
  | .vnop => Sys2Proof.Machine.execVnop s
  | .vadd vd va y ms e => Sys2Proof.Machine.execVadd vd va y ms e s
  | .vsub vd va y ms e => Sys2Proof.Machine.execVsub vd va y ms e s
  | .vmul vd va y ms e => Sys2Proof.Machine.execVmul vd va y ms e s
  | .vfma vd va y ms e => Sys2Proof.Machine.execVfma vd va y ms e s
  | .vfms vd va y ms e => Sys2Proof.Machine.execVfms vd va y ms e s
  | .vfnma vd va y ms e => Sys2Proof.Machine.execVfnma vd va y ms e s
  | .vmin vd va y ms e => Sys2Proof.Machine.execVmin vd va y ms e s
  | .vmax vd va y ms e => Sys2Proof.Machine.execVmax vd va y ms e s
  | .vminp vd va y ms e => Sys2Proof.Machine.execVminp vd va y ms e s
  | .vmaxp vd va y ms e => Sys2Proof.Machine.execVmaxp vd va y ms e s
  | .vabs vd va ms e => Sys2Proof.Machine.execVabs vd va ms e s
  | .vneg vd va ms e => Sys2Proof.Machine.execVneg vd va ms e s
  | .vcmp vd va c y ms e => Sys2Proof.Machine.execVcmp vd va c y ms e s
  | .vclass vd va ms e => Sys2Proof.Machine.execVclass vd va ms e s
  | .vround vd va rm ms e => Sys2Proof.Machine.execVround vd va rm ms e s
  | .vfract vd va ms e => Sys2Proof.Machine.execVfract vd va ms e s
  | .vcopysign vd va y ms e => Sys2Proof.Machine.execVcopysign vd va y ms e s
  | .vldexp vd va y ms e => Sys2Proof.Machine.execVldexp vd va y ms e s
  | .vfrexp vd va ms e => Sys2Proof.Machine.execVfrexp vd va ms e s
  | .vdiv vd va y ms e => Sys2Proof.Machine.execVdiv vd va y ms e s
  | .vsqrt vd va ms e => Sys2Proof.Machine.execVsqrt vd va ms e s
  | .vrcp vd va ms e => Sys2Proof.Machine.execVrcp vd va ms e s
  | .vrsq vd va ms e => Sys2Proof.Machine.execVrsq vd va ms e s
  | .vexp2 vd va ms e => Sys2Proof.Machine.execVexp2 vd va ms e s
  | .vlog2 vd va ms e => Sys2Proof.Machine.execVlog2 vd va ms e s
  | .vsin vd va ms e => Sys2Proof.Machine.execVsin vd va ms e s
  | .vcos vd va ms e => Sys2Proof.Machine.execVcos vd va ms e s
  | .vtanh vd va ms e => Sys2Proof.Machine.execVtanh vd va ms e s
  | .viadd vd va y ms et => Sys2Proof.Machine.execViadd vd va y ms et s
  | .visub vd va y ms et => Sys2Proof.Machine.execVisub vd va y ms et s
  | .vimul vd va y ms et => Sys2Proof.Machine.execVimul vd va y ms et s
  | .vimulh vd va y ms et => Sys2Proof.Machine.execVimulh vd va y ms et s
  | .vimad vd va y ms et => Sys2Proof.Machine.execVimad vd va y ms et s
  | .vimin vd va y ms et => Sys2Proof.Machine.execVimin vd va y ms et s
  | .vimax vd va y ms et => Sys2Proof.Machine.execVimax vd va y ms et s
  | .viabs vd va ms et => Sys2Proof.Machine.execViabs vd va ms et s
  | .vand vd va y ms et => Sys2Proof.Machine.execVand vd va y ms et s
  | .vor vd va y ms et => Sys2Proof.Machine.execVor vd va y ms et s
  | .vxor vd va y ms et => Sys2Proof.Machine.execVxor vd va y ms et s
  | .vandn vd va y ms et => Sys2Proof.Machine.execVandn vd va y ms et s
  | .vshl vd va y ms et => Sys2Proof.Machine.execVshl vd va y ms et s
  | .vshr vd va y ms et => Sys2Proof.Machine.execVshr vd va y ms et s
  | .vsha vd va y ms et => Sys2Proof.Machine.execVsha vd va y ms et s
  | .vicmp vd va c y ms et => Sys2Proof.Machine.execVicmp vd va c y ms et s
  | .vpopc vd va ms et => Sys2Proof.Machine.execVpopc vd va ms et s
  | .vclz vd va ms et => Sys2Proof.Machine.execVclz vd va ms et s
  | .vsatadd vd va y ms et => Sys2Proof.Machine.execVsatadd vd va y ms et s
  | .vsatsub vd va y ms et => Sys2Proof.Machine.execVsatsub vd va y ms et s
  | .vidiv vd va y ms et => Sys2Proof.Machine.execVidiv vd va y ms et s
  | .virem vd va y ms et => Sys2Proof.Machine.execVirem vd va y ms et s
  | .vbitsel vd va vb ms et => Sys2Proof.Machine.execVbitsel vd va vb ms et s
  | .vbfx vd va y ms et => Sys2Proof.Machine.execVbfx vd va y ms et s
  | .vbfi vd va y ms et => Sys2Proof.Machine.execVbfi vd va y ms et s
  | .vwhile vd va vb ms et => Sys2Proof.Machine.execVwhile vd va vb ms et s
  | .vmatch vd va ms et => Sys2Proof.Machine.execVmatch vd va ms et s
  | .vmov vd va ms et => Sys2Proof.Machine.execVmov vd va ms et s
  | .vsplat vd va ms et => Sys2Proof.Machine.execVsplat vd va ms et s
  | .vmovi vd imm ms et => Sys2Proof.Machine.execVmovi vd imm ms et s
  | .vext vd va vb ms et => Sys2Proof.Machine.execVext vd va vb ms et s
  | .vins vd va vb ms et => Sys2Proof.Machine.execVins vd va vb ms et s
  | .vperm vd va vb ms et => Sys2Proof.Machine.execVperm vd va vb ms et s
  | .vrot vd va y ms et => Sys2Proof.Machine.execVrot vd va y ms et s
  | .vslideup vd va y ms et => Sys2Proof.Machine.execVslideup vd va y ms et s
  | .vslidedn vd va y ms et => Sys2Proof.Machine.execVslidedn vd va y ms et s
  | .viota vd ms et => Sys2Proof.Machine.execViota vd ms et s
  | .vsel vd va vb ms et => Sys2Proof.Machine.execVsel vd va vb ms et s
  | .vcompress vd va ms et => Sys2Proof.Machine.execVcompress vd va ms et s
  | .vexpand vd va ms et => Sys2Proof.Machine.execVexpand vd va ms et s
  | .vshfl vd va vb ms et => Sys2Proof.Machine.execVshfl vd va vb ms et s
  | .vredadd vd va ms et => Sys2Proof.Machine.execVredadd vd va ms et s
  | .vredmin vd va ms et => Sys2Proof.Machine.execVredmin vd va ms et s
  | .vredmax vd va ms et => Sys2Proof.Machine.execVredmax vd va ms et s
  | .vredand vd va ms et => Sys2Proof.Machine.execVredand vd va ms et s
  | .vredor vd va ms et => Sys2Proof.Machine.execVredor vd va ms et s
  | .vscanadd vd va ms et => Sys2Proof.Machine.execVscanadd vd va ms et s
  | .vscanmin vd va ms et => Sys2Proof.Machine.execVscanmin vd va ms et s
  | .vscanmax vd va ms et => Sys2Proof.Machine.execVscanmax vd va ms et s
  | .vcvt vd va ty sat ms et => Sys2Proof.Machine.execVcvt vd va ty sat ms et s
  | .vcvti vd va ty sat ms et => Sys2Proof.Machine.execVcvti vd va ty sat ms et s
  | .vnarrow vd va ty sat ms et => Sys2Proof.Machine.execVnarrow vd va ty sat ms et s
  | .vwiden vd va ty sat ms et => Sys2Proof.Machine.execVwiden vd va ty sat ms et s
  | .vqmx vd va ty ms et => Sys2Proof.Machine.execVqmx vd va ty ms et s
  | .vdqmx vd va ty ms et => Sys2Proof.Machine.execVdqmx vd va ty ms et s
  | .vld vd base imm lax ms et => Sys2Proof.Machine.execVld vd base imm lax ms et s
  | .vst vd base imm ms et => Sys2Proof.Machine.execVst vd base imm ms et s
  | .vlds vd base stride imm lax ms et => Sys2Proof.Machine.execVlds vd base stride imm lax ms et s
  | .vsts vd base stride imm ms et => Sys2Proof.Machine.execVsts vd base stride imm ms et s
  | .vgath vd va base imm zx sc lax ms et => Sys2Proof.Machine.execVgath vd va base imm zx sc lax ms et s
  | .vscat vd va base imm zx sc ms et => Sys2Proof.Machine.execVscat vd va base imm zx sc ms et s
  | .vldb vd base imm lax ms et => Sys2Proof.Machine.execVldb vd base imm lax ms et s
  | .vamo vd va base imm zx sc k o scope ms et => Sys2Proof.Machine.execVamo vd va base imm zx sc k o scope ms et s
  | .vamof vd va base imm zx sc k o scope ms et => Sys2Proof.Machine.execVamof vd va base imm zx sc k o scope ms et s
  | .vhqpop vd vb ms => Sys2Proof.Machine.execVhqpop vd vb ms s
  | .vraygen vd va vb ms => Sys2Proof.Machine.execVraygen vd va vb ms s
  | .vaccrd vd tile ctx vb ms et => Sys2Proof.Machine.execVaccrd vd tile ctx vb ms et s
  | .vaccwr vd tile ctx vb ms et => Sys2Proof.Machine.execVaccwr vd tile ctx vb ms et s
  | .vdot4 vd va y ms et => Sys2Proof.Machine.execVdot4 vd va y ms et s
  | .vbfdot vd va vb ms => Sys2Proof.Machine.execVbfdot vd va vb ms s
  | .vhash vd va vb ms et => Sys2Proof.Machine.execVhash vd va vb ms et s
  | .cpy h src dst len => Sys2Proof.Machine.execCpy h src dst len s
  | .cpy2 h src dst rows rowb sstr dstr => Sys2Proof.Machine.execCpy2 h src dst rows rowb sstr dstr s
  | .cpyt h src dst rows cols sstr dstr esz => Sys2Proof.Machine.execCpyt h src dst rows cols sstr dstr esz s
  | .cpyb h src dst rows cols sstr bsz role tr => Sys2Proof.Machine.execCpyb h src dst rows cols sstr bsz role tr s
  | .cpym h src doff die len cmask => Sys2Proof.Machine.execCpym h src doff die len cmask s
  | .cpyr h src dst len ty => Sys2Proof.Machine.execCpyr h src dst len ty s
  | .cpyg h src dst count gsz => Sys2Proof.Machine.execCpyg h src dst count gsz s
  | .pref2 h addr len => Sys2Proof.Machine.execPref2 h addr len s
  | .flush h addr len => Sys2Proof.Machine.execFlush h addr len s
  | .fillz h addr len => Sys2Proof.Machine.execFillz h addr len s
  | .mma h va vb tile ctx ta tb => Sys2Proof.Machine.execMma h va vb tile ctx ta tb s
  | .mmax h va vb vs tile ctx ta tb => Sys2Proof.Machine.execMmax h va vb vs tile ctx ta tb s
  | .mzero h tmask ctx => Sys2Proof.Machine.execMzero h tmask ctx s
  | .mld h addr tile ctx stride => Sys2Proof.Machine.execMld h addr tile ctx stride s
  | .mst h addr tile ctx stride => Sys2Proof.Machine.execMst h addr tile ctx stride s
  | .rmmak h rseq sreg rig kb mx ta tb ctx tile apanel bpanel => Sys2Proof.Machine.execRmmak h rseq sreg rig kb mx ta tb ctx tile apanel bpanel s
  | .rmman h rseq sreg rig kb mx ta tb ctx tile apanel bpanel => Sys2Proof.Machine.execRmman h rseq sreg rig kb mx ta tb ctx tile apanel bpanel s
  | .semop h core sem v => Sys2Proof.Machine.execSemop h core sem v s
  | .semset h core sem v => Sys2Proof.Machine.execSemset h core sem v s
  | .mcas h block count o => Sys2Proof.Machine.execMcas h block count o s
  | .launch h hdr => Sys2Proof.Machine.execLaunch h hdr s
  | .spawnt h reg => Sys2Proof.Machine.execSpawnt h reg s
  | .lstat h id => Sys2Proof.Machine.execLstat h id s
  | .fpost h base bytes fnum out => Sys2Proof.Machine.execFpost h base bytes fnum out s
  | .fclk h t => Sys2Proof.Machine.execFclk h t s
  | .sceneb h table => Sys2Proof.Machine.execSceneb h table s
  | .waycfg h slice ways mode => Sys2Proof.Machine.execWaycfg h slice ways mode s
  | .preempt h core slots => Sys2Proof.Machine.execPreempt h core slots s
  | .issueTurn core => Sys2Proof.Machine.execIssueTurn core s
  | .longAccessReply t => Sys2Proof.Machine.execLongAccessReply t s
  | .fibreQuantumExpiry core slot => Sys2Proof.Machine.execFibreQuantumExpiry core slot s
  | .fibreArrival core => Sys2Proof.Machine.execFibreArrival core s
  | .refetchStart core => Sys2Proof.Machine.execRefetchStart core s
  | .refetchComplete core => Sys2Proof.Machine.execRefetchComplete core s
  | .taskTake core => Sys2Proof.Machine.execTaskTake core s
  | .taskComplete task => Sys2Proof.Machine.execTaskComplete task s
  | .stealRequest core => Sys2Proof.Machine.execStealRequest core s
  | .stealAnswer core => Sys2Proof.Machine.execStealAnswer core s
  | .stealReplyArrival core => Sys2Proof.Machine.execStealReplyArrival core s
  | .stealBackoffExpiry core => Sys2Proof.Machine.execStealBackoffExpiry core s
  | .gangStart cluster => Sys2Proof.Machine.execGangStart cluster s
  | .barrierArrivalCount core slot => Sys2Proof.Machine.execBarrierArrivalCount core slot s
  | .semwSatisfied t => Sys2Proof.Machine.execSemwSatisfied t s
  | .semaphoreUpdate core sem => Sys2Proof.Machine.execSemaphoreUpdate core sem s
  | .semsReleaseDone t => Sys2Proof.Machine.execSemsReleaseDone t s
  | .waitlineReload t => Sys2Proof.Machine.execWaitlineReload t s
  | .storeBufferSend core => Sys2Proof.Machine.execStoreBufferSend core s
  | .homeWritePerform req => Sys2Proof.Machine.execHomeWritePerform req s
  | .homeRead req => Sys2Proof.Machine.execHomeRead req s
  | .reservationRequest req => Sys2Proof.Machine.execReservationRequest req s
  | .reservationGrant req => Sys2Proof.Machine.execReservationGrant req s
  | .atomicRelease req => Sys2Proof.Machine.execAtomicRelease req s
  | .commandStart core => Sys2Proof.Machine.execCommandStart core s
  | .commandLineTake core num => Sys2Proof.Machine.execCommandLineTake core num s
  | .commandComplete core num => Sys2Proof.Machine.execCommandComplete core num s
  | .matrixTileStep core => Sys2Proof.Machine.execMatrixTileStep core s
  | .matrixStepComplete core ctx => Sys2Proof.Machine.execMatrixStepComplete core ctx s
  | .rigRun part rig => Sys2Proof.Machine.execRigRun part rig s
  | .rigComplete part rig => Sys2Proof.Machine.execRigComplete part rig s
  | .rigAbandon part rig => Sys2Proof.Machine.execRigAbandon part rig s
  | .rigPreemptTimeout core slot => Sys2Proof.Machine.execRigPreemptTimeout core slot s
  | .launchHeaderCheck core num => Sys2Proof.Machine.execLaunchHeaderCheck core num s
  | .launchDeferred core num => Sys2Proof.Machine.execLaunchDeferred core num s
  | .launchFill core lid => Sys2Proof.Machine.execLaunchFill core lid s
  | .distributorRecordWrite die => Sys2Proof.Machine.execDistributorRecordWrite die s
  | .taskRecordArrival msg => Sys2Proof.Machine.execTaskRecordArrival msg s
  | .launchComplete lid => Sys2Proof.Machine.execLaunchComplete lid s
  | .priorityAging lid => Sys2Proof.Machine.execPriorityAging lid s
  | .slotRestore core slot => Sys2Proof.Machine.execSlotRestore core slot s
  | .slotLend core slot => Sys2Proof.Machine.execSlotLend core slot s
  | .clusterTlbFill t => Sys2Proof.Machine.execClusterTlbFill t s
  | .missEntryOpen t => Sys2Proof.Machine.execMissEntryOpen t s
  | .pageWalk cluster asid vpage => Sys2Proof.Machine.execPageWalk cluster asid vpage s
  | .faultRecordWrite cluster => Sys2Proof.Machine.execFaultRecordWrite cluster s
  | .wake t => Sys2Proof.Machine.execWake t s
  | .faultReplyRetry die => Sys2Proof.Machine.execFaultReplyRetry die s
  | .faultReplyFail die => Sys2Proof.Machine.execFaultReplyFail die s
  | .faultReplyInval die => Sys2Proof.Machine.execFaultReplyInval die s
  | .faultReplyInvasid die => Sys2Proof.Machine.execFaultReplyInvasid die s
  | .tlbInsert t => Sys2Proof.Machine.execTlbInsert t s
  | .tlbInvpage t => Sys2Proof.Machine.execTlbInvpage t s
  | .tlbInvasid t => Sys2Proof.Machine.execTlbInvasid t s
  | .tlbInvclu t => Sys2Proof.Machine.execTlbInvclu t s
  | .ctxsyncWriteback cluster => Sys2Proof.Machine.execCtxsyncWriteback cluster s
  | .ctxsyncDrop cluster => Sys2Proof.Machine.execCtxsyncDrop cluster s
  | .debugHaltreq core slot => Sys2Proof.Machine.execDebugHaltreq core slot s
  | .debugResume core slot => Sys2Proof.Machine.execDebugResume core slot s
  | .lsplitWrite core v => Sys2Proof.Machine.execLsplitWrite core v s
  | .phasewinWrite cluster v => Sys2Proof.Machine.execPhasewinWrite cluster v s
  | .trimtabWrite core hi v => Sys2Proof.Machine.execTrimtabWrite core hi v s
  | .stealringLoad t => Sys2Proof.Machine.execStealringLoad t s
  | .scopeWrite t => Sys2Proof.Machine.execScopeWrite t s
  | .rigload t => Sys2Proof.Machine.execRigload t s
  | .snap t => Sys2Proof.Machine.execSnap t s
  | .partcfgWrite m p v => Sys2Proof.Machine.execPartcfgWrite m p v s
  | .slicecfgWrite m die v => Sys2Proof.Machine.execSlicecfgWrite m die v s
  | .outcfgWrite m out w v => Sys2Proof.Machine.execOutcfgWrite m out w v s
  | .configWrite m die offset v => Sys2Proof.Machine.execConfigWrite m die offset v s
  | .meshMessageDelivery msg => Sys2Proof.Machine.execMeshMessageDelivery msg s
  | .sliceMissFill slice line => Sys2Proof.Machine.execSliceMissFill slice line s
  | .sliceWriteback slice => Sys2Proof.Machine.execSliceWriteback slice s
  | .multicastWindowExpiry slice line => Sys2Proof.Machine.execMulticastWindowExpiry slice line s
  | .hbmRefresh die split => Sys2Proof.Machine.execHbmRefresh die split s
  | .directoryHop slice => Sys2Proof.Machine.execDirectoryHop slice s
  | .pagingComplete core => Sys2Proof.Machine.execPagingComplete core s
  | .evictionReport slice => Sys2Proof.Machine.execEvictionReport slice s
  | .directoryWindowExpiry slice => Sys2Proof.Machine.execDirectoryWindowExpiry slice s
  | .travEventDelivery core entry => Sys2Proof.Machine.execTravEventDelivery core entry s
  | .trayRecordArrival core => Sys2Proof.Machine.execTrayRecordArrival core s
  | .hostMemRequest q => Sys2Proof.Machine.execHostMemRequest q s
  | .hostBackInvalidateResponse line data => Sys2Proof.Machine.execHostBackInvalidateResponse line data s
  | .hostWriteback line data => Sys2Proof.Machine.execHostWriteback line data s
  | .hostCompletion req data => Sys2Proof.Machine.execHostCompletion req data s
  | .hostSnoop addr => Sys2Proof.Machine.execHostSnoop addr s
  | .stayPacketReceive p => Sys2Proof.Machine.execStayPacketReceive p s
  | .stayAckReceive ctx upto => Sys2Proof.Machine.execStayAckReceive ctx upto s
  | .stayResendTimeout ctx => Sys2Proof.Machine.execStayResendTimeout ctx s
  | .stayContextIdle ctx => Sys2Proof.Machine.execStayContextIdle ctx s
  | .stayAckTimer rctx => Sys2Proof.Machine.execStayAckTimer rctx s
  | .stayPortStateChange port st lanes => Sys2Proof.Machine.execStayPortStateChange port st lanes s
  | .frameTimingSend => Sys2Proof.Machine.execFrameTimingSend s
  | .frameTimingReceive time tier => Sys2Proof.Machine.execFrameTimingReceive time tier s
  | .frameHoldoverTimeout => Sys2Proof.Machine.execFrameHoldoverTimeout s
  | .presentInstant out => Sys2Proof.Machine.execPresentInstant out s
  | .mgmtClaim m => Sys2Proof.Machine.execMgmtClaim m s
  | .mgmtOffer m p => Sys2Proof.Machine.execMgmtOffer m p s
  | .mgmtRelease m => Sys2Proof.Machine.execMgmtRelease m s
  | .mgmtOfferExpiry => Sys2Proof.Machine.execMgmtOfferExpiry s
  | .mgmtOwnerPathDown downFor => Sys2Proof.Machine.execMgmtOwnerPathDown downFor s
  | .attestGo m => Sys2Proof.Machine.execAttestGo m s
  | .attestComplete => Sys2Proof.Machine.execAttestComplete s
  | .keyLoad m slot => Sys2Proof.Machine.execKeyLoad m slot s
  | .keyErase m slot => Sys2Proof.Machine.execKeyErase m slot s
  | .storageError e => Sys2Proof.Machine.execStorageError e s
  | .fenceGo m v => Sys2Proof.Machine.execFenceGo m v s
  | .drainSet m => Sys2Proof.Machine.execDrainSet m s
  | .drainClear m => Sys2Proof.Machine.execDrainClear m s
  | .drainComplete => Sys2Proof.Machine.execDrainComplete s
  | .powerControlTick die level junction => Sys2Proof.Machine.execPowerControlTick die level junction s
  | .thermalAlert die => Sys2Proof.Machine.execThermalAlert die s
  | .thermtrip die => Sys2Proof.Machine.execThermtrip die s
  | .reset => Sys2Proof.Machine.execReset s
  | .contextSaveComplete core slot => Sys2Proof.Machine.execContextSaveComplete core slot s

end Sys2Proof.Machine
end

