-- ==== Sys2Proof/Machine/Step.lean ====
section
/-!
DEFINITION. One step of the package: the next event of the agenda, or the issue turn of the next core, and the operations of the bundle
that it issues (notes/assumptions/1.md, 13.md).
-/
namespace Sys2Proof.Machine

/-- Cores in the order in which they act on this clk: clusters in turn, and in each the cores from (clk mod 16) on (R18). -/
def turnOrder (s : State) : List Nat :=
  (List.range 384).flatMap fun k => (List.range 16).map fun j => 16 * k + (s.clk + j) % 16

/-- Cores that can issue something: a thread in a slot, or a fibre in the run queue. -/
def hasWork (s : State) (core : Nat) : Bool :=
  match s.cores.find core with
  | none => false
  | some k => !k.slots.isEmpty || !k.rq.isEmpty

/-- The cores that act on a clk: compute cores in the order of R18, then translation service cores. -/
def turnsOf (s : State) : List Nat :=
  (turnOrder s).filter (hasWork s) ++ ((List.range 384).map (6144 + ·)).filter (hasWork s)

/-! ## What happens of itself

The spec fixes the clk of these events: a condition that holds is acted on then. The package takes them itself, in the order of R36, R49,
R52, R53 and R364: at the beginning of a clk the refetches, at its end the rest (notes/assumptions/1.md). -/

/-- These events come from no agenda. -/
def promised : Instr → Bool
  | .semaphoreUpdate _ _ | .semwSatisfied _ | .barrierArrivalCount _ _ | .refetchStart _ | .fibreArrival _ | .taskTake _ | .taskComplete _
  | .stealRequest _ | .stealAnswer _ | .stealReplyArrival _ | .stealBackoffExpiry _ | .gangStart _ | .semsReleaseDone _ | .commandStart _
  | .slotRestore _ _ | .launchDeferred _ _ | .mgmtOfferExpiry => true
  | _ => false

/-- At the beginning of a clk. One refetch of a core starts on it: DESIGN CHOICE, the spec gives no rate (notes/assumptions/101.md). -/
def openers (s : State) : List Instr :=
  (s.cores.filter fun x => !x.2.spill.isEmpty || x.2.refetchOn).map fun x => .refetchStart x.1

/-- The threads of a core of which a condition holds: the slots that hold such a wave or its image, and the run-queue entries. -/
def tidsWhere (s : State) (core : Nat) (k : Core) (p : Thr → Bool) : List Tid :=
  ((List.range 8).filter fun j => (wavesAt s core j).any fun w => p w.t).map (.wave core ·) ++
    (k.rq.filter fun x => p x.2.t).map fun x => .fibre core x.1

/-- The waits of its release are over, and a SEMS is ready, or another access ends at its home (R213, R228). -/
def releasedSems (s : State) (t : Thr) : Bool := match t.wait with | .release (.sems _ _ _ _) => !writesOut s t.uid | _ => false
def releasedOther (s : State) (t : Thr) : Bool :=
  match t.wait with | .release (.sems _ _ _ _) => false | .release _ => !writesOut s t.uid | _ => false

/-- Releases of a core's threads that are over, commands whose time has come, the semaphores that something is to change, the commands that
may start for it, and the threads that wait for one. A SEMW is tested on its issue clk too: DESIGN CHOICE (notes/assumptions/104.md). -/
def semClosers (s : State) (core : Nat) (k : Core) : List Instr :=
  let thrs := (wavesOf s core).map (·.t) ++ k.rq.map fun x => x.2.t
  let done := k.running.filter (completesNow s)
  let sems := k.semIn.map (·.1) ++ (thrs.filterMap (semsDue s)).map (·.1) ++ (done.filter (·.hdr.se)).map (·.hdr.ssem.toNat)
  ((tidsWhere s core k (releasedOther s)).map .longAccessReply) ++ ((tidsWhere s core k (releasedSems s)).map .semsReleaseDone) ++
    (done.map fun c => .commandComplete core c.num) ++ sems.eraseDups.map (.semaphoreUpdate core ·) ++
    List.replicate k.cmdq.length (.commandStart core) ++
    (tidsWhere s core k fun t => match t.wait with | .semw _ _ _ _ => true | _ => false).map .semwSatisfied

/-- Slots of a core with an arrival at a barrier, also of a saved thread. -/
def barrierClosers (s : State) (core : Nat) : List Instr :=
  let waits := fun w : Wave => match w.t.wait with | .barrier _ _ _ _ => true | _ => false
  ((List.range 8).filter fun k => (wavesAt s core k).any waits).map (.barrierArrivalCount core ·)

/-- The work of a core: its tasks complete, its saved threads return (R370), a stolen record starts, a record is taken, a request is
answered. -/
def workClosers (s : State) (core : Nat) (k : Core) : List Instr :=
  let news := s.clusters.any fun q => q.2.tilesNew.any fun t => t.1 == core
  ((s.tasks.filter fun x => x.2.core == core).map fun x => .taskComplete x.1) ++
    (((s.cluster (clusterOf core)).saved.filter fun x => x.core == core).map fun x => .slotRestore core x.slot) ++
    (if k.stolen.isSome then [.stealReplyArrival core] else []) ++
    (if news || !k.deque.isEmpty then [.taskTake core] else []) ++
    (if k.stealIn.isEmpty then [] else [.stealAnswer core])

/-- LAUNCHes that wait for room, in start order, and the offer of the package (R354, R438). -/
def packageClosers (s : State) : List Instr :=
  let l := s.cores.flatMap fun x => (x.2.running.filter fun c => isLaunch c.instr && c.phase == 6).map fun c => (c.started, x.1, c.num)
  ((l.mergeSort fun a b => a.1 ≤ b.1).map fun x => .launchDeferred x.2.1 x.2.2) ++ if s.mgmt.offer == 0 then [] else [.mgmtOfferExpiry]

/-- At the end of a clk. Of the gang tasks of a cluster one starts on it: DESIGN CHOICE (notes/assumptions/102.md). -/
def closers (s : State) : List Instr :=
  let cores := s.cores
  let idle := if s.mgmt.ready then List.range 6144 else cores.map (·.1)
  cores.flatMap (fun x => semClosers s x.1 x.2) ++
    cores.flatMap (fun x => barrierClosers s x.1) ++
    cores.flatMap (fun x => workClosers s x.1 x.2) ++
    ((cores.filter fun x => !x.2.arrivals.isEmpty).map fun x => .fibreArrival x.1) ++
    ((s.clusters.filter fun q => !q.2.gangq.isEmpty).map fun q => .gangStart q.1) ++
    idle.flatMap (fun c => [.stealBackoffExpiry c, .stealRequest c]) ++ packageClosers s

/-- The event that this step takes: the head of the agenda when its clk has come, else one that the package takes of itself, else the next
turn. When all turns of a clk are over its end comes; after that the clk advances. A step that only moves on takes no event. -/
def nextEvent (s : State) : Option Instr × State :=
  match s.agenda with
  | (t, i) :: l => if t ≤ s.clk then (if promised i then none else some i, { s with agenda := l }) else nextDue s
  | [] => nextDue s
where
  nextDue (s : State) : Option Instr × State :=
    match s.due, s.turns with
    | i :: l, _ => (some i, { s with due := l })
    | [], c :: l => (some (.issueTurn c), { s with turns := l })
    | [], [] =>
      if !s.closing then (none, { s with closing := true, due := closers s })
      else
        let s := bootStep (pumpDev s.devWait.length { s with clk := s.clk + 1, closing := false })
        (none, { s with turns := turnsOf s, due := openers s })

/-- Run the operations that an ISSUE_TURN has left, at most n. -/
def drain : Nat → State → Host.Outcome State Fault Refusal
  | 0, s => .next { s with issue := none, todo := [] }
  | n + 1, s =>
    match s.todo with
    | [] => .next { s with issue := none }
    | i :: l =>
      match exec i { s with todo := l } with
      | .next s => drain n s
      | .fault f => .fault f
      | .refused r => .refused r

/-- One step. -/
def step (s : State) : Host.Outcome State Fault Refusal :=
  match nextEvent s with
  | (none, s) => .next s
  | (some i, s) =>
    if heldOff s i then .next s
    else if wellFormed i then
      match exec i s with
      | .next s => drain 2 s
      | .fault f => .fault f
      | .refused r => .refused r
    else .refused .illFormed

/-- The state with this instruction as the next that a supervisor thread of core 0 issues (notes/assumptions/5.md). -/
def State.withFetchWord (s : State) (nbits w : Nat) : State :=
  let n := w % 2 ^ nbits
  let k := s.core 0
  let wave := { supWave s.fresh with pc := 0xFFFFFFFF00000600 }
  { s with
    mem := memPut s.mem (tcmKey 0 0x600) n 32
    fresh := s.fresh + 1
    resetClk := s.clk
    mgmt := { s.mgmt with booting := false }
    agenda := [(0, .issueTurn 0)]
    cores := s.cores.put 0 { k with slots := k.slots.put 0 wave, turns := k.turns.del 0, lastRead := none } }

end Sys2Proof.Machine
end

