-- ==== Sys2Proof/Machine/ConfigRead.lean ====
section
/-!
DEFINITION. The configuration space as a master reads it (15 R401; 16 R437, R440, R449): each word put together from what it shows. A read changes
nothing, and no event of the package makes one. R437 lets any master read.
-/
namespace Sys2Proof.Machine

/-- MGMTOWN (Table 16.1). -/
def mgmtown (s : State) : Nat := s.mgmt.owner % 4 + s.mgmt.offer % 4 * 4 + s.mgmt.denied % 2 ^ 16 * 2 ^ 16

/-- FCCFG (Table 15.11). -/
def fccfg (s : State) : Nat :=
  let f := s.frame
  bit f.master + bit f.lock * 2 + bit f.holdover * 4 + f.tier % 16 * 2 ^ 8 + f.steps % 2 ^ 16 * 2 ^ 16

/-- ATTCTL (Table 16.10). -/
def attctl (s : State) : Nat := bit s.mgmt.attBusy * 2 + bit s.mgmt.exhausted * 4 + bit s.mgmt.attErr * 8

/-- STAYPORTp (Table 15.9). -/
def stayport (s : State) (p : Nat) : Nat :=
  let x := portOf s p
  bit x.en + x.st % 4 * 2 + x.lanes % 16 * 2 ^ 8

/-- Word w of OUTCFGo (Table 15.12), FREEZE in its place. -/
def outcfg (s : State) (o w : Nat) : Nat :=
  let x := s.output o
  match w with
  | 0 => x.w0 + bit x.frozen.isSome * 2 ^ 52
  | 1 => x.w1
  | 2 => x.w2
  | _ => 0

/-- A word of the package block. An offset that names none reads 0, and KEYDATA and FENCE read as they were written (DESIGN CHOICE,
notes/assumptions/114.md). -/
def readPkgWord (s : State) (off : Nat) : Nat :=
  let m := s.mgmt
  if off = 0x0 then s.fabnum % 64
  else if off = 0x8 then fccfg s
  else if off = 0x10 then mgmtown s
  else if off = 0x18 then health s
  else if off = 0x20 then resources s
  else if off = 0x28 then bit m.draining
  else if off = 0x30 then m.pwrcap
  else if off = 0x48 then m.fence
  else if off = 0x50 then m.keycmd
  else if 0x58 ≤ off && off ≤ 0x98 then (m.keydata.getD ((off - 0x58) / 8) 0).toNat
  else if off = 0xA0 then m.rasbase
  else if 0xB0 ≤ off && off < 0xE0 then (m.nonce.getD ((off - 0xB0) / 8) 0).toNat
  else if off = 0xE0 then m.attdest
  else if off = 0xE8 then attctl s
  else if 0x100 ≤ off && off < 0x190 then stayport s ((off - 0x100) / 8)
  else if 0x200 ≤ off && off < 0x400 then (m.destmap.find ((off - 0x200) / 8)).getD 0
  else if 0x400 ≤ off && off < 0x600 then outcfg s ((off - 0x400) / 32) (off % 32 / 8)
  else 0

/-- WAYSTAT of a slice (R408). -/
def waystat (s : State) (p : Nat) : Nat := sliceDisabled s p % 2 ^ 12 + sliceScratch s p % 2 ^ 12 * 2 ^ 16

/-- A word of a die's block. -/
def readDieWord (s : State) (d off : Nat) : Nat :=
  if off < 0x280 then
    let (x, y) := routerXY d (off / 8 % 8) (off / 8 / 8)
    (s.routes.find (24 * y + x)).getD 0
  else if off = 0x300 then (s.die d).slicecfg
  else if off = 0x308 then (s.die d).memcfg
  else if off = 0x310 then (s.die d).dirpol
  else if 0x318 ≤ off && off < 0x318 + 8 * 48 then waystat s (48 * d + (off - 0x318) / 8)
  else 0

/-- The doubleword that a read of the configuration space returns: of the package block, or of a die's. -/
def configRead (s : State) (die : Option Nat) (off : Nat) : Word :=
  if off % 8 != 0 then 0
  else match die with
    | some d => word (readDieWord s d off)
    | none => word (readPkgWord s off)

end Sys2Proof.Machine
end

