-- ==== Sys2Proof/Safety.lean ====
section
/-!
DEFINITION. What counts as a safe run, and the terms in which claims about single operations are stated: when an operation of the open
bundle takes effect, and what the issuing thread's registers read as.
-/
namespace Sys2Proof.Machine

/-- The machine goes on: neither a fault nor a refusal. -/
def goesOn (o : Out) : Prop := ∃ t, o = .next t

/-- What holds after o, which goes on. -/
def yields (o : Out) (p : State → Prop) : Prop := ∃ t, o = .next t ∧ p t

/-- Operation i of the open bundle c takes effect: the bundle has passed its checks, or none of R161, R199, R207, R18 stops it. -/
def admits (s : State) (c : Issue) (i : Instr) : Prop :=
  s.issue = some c ∧ (c.checked = true ∨ fate s c (i :: s.todo) = .go)

/-- The bundle once its checks are behind it. -/
def Issue.passed (c : Issue) : Issue := { c with checked := true }

/-- The state on which i's effect falls: the special-function pipe has accepted the bundle's operations (R18, R175). -/
def opened (s : State) (c : Issue) (i : Instr) : State :=
  if c.checked then s else takeSfu { s with issue := some c.passed } c (i :: s.todo)

/-! ## The issuing thread -/

def waveOf (s : State) (c : Issue) : Option Wave := (s.core c.core).slots.find c.slot

/-- The thread stands where the bundle was issued: a wave in its slot, or a fibre in its run-queue entry. -/
def threadHere (s : State) (c : Issue) : Prop :=
  match c.entry with
  | some e => ((s.core c.core).rq.find e).isSome = true
  | none => (waveOf s c).isSome = true

/-- Register r of the issuing thread as it stands now: s0 to s63, or f0 to f8. -/
def regAt (s : State) (c : Issue) (r : Nat) : Word :=
  match c.entry with
  | some e => match (s.core c.core).rq.find e with | some x => fibreGet x.fib r | none => 0
  | none => match waveOf s c with | some w => waveGet w r | none => 0

/-- The registers that a thread has: s1 to s63, or f1 to f8. Register 0 reads zero and discards what is written (R21, R24). -/
def hasReg (c : Issue) (r : Nat) : Prop := 0 < r ∧ (if c.entry.isSome then r < 9 else r < 64)

/-- Vector register r as it stands now. -/
def vregAt (s : State) (c : Issue) (r : Nat) : VReg :=
  match waveOf s c with | some w => (if h : r < 32 then w.v[r]'h else 0) | none => 0

def pcAt (s : State) (c : Issue) : Word :=
  match c.entry with
  | some e => match (s.core c.core).rq.find e with | some x => x.fib.pc | none => 0
  | none => match waveOf s c with | some w => w.pc | none => 0

/-- Nothing of the bundle is left after this operation. -/
def lastOp (s : State) : Prop := s.todo = []

/-- FPFLAGS of the issuing wave as it stands now; a fibre has none (R128). -/
def flagsAt (s : State) (c : Issue) : Nat :=
  match c.entry with
  | some _ => 0
  | none => match waveOf s c with | some w => w.fpflags | none => 0

/-- The flags that the bundle will have raised once an operation has raised fl too: a fibre records none (R128). -/
def flagsWith (c : Issue) (fl : Nat) : Nat := if c.entry.isSome then 0 else c.sflags ||| c.vflags ||| fl

/-- None of these flags is enabled in FPMODE (R130). -/
def quiet (c : Issue) (fl : Nat) : Prop := fl &&& bits c.fpmode 12 8 = 0

/-! ## What an operation on registers leaves alone -/

/-- Everything outside the cores and the bundle in hand: memory, clusters, dies, partitions, launches, slices, requests, messages,
management, the clk, the free values. -/
def outside (s : State) : State := { s with cores := [], issue := none, todo := [] }

/-- A core but for its threads, its event counters and the special-function pipe: LSPLIT, the trim table, queues, tray, caches,
matrix contexts, debug and count registers. -/
def coreRest (k : Core) : Core := { k with slots := [], rq := [], cnts := [], sfuFree := 0 }

/-- A wave but for s, v, pc, FPFLAGS and the halt of a single step: the trap registers, UTVEC, FPMODE, its task, its tokens, its waits,
its TLB words. -/
def waveRest (w : Wave) : Wave := { w with s := Vector.replicate 64 0, v := Vector.replicate 32 0, pc := 0, fpflags := 0, saving := 0 }

/-- A run-queue entry but for f and pc: its state, tag, PRIO, SEQ, LAUNCH, ORIGIN. -/
def entryRest (x : RqEntry) : RqEntry := { x with fib := { x.fib with pc := 0, f := Vector.replicate 8 0 } }

/-- Nothing but the issuing thread's registers has changed from s to t: no other thread of the core, no other core, nothing outside. -/
def threadOnly (s : State) (c : Issue) (t : State) : Prop :=
  outside t = outside s ∧ (∀ n, n ≠ c.core → t.core n = s.core n) ∧ coreRest (t.core c.core) = coreRest (s.core c.core) ∧
  (∀ n, c.entry.isSome = true ∨ n ≠ c.slot → (t.core c.core).slots.find n = (s.core c.core).slots.find n) ∧
  (∀ e, c.entry ≠ some e → (t.core c.core).rq.find e = (s.core c.core).rq.find e) ∧
  (waveOf t c).map waveRest = (waveOf s c).map waveRest ∧
  ∀ e, c.entry = some e → ((t.core c.core).rq.find e).map entryRest = ((s.core c.core).rq.find e).map entryRest

/-- The bundle as the next operation finds it: the same operands and the same end, with the flags fl raised as well. -/
def handsOn (c : Issue) (fl : Nat) (d : Issue) : Prop :=
  d = { c with checked := true, sflags := d.sflags, vflags := d.vflags, lanes := d.lanes } ∧
  (c.entry = none → d.sflags ||| d.vflags = c.sflags ||| c.vflags ||| fl)

/-- The operation is done: when it is the bundle's last one, the pc has moved and FPFLAGS holds what the bundle raised; otherwise
neither has changed yet, and no bundle is left open after the last (R19, R128). -/
def completed (s : State) (c : Issue) (fl : Nat) (t : State) : Prop :=
  threadOnly s c t ∧ t.todo = s.todo ∧
  (lastOp s → pcAt t c = c.next ∧ flagsAt t c = flagsAt s c ||| flagsWith c fl ∧ t.issue = none) ∧
  (¬lastOp s → pcAt t c = pcAt s c ∧ flagsAt t c = flagsAt s c ∧ ∃ d, t.issue = some d ∧ handsOn c fl d)

/-- Scalar register r holds v, if the thread has it, and every other scalar and vector register is unchanged. -/
def wroteReg (s : State) (c : Issue) (r : Nat) (v : Word) (t : State) : Prop :=
  (∀ x, hasReg c x → regAt t c x = if x = r then v else regAt s c x) ∧ ∀ x, vregAt t c x = vregAt s c x

/-- Only vector register r has changed. -/
def onlyVReg (s : State) (c : Issue) (r : Nat) (t : State) : Prop :=
  (∀ x, regAt t c x = regAt s c x) ∧ ∀ x, x ≠ r → vregAt t c x = vregAt s c x

/-- No register has changed. -/
def noReg (s : State) (c : Issue) (t : State) : Prop := (∀ x, regAt t c x = regAt s c x) ∧ ∀ x, vregAt t c x = vregAt s c x

/-- The operation takes effect, its thread is there, and nothing that it and the bundle raise is enabled to trap. -/
def runs (s : State) (c : Issue) (i : Instr) (fl : Nat) : Prop :=
  admits s c i ∧ threadHere s c ∧ (lastOp s → c.entry = none → quiet c (flagsWith c fl))

/-! ## Between steps -/

/-- No bundle is half done: a step issues a bundle whole or not at all (R19). -/
def atRest (s : State) : Prop := s.issue = none ∧ s.todo = []

/-! ## Scalar integer results, said with bit vectors (06 R176-R180)

`wordAt` and `opbAt` are the operands at the width W; `ext` is the extension that ZX selects. -/

def wordAt (c : Issue) (w : IntW) (r : BitVec 6) : BitVec (widthOf w) := (c.reg r.toNat).setWidth (widthOf w)
def opbAt (s : State) (c : Issue) (w : IntW) (y : Opb) : BitVec (widthOf w) := (opb s c y).setWidth (widthOf w)
def ext (zx : Bool) {n : Nat} (v : BitVec n) : Word := if zx then v.setWidth 64 else v.signExtend 64

/-- x clamped to the range that ZX selects (R176). -/
def clamp (n : Nat) (zx : Bool) (x : Int) : BitVec n :=
  if zx then BitVec.ofInt n (max 0 (min (2 ^ n - 1) x)) else BitVec.ofInt n (max (-(2 ^ (n - 1))) (min (2 ^ (n - 1) - 1) x))

/-- The exact result of an operation on operands read by ZX. -/
def exact2 {n : Nat} (zx : Bool) (x y : BitVec n) (f : Int → Int → Int) : Int :=
  if zx then f x.toNat y.toNat else f x.toInt y.toInt

/-- The field of R178: its position, and its length once it ends inside the width. -/
def fieldPos (k : Nat) : Nat := k % 64
def fieldSize (n k : Nat) : Nat := if n ≤ k % 64 then 0 else min (k / 64 % 128) (n - k % 64)

/-- The register and the value that R176 to R180 give an integer operation. -/
def intResult (s : State) (c : Issue) : Instr → Option (BitVec 6 × Word)
  | .add sd sa y zx sat w => let a := wordAt c w sa; let b := opbAt s c w y
    some (sd, ext zx (if sat then clamp (widthOf w) zx (exact2 zx a b (· + ·)) else a + b))
  | .sub sd sa y zx sat w => let a := wordAt c w sa; let b := opbAt s c w y
    some (sd, ext zx (if sat then clamp (widthOf w) zx (exact2 zx a b (· - ·)) else a - b))
  | .mul sd sa y zx sat w => let a := wordAt c w sa; let b := opbAt s c w y
    some (sd, ext zx (if sat then clamp (widthOf w) zx (exact2 zx a b (· * ·)) else a * b))
  | .mulh sd sa y zx w =>
    some (sd, ext zx (BitVec.ofInt (widthOf w) ((wordAt c w sa).toInt * (opbAt s c w y).toInt / 2 ^ widthOf w)))
  | .mulhn sd sa y zx w =>
    some (sd, ext zx (BitVec.ofNat (widthOf w) ((wordAt c w sa).toNat * (opbAt s c w y).toNat / 2 ^ widthOf w)))
  | .div sd sa y zx w => let a := wordAt c w sa; let b := opbAt s c w y
    some (sd, ext zx (if b = 0 then BitVec.allOnes _ else a.sdiv b))
  | .divn sd sa y zx w => let a := wordAt c w sa; let b := opbAt s c w y
    some (sd, ext zx (if b = 0 then BitVec.allOnes _ else a.udiv b))
  | .rem sd sa y zx w => let a := wordAt c w sa; let b := opbAt s c w y
    some (sd, ext zx (if b = 0 then a else a.srem b))
  | .remn sd sa y zx w => let a := wordAt c w sa; let b := opbAt s c w y
    some (sd, ext zx (if b = 0 then a else a.umod b))
  | .and sd sa y zx w => some (sd, ext zx (wordAt c w sa &&& opbAt s c w y))
  | .or sd sa y zx w => some (sd, ext zx (wordAt c w sa ||| opbAt s c w y))
  | .xor sd sa y zx w => some (sd, ext zx (wordAt c w sa ^^^ opbAt s c w y))
  | .andn sd sa y zx w => some (sd, ext zx (wordAt c w sa &&& ~~~opbAt s c w y))
  | .shl sd sa y zx w => some (sd, ext zx (wordAt c w sa <<< ((opbAt s c w y).toNat % widthOf w)))
  | .shr sd sa y zx w => some (sd, ext zx (wordAt c w sa >>> ((opbAt s c w y).toNat % widthOf w)))
  | .sha sd sa y zx w => some (sd, ext zx ((wordAt c w sa).sshiftRight ((opbAt s c w y).toNat % widthOf w)))
  | .rol sd sa y zx w => some (sd, ext zx ((wordAt c w sa).rotateLeft ((opbAt s c w y).toNat % widthOf w)))
  | .min sd sa y zx w => let a := wordAt c w sa; let b := opbAt s c w y; some (sd, ext zx (if b.slt a then b else a))
  | .max sd sa y zx w => let a := wordAt c w sa; let b := opbAt s c w y; some (sd, ext zx (if a.slt b then b else a))
  | .minn sd sa y zx w => let a := wordAt c w sa; let b := opbAt s c w y; some (sd, ext zx (if b.ult a then b else a))
  | .maxn sd sa y zx w => let a := wordAt c w sa; let b := opbAt s c w y; some (sd, ext zx (if a.ult b then b else a))
  | .abs sd sa zx w => let a := wordAt c w sa; some (sd, ext zx (if a.msb then -a else a))
  | .clz sd sa zx w => some (sd, ext zx (BitVec.ofNat (widthOf w) (clzNat (widthOf w) (wordAt c w sa).toNat)))
  | .ctz sd sa zx w => some (sd, ext zx (BitVec.ofNat (widthOf w) (ctzNat (widthOf w) (wordAt c w sa).toNat)))
  | .popc sd sa zx w => some (sd, ext zx (BitVec.ofNat (widthOf w) (popcNat (widthOf w) (wordAt c w sa).toNat)))
  | .brev sd sa zx w => some (sd, ext zx (wordAt c w sa).reverse)
  | .sext sd sa y zx w => let k := (opb s c y).toNat
    some (sd, ext zx (((wordAt c w sa).extractLsb' 0 (min (k % 64 + 1) (widthOf w))).signExtend (widthOf w)))
  | .bfx sd sa y zx w => let k := (opb s c y).toNat; let e := fieldSize (widthOf w) k
    let f := (wordAt c w sa).extractLsb' (fieldPos k) e
    some (sd, ext zx (if zx then f.setWidth (widthOf w) else f.signExtend (widthOf w)))
  | .bfi sd sa y zx w => let k := (opb s c y).toNat; let e := fieldSize (widthOf w) k
    let m : BitVec (widthOf w) := BitVec.ofNat (widthOf w) (2 ^ e - 1) <<< fieldPos k
    some (sd, ext zx ((wordAt c w sd &&& ~~~m) ||| ((wordAt c w sa <<< fieldPos k) &&& m)))
  | .seq sd sa y w => some (sd, if wordAt c w sa = opbAt s c w y then 1 else 0)
  | .sne sd sa y w => some (sd, if wordAt c w sa = opbAt s c w y then 0 else 1)
  | .slt sd sa y w => some (sd, if (wordAt c w sa).slt (opbAt s c w y) then 1 else 0)
  | .sltn sd sa y w => some (sd, if (wordAt c w sa).ult (opbAt s c w y) then 1 else 0)
  | .sel sd sa y => some (sd, if c.reg sd.toNat = 0 then opb s c y else c.reg sa.toNat)
  | .lea sd sa y sh => some (sd, c.reg sa.toNat + opb s c y * 2 ^ sh.toNat)
  | .li sd imm => some (sd, imm.signExtend 64)
  | .lih sd imm => some (sd, imm ++ (c.reg sd.toNat).setWidth 32)
  | .qwidth sd sa b =>
    let k := (selVal s c b).toNat
    let w := fun j => widthField (constWord s c.core (s.issThr c) 181) j
    some (sd, if 5 < k then 0 else
      BitVec.ofNat 64 ((c.reg sa.toNat).toNat / 2 ^ ((List.range k).map w).sum % 2 ^ w k))
  | _ => none

/-! ## Control transfer (06 R186) -/

/-- The condition of BC on a register read as a signed number (Table 5.13). -/
def branchTaken : BCond → Word → Bool
  | .z, x => x == 0 | .nz, x => x != 0 | .lt, x => x.msb | .ge, x => !x.msb | .gt, x => !x.msb && x != 0 | .le, x => x.msb || x == 0

/-- Where a transfer goes, and the register that takes the link PC + 8. -/
def transfer (s : State) (c : Issue) : Instr → Option (Word × Option (BitVec 6))
  | .bc sa cd imm => some (if branchTaken cd (c.reg sa.toNat) then c.pc + imm.signExtend 64 else c.next, none)
  | .jmp imm => some (c.pc + imm.signExtend 64, none)
  | .jmpi sa b => some (c.reg sa.toNat + selVal s c b, none)
  | .call sd imm => some (c.pc + imm.signExtend 64, some sd)
  | .calli sd sa b => some (c.reg sa.toNat + selVal s c b, some sd)
  | .ret sa => some (c.reg sa.toNat, none)
  | _ => none

/-! ## Scalar floating-point results (06 R181-R185) -/

/-- The parts of T (Table 6.2): the value of sd and the flags of both. -/
def joinParts (t : FpT) (f : Nat → FR) : Word × Nat :=
  match t with
  | .f64 | .f32 => (word (f 0).1, (f 0).2)
  | .f32x2 => (word ((f 0).1 + (f 32).1 * 2 ^ 32), (f 0).2 ||| (f 32).2)

/-- The register, the value and the flags that R182 to R184 give a scalar floating-point operation. -/
def fpResult (s : State) (c : Issue) (i : Instr) : Option (BitVec 6 × Word × Nat) :=
  let m := issRm c
  let two := fun (sd sa : BitVec 6) (y : Opb) (t : FpT) (f : Nat → Nat → Nat → FR) =>
    some (sd, joinParts t fun p => f (partOf t p (c.reg sa.toNat)) (opbPart s c t p y) (partOf t p (c.reg sd.toNat)))
  match i with
  | .fadd sd sa y t => two sd sa y t fun a b _ => fpAdd (fptFmt t) m a b
  | .fsub sd sa y t => two sd sa y t fun a b _ => fpSub (fptFmt t) m a b
  | .fmul sd sa y t => two sd sa y t fun a b _ => fpMul (fptFmt t) m a b
  | .ffma sd sa y t => two sd sa y t fun a b d => fpFma (fptFmt t) m false false a b d
  | .fdiv sd sa y t => two sd sa y t fun a b _ => fpDiv (fptFmt t) m a b
  | .fmin sd sa y t => two sd sa y t fun a b _ => minMax (fptFmt t) false false a b
  | .fmax sd sa y t => two sd sa y t fun a b _ => minMax (fptFmt t) true false a b
  | .fset sd sa y cd t => two sd sa y t fun a b _ =>
    (bit (fpCond cd (fvOf (fptFmt t) a) (fvOf (fptFmt t) b)).1, (fpCond cd (fvOf (fptFmt t) a) (fvOf (fptFmt t) b)).2)
  | .fsqrt sd sa t => some (sd, joinParts t fun p => fpSqrt (fptFmt t) m (partOf t p (c.reg sa.toNat)))
  | .fabs sd sa t => some (sd, joinParts t fun p => (partOf t p (c.reg sa.toNat) % fmtSign (fptFmt t), 0))
  | .fcvt sd sa code => some (sd, word (fcvtVal m code.toNat (c.reg sa.toNat).toNat).1, (fcvtVal m code.toNat (c.reg sa.toNat).toNat).2)
  | _ => none

/-! ## Vector results, element by element (08 R230-R262)

Each function gives the destination, the element width, and the value of element k before it is cut to that width. -/

/-- Element k of register r as a bit vector. -/
def elemBv (c : Issue) (w : Nat) (r : BitVec 5) (k : Nat) : BitVec w := BitVec.ofNat w (elem w (c.vreg r.toNat) k)
def srcBv (c : Issue) (et : BitVec 3) (y : VSrc) (k : Nat) : BitVec (etWidth et) := BitVec.ofNat (etWidth et) (srcI c et y k)

/-- Integer elements are signed for et 0 to 3 (Table 5.7). -/
def etSigned (et : BitVec 3) : Bool := et.toNat < 4

def vecIntResult (c : Issue) (i : Instr) : Option (BitVec 5 × Nat × (Nat → Nat)) :=
  let two := fun (vd va : BitVec 5) (y : VSrc) (et : BitVec 3)
      (f : BitVec (etWidth et) → BitVec (etWidth et) → BitVec (etWidth et) → BitVec (etWidth et)) =>
    some (vd, etWidth et, fun k => (f (elemBv c (etWidth et) va k) (srcBv c et y k) (elemBv c (etWidth et) vd k)).toNat)
  let one := fun (vd va : BitVec 5) (et : BitVec 3) (f : BitVec (etWidth et) → Nat) =>
    some (vd, etWidth et, fun k => f (elemBv c (etWidth et) va k))
  match i with
  | .viadd vd va y _ et => two vd va y et fun a b _ => a + b
  | .visub vd va y _ et => two vd va y et fun a b _ => a - b
  | .vimul vd va y _ et => two vd va y et fun a b _ => a * b
  | .vimulh vd va y _ et => two vd va y et fun a b _ =>
    BitVec.ofInt _ ((if etSigned et then a.toInt * b.toInt else a.toNat * b.toNat) / 2 ^ etWidth et)
  | .vimad vd va y _ et => two vd va y et fun a b d => a * b + d
  | .vimin vd va y _ et => two vd va y et fun a b _ => if (if etSigned et then b.slt a else b.ult a) then b else a
  | .vimax vd va y _ et => two vd va y et fun a b _ => if (if etSigned et then a.slt b else a.ult b) then b else a
  | .viabs vd va _ et => one vd va et fun a => (if etSigned et && a.msb then -a else a).toNat
  | .vand vd va y _ et => two vd va y et fun a b _ => a &&& b
  | .vor vd va y _ et => two vd va y et fun a b _ => a ||| b
  | .vxor vd va y _ et => two vd va y et fun a b _ => a ^^^ b
  | .vandn vd va y _ et => two vd va y et fun a b _ => a &&& ~~~b
  | .vshl vd va y _ et => two vd va y et fun a b _ => a <<< (b.toNat % etWidth et)
  | .vshr vd va y _ et => two vd va y et fun a b _ => a >>> (b.toNat % etWidth et)
  | .vsha vd va y _ et => two vd va y et fun a b _ => a.sshiftRight (b.toNat % etWidth et)
  | .vpopc vd va _ et => one vd va et fun a => popcNat (etWidth et) a.toNat
  | .vclz vd va _ et => one vd va et fun a => clzNat (etWidth et) a.toNat
  | .vsatadd vd va y _ et => two vd va y et fun a b _ => clamp (etWidth et) (!etSigned et) (exact2 (!etSigned et) a b (· + ·))
  | .vsatsub vd va y _ et => two vd va y et fun a b _ => clamp (etWidth et) (!etSigned et) (exact2 (!etSigned et) a b (· - ·))
  | .vidiv vd va y _ et => two vd va y et fun a b _ =>
    if b = 0 then BitVec.allOnes _ else if etSigned et then a.sdiv b else a.udiv b
  | .virem vd va y _ et => two vd va y et fun a b _ => if b = 0 then a else if etSigned et then a.srem b else a.umod b
  | .vbfx vd va y _ et => one vd va et fun a =>
    let f := a.extractLsb' (fieldPos (ctlVal c y)) (fieldSize (etWidth et) (ctlVal c y))
    (if etSigned et then f.signExtend (etWidth et) else f.setWidth (etWidth et)).toNat
  | .vbfi vd va y _ et =>
    some (vd, etWidth et, fun k =>
      let m : BitVec (etWidth et) := BitVec.ofNat _ (2 ^ fieldSize (etWidth et) (ctlVal c y) - 1) <<< fieldPos (ctlVal c y)
      ((elemBv c _ vd k &&& ~~~m) ||| ((elemBv c _ va k <<< fieldPos (ctlVal c y)) &&& m)).toNat)
  | _ => none

/-- Moves between elements and registers (R240, R244, R262); et names a width only. -/
def vecMoveResult (c : Issue) (i : Instr) : Option (BitVec 5 × Nat × (Nat → Nat)) :=
  let e := fun (et : BitVec 3) (r : BitVec 5) (k : Nat) => elem (etWidthOnly et) (c.vreg r.toNat) k
  let n := fun (et : BitVec 3) => numElems (etWidthOnly et)
  let mk := fun (vd : BitVec 5) (et : BitVec 3) (f : Nat → Nat) => some (vd, etWidthOnly et, f)
  let before := fun (et : BitVec 3) (k : Nat) => ((List.range k).filter fun j => active c.mask (etWidthOnly et) j).length
  match i with
  | .vbitsel vd va vb _ et => mk vd et fun k =>
    ((BitVec.ofNat (etWidthOnly et) (e et va k) &&& BitVec.ofNat _ (e et vb k)) |||
      (BitVec.ofNat _ (e et vd k) &&& ~~~(BitVec.ofNat (etWidthOnly et) (e et vb k)))).toNat
  | .vmov vd va _ et => mk vd et (e et va)
  | .vsplat vd va _ et => mk vd et fun _ => (c.reg va.toNat).toNat
  | .vmovi vd imm _ et => mk vd et fun _ => moviElem et imm
  | .vins vd va vb _ et => mk vd et fun k => if k = (c.reg vb.toNat).toNat % n et then (c.reg va.toNat).toNat else e et vd k
  | .vperm vd va vb _ et => mk vd et fun k => e et va (e et vb k % n et)
  | .vrot vd va y _ et => mk vd et fun k => e et va ((k + ctlVal c y) % n et)
  | .vslideup vd va y _ et => mk vd et fun k => if ctlVal c y ≤ k then e et va (k - ctlVal c y) else 0
  | .vslidedn vd va y _ et => mk vd et fun k => if k + ctlVal c y < n et then e et va (k + ctlVal c y) else 0
  | .viota vd _ et => mk vd et fun k => before et k
  | .vexpand vd va _ et => mk vd et fun k => e et va (before et k)
  | .vshfl vd va vb _ et => mk vd et fun k => e et va (Nat.xor k (c.reg vb.toNat).toNat % n et)
  | .vhash vd va vb _ et => mk vd et fun k => if etWidthOnly et = 32 then hash32 (e et va k) (e et vb k) else hash64 (e et va k) (e et vb k)
  | _ => none

/-- Floating-point elements with their flags (R235-R238, R248-R251, R261). -/
def vecFpResult (c : Issue) (i : Instr) : Option (BitVec 5 × Nat × (Nat → FR)) :=
  let m := issRm c
  let two := fun (vd va : BitVec 5) (y : VSrc) (e : FpE) (f : Nat → Nat → Nat → FR) =>
    some (vd, ew e, fun k => f (elem (ew e) (c.vreg va.toNat) k) (srcF c e y k) (elem (ew e) (c.vreg vd.toNat) k))
  let one := fun (vd va : BitVec 5) (e : FpE) (f : Nat → FR) => some (vd, ew e, fun k => f (elem (ew e) (c.vreg va.toNat) k))
  match i with
  | .vadd vd va y _ e => two vd va y e fun a b _ => fpAdd (fpeFmt e) m a b
  | .vsub vd va y _ e => two vd va y e fun a b _ => fpSub (fpeFmt e) m a b
  | .vmul vd va y _ e => two vd va y e fun a b _ => fpMul (fpeFmt e) m a b
  | .vfma vd va y _ e => two vd va y e fun a b d => fpFma (fpeFmt e) m false false a b d
  | .vfms vd va y _ e => two vd va y e fun a b d => fpFma (fpeFmt e) m false true a b d
  | .vfnma vd va y _ e => two vd va y e fun a b d => fpFma (fpeFmt e) m true false a b d
  | .vmin vd va y _ e => two vd va y e fun a b _ => minMax (fpeFmt e) false false a b
  | .vmax vd va y _ e => two vd va y e fun a b _ => minMax (fpeFmt e) true false a b
  | .vminp vd va y _ e => two vd va y e fun a b _ => minMax (fpeFmt e) false true a b
  | .vmaxp vd va y _ e => two vd va y e fun a b _ => minMax (fpeFmt e) true true a b
  | .vabs vd va _ e => one vd va e fun a => (a % fmtSign (fpeFmt e), 0)
  | .vneg vd va _ e => one vd va e fun a => (fpNeg (fpeFmt e) a, 0)
  | .vclass vd va _ e => one vd va e fun a => (classBits (fpeFmt e) a, 0)
  | .vround vd va rm _ e => one vd va e fun a => roundElem (fpeFmt e) (if rm.toNat < 4 then rmOf rm.toNat else m) a
  | .vfract vd va _ e => one vd va e fun a => fractElem (fpeFmt e) m a
  | .vcopysign vd va y _ e => two vd va y e fun a b _ =>
    (a % fmtSign (fpeFmt e) + (if b.testBit (fmtBits (fpeFmt e) - 1) then fmtSign (fpeFmt e) else 0), 0)
  | .vldexp vd va y _ e => two vd va y e fun a b _ => ldexpElem (fpeFmt e) m a b
  | .vfrexp vd va _ e => one vd va e fun a => frexpElem (fpeFmt e) a
  | .vdiv vd va y _ e => two vd va y e fun a b _ => fpDiv (fpeFmt e) m a b
  | .vsqrt vd va _ e => one vd va e fun a => fpSqrt (fpeFmt e) m a
  | .vrcp vd va _ e => one vd va e fun a => rcpV (fpeFmt e) m (fvOf (fpeFmt e) a)
  | .vrsq vd va _ e => one vd va e fun a => rsqV (fpeFmt e) m (fvOf (fpeFmt e) a)
  | .vexp2 vd va _ e => one vd va e fun a => exp2V (fpeFmt e) m (fvOf (fpeFmt e) a)
  | .vlog2 vd va _ e => one vd va e fun a => log2V (fpeFmt e) m (fvOf (fpeFmt e) a)
  | .vsin vd va _ e => one vd va e fun a => sinV (fpeFmt e) m (fvOf (fpeFmt e) a)
  | .vcos vd va _ e => one vd va e fun a => cosV (fpeFmt e) m (fvOf (fpeFmt e) a)
  | .vtanh vd va _ e => one vd va e fun a => tanhV (fpeFmt e) m (fvOf (fpeFmt e) a)
  | .vcvt vd va ty _ _ et =>
    some (vd, (etTy et true).width, fun k => convert (vtyOf ty) (etTy et true) m false (elem (etTy et true).width (c.vreg va.toNat) k))
  | .vcvti vd va ty _ _ et =>
    some (vd, (etTy et false).width, fun k => convert (vtyOf ty) (etTy et false) m false (elem (etTy et false).width (c.vreg va.toNat) k))
  | .vwiden vd va ty _ _ et =>
    let d := etTy et (tyFp (vtyOf ty))
    some (vd, d.width, fun k => convert (vtyOf ty) d m false (elem (vtyOf ty).width (c.vreg va.toNat) k))
  | .vdqmx vd va ty _ et =>
    some (vd, fmtBits (mxSrc et), fun k => mxDequant (mxElem ty) (mxSrc et) (elem 8 (c.vreg va.toNat) (224 + k / 32))
      (elem (fmtBits (mxElem ty)) (c.vreg va.toNat) k))
  | .vbfdot vd va vb _ =>
    some (vd, 32, fun k =>
      let p := fun j => (fvOf .bf16 (elem 16 (c.vreg va.toNat) (2 * k + j)), fvOf .bf16 (elem 16 (c.vreg vb.toNat) (2 * k + j)))
      dotFp .f32 m [p 0, p 1] (fvOf .f32 (elem 32 (c.vreg vd.toNat) k)))
  | .vdot4 vd va y _ et =>
    some (vd, 32, fun k =>
      let a := fun j => elem 8 (c.vreg va.toNat) (4 * k + j)
      let b := fun j => match y with | .reg vb => elem 8 (c.vreg vb.toNat) (4 * k + j) | .imm v => v.toNat / 2 ^ (8 * (j % 2)) % 256
      let d := elem 32 (c.vreg vd.toNat) k
      if et.toNat < 4 then
        let x := fun j => readInt 8 (et != 1) (a j) * readInt 8 (et == 0) (b j)
        (ofSigned 32 (d + x 0 + x 1 + x 2 + x 3), 0)
      else
        let f : Fmt := if et = 4 then .e4m3 else .e5m2
        let p := fun j => (fvOf f (a j), fvOf f (b j))
        dotFp .f32 m [p 0, p 1, p 2, p 3] (fvOf .f32 d))
  | _ => none

/-- The lane mask of a comparison, a window or a match (R241-R243): scalar register, element width, and what holds for element k. -/
def vecMaskResult (c : Issue) (i : Instr) : Option (Nat × Nat × (Nat → Bool)) :=
  match i with
  | .vcmp vd va cd y _ e =>
    some (32 + vd.toNat, ew e, fun k => (vcondF cd (fvOf (fpeFmt e) (elem (ew e) (c.vreg va.toNat) k)) (fvOf (fpeFmt e) (srcF c e y k))).1)
  | .vicmp vd va cd y _ et =>
    some (32 + vd.toNat, etWidth et, fun k =>
      let a := elemBv c (etWidth et) va k
      let b := srcBv c et y k
      let lt := fun (x z : BitVec (etWidth et)) => if etSigned et then x.slt z else x.ult z
      match cd with | .eq => a == b | .ne => a != b | .lt => lt a b | .le => !lt b a | .gt => lt b a | .ge => !lt a b | .un => false | .or => true)
  | .vwhile vd va vb _ et =>
    some (32 + vd.toNat, etWidth et, fun k =>
      if etSigned et then decide ((c.reg va.toNat).toInt + k < (c.reg vb.toNat).toInt) else decide ((c.reg va.toNat).toNat + k < (c.reg vb.toNat).toNat))
  | .vmatch vd va _ et =>
    let w := etWidthOnly et
    some (32 + vd.toNat, w, fun k => (List.range k).any fun j =>
      active c.mask w j && elem w (c.vreg va.toNat) j == elem w (c.vreg va.toNat) k)
  | _ => none

/-- Bit l of a lane mask (R241): the lane active, and what is asked holding for every element of the lane. -/
def laneHolds (c : Issue) (w : Nat) (holds : Nat → Bool) (l : Nat) : Bool :=
  if w = 64 then active c.mask 64 (l / 2) && holds (l / 2)
  else c.mask.getLsbD l && (List.range (32 / w)).all fun j => holds (l * (32 / w) + j)

/-- Element k of a register written whole from two parts: n elements of width w at the bottom, then what `above` gives. -/
def vecWholeResult (c : Issue) (i : Instr) : Option (BitVec 5 × Nat × (Nat → FR)) :=
  let e := fun (et : BitVec 3) (r : BitVec 5) (k : Nat) => elem (etWidthOnly et) (c.vreg r.toNat) k
  match i with
  | .vsel vd va vb _ et => some (vd, etWidthOnly et, fun k => (if active c.mask (etWidthOnly et) k then e et va k else e et vb k, 0))
  | .vcompress vd va _ et =>
    let w := etWidthOnly et
    let l := activeElems c.mask w
    some (vd, w, fun k => (match l[k]? with | some j => e et va j | none => e et vd k, 0))
  | .vnarrow vd va ty sat _ et =>
    let d := vtyOf ty
    let src := etTy et (tyFp d)
    some (vd, d.width, fun k =>
      if numElems src.width ≤ k then (0, 0)
      else if active c.mask src.width k then convert src d (issRm c) sat (elem src.width (c.vreg va.toNat) k)
      else (elem d.width (c.vreg vd.toNat) k, 0))
  | _ => none

/-- The tree of R131 over 2^n values from the b-th on: the two halves combined. -/
def treeVal (g : Nat → Nat → FR) (x : Nat → Nat) : Nat → Nat → FR
  | 0, b => (x b, 0)
  | n + 1, b =>
    let l := treeVal g x n b
    let r := treeVal g x n (b + 2 ^ n)
    ((g l.1 r.1).1, l.2 ||| r.2 ||| (g l.1 r.1).2)

/-- The doubling steps of R132: after n of them, element k holds the combination of the up to 2^n elements that end at k. -/
def scanVal (g : Nat → Nat → FR) (x : Nat → Nat) : Nat → Nat → Nat
  | 0, k => x k
  | n + 1, k => if k < 2 ^ n then scanVal g x n k else (g (scanVal g x n (k - 2 ^ n)) (scanVal g x n k)).1

/-- The flags of those steps: of every combination that writes an element, in each of the n steps. -/
def scanFlags (g : Nat → Nat → FR) (x : Nat → Nat) (m : Nat) : Nat → Nat
  | 0 => 0
  | n + 1 => (List.range m).foldl (fun a k => if k < 2 ^ n then a else a ||| (g (scanVal g x n (k - 2 ^ n)) (scanVal g x n k)).2)
    (scanFlags g x m n)

/-- Reductions and scans: the combination, its identity, the width, the registers. -/
def foldOf : Instr → Option (Bool × BitVec 5 × BitVec 5 × RedOp × BitVec 3)
  | .vredadd vd va _ et => some (false, vd, va, .add, et) | .vredmin vd va _ et => some (false, vd, va, .min, et)
  | .vredmax vd va _ et => some (false, vd, va, .max, et) | .vredand vd va _ et => some (false, vd, va, .and, et)
  | .vredor vd va _ et => some (false, vd, va, .or, et) | .vscanadd vd va _ et => some (true, vd, va, .add, et)
  | .vscanmin vd va _ et => some (true, vd, va, .min, et) | .vscanmax vd va _ et => some (true, vd, va, .max, et)
  | _ => none

/-- Element k of the result is f k where element k is active, and is unchanged elsewhere; no scalar register and no other vector register
changes (R231). -/
def elementsWritten (s : State) (c : Issue) (vd w : Nat) (f : Nat → Nat) (t : State) : Prop :=
  (∀ k, k < numElems w → elem w (vregAt t c vd) k = if active c.mask w k then f k % 2 ^ w else elem w (c.vreg vd) k) ∧ onlyVReg s c vd t

/-- The flags that the active elements of an operation raise together. -/
def flagsOf (c : Issue) (w : Nat) (f : Nat → FR) : Nat := (activeElems c.mask w).foldl (fun a k => a ||| (f k).2) 0

/-- The lanes that raise an enabled flag: what TRAPLANES takes from an operation (R130). -/
def flagLanes (c : Issue) (w : Nat) (f : Nat → FR) (l : Nat) : Bool :=
  (activeElems c.mask w).any fun k => laneOf w k == l && (f k).2 &&& bits c.fpmode 12 8 != 0

/-! ## System registers (06 R189-R191; 13 Table 13.1; 14 Table 14.1; 16 Table 16.8) -/

/-- The registers that a plain write stores, with the bits that they hold; the other bits are reserved and read zero (R10). -/
def plainMask (n : Nat) : Option Nat :=
  if n = 0 then some 0x1F03 else if n = 1 then some 0x1F else if n = 2 ∨ n = 4 then some (2 ^ 64 - 1)
  else if n = 3 then some (2 ^ 63 + 0x1FFFFF80FF) else if n = 5 then some (2 ^ 64 - 7) else if n = 0x10 then some 0xF
  else if n = 0x15 ∨ n = 0x21 ∨ n = 0x108 ∨ n = 0x109 then some (2 ^ 47 - 2 ^ 12)
  else if n = 0x16 then some (2 ^ 24 - 1) else if n = 0x60 then some 0xFFFF else if n = 0x62 then some (2 ^ 48 - 2 ^ 12 + 0x7F)
  else if n = 0x100 then some (2 ^ 63 + 2 ^ 53 - 1) else if n = 0x101 then some (2 ^ 60 - 2 ^ 48 + 2 ^ 47 - 2 ^ 12 + 12)
  else if n = 0x104 then some 1 else if n = 0x200 ∨ n = 0x210 ∨ (0x202 ≤ n ∧ n ≤ 0x205) then some (2 ^ 48 - 1)
  else if n = 0x201 then some (2 ^ 32 - 1) else none

/-- Those of a partition, for a core that one owns. -/
def partMask (n : Nat) : Option Nat :=
  if n = 0x50 then some (2 ^ 47 - 2 ^ 15) else if n = 0x103 then some (2 ^ 47 - 2 ^ 12 + 1)
  else if n = 0x118 then some (2 ^ 64 - 2 ^ 32 + 3) else if n = 0x119 ∨ n = 0x11B then some (2 ^ 47 - 2 ^ 12)
  else if n = 0x11A ∨ n = 0x11C then some (2 ^ 32 - 1) else none

/-! ## Operations that make accesses -/

/-- A core's registers and settings: what an access, a message or a wait leaves alone. -/
def coreRegs (k : Core) : Core :=
  { k with slots := [], rq := [], cnts := [], sfuFree := 0, sbuf := [], cache := [], held := none, count := 0, scopeMiss := 0, cmdq := [],
           mat0 := MatCtx.empty, mat1 := MatCtx.empty, sems := [], semIn := [], semClk := [], semFloors := [], seen := [], spill := [],
           spillNext := 0, tray := [], running := [] }

/-- A wave's trap registers, FPMODE and FPFLAGS. -/
def trapRegs (w : Wave) : Word × Nat × Nat × Word × Nat × Nat := (w.trappc, w.trapcause, w.traplanes, w.utvec, w.fpmode, w.fpflags)

/-- No other core, no other thread of the core, no setting of the core and no trap register of the thread has changed. -/
def othersKept (s : State) (c : Issue) (t : State) : Prop :=
  (∀ n, n ≠ c.core → t.core n = s.core n) ∧ coreRegs (t.core c.core) = coreRegs (s.core c.core) ∧
  (∀ n, c.entry.isSome = true ∨ n ≠ c.slot → (t.core c.core).slots.find n = (s.core c.core).slots.find n) ∧
  (∀ e, c.entry ≠ some e → (t.core c.core).rq.find e = (s.core c.core).rq.find e) ∧
  ((waveOf t c).map trapRegs = (waveOf s c).map trapRegs)

/-- The operation has had its effect, of a bundle that raises nothing else: others are kept, and when it is the last one the pc has moved
and no bundle is in hand. -/
def went (s : State) (c : Issue) (t : State) : Prop :=
  othersKept s c t ∧ t.todo = s.todo ∧ (lastOp s → pcAt t c = c.next ∧ t.issue = none)

/-- A bundle that has raised no flag so far, with its thread there and nothing that stops it. -/
def clear (s : State) (c : Issue) (i : Instr) : Prop :=
  admits s c i ∧ threadHere s c ∧ c.sflags = 0 ∧ c.vflags = 0

/-- A scalar load or store: its register, the base and offset of its address, its bytes, sign extension, `.lax`, and the scope of its
acquire or release (Tables 7.1 and 7.2). -/
structure MemForm where
  reg : BitVec 6
  base : BitVec 6
  off : Opb
  n : Nat
  signed : Bool
  lax : Bool
  scope : Option Nat

def loadForm : Instr → Option MemForm
  | .ldb sd sa y lax => some ⟨sd, sa, y, 1, true, lax, none⟩ | .ldbn sd sa y lax => some ⟨sd, sa, y, 1, false, lax, none⟩
  | .ldh sd sa y lax => some ⟨sd, sa, y, 2, true, lax, none⟩ | .ldhn sd sa y lax => some ⟨sd, sa, y, 2, false, lax, none⟩
  | .ldw sd sa y lax => some ⟨sd, sa, y, 4, true, lax, none⟩ | .ldwn sd sa y lax => some ⟨sd, sa, y, 4, false, lax, none⟩
  | .ldd sd sa y lax => some ⟨sd, sa, y, 8, false, lax, none⟩ | .lda sd sa y sc => some ⟨sd, sa, y, 8, false, false, some sc.toNat⟩
  | _ => none

def storeForm : Instr → Option MemForm
  | .stb sd sa y => some ⟨sd, sa, y, 1, false, false, none⟩ | .sth sd sa y => some ⟨sd, sa, y, 2, false, false, none⟩
  | .stw sd sa y => some ⟨sd, sa, y, 4, false, false, none⟩ | .std sd sa y => some ⟨sd, sa, y, 8, false, false, none⟩
  | .stl sd sa y sc => some ⟨sd, sa, y, 8, false, false, some sc.toNat⟩
  | _ => none

/-- A scalar atomic: destination, address register, bytes, function with its operands, ordering, scope (Tables 7.2 and 7.3). -/
def atomForm (c : Issue) : Instr → Option (BitVec 6 × BitVec 6 × Nat × AtomFn × Ord × BitVec 4)
  | .amo sd sa vb k o sc => some (sd, sa, 8, .amo k (c.reg vb.toNat).toNat, o, sc)
  | .amow sd sa vb k o sc => some (sd, sa, 4, .amo k (c.reg vb.toNat).toNat, o, sc)
  | .cas sd sa vb vc o sc => some (sd, sa, 8, .cas (c.reg vb.toNat).toNat (c.reg vc.toNat).toNat, o, sc)
  | .casw sd sa vb vc o sc => some (sd, sa, 4, .cas (c.reg vb.toNat).toNat (c.reg vc.toNat).toNat, o, sc)
  | .amof sd sa vb k single o sc => some (sd, sa, if single then 4 else 8, .amof k (c.reg vb.toNat).toNat, o, sc)
  | _ => none

/-- Vector loads, stores and atomics with one access for each active element: register, element width (Tables 8.9 to 8.11). -/
def vecLoadForm : Instr → Option (BitVec 5 × Nat)
  | .vld vd _ _ _ _ et | .vlds vd _ _ _ _ _ et | .vgath vd _ _ _ _ _ _ _ et => some (vd, etWidthOnly et)
  | _ => none
def vecStoreForm : Instr → Option (BitVec 5 × Nat)
  | .vst vd _ _ _ et | .vsts vd _ _ _ _ et | .vscat vd _ _ _ _ _ _ et => some (vd, etWidthOnly et)
  | _ => none
def vecAtomForm : Instr → Option (BitVec 5 × Nat × (Nat → AtomFn) × Ord × BitVec 4)
  | .vamo vd _ _ _ _ _ k o sc _ et => some (vd, etWidthOnly et, fun x => .amo k x, o, sc)
  | .vamof vd _ _ _ _ _ k o sc _ et => some (vd, etWidthOnly et, fun x => .amof k x, o, sc)
  | _ => none

/-- The active elements of a vector access pass the checks of R86, and lie at these places in their order. -/
def placed (s : State) (c : Issue) (i : Instr) (k : AccKind) (places : List Place) : Prop :=
  ∃ l, accessesOf s c i = some (k, l) ∧ places.length = l.length ∧ checkAll s (issWho s c) k l = .ok (l.zip places)

/-- The wave is at the first turn of its bundle (R76). -/
def firstTurn (s : State) (c : Issue) : Prop := ∀ w, waveOf s c = some w → w.passes = 0 ∧ w.passGot = []

/-- The access of a load or store: all bytes of the form, at base plus offset. -/
def MemForm.acc (s : State) (c : Issue) (f : MemForm) : Acc := ⟨0, (memAddr s c f.base f.off).toNat, f.n⟩

/-- n bytes read at a key, extended to a doubleword (R210). -/
def extended (f : MemForm) (x : Nat) : Word :=
  if f.signed then (BitVec.ofNat (8 * f.n) x).signExtend 64 else (BitVec.ofNat (8 * f.n) x).setWidth 64

/-- Byte k of the low bytes of a register. -/
def byteAt (v : Word) (k : Nat) : Byte := v.extractLsb' (8 * k) 8

/-- Memory after a store of the low n bytes of v at a key: those bytes, and every other byte as before. -/
def stored (s : State) (key n : Nat) (v : Word) (t : State) : Prop :=
  ∀ a, memRead t.mem a = if key ≤ a ∧ a < key + n then byteAt v (a - key) else memRead s.mem a

/-- Request id has left for its home (R87), a `.lax` load of a line homed on another die for the visitor ways (R82). -/
def isSent (t : State) (id : Nat) (p : Req → Prop) : Prop :=
  ∃ r, t.reqs.find id = some r ∧ r.stage = (if looksInVisitor r then .sentVis else .sent) ∧ p r

/-- The thread is suspended on w; when the bundle is over, its pc stands behind the bundle (R28). -/
def waitsOn (s : State) (c : Issue) (w : Wait) (t : State) : Prop := (t.issThr c).wait = w ∧ went s c t

/-- A store waits in the core's store buffer behind those that were there (R208). -/
def buffered (s : State) (c : Issue) (pa n : Nat) (v : Word) (rel : Option RelMark) (t : State) : Prop :=
  ∃ id r, (t.core c.core).sbuf = (s.core c.core).sbuf ++ [id] ∧ t.reqs.find id = some r ∧ r.stage = .buffered ∧ r.core = c.core ∧ r.pa = pa ∧
    r.kind = .store ((List.range n).map fun k => (pa + k, byteAt v k)) rel

/-- The device may write these n bytes of HBM at once: no earlier write of its own waits, the host holds none of their lines, nothing is queued
there, and they are plain (R105, R413, R425). -/
def devFree (s : State) (a n : Nat) : Prop :=
  s.devWait = [] ∧ ∀ i, i < n → pwinOf (a + i) = .hbm ∧ devMayWrite s (lineOf (a + i)) = true ∧ (s.lineKeys.find (lineOf (a + i))).getD 0 = 0

/-- A read by the device of these n bytes finds what memory holds: no write of its own waits, and they are plain. -/
def devReads (s : State) (a n : Nat) : Prop := s.devWait = [] ∧ ∀ i, i < n → (s.lineKeys.find (lineOf (a + i))).getD 0 = 0

/-! ## Fetching -/

/-- The thread that slot n of a core issues for has its pc at a bundle that passes the checks of R187 and R145, waits for no token by
its mask, is not skipped (R21), and decodes to b; c is its issue context. -/
def fetches (u : State) (core slot : Nat) (c : Issue) (b : Bundle) : Prop :=
  ∃ pc, slotPc u core slot = some pc ∧ fetchCause u core pc = none ∧
    let w := fun o : Nat => codeWord u core (pc.toNat + o)
    let len := if isCommand (w 0) then 32 else 8
    let m := bundleMask (w 0)
    ∃ c0, issueOf u core slot pc len = some c0 ∧ c = { c0 with mask := maskOf c0 m } ∧
      poisoned u (tcmKey core (pc.toNat - 0xFFFFFFFF00000000)) len = false ∧
      (∀ p ∈ (u.issThr c0).pend, m = 0 ∨ p.1 ≠ m.toNat) ∧ (m = 0 ∨ c0.entry.isSome = true ∨ c0.reg m.toNat ≠ 0) ∧
      decodeBundle (w 0) (w 8) (w 16) (w 24) = .ok b

/-! ## Barriers, fibres, commands, messages -/

/-- The barrier at which an instruction arrives, TRIM's table (Table 7.5), and TRIM's destination. -/
def barForm (s : State) (c : Issue) : Instr → Option (BarKind × List Nat × Nat)
  | .barc => some (.barc, [], 0) | .barg => some (.barg, [], 0) | .develop => some (.develop, [], 0)
  | .trim sd sa b => some (.trim, trimTable (c.reg sa.toNat).toNat (selVal s c b).toNat, sd.toNat)
  | _ => none

/-- A message is under way in t that carries this. -/
def underWay (t : State) (vc : VC) (src dst : Node) (gate : Nat) (b : Body) : Prop :=
  ∃ n, t.msgs.find n = some { vc := vc, src := src, dst := dst, sent := t.clk, gate := gate, body := b }

/-- The fibres that a core holds: in its run queue and in its spill area. -/
def fibresHeld (k : Core) : Nat := k.rq.length + k.spill.length

/-- A new fibre may enter the run queue at once (R36, R37). -/
def roomForOne (s : State) (c : Issue) : Prop :=
  (freeEntry (s.core c.core)).isSome = true ∧
  ((s.issThr c).sup = true ∨
    ((s.core c.core).spill = [] ∧ refetching (s.core c.core) = 0 ∧ (s.core c.core).rq.length < (s.core c.core).fadmit))

/-- SPAWN and RGEN: the register that is told, the fibre's start, and whether it is a ray (R288). -/
def fibreForm (s : State) (c : Issue) : Instr → Option (BitVec 6 × Word × Bool)
  | .spawn sd imm => some (sd, c.pc + imm.signExtend 64, false)
  | .rgen sd sa b => some (sd, c.reg sa.toNat + selVal s c b, true)
  | _ => none

/-- A fibre as SPAWN or RGEN makes it: f1 to f8 are the creator's registers 1 to 8, its tag the creator's, its core the creator's. -/
def madeBy (s : State) (c : Issue) (pc : Word) (ray : Bool) (f : Fibre) : Prop :=
  f.pc = pc ∧ (∀ k, k < 8 → fibreGet f (k + 1) = c.reg (k + 1)) ∧ f.ray = ray ∧ f.sys = (s.issThr c).sup ∧ f.pin = false ∧
  f.origin = c.core ∧ f.tag = creatorTag s c % 2 ^ 24

/-- The registers of the issuing thread are those before but for r, and the pc is behind the bundle. -/
def toldReg (s : State) (c : Issue) (r : Nat) (v : Word) (t : State) : Prop :=
  wroteReg s c r v t ∧ pcAt t c = c.next ∧ atRest t

/-- The wave of this uid, if it stands in a slot, owes no FPEXC (R130). -/
def owesNothing (s : State) (core uid : Nat) : Prop :=
  ∀ n w, slotOfUid (s.core core) uid = some n → (s.core core).slots.find n = some w → w.owed = none

/-- What identifier x names: a thread th of a core, in its slot or run-queue entry, the one that its uid finds, and that owes no trap. -/
def isThread (s : State) (x : Tid) (core : Nat) (th : Thr) : Prop :=
  threadsOf s x = [(core, th)] ∧ s.thrOf core th.uid = some th ∧
  ((entryOfUid (s.core core) th.uid).isSome = true ∨ (slotOfUid (s.core core) th.uid).isSome = true) ∧ owesNothing s core th.uid

/-- The keys of a table rise. -/
def ordered {α : Type} (m : Map α) : Prop := m.Pairwise fun a b => a.1 < b.1

/-- The thread of this uid now waits on w. -/
def nowWaits (t : State) (core uid : Nat) (w : Wait) : Prop := ∃ x, t.thrOf core uid = some x ∧ x.wait = w

/-- Register r of the thread of this uid: a fibre, a wave in its slot, a saved wave. -/
def regOfUid (s : State) (core uid r : Nat) : Word :=
  match entryOfUid (s.core core) uid with
  | some e => match (s.core core).rq.find e with | some x => fibreGet x.fib r | none => 0
  | none => match slotOfUid (s.core core) uid with
    | some n => match (s.core core).slots.find n with | some w => waveGet w r | none => 0
    | none => match (s.cluster (clusterOf core)).saved.find? fun x => x.wave.t.uid == uid with
      | some i => waveGet i.wave r
      | none => 0

/-- The thread of this uid has register r: f1 to f8, s1 to s63. -/
def uidHasReg (s : State) (core uid r : Nat) : Prop := 0 < r ∧ if (entryOfUid (s.core core) uid).isSome then r < 9 else r < 64

/-- Command q as instruction i with header h hands it over, from this thread, with the values that its operands have now, not yet started;
in t its token register is pending when it names one (R295, R296). -/
def queuedBy (s : State) (c : Issue) (i : Instr) (h : CmdHdr) (t : State) (q : Cmd) : Prop :=
  q.instr = i ∧ q.ops = cmdOps c i ∧ q.vecs = cmdVecs c i ∧ q.uid = (s.issThr c).uid ∧ q.lid = (s.issThr c).lid ∧
  q.sup = (s.issThr c).sup ∧ q.running = false ∧
  (t.issThr c).pend = (s.issThr c).pend ++ if h.token = 0 then [] else [(h.token.toNat, q.num)]

end Sys2Proof.Machine
end

