-- ==== Sys2Proof/Certificates/Slice0/Obligations.lean ====
section
/-!
DEFINITION. The statements for the provers. Each formalises rules of spec/, or says what the model does with them; a value the model
chooses is named with its log entry.
-/
open Sys2Proof Sys2Proof.Machine

/-! ## Encoding and issue -/

/-- Worked encodings of Tables 5.13, 6.9 and of chapters 07 to 10 decode to the instructions they stand for. -/
def Obligations.DecodedWords : Prop :=
  decodeBundle 0x0806202B80000000 0 0 0 = .ok (.dual (.add 3 4 (.sel 5) false true .w8) .vnop) ∧
  decodeBundle 0x098A303880000000 0 0 0 = .ok (.dual (.mulh 5 6 (.sel 7) false .w32) .vnop) ∧
  decodeBundle 0x190E404980000000 0 0 0 = .ok (.dual (.lea 7 8 (.sel 9) 3) .vnop) ∧
  decodeBundle 0x2412521A80000000 0 0 0 = .ok (.dual (.fset 9 10 (.sel 0x43) .lt .f32) .vnop) ∧
  decodeBundle 0x02BE223800000000 0 0 0 = .ok (.dual (.calli 31 4 0x47) .vnop) ∧
  decodeBundle 0x423E000000000040 0 0 0 = .ok (.scalarWide (.call 31 0x40)) ∧
  decodeBundle 0x4380000000000007 0 0 0 = .ok (.scalarWide (.trap 7)) ∧
  decodeBundle 0x0400000000000000 0 0 0 = .ok (.dual .tret .vnop) ∧
  decodeBundle 0x0480000000000000 0 0 0 = .ok (.dual .brk .vnop) ∧
  decodeBundle 0x0000000058090006 0 0 0 = .ok (.dual .nop (.vredadd 1 4 0 6))

/-- Every well-formed instruction that has an encoding is what the decoder reads from the words that the encoder writes for it, at every
value of its operands; words that it does not occupy may hold anything. VNOP alone is the empty slot of a NOP bundle. -/
def Obligations.EncodeDecode : Prop :=
  ∀ (i : Instr) (x y z : Word), wellFormed i = true → i ≠ .vnop →
    match encode i with
    | [] => True
    | [w] => ∃ b, decodeBundle w x y z = .ok b ∧ b.main = i
    | [w, w1, w2, w3] => ∃ b, decodeBundle w w1 w2 w3 = .ok b ∧ b.main = i
    | _ => False

/-- Two operations that may share a bundle are what the decoder reads from the one doubleword that holds both (R143, R146). -/
def Obligations.DualEncodeDecode : Prop :=
  ∀ (a v : Instr) (w wa wv x y z : Word), wellFormed a = true → wellFormed v = true →
    encode a = [wa] → encode v = [wv] → wa.extractLsb' 62 2 = 0 → wa.extractLsb' 0 31 = 0 → wv.extractLsb' 31 33 = 0 →
    (needsVnop a = true → v = .vnop) →
    (∀ r, scalarDest (toRaw a) = some r → vectorScalarDest (toRaw v) ≠ some r) →
    encodeBundle (.dual a v) = [w] → decodeBundle w x y z = .ok (.dual a v)

/-- A step runs the decoded instruction: when the turn that the step takes fetches bundle b, the step is exec of b's first operation with
the rest still to do, and then of the rest. -/
def Claims.StepRunsDecoded : Prop :=
  ∀ (s s1 u : State) (core slot : Nat) (c : Issue) (b : Bundle) (i : Instr) (l : List Instr),
    nextEvent s = (some (.issueTurn core), s1) → heldOff s1 (.issueTurn core) = false → wellFormed (.issueTurn core) = true →
    exec (.issueTurn core) s1 = .next (fetchBundle u core slot) → fetches u core slot c b → bundleOps b = i :: l →
    step s = match exec i { u with issue := some c, todo := l } with
      | .next t => drain 1 t
      | .fault f => .fault f
      | .refused r => .refused r

/-- What is left of a bundle after its first operation runs next in the same step, and after it nothing. -/
def Claims.StepRunsBoth : Prop :=
  (∀ s : State, s.todo = [] → drain 1 s = .next { s with issue := none }) ∧
  ∀ (s t : State) (i : Instr), s.todo = [i] → exec i { s with todo := [] } = .next t → drain 1 s = .next { t with issue := none, todo := [] }

/-- No step leaves a bundle half done, from any state in which none is, whether a run reaches it or not (R19). -/
def Obligations.NoBundleBetweenSteps : Prop :=
  ∀ s t : State, atRest s → step s = .next t → atRest t

/-- A bundle issues whole or not at all: while anything stops the bundle, the outcome of each of its operations is that stop, and does
not depend on the operation's own effect (R19, R162, R199, R207). -/
def Claims.StoppedBundleHasNoEffect : Prop :=
  ∀ (i : Instr) (s : State) (c : Issue), toRaw i ≠ .none → s.issue = some c → c.checked = false → fate s c (i :: s.todo) ≠ .go →
    exec i s = start i s (fun _ u => u) ∧ ∃ t, exec i s = .next t

/-- A trap that an operation of the bundle meets is taken before any effect (R199). -/
def Claims.TrapBeforeEffect : Prop :=
  ∀ (i : Instr) (s : State) (c : Issue) (x : Trap), toRaw i ≠ .none → s.issue = some c → c.checked = false →
    fate s c (i :: s.todo) = .trap x → exec i s = .next (takeTrap (condemnAt s c (i :: s.todo)) c x)

/-! ## Reset -/

/-- What reset leaves where the spec states it: the trim table and its pointer (R14), FADMIT (R37), LSPLIT (R68), spill areas of 2048 contexts
(R441), SLICECFG (R407), MEMCFG (R417), DIRPOL (R420), PARTCFG (R349), HELMCORE's core (R351), BOOTSTAT 1 (R440), PWRCAP (R451), OUTCFG (R434);
no thread and no bundle. That a byte which nothing has written reads 0 is the model's choice (notes/assumptions/3.md). -/
def Claims.ResetValues : Prop :=
  let s := State.reset
  (∀ n, (s.core n).trim = (List.range 32).map (· % 8) ∧ (s.core n).fadmit = 224 ∧ (s.core n).lsplit = 0x10808 ∧ (s.core n).spillSize = 2048 ∧ (s.core n).spill = [] ∧
    (s.core n).slots = [] ∧ (s.core n).rq = [] ∧ (s.core n).hold = false ∧ (s.core n).fenced = false) ∧
  (∀ d, (s.die d).slicecfg = 0x22002 ∧ (s.die d).memcfg = 0x101 ∧ (s.die d).dirpol = 4 * 2 ^ 32 + 16 * 2 ^ 16 + 256 ∧ bits (s.die d).helmcore 12 0 = (d * 1024 + 1023) % 8192) ∧
  partEn (s.part 0).cfg = true ∧ partDies (s.part 0).cfg = 0x3F ∧ (∀ p, p ≠ 0 → partEn (s.part p).cfg = false) ∧
  bits s.mgmt.pwrcap 11 0 = 3000 ∧ bitAt s.mgmt.pwrcap 12 = true ∧
  (∀ o, outcfg s o 0 = 2 ^ 62 + 16666667 ∧ outcfg s o 1 = 0 ∧ outcfg s o 2 = 4) ∧
  s.issue = none ∧ s.todo = [] ∧ s.mem = [] ∧ (∀ a, memRead s.mem a = 0) ∧ s.mgmt.bootstat = 1 ∧ s.clk = 0 ∧ tablePtr s = 0

/-- Between steps: at reset no bundle is in hand, and memory has its canonical form. -/
def Claims.ResetIsAtRest : Prop := atRest State.reset ∧ Memory.wf State.reset.mem = true

/-! ## Traps -/

/-- Taking a user trap in a wave whose handler is enabled and whose ACTIVE is 0: the four trap registers, the pc at the handler, nothing
else of the wave changed but that a single step may halt it, and no other thread; the bundle is over (R200). -/
def Obligations.TrapEntry : Prop :=
  ∀ (s : State) (c : Issue) (x : Trap) (w : Wave), c.entry = none → waveOf s c = some w → trapActive w = false → w.utvec.getLsbD 0 = true →
    x.cause < 256 → x.code < 2 ^ 16 → x.sflags < 32 →
    let t := takeTrap s c x
    ∃ n, waveOf t c = some n ∧ n.trappc = x.pc ∧ n.traplanes = x.lanes ∧ trapActive n = true ∧ bits n.trapcause 7 0 = x.cause ∧
      bits n.trapcause 14 8 = 0 ∧ bitAt n.trapcause 15 = x.sop ∧ bits n.trapcause 31 16 = x.code ∧ bits n.trapcause 36 32 = x.sflags ∧
      bits n.trapcause 62 37 = 0 ∧ n.pc.toNat = w.utvec.toNat / 8 * 8 ∧ n.s = w.s ∧ n.v = w.v ∧ n.fpmode = w.fpmode ∧
      n.fpflags = w.fpflags ∧ n.utvec = w.utvec ∧ t.issue = none ∧ t.todo = [] ∧ outside t = outside s ∧
      (∀ k, k ≠ c.core → t.core k = s.core k) ∧ (t.core c.core).rq = (s.core c.core).rq ∧
      ∀ k, k ≠ c.slot → (t.core c.core).slots.find k = (s.core c.core).slots.find k

/-- With ACTIVE set, FPEXC is not taken; any other cause ends the thread: NESTEDTRAP, a supervisor's SUPERTRAP; with UTVEC.EN zero it is
UNHANDLED; in a fibre FIBRETRAP, with the cause and the fibre's image, whose pc is behind a TRAP (R200, R201, R345). -/
def Obligations.TrapThatEndsALaunch : Prop :=
  (∀ (s : State) (c : Issue) (x : Trap) (w : Wave), c.entry = none → waveOf s c = some w →
    let u := s.modIssThr c fun t => { t with latch := [] }
    let end_ := fun cause d => (fatal u c.core (s.issThr c) (tidWord 0 c.slot c.core) cause x.cause 0 d).closeIssue
    (trapActive w = true → x.cause = 7 → takeTrap s c x = u.closeIssue) ∧
    (trapActive w = true → x.cause ≠ 7 → takeTrap s c x =
      if w.t.sup then end_ 0x4B [c.pc.toNat, x.pc.toNat, trapWord x true, x.lanes]
      else end_ 0x43 [c.pc.toNat, w.trappc.toNat, w.trapcause, w.traplanes]) ∧
    (trapActive w = false → w.utvec.getLsbD 0 = false → takeTrap s c x =
      end_ (if w.t.sup then 0x4B else 0x44) [c.pc.toNat, x.pc.toNat, trapWord x true, x.lanes])) ∧
  ∀ (s : State) (c : Issue) (x : Trap) (e : Nat) (r : RqEntry), c.entry = some e → (s.core c.core).rq.find e = some r →
    let u := s.modIssThr c fun t => { t with latch := [] }
    takeTrap s c x =
      (fatal u c.core r.t (tidWord 1 e c.core) (if r.t.sup then 0x4B else 0x42) x.cause 0
        (fibreDws (if x.cause = 6 then { r.fib with pc := x.pc } else r.fib))).closeIssue

/-- TRAP completes and takes USER with its code, TRAPPC naming PC + 8; BRK takes BREAK with TRAPPC naming itself (R203), or halts its slot
when the debugger has set BRKHALT for it (R395). -/
def Claims.TrapAndBreak : Prop :=
  (∀ (s : State) (c : Issue) (code : BitVec 16), admits s c (.trap code) →
    exec (.trap code) s = .next
      (takeTrap (countEvent (opened s c (.trap code)) c.core 1) c.passed ⟨6, c.pc + 8, 0, code.toNat, 0, false⟩)) ∧
  ∀ (s : State) (c : Issue), admits s c .brk →
    let u := opened s c .brk
    let halts := c.entry = none ∧ c.sup = false ∧ bitAt (s.core c.core).dbgctl c.slot = true ∧ hasImage s c.core c.slot = false
    (¬halts → exec .brk s = .next (takeTrap u c.passed ⟨5, c.pc, 0, 0, 0, false⟩)) ∧
    (halts → ∀ w, waveOf s c = some w → yields (exec .brk s) fun t =>
      waveOf t c = some { w with saving := 3 } ∧ atRest t ∧ outside t = outside { s with issue := none, todo := [] })

/-- TRAP and BRK COMPLETE, and the entry is their effect: in a wave whose handler is enabled and whose ACTIVE is 0, TRAPPC, the cause and the
code stand in the trap registers, the pc is at the handler, nothing else of the wave changes, and no bundle is in hand (R200, R203). -/
def Claims.TrapAndBreakComplete : Prop :=
  ∀ (s : State) (c : Issue) (w : Wave), c.entry = none → waveOf s c = some w → trapActive w = false → w.utvec.getLsbD 0 = true →
    let entered := fun (cause code : Nat) (pc : Word) (t : State) => atRest t ∧ t.mem = s.mem ∧ ∃ n, waveOf t c = some n ∧ n.trappc = pc ∧
      bits n.trapcause 7 0 = cause ∧ bits n.trapcause 31 16 = code ∧ trapActive n = true ∧ n.traplanes = 0 ∧
      n.pc = w.utvec &&& ~~~7#64 ∧ n.s = w.s ∧ n.v = w.v ∧ n.fpmode = w.fpmode ∧ n.fpflags = w.fpflags ∧ n.utvec = w.utvec
    (∀ code : BitVec 16, admits s c (.trap code) → yields (exec (.trap code) s) (entered 6 code.toNat (c.pc + 8))) ∧
    (admits s c .brk → c.sup = true ∨ bitAt (s.core c.core).dbgctl c.slot = false → yields (exec .brk s) (entered 5 0 c.pc))

/-- A wave that takes a trap halts at its handler when its slot is under single step (R395), and only then. -/
def Claims.SingleStepHalts : Prop :=
  ∀ (s : State) (c : Issue) (x : Trap) (w : Wave), c.entry = none → waveOf s c = some w → trapActive w = false → w.utvec.getLsbD 0 = true →
    ∃ n, waveOf (takeTrap s c x) c = some n ∧
      n.saving = if bitAt (s.core c.core).dbgctl (8 + c.slot) && !c.sup && !hasImage s c.core c.slot then 4 else w.saving

/-- TRET sets pc to TRAPPC and clears ACTIVE, and leaves every other field of the trap registers and every register as it was (R204). -/
def Claims.TrapReturn : Prop :=
  ∀ (s : State) (c : Issue) (w : Wave), admits s c .tret → lastOp s → c.entry = none → waveOf s c = some w → w.trapcause < 2 ^ 64 →
    yields (exec .tret s) fun t => atRest t ∧ t.mem = s.mem ∧ ∃ n, waveOf t c = some n ∧ n.pc = w.trappc ∧ trapActive n = false ∧
      (∀ k, k < 63 → bitAt n.trapcause k = bitAt w.trapcause k) ∧ n.trappc = w.trappc ∧ n.traplanes = w.traplanes ∧ n.utvec = w.utvec ∧
      n.s = w.s ∧ n.v = w.v ∧ n.fpmode = w.fpmode ∧ n.fpflags = w.fpflags

/-- TRET is ILLEGAL while ACTIVE is zero, and in a fibre (R204). -/
def Claims.TrapReturnIllegal : Prop :=
  ∀ (s : State) (c : Issue), (∀ w, waveOf s c = some w → c.entry = none → trapActive w = false) → (s.issThr c).pend = [] →
    s.issue = some c → c.checked = false → s.todo = [] →
    exec .tret s = .next (takeTrap s c ⟨1, c.pc, 0, 0, 0, false⟩)

/-- The last operation of a wave's bundle, when the bundle has raised an enabled flag and the thread does not wait: FPFLAGS takes every flag,
and FPEXC is taken: its cause 7, the scalar flags and their SOP bit, the lanes, TRAPPC naming the next bundle, the pc at the handler (R129,
R130, R198). -/
def Claims.FlagTrap : Prop :=
  ∀ (s : State) (c : Issue) (w : Wave), s.issue = some c → s.todo = [] → c.entry = none → waveOf s c = some w → w.t.wait = .none →
    (c.sflags ||| c.vflags) &&& bits c.fpmode 12 8 ≠ 0 → c.sflags < 32 → trapActive w = false → w.utvec.getLsbD 0 = true →
    ∃ n, waveOf (retire s) c = some n ∧ n.fpflags = w.fpflags ||| c.sflags ||| c.vflags ∧ n.trappc = c.next ∧ n.traplanes = c.lanes ∧
      trapActive n = true ∧ bits n.trapcause 7 0 = 7 ∧ bits n.trapcause 14 8 = 0 ∧
      bitAt n.trapcause 15 = (c.sflags &&& bits c.fpmode 12 8 != 0) ∧ bits n.trapcause 31 16 = 0 ∧ bits n.trapcause 36 32 = c.sflags ∧
      bits n.trapcause 62 37 = 0 ∧ n.pc.toNat = w.utvec.toNat / 8 * 8 ∧ n.s = w.s ∧ n.v = w.v ∧ atRest (retire s)

/-- A wave whose bundle has raised an enabled flag while its other operation waits takes FPEXC when it goes on again: the same registers,
at the same handler (R130, R202). -/
def Claims.OwedFlagTrap : Prop :=
  (∀ (s : State) (c : Issue) (w : Wave), s.issue = some c → s.todo = [] → c.entry = none → waveOf s c = some w → w.t.wait ≠ .none →
    (c.sflags ||| c.vflags) &&& bits c.fpmode 12 8 ≠ 0 →
    ∃ n x, waveOf (retire s) c = some n ∧ n.owed = some x ∧ x.cause = 7 ∧ x.pc = c.next ∧ x.lanes = c.lanes ∧ n.pc = c.next ∧
      n.t.wait = w.t.wait ∧ n.fpflags = w.fpflags ||| c.sflags ||| c.vflags ∧ atRest (retire s)) ∧
  ∀ (s : State) (core slot uid : Nat) (w : Wave) (x : Trap), entryOfUid (s.core core) uid = none → slotOfUid (s.core core) uid = some slot →
    (s.core core).slots.find slot = some w → w.t.uid = uid → w.owed = some x → x.cause < 256 → x.code < 2 ^ 16 → x.sflags < 32 →
    trapActive w = false → w.utvec.getLsbD 0 = true →
    ∃ n, ((s.resume core uid).core core).slots.find slot = some n ∧ n.trappc = x.pc ∧ n.traplanes = x.lanes ∧ trapActive n = true ∧
      bits n.trapcause 7 0 = x.cause ∧ n.pc = w.utvec &&& ~~~7#64 ∧ n.owed = none ∧ n.t.wait = .none ∧ n.s = w.s ∧ n.v = w.v

/-! ## Scalar operations -/

/-- Every integer operation of chapter 06 completes with the result of R176 to R180 and R192 in its destination; a write to register 0 is
discarded; no other register, no flag, nothing of memory and of any other thread changes (R19, R21). -/
def Obligations.ScalarIntegerResults : Prop :=
  ∀ (i : Instr) (s : State) (c : Issue) (sd : BitVec 6) (v : Word), runs s c i 0 → intResult s c i = some (sd, v) →
    yields (exec i s) fun t => wroteReg s c sd.toNat v t ∧ completed s c 0 t

/-- Every scalar floating-point operation completes with the result of R182 to R184 in its destination, and raises exactly its flags, which a
fibre does not record (R128). -/
def Obligations.ScalarFloatResults : Prop :=
  ∀ (i : Instr) (s : State) (c : Issue) (sd : BitVec 6) (v : Word) (fl : Nat), fpResult s c i = some (sd, v, fl) → runs s c i fl →
    yields (exec i s) fun t => wroteReg s c sd.toNat v t ∧ completed s c fl t

/-- NOP and VNOP change no register; the pc moves on. -/
def Claims.NopsAdvance : Prop :=
  ∀ (i : Instr) (s : State) (c : Issue), (i = .nop ∨ i = .vnop) → runs s c i 0 →
    yields (exec i s) fun t => noReg s c t ∧ completed s c 0 t

/-- BC, JMP, JMPI, CALL, CALLI and RET complete with their target as the next pc (R186); CALL and CALLI leave PC + 8 in their link
register, read after the operands; the others change no register. -/
def Claims.ControlTransfers : Prop :=
  ∀ (i : Instr) (s : State) (c : Issue) (pc : Word) (link : Option (BitVec 6)), runs s c i 0 → transfer s c i = some (pc, link) →
    yields (exec i s) fun t => completed s { c with next := pc } 0 t ∧
      match link with
      | some sd => wroteReg s c sd.toNat (c.pc + 8) t
      | none => noReg s c t

/-- MFSR writes the register read to its destination and nothing else (R189). -/
def Claims.SystemRegisterRead : Prop :=
  ∀ (s : State) (c : Issue) (sd : BitVec 6) (num : BitVec 16), runs s c (.mfsr sd num) 0 →
    yields (exec (.mfsr sd num) s) fun t => wroteReg s c sd.toNat (word (sysRead s c num.toNat)) t ∧ completed s c 0 t

/-- MTSR completes: the register's own rule is applied, or, for a register whose write takes time, the thread waits for it with its pc
behind the MTSR; CTXSYNC with its two bits (R10); a RIGLOAD that names no entry is done at once (R367). It changes no scalar or vector register; only LSPLIT and DBGCTL
reach memory (R69, R191, R394). -/
def Claims.SystemRegisterWrite : Prop :=
  ∀ (s : State) (c : Issue) (sa : BitVec 6) (num : BitVec 16), runs s c (.mtsr sa num) 0 →
    let n := num.toNat
    let v := c.reg sa.toNat
    (isSlowReg n = false → exec (.mtsr sa num) s = .next (retire (sysWrite (opened s c (.mtsr sa num)) c.passed n v)) ∧
      (n ≠ 0x11 → n ≠ 0x111 → yields (exec (.mtsr sa num) s) fun t => t.mem = s.mem ∧ noReg s c t)) ∧
    (isSlowReg n = true → lastOp s → (n = 0x51 → rigloadEntries v ≠ [] ∧ (s.partOf c.core).isSome = true) →
      yields (exec (.mtsr sa num) s) fun t => (t.issThr c).wait = .sysop n (if n = 0x110 then v &&& 3 else v) ∧ pcAt t c = c.next ∧ t.mem = s.mem ∧ noReg s c t) ∧
    ∀ p, n = 0x51 → rigloadEntries v = [] → s.partOf c.core = some p → lastOp s → yields (exec (.mtsr sa num) s) fun t =>
      (t.part p).rigload = bits v.toNat 16 0 ∧ (t.part p).rigbad = 0 ∧ pcAt t c = c.next ∧ (t.issThr c).wait = (s.issThr c).wait ∧
      t.mem = s.mem ∧ noReg s c t

/-- A register that is plainly stored reads back as the bits that it holds, whatever was written (R10, Tables 13.1, 14.1, 16.8). -/
def Claims.SystemRegisterReadBack : Prop :=
  ∀ (s : State) (c : Issue) (n m : Nat) (v : Word), threadHere s c → (n ≤ 5 → c.entry = none) →
    (plainMask n = some m → sysRead (sysWrite s c n v) c n = v.toNat &&& m) ∧
    (∀ p, s.partOf c.core = some p → partMask n = some m → sysRead (sysWrite s c n v) c n = v.toNat &&& m)

/-- In fibre mode FPMODE to UTVEC read zero and their writes change nothing; a wave's FTAG reads zero (R190). -/
def Claims.FibreSystemRegisters : Prop :=
  (∀ (s : State) (c : Issue) (e n : Nat) (v : Word), c.entry = some e → n ≤ 5 →
    sysRead s c n = 0 ∧ ∀ k, (sysWrite s c n v).core k = s.core k) ∧
  (∀ (s : State) (c : Issue), c.entry = none → sysRead s c 6 = 0) ∧
  ∀ (s : State) (c : Issue) (e : Nat) (x : RqEntry), c.entry = some e → (s.core c.core).rq.find e = some x → sysRead s c 6 = x.fib.tag % 2 ^ 24

/-- MFSR and MTSR are ILLEGAL for a number that no table assigns, and for one that the privilege may not reach (R189, R348). -/
def Claims.SystemRegisterPrivilege : Prop :=
  (∀ (s : State) (c : Issue) (sd : BitVec 6) (num : BitVec 16), s.issue = some c → c.checked = false → s.todo = [] →
    (s.issThr c).pend = [] → mayRead c.sup num.toNat = false →
    exec (.mfsr sd num) s = .next (takeTrap s c ⟨1, c.pc, 0, 0, 0, false⟩)) ∧
  (∀ (s : State) (c : Issue) (sa : BitVec 6) (num : BitVec 16), s.issue = some c → c.checked = false → s.todo = [] →
    (s.issThr c).pend = [] → mayWrite c.sup num.toNat = false →
    exec (.mtsr sa num) s = .next (takeTrap s c ⟨1, c.pc, 0, 0, 0, false⟩)) ∧
  ∀ n, mayWrite false n = true → n ≤ 5 ∨ n = 0x10

/-! ## Vector operations -/

/-- Every element-wise integer operation of a wave completes with the results of R239, R240 and Table 8.5 in the active elements of its
destination, raising nothing (R231). -/
def Claims.VectorIntegerResults : Prop :=
  ∀ (i : Instr) (s : State) (c : Issue) (vd : BitVec 5) (w : Nat) (f : Nat → Nat), c.entry = none → runs s c i 0 →
    vecIntResult c i = some (vd, w, f) → yields (exec i s) fun t => elementsWritten s c vd.toNat w f t ∧ completed s c 0 t

/-- Moves, permutations and VHASH read any lane of their source and write the active elements of their destination (R244, R245, R262). -/
def Claims.VectorMoveResults : Prop :=
  ∀ (i : Instr) (s : State) (c : Issue) (vd : BitVec 5) (w : Nat) (f : Nat → Nat), c.entry = none → runs s c i 0 →
    vecMoveResult c i = some (vd, w, f) → yields (exec i s) fun t => elementsWritten s c vd.toNat w f t ∧ completed s c 0 t

/-- Every element-wise floating-point operation, conversion and dot product completes with its rounded results in the active elements, and
raises exactly the flags of those elements (R230, R235 to R238, R248 to R251, R261). -/
def Claims.VectorFloatResults : Prop :=
  ∀ (i : Instr) (s : State) (c : Issue) (vd : BitVec 5) (w : Nat) (f : Nat → FR), c.entry = none →
    vecFpResult c i = some (vd, w, f) → runs s c i (flagsOf c w f) →
    yields (exec i s) fun t => elementsWritten s c vd.toNat w (fun k => (f k).1) t ∧ completed s c (flagsOf c w f) t

/-- While its bundle is still in hand, a floating-point operation has named in LANES exactly the lanes that raised an enabled flag, beside
those named before (R130). -/
def Claims.VectorFloatLanes : Prop :=
  ∀ (i : Instr) (s : State) (c : Issue) (vd : BitVec 5) (w : Nat) (f : Nat → FR), c.entry = none →
    vecFpResult c i = some (vd, w, f) → runs s c i (flagsOf c w f) → ¬lastOp s →
    yields (exec i s) fun t => ∃ d, t.issue = some d ∧ ∀ l, bitAt d.lanes l = (bitAt c.lanes l || flagLanes c w f l)

/-- Comparisons, VWHILE and VMATCH write a lane mask to their scalar register: a lane's bit is set when the lane is active and the test holds
for every element of it (R241, R242, R243). -/
def Claims.VectorMasks : Prop :=
  ∀ (i : Instr) (s : State) (c : Issue) (r w : Nat) (h : Nat → Bool) (fl : Nat), c.entry = none → vecMaskResult c i = some (r, w, h) →
    runs s c i fl →
    (fl = match i with
      | .vcmp _ va cd y _ e => flagsOf c w fun k =>
        (0, (vcondF cd (fvOf (fpeFmt e) (elem w (c.vreg va.toNat) k)) (fvOf (fpeFmt e) (srcF c e y k))).2)
      | _ => 0) →
    yields (exec i s) fun t => ∃ m : Word, wroteReg s c r m t ∧ (∀ l, l < 64 → m.getLsbD l = laneHolds c w h l) ∧ completed s c fl t

/-- VSEL, VCOMPRESS and VNARROW write their whole destination, whatever the mask holds (R244, R249). -/
def Claims.VectorWholeResults : Prop :=
  ∀ (i : Instr) (s : State) (c : Issue) (vd : BitVec 5) (w : Nat) (f : Nat → FR) (fl : Nat), c.entry = none →
    wellFormed i = true → vecWholeResult c i = some (vd, w, f) → runs s c i fl →
    (fl = match i with | .vnarrow _ _ ty _ _ et => flagsOf c (etTy et (tyFp (vtyOf ty))).width f | _ => 0) →
    yields (exec i s) fun t =>
      (∀ k, k < numElems w → elem w (vregAt t c vd.toNat) k = (f k).1 % 2 ^ w) ∧ onlyVReg s c vd.toNat t ∧ completed s c fl t

/-- VEXT moves one element, zero-extended, to a scalar register (R244). -/
def Claims.VectorExtract : Prop :=
  ∀ (s : State) (c : Issue) (vd va vb : BitVec 5) (ms : BitVec 6) (et : BitVec 3), c.entry = none → runs s c (.vext vd va vb ms et) 0 →
    yields (exec (.vext vd va vb ms et) s) fun t => completed s c 0 t ∧
      wroteReg s c vd.toNat (word (elem (etWidthOnly et) (c.vreg va.toNat) ((c.reg vb.toNat).toNat % numElems (etWidthOnly et)))) t

/-- VQMX writes the MX register image: the quantised elements of each block of 32 in source order from byte 0, the block's scale at byte
224 + b, zero elsewhere; a block that holds a NaN or an infinity has scale 0xFF and zero elements, and raises IV when the lane of its first
element is active: that an inactive one raises none is the model's reading of R129 (R138, R250; notes/assumptions/103.md). -/
def Obligations.VectorQuantise : Prop :=
  ∀ (s : State) (c : Issue) (vd va : BitVec 5) (ty : BitVec 4) (ms : BitVec 6) (et : BitVec 3) (fl : Nat), c.entry = none →
    let i := Instr.vqmx vd va ty ms et
    let w := fmtBits (mxSrc et)
    let ew := fmtBits (mxElem ty)
    let block := fun b => (List.range 32).map fun k => elem w (c.vreg va.toNat) (32 * b + k)
    let bad := (List.range (numElems w / 32)).any fun b => (mxScale (mxElem ty) (mxSrc et) (block b)).isNone && active c.mask w (32 * b)
    wellFormed i = true → runs s c i fl → (fl = if bad then fIV else 0) →
    yields (exec i s) fun t => onlyVReg s c vd.toNat t ∧ completed s c fl t ∧
      (∀ k, k < numElems w → elem ew (vregAt t c vd.toNat) k =
        match mxScale (mxElem ty) (mxSrc et) (block (k / 32)) with
        | none => 0
        | some sc => mxQuant (mxElem ty) (mxSrc et) sc (elem w (c.vreg va.toNat) k) % 2 ^ ew) ∧
      (∀ b, b < numElems w / 32 → elem 8 (vregAt t c vd.toNat) (224 + b) = (mxScale (mxElem ty) (mxSrc et) (block b)).getD 0xFF) ∧
      ∀ b, numElems w * ew / 8 ≤ b → b < 256 → (b < 224 ∨ 224 + numElems w / 32 ≤ b) → elem 8 (vregAt t c vd.toNat) b = 0

/-- A reduction leaves in element 0 what the fixed tree of adjacent pairs gives, inactive elements counting as the identity of Table
4.11, and zeros above, whatever the mask holds; it raises the flags of every combination (R131, R246). -/
def Claims.Reductions : Prop :=
  ∀ (i : Instr) (s : State) (c : Issue) (vd va : BitVec 5) (o : RedOp) (et : BitVec 3), c.entry = none →
    foldOf i = some (false, vd, va, o, et) →
    let g := (combOf o et (issRm c)).1
    let ident := (combOf o et (issRm c)).2.1
    let w := (combOf o et (issRm c)).2.2
    let r := treeVal g (fun k => if active c.mask w k then elem w (c.vreg va.toNat) k else ident) (Nat.log2 (numElems w)) 0
    runs s c i r.2 →
    yields (exec i s) fun t => elem w (vregAt t c vd.toNat) 0 = r.1 % 2 ^ w ∧
      (∀ k, 0 < k → k < numElems w → elem w (vregAt t c vd.toNat) k = 0) ∧ onlyVReg s c vd.toNat t ∧ completed s c r.2 t

/-- A scan leaves in each active element the value that the doubling steps of R132 give it (R247). -/
def Claims.Scans : Prop :=
  ∀ (i : Instr) (s : State) (c : Issue) (vd va : BitVec 5) (o : RedOp) (et : BitVec 3) (fl : Nat), c.entry = none →
    foldOf i = some (true, vd, va, o, et) →
    let g := (combOf o et (issRm c)).1
    let ident := (combOf o et (issRm c)).2.1
    let w := (combOf o et (issRm c)).2.2
    let y := scanVal g (fun k => if active c.mask w k then elem w (c.vreg va.toNat) k else ident) (Nat.log2 (numElems w))
    (fl = scanFlags g (fun k => if active c.mask w k then elem w (c.vreg va.toNat) k else ident) (numElems w) (Nat.log2 (numElems w))) →
    runs s c i fl → yields (exec i s) fun t => elementsWritten s c vd.toNat w y t ∧ completed s c fl t

/-! ## Memory -/

/-- The checks of an access come in the order of R86: the window, the alignment, the range that the virtual address decides, the
translation; the first that fails decides. -/
def Obligations.AccessCheckOrder : Prop :=
  ∀ (s : State) (w : Who) (k : AccKind) (a : Acc),
    (badAddress s w a = true → checkAll s w k [a] = .trap cADDRESS (2 ^ a.lane)) ∧
    (badAddress s w a = false → a.va % a.n ≠ 0 → checkAll s w k [a] = .trap cALIGN (2 ^ a.lane)) ∧
    (badAddress s w a = false → a.va % a.n = 0 → badRangeV s w k a = true → checkAll s w k [a] = .trap cRANGE (2 ^ a.lane)) ∧
    (badAddress s w a = false → a.va % a.n = 0 → badRangeV s w k a = false → placeOf s w k a = none →
      checkAll s w k [a] = .miss [a.va / 0x1000]) ∧
    (∀ o, badAddress s w a = false → a.va % a.n = 0 → badRangeV s w k a = false → winOf a.va = .tcm o → 0x600 ≤ o →
      checkAll s w k [a] = .ok [(a, .near (tcmKey w.core o))])

/-- A load from a window beside the core completes at its issue: its bytes, extended, in its destination, nothing stored anywhere
(R206, R210, R211). -/
def Claims.LocalLoads : Prop :=
  ∀ (i : Instr) (s : State) (c : Issue) (f : MemForm) (key : Nat), loadForm i = some f → f.scope = none → clear s c i →
    let a := f.acc s c
    checkAll s (issWho s c) .load [a] = .ok [(a, .near key)] → nearLoadWaits s c.core (s.issThr c).uid a.va key f.n = false →
    poisoned s key f.n = false →
    yields (exec i s) fun t => wroteReg s c f.reg.toNat (extended f (memGet s.mem key f.n)) t ∧ t.mem = s.mem ∧ went s c t

/-- LDA from such a window completes too, with its acquire at the end: at a scope wider than the core it sets aside the copies filled so far
(R96, R212). -/
def Claims.LocalAcquire : Prop :=
  ∀ (sd sa : BitVec 6) (y : Opb) (sc : BitVec 4) (s : State) (c : Issue) (key : Nat), clear s c (.lda sd sa y sc) →
    let a : Acc := ⟨0, (memAddr s c sa y).toNat, 8⟩
    checkAll s (issWho s c) .load [a] = .ok [(a, .near key)] → nearLoadWaits s c.core (s.issThr c).uid a.va key 8 = false →
    poisoned s key 8 = false →
    yields (exec (.lda sd sa y sc) s) fun t => wroteReg s c sd.toNat (word (memGet s.mem key 8)) t ∧ t.mem = s.mem ∧ went s c t ∧
      (marksAt s key 8 = [] → (scopeLevel s c.core sc.toNat).2 = false → (t.issThr c).readFloor = s.fresh ∧
        ((scopeLevel s c.core sc.toNat).1.isWide = true → (t.issThr c).locFloor = s.fresh))

/-- A load from elsewhere sends one request for its bytes and suspends its thread until the reply, unless a usable local copy serves a
`.lax` one; it writes nothing yet (R87, R206, R210). -/
def Claims.SharedLoads : Prop :=
  ∀ (i : Instr) (s : State) (c : Issue) (f : MemForm) (pa : Nat), loadForm i = some f → clear s c i →
    let a := f.acc s c
    checkAll s (issWho s c) .load [a] = .ok [(a, .far pa)] →
    (f.lax = true → pwinOf pa = .hbm →
      (s.core c.core).cache.find? (fun x => x.line == lineOf pa && (s.issThr c).locFloor ≤ x.filled) = none) →
    yields (exec i s) fun t => ∃ id, waitsOn s c (.access [id] [] (.scalar f.reg.toNat f.n f.signed) (f.scope.map (acqOf s c.core)) []) t ∧
      isSent t id (fun r => r.core = c.core ∧ r.pa = pa ∧ r.n = f.n ∧ r.kind = .load (f.lax && pwinOf pa == .hbm)) ∧
      noReg s c t ∧ t.mem = s.mem

/-- A store to a window beside the core performs at its issue: its own bytes take the register's low bytes, every other byte of memory is
unchanged, no register changes (R90, R208, R210, R211). STL at level thread or core is the same (R213). -/
def Claims.LocalStores : Prop :=
  ∀ (i : Instr) (s : State) (c : Issue) (f : MemForm) (key : Nat), storeForm i = some f → clear s c i → Memory.wf s.mem = true →
    let a := f.acc s c
    checkAll s (issWho s c) .store [a] = .ok [(a, .near key)] → nearStoreWaits s c.core (s.issThr c).uid a.va key f.n = false →
    (key < 2 ^ 47 → pwinOf key = .spad (clusterOf c.core) ∧ ∀ k, k < f.n → pwinOf (key + k) = .spad (clusterOf c.core)) →
    (∀ n, f.scope = some n → (scopeLevel s c.core n).1.isWide = false ∨ writesOut s (s.issThr c).uid = false) →
    yields (exec i s) fun t => stored s key f.n (c.reg f.reg.toNat) t ∧ Memory.wf t.mem = true ∧ noReg s c t ∧ went s c t

/-- An STL beyond the core to such a window waits for the thread's outstanding writes before it performs (R95, R213). -/
def Claims.LocalReleaseWaits : Prop :=
  ∀ (sd sa : BitVec 6) (y : Opb) (sc : BitVec 4) (s : State) (c : Issue) (key : Nat), clear s c (.stl sd sa y sc) →
    let a : Acc := ⟨0, (memAddr s c sa y).toNat, 8⟩
    checkAll s (issWho s c) .store [a] = .ok [(a, .near key)] →
    (scopeLevel s c.core sc.toNat).1.isWide = true → writesOut s (s.issThr c).uid = true →
    yields (exec (.stl sd sa y sc) s) fun t =>
      waitsOn s c (.release (.store (bytesOf key (c.reg sd.toNat).toNat 8) (markOf s c.core (s.issThr c) sc.toNat false))) t ∧ t.mem = s.mem ∧ noReg s c t

/-- A store to elsewhere enters the store buffer behind those that are there, and its thread goes on; memory does not change yet (R208, R213). -/
def Claims.SharedStores : Prop :=
  ∀ (i : Instr) (s : State) (c : Issue) (f : MemForm) (pa : Nat), storeForm i = some f → clear s c i →
    let a := f.acc s c
    checkAll s (issWho s c) .store [a] = .ok [(a, .far pa)] →
    yields (exec i s) fun t => buffered s c pa f.n (c.reg f.reg.toNat) (f.scope.map fun n => markOf s c.core (s.issThr c) n false) t ∧ t.mem = s.mem ∧ noReg s c t ∧ went s c t

/-- FENCE: without a release, or with no write of its thread outstanding, or at level thread or core, it completes: an acquire at a wider
level sets aside the copies filled so far unless no release that its thread has read meets it, a release marks the stores that follow
it, beside the FENCEs of other scopes, and after FENCE.ar at a wider level no later load reads before it; otherwise its thread waits (R97, R99, R101, R219). -/
def Claims.Fences : Prop :=
  ∀ (s : State) (c : Issue) (o : Ord) (sc : BitVec 4), clear s c (.fence o sc) →
    let ends := ordRel o = false ∨ (scopeLevel s c.core sc.toNat).1.isWide = false ∨ writesOut s (s.issThr c).uid = false
    (ends → yields (exec (.fence o sc) s) fun t => went s c t ∧ noReg s c t ∧ t.mem = s.mem ∧ (t.issThr c).wait = (s.issThr c).wait ∧
      (ordRel o = true → (t.issThr c).fenceRel = addFence (markOf s c.core (s.issThr c) sc.toNat true) (s.issThr c).fenceRel) ∧
      (ordRel o = false → (t.issThr c).fenceRel = (s.issThr c).fenceRel) ∧
      (o = .ar → (scopeLevel s c.core sc.toNat).1.isWide = true → (t.issThr c).readFloor = s.fresh) ∧
      (ordAcq o = true → (scopeLevel s c.core sc.toNat).1.isWide = true →
        ((s.issThr c).fenceSeen = [] ∨ ∃ m ∈ (s.issThr c).fenceSeen, marksMeet s c.core (acqOf s c.core sc.toNat) m = true) →
        s.fresh ≤ (t.issThr c).locFloor ∧ (t.issThr c).readFloor = s.fresh)) ∧
    (¬ends → yields (exec (.fence o sc) s) fun t =>
      waitsOn s c (.release (.fence (markOf s c.core (s.issThr c) sc.toNat true) (ordAcq o))) t ∧ noReg s c t ∧ t.mem = s.mem)

/-- PREF completes at once and changes no register and no byte of memory, whatever its address (R214). -/
def Claims.Prefetches : Prop :=
  ∀ (s : State) (c : Issue) (sa : BitVec 6) (y : Opb) (lax : Bool), clear s c (.pref sa y lax) →
    yields (exec (.pref sa y lax) s) fun t => noReg s c t ∧ t.mem = s.mem ∧ t.todo = s.todo ∧ (t.issThr c).wait = (s.issThr c).wait ∧
      (lastOp s → pcAt t c = c.next ∧ t.issue = none)

/-- WAITLINE reads its doubleword fresh: a read leaves and its thread waits, its destination unwritten. It COMPLETES with the reply: when
that brings a value other than the operand, the destination takes it and the thread goes on (R193, R206). -/
def Claims.WaitLines : Prop :=
  ∀ (s : State) (c : Issue) (sd sa : BitVec 6) (b : BitVec 8) (pa : Nat), clear s c (.waitline sd sa b) →
    let a : Acc := ⟨0, (c.reg sa.toNat).toNat, 8⟩
    checkAll s (issWho s c) .waitline [a] = .ok [(a, .far pa)] →
    yields (exec (.waitline sd sa b) s) fun t => ∃ id,
      waitsOn s c (.waitline sd.toNat (c.reg sa.toNat) pa (selVal s c b) (some id)) t ∧
      isSent t id (fun r => r.core = c.core ∧ r.pa = pa ∧ r.n = 8 ∧ r.kind = .watch) ∧ noReg s c t ∧ t.mem = s.mem ∧
      ∀ (u : State) (x : Tid) (th : Thr) (r : Req), isThread u x c.core th → th.uid = (s.issThr c).uid → th.wait = (t.issThr c).wait →
        u.reqs.find id = some r → r.stage = .replied → r.poison = false → r.parts = [(0, r.pa, 8)] → r.n = 8 →
        uidHasReg u c.core th.uid sd.toNat → word (replyVal r) ≠ selVal s c b →
        yields (exec (.longAccessReply x) u) fun v => nowWaits v c.core th.uid .none ∧
          regOfUid v c.core th.uid sd.toNat = word (replyVal r) ∧ v.mem = u.mem

/-- A scalar atomic (AMO, AMOW, CAS, CASW, AMOF) sends one request with its function to the home of its bytes and suspends its thread until
the old value comes back; with a release whose waits are not over it waits for them first. It stores nothing itself. It COMPLETES with
the value that was granted: its destination takes the old value, zero-extended, whether or not it wrote, and the thread goes on (R95,
R216, R217). -/
def Claims.ScalarAtomics : Prop :=
  ∀ (i : Instr) (s : State) (c : Issue) (sd sa : BitVec 6) (n : Nat) (fn : AtomFn) (o : Ord) (sc : BitVec 4) (pa : Nat),
    atomForm c i = some (sd, sa, n, fn, o, sc) → clear s c i →
    let a : Acc := ⟨0, (c.reg sa.toNat).toNat, n⟩
    let acq := if ordAcq o then some (acqOf s c.core sc.toNat) else none
    let rel := if ordRel o then some (markOf s c.core (s.issThr c) sc.toNat false) else none
    checkAll s (issWho s c) .atomic [a] = .ok [(a, .far pa)] →
    (rel = none ∨ (scopeLevel s c.core sc.toNat).1.isWide = false ∨ writesOut s (s.issThr c).uid = false →
      yields (exec i s) fun t => ∃ id, waitsOn s c (.access [id] [] (.scalar sd.toNat n false) acq []) t ∧
        isSent t id (fun r => r.core = c.core ∧ r.pa = pa ∧ r.n = n ∧ r.parts = [(0, pa, n)] ∧ r.kind = .atomic [fn] rel) ∧
        noReg s c t ∧ t.mem = s.mem ∧
        ∀ (u : State) (x : Tid) (th : Thr) (r : Req), isThread u x c.core th → th.uid = (s.issThr c).uid → th.wait = (t.issThr c).wait →
          u.reqs.find id = some r → r.core = c.core → r.uid = th.uid → r.parts = [(0, pa, n)] → r.n = n → r.kind = .atomic [fn] rel →
          r.stage = .replied → r.poison = false → uidHasReg u c.core th.uid sd.toNat →
          yields (exec (.reservationGrant id) u) fun v => yields (exec (.longAccessReply x) v) fun w =>
            nowWaits w c.core th.uid .none ∧ regOfUid w c.core th.uid sd.toNat = word (r.val % 256 ^ n) ∧ w.mem = u.mem) ∧
    (rel ≠ none → (scopeLevel s c.core sc.toNat).1.isWide = true → writesOut s (s.issThr c).uid = true →
      yields (exec i s) fun t =>
        waitsOn s c (.release (.atomic [(a.va, [(0, pa, n)], [fn])] (.scalar sd.toNat n false) acq rel)) t ∧ noReg s c t ∧ t.mem = s.mem)

/-- What an atomic writes: the nine functions of Table 7.3 on integers, the three on floating-point numbers, rounded to nearest even, and CAS,
which writes only when it finds what it expects; MIN and MAX are signed. -/
def Claims.AtomicFunctions : Prop :=
  ∀ (n : Nat) (x y old : BitVec (8 * n)), 0 < n →
    let fm : Fmt := if n = 4 then .f32 else .f64
    atomApply n (.amo .add x.toNat) old.toNat = some (old + x).toNat ∧
    atomApply n (.amo .and x.toNat) old.toNat = some (old &&& x).toNat ∧
    atomApply n (.amo .or x.toNat) old.toNat = some (old ||| x).toNat ∧
    atomApply n (.amo .xor x.toNat) old.toNat = some (old ^^^ x).toNat ∧
    atomApply n (.amo .swap x.toNat) old.toNat = some x.toNat ∧
    atomApply n (.amo .min x.toNat) old.toNat = some (if x.slt old then x else old).toNat ∧
    atomApply n (.amo .max x.toNat) old.toNat = some (if old.slt x then x else old).toNat ∧
    atomApply n (.amo .minn x.toNat) old.toNat = some (if x.ult old then x else old).toNat ∧
    atomApply n (.amo .maxn x.toNat) old.toNat = some (if old.ult x then x else old).toNat ∧
    atomApply n (.amof .add x.toNat) old.toNat = some (fpAdd fm .rne old.toNat x.toNat).1 ∧
    atomApply n (.amof .min x.toNat) old.toNat = some (minMax fm false false old.toNat x.toNat).1 ∧
    atomApply n (.amof .max x.toNat) old.toNat = some (minMax fm true false old.toNat x.toNat).1 ∧
    atomApply n (.cas x.toNat y.toNat) old.toNat = if old = x then some y.toNat else none

/-- A vector load from the TCM window or the constant banks completes at its issue: each active element takes the bytes at its address, the
others are unchanged; VLDB gives the bytes at its one address to every active element (R231, R252, R253). -/
def Claims.VectorLocalLoads : Prop :=
  (∀ (i : Instr) (s : State) (c : Issue) (vd : BitVec 5) (w : Nat) (keys : List Nat), vecLoadForm i = some (vd, w) → clear s c i →
    c.entry = none → firstTurn s c → placed s c i .load (keys.map .near) →
    (∀ key ∈ keys, 2 ^ 47 ≤ key ∧ isSpad key = false ∧ poisoned s key (w / 8) = false) →
    yields (exec i s) fun t => onlyVReg s c vd.toNat t ∧ t.mem = s.mem ∧ went s c t ∧
      (∀ j, j < keys.length → elem w (vregAt t c vd.toNat) ((activeElems c.mask w).getD j 0) = memGet s.mem (keys.getD j 0) (w / 8)) ∧
      ∀ k, k < numElems w → active c.mask w k = false → elem w (vregAt t c vd.toNat) k = elem w (vregAt s c vd.toNat) k) ∧
  ∀ (s : State) (c : Issue) (vd : BitVec 5) (base : BitVec 6) (imm : BitVec 16) (lax : Bool) (ms : BitVec 6) (et : BitVec 3) (key : Nat),
    let i := Instr.vldb vd base imm lax ms et
    let w := etWidthOnly et
    clear s c i → c.entry = none → firstTurn s c → placed s c i .load ((activeElems c.mask w).map fun _ => .near key) → 2 ^ 47 ≤ key → isSpad key = false →
    poisoned s key (w / 8) = false →
    yields (exec i s) fun t => onlyVReg s c vd.toNat t ∧ t.mem = s.mem ∧ went s c t ∧
      ∀ k, k < numElems w → elem w (vregAt t c vd.toNat) k =
        if active c.mask w k then memGet s.mem key (w / 8) else elem w (vregAt s c vd.toNat) k

/-- A vector load from elsewhere sends requests that cover every active element and suspends its wave until their replies; it writes
nothing yet (R254). -/
def Claims.VectorSharedLoads : Prop :=
  ∀ (i : Instr) (s : State) (c : Issue) (vd : BitVec 5) (w : Nat) (pas : List Nat), vecLoadForm i = some (vd, w) → clear s c i →
    c.entry = none → firstTurn s c → pas ≠ [] → placed s c i .load (pas.map .far) →
    (∀ pa ∈ pas, pwinOf pa = .hbm →
      (s.core c.core).cache.find? (fun x => x.line == lineOf pa && (s.issThr c).locFloor ≤ x.filled) = none) →
    yields (exec i s) fun t => ∃ ids, waitsOn s c (.access ids [] (.vector vd.toNat w) none []) t ∧ noReg s c t ∧ t.mem = s.mem ∧
      ∀ j, j < pas.length → ∃ id ∈ ids, isSent t id fun r => r.core = c.core ∧ lineOf r.pa = lineOf (pas.getD j 0) ∧
        ((activeElems c.mask w).getD j 0, pas.getD j 0, w / 8) ∈ r.parts

/-- A vector store to the TCM window performs at its issue: a byte that an active element covers takes the byte of the highest such element,
every other byte of memory is unchanged, no register changes (R252, R255). -/
def Claims.VectorLocalStores : Prop :=
  ∀ (i : Instr) (s : State) (c : Issue) (vd : BitVec 5) (w : Nat) (keys : List Nat), vecStoreForm i = some (vd, w) → clear s c i →
    c.entry = none → firstTurn s c → Memory.wf s.mem = true → placed s c i .store (keys.map .near) →
    (∀ key ∈ keys, 2 ^ 47 ≤ key ∧ isSpad key = false) →
    yields (exec i s) fun t => noReg s c t ∧ went s c t ∧ Memory.wf t.mem = true ∧
      ∀ a, memRead t.mem a =
        match (((activeElems c.mask w).zip keys).reverse.find? fun x => x.2 ≤ a && a < x.2 + w / 8) with
        | some x => BitVec.ofNat 8 (elem w (c.vreg vd.toNat) x.1 / 256 ^ (a - x.2))
        | none => memRead s.mem a

/-- A vector store to elsewhere enters the store buffer; when its entries have room its wave goes on, and memory does not change yet
(R208, R255). -/
def Claims.VectorSharedStores : Prop :=
  ∀ (i : Instr) (s : State) (c : Issue) (vd : BitVec 5) (w : Nat) (pas : List Nat), vecStoreForm i = some (vd, w) → clear s c i →
    c.entry = none → firstTurn s c → placed s c i .store (pas.map .far) → runsOf (pas.map some) ≤ 32 →
    yields (exec i s) fun t => noReg s c t ∧ went s c t ∧ t.mem = s.mem ∧
      ∃ ids, (t.core c.core).sbuf = (s.core c.core).sbuf ++ ids ∧ ids.length = runsOf (pas.map some)

/-- A vector atomic sends one request for each address of its active elements, with their functions in element order, and suspends its wave
until the old values come back; with no active element it completes (R256, R257). -/
def Obligations.VectorAtomics : Prop :=
  ∀ (i : Instr) (s : State) (c : Issue) (vd : BitVec 5) (w : Nat) (fn : Nat → AtomFn) (o : Ord) (sc : BitVec 4) (pas : List Nat),
    vecAtomForm i = some (vd, w, fn, o, sc) → clear s c i → c.entry = none → placed s c i .atomic (pas.map .far) →
    ordRel o = false ∨ (scopeLevel s c.core sc.toNat).1.isWide = false ∨ writesOut s (s.issThr c).uid = false →
    (pas = [] → yields (exec i s) fun t => noReg s c t ∧ went s c t ∧ t.mem = s.mem) ∧
    (pas ≠ [] → yields (exec i s) fun t => ∃ ids,
      waitsOn s c (.access ids [] (.vector vd.toNat w) (if ordAcq o then some (acqOf s c.core sc.toNat) else none) []) t ∧ noReg s c t ∧ t.mem = s.mem ∧
      ∀ j, j < pas.length → ∃ id ∈ ids, isSent t id fun r => r.pa = pas.getD j 0 ∧
        ((activeElems c.mask w).getD j 0, pas.getD j 0, w / 8) ∈ r.parts ∧
        ∃ fs rel, r.kind = .atomic fs rel ∧ fn (elem w (c.vreg vd.toNat) ((activeElems c.mask w).getD j 0)) ∈ fs)


/-! ## Barriers, semaphores, accumulators -/

/-- BARC, BARG, DEVELOP and TRIM complete and leave their wave waiting at the barrier, not yet counted; TRIM brings its table (R220, R224). -/
def Claims.BarrierArrivals : Prop :=
  ∀ (i : Instr) (s : State) (c : Issue) (k : BarKind) (table : List Nat) (sd : Nat), clear s c i → barForm s c i = some (k, table, sd) →
    yields (exec i s) fun t => waitsOn s c (.barrier k false table sd) t ∧ noReg s c t ∧ t.mem = s.mem

/-- BARC, BARG, DEVELOP and TRIM COMPLETE with the release of their barrier. For a wave that is the only member, with no write outstanding,
the arrival is counted at once: the wave goes on behind its bundle, its registers as they were, but that TRIM's destination takes its
status, 1 when another thread holds a slot 0 to 6 and else 0 (R57, R221, R225). -/
def Claims.BarriersComplete : Prop :=
  ∀ (i : Instr) (s : State) (c : Issue) (k : BarKind) (table : List Nat) (sd : Nat) (w : Wave), clear s c i →
    barForm s c i = some (k, table, sd) → lastOp s → c.entry = none → waveOf s c = some w → w.owed = none → ordered (s.core c.core).slots →
    entryOfUid (s.core c.core) w.t.uid = none → s.thrOf c.core w.t.uid = some w.t → hasImage s c.core c.slot = false →
    barMembers s c.core w k = [(c.core, w)] → writesOut s w.t.uid = false →
    let other := (s.core c.core).slots.any fun x => decide (x.1 ≤ 6) && x.2.t.uid != w.t.uid
    yields (exec i s) fun t => yields (exec (.barrierArrivalCount c.core c.slot) t) fun u =>
      (u.issThr c).wait = .none ∧ pcAt u c = c.next ∧ (∀ x, vregAt u c x = vregAt s c x) ∧ atRest u ∧
      ∀ x, hasReg c x → regAt u c x = if k = .trim ∧ x = sd then (if other then 1 else 0) else regAt s c x

/-- The last arrival releases its barrier, whatever its kind and however many members it has: every member, on whatever core, goes on with its
registers as they were, and TRIM's destination takes the status of Table 7.5 in each; TRIM's table is read from the next clk on with status
0 alone; only DEVELOP's merge reaches memory (R57, R221, R224, R225). Who the members are is `barMembers`: Tables 1.12 and 7.4, and for the
BARC, BARG and DEVELOP of a supervisor the model's choice (notes/assumptions/78.md). -/
def Claims.BarrierRelease : Prop :=
  ∀ (s : State) (core slot : Nat) (w : Wave) (k : BarKind) (tab : List Nat) (sd : Nat), (s.core core).slots.find slot = some w →
    hasImage s core slot = false → w.t.wait = .barrier k false tab sd →
    releaseDone s core w.t.uid (if k = .develop then 2 else 1) = true →
    let m := barMembers s core w k
    (core, w) ∈ m → (m.map fun x => (x.1, x.2.t.uid)).Nodup → (∀ x ∈ m, x = (core, w) ∨ arrivedAt k x.2 = true) →
    (∀ x ∈ m, x.2.owed = none ∧ s.thrOf x.1 x.2.t.uid = some x.2.t ∧ entryOfUid (s.core x.1) x.2.t.uid = none ∧ ordered (s.core x.1).slots ∧
      (slotOfUid (s.core x.1) x.2.t.uid).bind (s.core x.1).slots.find = some x.2) →
    let other := (s.core core).slots.any fun x => decide (x.1 ≤ 6) && !m.any fun y => y.2.t.uid == x.2.t.uid
    let same := m.all fun y => tableOf y.2 == tab
    let status : Nat := if other then 1 else if same then 0 else 2
    yields (exec (.barrierArrivalCount core slot) s) fun t =>
      (∀ x ∈ m, nowWaits t x.1 x.2.t.uid .none) ∧
      (∀ x ∈ m, ∀ r, uidHasReg s x.1 x.2.t.uid r → regOfUid t x.1 x.2.t.uid r =
        match x.2.t.wait with
        | .barrier .trim _ _ d => if r = d then word status else regOfUid s x.1 x.2.t.uid r
        | _ => regOfUid s x.1 x.2.t.uid r) ∧
      (k ≠ .develop → t.mem = s.mem) ∧
      tableNow (t.core core) s.clk = tableNow (s.core core) s.clk ∧
      (k = .trim → status = 0 → (s.core core).trimSet.1 ≠ s.clk → tableNow (t.core core) (s.clk + 1) = tab) ∧
      (k ≠ .trim ∨ status ≠ 0 → tableNow (t.core core) (s.clk + 1) = tableNow (s.core core) (s.clk + 1))

/-- DEVELOP's merge: every latent byte that was written before this clk, and not on it, takes its place in the visible tile, unless the cluster
itself has written that place on this clk; no other byte changes (R80, R222). -/
def Claims.DevelopMerge : Prop :=
  ∀ (s : State) (k : Nat), Memory.wf s.mem = true →
    let q := s.cluster k
    let shift := pwCount q.phasewin * 4096
    ordered q.written → (∀ x ∈ q.written, shift ≤ x.1) →
    let t := developMerge s k
    Memory.wf t.mem = true ∧
    (∀ o c, q.written.find o = some c → c < s.clk → q.shown.find (o - shift) ≠ some s.clk →
      memRead t.mem (spadKey k (o - shift)) = memRead s.mem (spadKey k o)) ∧
    ∀ a, (∀ o, (q.written.find o).isSome = true → q.shown.find (o - shift) ≠ some s.clk → a ≠ spadKey k (o - shift)) →
      memRead t.mem a = memRead s.mem a

/-- SEMW completes with the count in its destination, and an acquire, when (count − threshold) mod 2^16 is below 2^15; otherwise its thread
waits with nothing written (R227). -/
def Claims.SemaphoreWait : Prop :=
  ∀ (s : State) (c : Issue) (sd sa : BitVec 6) (sem : BitVec 8) (thr : BitVec 16) (scope : BitVec 4), let i := Instr.semw sd sa sem thr scope
    clear s c i →
    let n := semCount s c.core sem.toNat
    let x : Nat := (thr.toNat + (c.reg sa.toNat).toNat) % 2 ^ 16
    (((n : Int) - (x : Int)) % 2 ^ 16 < 2 ^ 15 → yields (exec i s) fun t => wroteReg s c sd.toNat (word n) t ∧ t.mem = s.mem ∧ went s c t ∧
      ((scopeLevel s c.core scope.toNat).1.isWide = true → s.fresh ≤ (t.issThr c).locFloor)) ∧
    (¬((n : Int) - (x : Int)) % 2 ^ 16 < 2 ^ 15 → yields (exec i s) fun t =>
      waitsOn s c (.semw sem.toNat x sd.toNat (acqOf s c.core scope.toNat)) t ∧ noReg s c t ∧ t.mem = s.mem)

/-- SEMS at level thread or core adds to its semaphore modulo 2^16, after the clk's SEMSET and signals, and answers the count before its own
increment; behind another one that waits, or at a wider level, it waits its turn, there behind the outstanding writes of its thread
(R228, R229). -/
def Claims.SemaphoreSet : Prop :=
  ∀ (s : State) (c : Issue) (sd sa : BitVec 6) (sem : BitVec 8) (inc : BitVec 16) (scope : BitVec 4), let i := Instr.sems sd sa sem inc scope
    clear s c i →
    let q := sem.toNat
    let n := (inc.toNat + (c.reg sa.toNat).toNat) % 2 ^ 16
    let wide := (scopeLevel s c.core scope.toNat).1.isWide
    let waits := fun w t => waitsOn s c w t ∧ noReg s c t ∧ t.mem = s.mem ∧ ∀ p, semCount t c.core p = semCount s c.core p
    let before := semCount (semChanges s c.core q) c.core q
    (wide = false → semsWaiting s c.core q = false → yields (exec i s) fun t =>
      wroteReg s c sd.toNat (word before) t ∧ t.mem = s.mem ∧ (lastOp s → pcAt t c = c.next ∧ t.issue = none) ∧
      ((s.core c.core).semIn.filter (fun x => x.1 == q) = [] → before = semCount s c.core q ∧ went s c t) ∧
      ∀ p, semCount t c.core p = if p = q then (before + n) % 2 ^ 16 else semCount s c.core p) ∧
    (wide = false → semsWaiting s c.core q = true → yields (exec i s) fun t => ∃ o, waits (.semsReady q n sd.toNat o) t) ∧
    (wide = true → writesOut s (s.issThr c).uid = false → yields (exec i s) fun t => ∃ o, waits (.semsReady q n sd.toNat o) t) ∧
    (wide = true → writesOut s (s.issThr c).uid = true → yields (exec i s) fun t => ∃ o, waits (.release (.sems q n sd.toNat o)) t)

/-- VACCRD gives active lane j element (row, j) of the accumulator tile; VACCWR stores active lane j there; the other lanes and the other
elements stay (R260). -/
def Claims.AccumulatorMoves : Prop :=
  ∀ (s : State) (c : Issue) (vd : BitVec 5) (tile : BitVec 2) (ctx : Bool) (vb : BitVec 5) (ms : BitVec 6) (et : BitVec 3), c.entry = none →
    let row := 4096 * tile.toNat + 64 * ((c.reg vb.toNat).toNat % 64)
    (clear s c (.vaccrd vd tile ctx vb ms et) → yields (exec (.vaccrd vd tile ctx vb ms et) s) fun t =>
      elementsWritten s c vd.toNat 32 (fun j => (matCtxOf (s.core c.core) ctx).get (row + j)) t ∧ t.mem = s.mem ∧ went s c t ∧
      ∀ x, matCtxOf (t.core c.core) x = matCtxOf (s.core c.core) x) ∧
    (clear s c (.vaccwr vd tile ctx vb ms et) → yields (exec (.vaccwr vd tile ctx vb ms et) s) fun t =>
      noReg s c t ∧ t.mem = s.mem ∧ went s c t ∧ matCtxOf (t.core c.core) (!ctx) = matCtxOf (s.core c.core) (!ctx) ∧
      ∀ n, (matCtxOf (t.core c.core) ctx).get n =
        if row ≤ n ∧ n < row + 64 ∧ active c.mask 32 (n - row) = true then elem 32 (c.vreg vd.toNat) (n - row)
        else (matCtxOf (s.core c.core) ctx).get n)

/-! ## Fibres -/

/-- SPAWN and RGEN make one fibre from the creator's registers. It enters a free run-queue entry, ready, and the destination takes 0; without
room it is spilled, its image in the spill area, and the destination takes 1 (R25, R36, R37, R288). That the entry is the lowest free one, and
the place of the image the next of the area, are the model's choices (notes/assumptions/85.md, 28.md). -/
def Claims.FibreCreation : Prop :=
  ∀ (i : Instr) (s : State) (c : Issue) (sd : BitVec 6) (pc : Word) (ray : Bool), fibreForm s c i = some (sd, pc, ray) → clear s c i →
    lastOp s → (s.issThr c).uid ≠ 0 → launchDead s (s.issThr c) = false →
    let k := s.core c.core
    (roomForOne s c → yields (exec i s) fun t => toldReg s c sd.toNat 0 t ∧ t.mem = s.mem ∧ (t.core c.core).spill = k.spill ∧
      ∃ e x, freeEntry k = some e ∧ (t.core c.core).rq.find e = some x ∧ madeBy s c pc ray x.fib ∧ x.t.lid = (s.issThr c).lid ∧
        (∃ o, x.st = .ready o) ∧ ∀ y, y ≠ e → c.entry ≠ some y → (t.core c.core).rq.find y = k.rq.find y) ∧
    (¬roomForOne s c → k.spill.length < k.spillSize → yields (exec i s) fun t => toldReg s c sd.toNat 1 t ∧
      ∃ a, (t.core c.core).spill = k.spill ++ [a] ∧ madeBy s c pc ray a.fib ∧ a.t.lid = (s.issThr c).lid ∧ a.fib.seq = 1 ∧
        t.mem = (devicePut s (spillAddr k k.spillNext) (fibreDws a.fib)).mem ∧
        ∀ y, c.entry ≠ some y → (t.core c.core).rq.find y = k.rq.find y)

/-- VRAYGEN makes one fibre for each active lane; its scalar destination takes their number (R259). -/
def Claims.RayCreation : Prop :=
  ∀ (s : State) (c : Issue) (vd va vb : BitVec 5) (ms : BitVec 6), let i := Instr.vraygen vd va vb ms
    clear s c i → c.entry = none → lastOp s → (s.issThr c).uid ≠ 0 → launchDead s (s.issThr c) = false →
    let n := (activeElems c.mask 32).length
    (s.core c.core).spill.length + n ≤ (s.core c.core).spillSize →
    yields (exec i s) fun t => toldReg s c vd.toNat (word n) t ∧ fibresHeld (t.core c.core) = fibresHeld (s.core c.core) + n

/-- FEND frees a fibre's entry, and a wave's slot; while writes of the thread are outstanding the end waits for them (R113, R290). FYIELD
makes the fibre ready again, behind the others, and is without effect in a wave (R290). -/
def Claims.FibreEnds : Prop :=
  ∀ (s : State) (c : Issue),
    (clear s c .fend → lastOp s → writesOut s (s.issThr c).uid = false → ∀ e, c.entry = some e → yields (exec .fend s) fun t =>
      (t.core c.core).rq.find e = none ∧ (∀ y, y ≠ e → (t.core c.core).rq.find y = (s.core c.core).rq.find y) ∧ atRest t ∧ t.mem = s.mem) ∧
    (clear s c .fend → lastOp s → writesOut s (s.issThr c).uid = false → c.entry = none → entryOfUid (s.core c.core) (s.issThr c).uid = none →
      ordered (s.core c.core).slots → yields (exec .fend s) fun t => waveOf t c = none) ∧
    (clear s c .fend → writesOut s (s.issThr c).uid = true → yields (exec .fend s) fun t =>
      waitsOn s c (.release .fend) t ∧ noReg s c t ∧ t.mem = s.mem) ∧
    (clear s c .fyield → lastOp s → yields (exec .fyield s) fun t => pcAt t c = c.next ∧ noReg s c t ∧ t.mem = s.mem ∧ atRest t ∧
      ∀ e, c.entry = some e → (s.core c.core).held = some e → (t.core c.core).held = none ∧
        ∃ x o, (t.core c.core).rq.find e = some x ∧ x.st = .ready o)

/-- GO sends its fibre, with its SEQ one more, to the core beside the home of the address, and frees the entry; while its writes are
outstanding it waits (R112, R286, R287). -/
def Claims.FibreGo : Prop :=
  ∀ (s : State) (c : Issue) (sa : BitVec 6) (b : BitVec 8) (e : Nat) (x : RqEntry) (pa : Nat), clear s c (.go sa b) → c.entry = some e →
    (s.core c.core).rq.find e = some x →
    let a : Acc := ⟨0, (c.reg sa.toNat + selVal s c b).toNat, 1⟩
    checkAll s (issWho s c) .goTarget [a] = .ok [(a, .far pa)] →
    (writesOut s x.t.uid = true → yields (exec (.go sa b) s) fun t => waitsOn s c (.release (.go pa)) t ∧ noReg s c t ∧ t.mem = s.mem) ∧
    (∀ d, lastOp s → writesOut s x.t.uid = false → goDest s c.core pa = some d → yields (exec (.go sa b) s) fun t =>
      (t.core c.core).rq.find e = none ∧ t.mem = s.mem ∧ atRest t ∧ ∃ y : Away,
        underWay t .fibre (.core c.core) (.core d) 0 (.fibre y) ∧ y.t.lid = x.t.lid ∧
        y.fib = { x.fib with pc := c.next, seq := (x.fib.seq + 1) % 2 ^ 32 })

/-- HOP sends its fibre to the directory slice of the treelet on top of its stack, or to an owner that the location cache names, and frees
the entry; while its writes are outstanding it waits; a treelet outside the scene ends the launch (R267, R281). -/
def Claims.FibreHop : Prop :=
  ∀ (s : State) (c : Issue) (e p tb : Nat) (x : RqEntry), clear s c .hop → c.entry = some e → (s.core c.core).rq.find e = some x →
    let id := fibTop x.fib
    let gone := { x.fib with pc := c.next, seq := (x.fib.seq + 1) % 2 ^ 32 }
    (id < (sceneOf s x.t).getD 1 0 % 2 ^ 24 → writesOut s x.t.uid = true → yields (exec .hop s) fun t =>
      waitsOn s c (.release .hop) t ∧ noReg s c t ∧ t.mem = s.mem) ∧
    (id < (sceneOf s x.t).getD 1 0 % 2 ^ 24 → writesOut s x.t.uid = false → lastOp s → s.partOf c.core = some p → tbaseOf s x.t = some tb →
      (s.core c.core).locs.find? (fun y => y.1 == tb && y.2.1 == id) = none → yields (exec .hop s) fun t =>
        (t.core c.core).rq.find e = none ∧ t.mem = s.mem ∧ atRest t ∧ ∃ y : Away, y.fib = gone ∧ y.t.lid = x.t.lid ∧
          underWay t .fibre (.core c.core) (dirNode id) 0 (.seek { a := y, part := p, tbase := tb, id := id, src := c.core, evict := none })) ∧
    (∀ o l, id < (sceneOf s x.t).getD 1 0 % 2 ^ 24 → writesOut s x.t.uid = false → lastOp s → s.partOf c.core = some p →
      tbaseOf s x.t = some tb → (s.core c.core).locs.find? (fun y => y.1 == tb && y.2.1 == id) = some (tb, id, o :: l) →
      yields (exec .hop s) fun t => (t.core c.core).rq.find e = none ∧ t.mem = s.mem ∧ atRest t ∧
        ∃ (y : Away) (d : Nat), d ∈ o :: l ∧ y.fib = gone ∧ underWay t .fibre (.core c.core) (.core d) 0 (.hop y)) ∧
    ((sceneOf s x.t).getD 1 0 % 2 ^ 24 ≤ id → exec .hop s = .next (fatalFibre (opened s c .hop) c.core e x 0x45 id 0).closeIssue)

/-- HQPUSH sends the record of Table 9.14, behind the fibre's earlier writes, to the core that the TRAYMAP names for the key; the fibre goes
on, and nothing of it changes (R291). -/
def Claims.HitPush : Prop :=
  ∀ (s : State) (c : Issue) (sa : BitVec 6) (e d : Nat) (x : RqEntry), let i := Instr.hqpush sa
    clear s c i → c.entry = some e → (s.core c.core).rq.find e = some x →
    let key := (c.reg sa.toNat).toNat % 2 ^ 32
    let r := fun k => (fibreGet x.fib k).toNat
    trayTarget s c.core ((sceneOf s x.t).getD 4 0 + 2 * (key % ((sceneOf s x.t).getD 5 1 % 2 ^ 13))) = .found d → compCore s c.core d = true →
    yields (exec i s) fun t => noReg s c t ∧ went s c t ∧ t.mem = s.mem ∧
      underWay t .hit (.core c.core) (.core d) x.t.uid
        (.tray ([r 1, r 2, r 3, r 4, r 5, r 6, r 8, key + x.fib.seq * 2 ^ 32].flatMap fun y => [y % 2 ^ 32, y / 2 ^ 32]))

/-- VHQPOP takes the oldest records of the tray, one for each active lane; sixteen or fewer it writes at once: word i of the record of a lane
to that lane of register vd + i, the number of records to its scalar destination; more take further turns (R258). -/
def Claims.HitPop : Prop :=
  ∀ (s : State) (c : Issue) (vd vb : BitVec 5) (ms : BitVec 6), let i := Instr.vhqpop vd vb ms
    clear s c i → c.entry = none → firstTurn s c → vd.toNat ≤ 16 →
    let lanes := activeElems c.mask 32
    let tray := (s.core c.core).tray
    let n := min lanes.length (tray.filter fun x => x.2 < s.clk).length
    (n ≤ 16 → yields (exec i s) fun t => t.mem = s.mem ∧ went s c t ∧ (t.core c.core).tray = tray.drop n ∧
      (∀ r, hasReg c r → regAt t c r = if r = vb.toNat then word n else regAt s c r) ∧
      (∀ r, r < vd.toNat ∨ vd.toNat + 16 ≤ r → vregAt t c r = vregAt s c r) ∧
      ∀ j k, j < 16 → k < 64 → elem 32 (vregAt t c (vd.toNat + j)) k =
        match lanes.idxOf? k with
        | some p => if p < n then ((tray.getD p ([], 0)).1.getD j 0) % 2 ^ 32 else elem 32 (c.vreg (vd.toNat + j)) k
        | none => elem 32 (c.vreg (vd.toNat + j)) k) ∧
    (16 < n → yields (exec i s) fun t => t.mem = s.mem ∧ noReg s c t ∧ pcAt t c = pcAt s c ∧ t.issue = none ∧
      (t.core c.core).tray = tray.drop n)

/-- TRAV, TRAV_ACC and TRAV_END park their fibre for the traversal unit, with the accesses of a walk that has missed; the pc stays until the
walk is over. They COMPLETE with the event that it delivers: with no walk saved and an empty stack that is DONE, at the bundle behind the
instruction, the fibre ready and its registers but f7 as they were (R271, R272, R278). -/
def Claims.TraversalParks : Prop :=
  ∀ (i : Instr) (s : State) (c : Issue) (form : Nat), (i = .trav ∧ form = 0 ∨ i = .travAcc ∧ form = 1 ∨ i = .travEnd ∧ form = 2) →
    clear s c i → lastOp s →
    (yields (exec i s) fun t => (t.issThr c).wait = .walk form (latchMade ((s.issThr c).latch.drop 2)) none ∧ pcAt t c = c.pc ∧
      noReg s c t ∧ t.mem = s.mem ∧ othersKept s c t ∧ atRest t) ∧
    ∀ e x, c.entry = some e → (s.core c.core).rq.find e = some x → entryOfUid (s.core c.core) x.t.uid = some e → x.fib.pin = false →
      x.t.latch = [] → fibDepth x.fib = 0 →
      yields (exec i s) fun t => yields (exec (.travEventDelivery c.core e) t) fun u => u.mem = s.mem ∧
        ∃ y, (u.core c.core).rq.find e = some y ∧ y.fib.pc = c.pc + 8 ∧ (∃ o, y.st = .ready o) ∧ y.t.wait = .none ∧
          ∀ r, r ≠ 7 → fibreGet y.fib r = fibreGet x.fib r

/-- TRAV_INST pushes the treelet it is given: DEPTH one more, the old top below it as a return entry. From DEPTH 1 nothing is stored; from
DEPTH 2 to 254 the fibre stores the old NEXT in its ray-stack slot, at once beside the core and else through the store buffer; from 255 it
ends the launch (R270, R279). An empty stack is ILLEGAL before that. -/
def Claims.TraversalInstance : Prop :=
  ∀ (s : State) (c : Issue) (b : BitVec 8) (e : Nat) (x : RqEntry), clear s c (.travInst b) → c.entry = some e →
    (s.core c.core).rq.find e = some x →
    let d := fibDepth x.fib
    let old := (fibreGet x.fib 7).toNat
    let next : Word := word (bits old 47 24 + bits old 59 58 * 2 ^ 24)
    let a : Acc := ⟨0, rayVa (sceneOf s x.t) x.fib (d - 2), 4⟩
    let who : Who := { core := c.core, t := x.t, origin := some x.fib.origin }
    let pushed := fun t : State => went s c t ∧ (∀ r, r ≠ 7 → regAt t c r = regAt s c r) ∧
      let f := (regAt t c 7).toNat
      bits f 23 0 = (selVal s c b).toNat % 2 ^ 24 ∧ bits f 47 24 = fibTop x.fib ∧ bits f 55 48 = d + 1 ∧ bits f 57 56 = 0 ∧
        bits f 59 58 = 2 ∧ bitAt f 60 = true
    (d < 2 → yields (exec (.travInst b) s) fun t => pushed t ∧ t.mem = s.mem) ∧
    (∀ key, 2 ≤ d → d < 255 → checkAll s who .store [a] = .ok [(a, .near key)] → nearStoreWaits s c.core x.t.uid a.va key 4 = false →
      Memory.wf s.mem = true →
      (key < 2 ^ 47 → pwinOf key = .spad (clusterOf c.core) ∧ ∀ k, k < 4 → pwinOf (key + k) = .spad (clusterOf c.core)) →
      yields (exec (.travInst b) s) fun t => pushed t ∧ stored s key 4 next t) ∧
    (∀ pa, 2 ≤ d → d < 255 → checkAll s who .store [a] = .ok [(a, .far pa)] → sbufUsed (s.core c.core) < 32 →
      yields (exec (.travInst b) s) fun t => pushed t ∧ t.mem = s.mem ∧ buffered s c pa 4 next none t) ∧
    (d = 255 → exec (.travInst b) s = .next (fatalFibre (opened s c (.travInst b)) c.core e x 0x46 0 0).closeIssue)

/-! ## Commands at issue -/

/-- Every command that no matrix context takes (CPY, CPY2, CPYT, CPYB, CPYM, CPYR, CPYG, PREF2, FLUSH, FILLZ, SEMOP, SEMSET, MCAS, LAUNCH,
SPAWNT, LSTAT, FPOST, FCLK, SCENEB, WAYCFG, PREEMPT) enters its core's queue, last, with its operands as they stood at issue; its token
register is pending when it names one; its thread goes on (R295, R296). SPAWNT also counts its task for the launch (R321): that it does so from its issue is the model's reading
(notes/assumptions/47.md). MCAS
first reads its block, waiting for what is not beside the core (R319). -/
def Claims.CommandIssue : Prop :=
  (∀ (i : Instr) (s : State) (c : Issue) (h : CmdHdr), hdrOf i = some h → cmdCtx i = none → clear s c i →
    (∀ h b n o, i = .mcas h b n o → (mcasEntries s c n.toNat (regOpVal c b).toNat).isSome = true) →
    yields (exec i s) fun t => went s c t ∧ noReg s c t ∧ t.mem = s.mem ∧
      ∃ x, (t.core c.core).cmdq = (s.core c.core).cmdq ++ [x] ∧ queuedBy s c i h t x) ∧
  (∀ (s : State) (c : Issue) (h : CmdHdr) (r : BitVec 6) (lid : Nat) (l : Launch), clear s c (.spawnt h r) →
    (s.issThr c).lid = some lid → s.launches.find lid = some l →
    yields (exec (.spawnt h r) s) fun t => ∃ y, t.launches.find lid = some y ∧ y.left = l.left + 1) ∧
  ∀ (s : State) (c : Issue) (h : CmdHdr) (b : RegOp) (n : BitVec 4) (o : Ord) (places : List Place), clear s c (.mcas h b n o) →
    let a := (regOpVal c b).toNat
    let accs : List Acc := (List.range (3 * n.toNat)).map fun k => ⟨k, a + 8 * k, 8⟩
    mcasEntries s c n.toNat a = none → checkAll s (issWho s c) .engRead accs = .ok (accs.zip places) →
    yields (exec (.mcas h b n o) s) fun t => (∃ ids, (t.issThr c).wait = .block ids) ∧ pcAt t c = pcAt s c ∧ t.issue = none ∧
      noReg s c t ∧ t.mem = s.mem ∧ (t.core c.core).cmdq = (s.core c.core).cmdq

/-- A matrix command (MMA, MMAX, MZERO, MLD, MST, RMMAK, RMMAN) enters the queue of its context, last, and its wave waits for it; so does a rig command whose rig and shape are those
of the open instruction, or that opens it, and its core has then arrived (R310, R314, R315). -/
def Claims.MatrixIssue : Prop :=
  ∀ (i : Instr) (s : State) (c : Issue) (h : CmdHdr) (x : Bool), hdrOf i = some h → cmdCtx i = some x → clear s c i →
    let queued := fun t => noReg s c t ∧ t.mem = s.mem ∧ ∃ q, waitsOn s c (.matrix q.num) t ∧ queuedBy s c i h t q ∧
      (matCtxOf (t.core c.core) x).queue = (matCtxOf (s.core c.core) x).queue ++ [q] ∧
      matCtxOf (t.core c.core) (!x) = matCtxOf (s.core c.core) (!x)
    (isRig i = false → yields (exec i s) queued) ∧
    ∀ key seq shape g, isRig i = true → rigIssue s c i = some (key, seq, shape) → s.rigs.find key = some g →
      (g.arrived = [] ∨ (g.seq = seq ∧ g.shape = shape)) →
      yields (exec i s) fun t => queued t ∧ ∃ g', t.rigs.find key = some g' ∧ g'.seq = seq ∧ g'.shape = shape ∧ g'.members = g.members ∧
        ∃ num, g'.arrived = g.arrived ++ [(c.core, (s.issThr c).uid, num)]

/-! ## Events of a core -/

/-- ISSUE_TURN COMPLETES: it reads the table entry of the clk, which moves on with the clk; entry 8 issues nothing; an entry that names a wave
slot in the rotation whose last turn is eight clk past uses that slot's turn, and its bundle is fetched, and so does slot 7 for the
fibre that it holds; within the clk, and on a fenced core, nothing happens (R14, R16, R17, R32). -/
def Obligations.IssueTurns : Prop :=
  ∀ (s : State) (core : Nat), let k := s.core core
    ((k.lastRead = some s.clk ∨ k.fenced = true) → exec (.issueTurn core) s = .next s) ∧
    (k.lastRead ≠ some s.clk → k.fenced = false → k.trimNew = none →
      (k.trim.getD (tablePtr s) 8 = 8 → exec (.issueTurn core) s = .next (s.setCore core { k with lastRead := some s.clk })) ∧
      ∀ n w, k.trim.getD (tablePtr s) 8 = n → n < 7 → withheld s core n = false → k.count < 256 →
        (∀ e x, slotFibre s core = some e → k.rq.find e = some x → launchDead s x.t = false) → k.slots.find n = some w →
        w.t.wait = .none → w.t.since ≤ s.clk → w.saving = 0 → (∀ t, k.turns.find n = some t → t + 8 ≤ s.clk) →
        exec (.issueTurn core) s = .next (fetchBundle (s.setCore core
          { k with lastRead := some s.clk, turns := k.turns.put n s.clk }) core n)) ∧
    ∀ e x, k.lastRead ≠ some s.clk → k.fenced = false → k.trimNew = none → k.trim.getD (tablePtr s) 8 = 7 → k.held = some e → k.count < 256 →
      k.rq.find e = some x → launchDead s x.t = false → (∀ t, k.turns.find 7 = some t → t + 8 ≤ s.clk) →
      exec (.issueTurn core) s = .next (fetchBundle (s.setCore core
        { k with lastRead := some s.clk, turns := k.turns.put 7 s.clk, count := k.count + 1 }) core 7)

/-- A fibre whose 256 bundles are used becomes ready again, from the clk of the last of them, when another was ready then (R32). -/
def Claims.FibreQuantum : Prop :=
  ∀ (s : State) (core slot e u d o : Nat) (x : RqEntry), let k := s.core core
    k.held = some e → k.rq.find e = some x → 256 ≤ k.count → k.turns.find 7 = some u → (o, d) ∈ readyEntries s core → o < 256 * (u + 1) →
    yields (exec (.fibreQuantumExpiry core slot) s) fun t => (t.core core).held = none ∧ (t.core core).count = 0 ∧
      (t.core core).rq.find e = some { x with st := .ready (256 * u + e) } ∧ t.mem = s.mem

/-- A fibre that has reached its core enters the run queue or the spill area, whose images say all of it; below FADMIT − 32 a spilled one is
read back from its image into a free entry, unless the host owns the image's lines, and becomes ready when the read is over; a tray record
enters a tray that has room (R25, R35 to R38, R292, R425). That the entry is the lowest free one, and that the images stand in the area in
their order, are the model's choices (notes/assumptions/85.md, 28.md, 23.md). -/
def Claims.FibreMoves : Prop :=
  (∀ (s : State) (core : Nat) (a : Away) (l : List Away), (s.core core).arrivals = a :: l → (s.core core).lastArrival ≠ some s.clk →
    launchDead s a.t = false → (∀ x, a.t.lid.bind (fun n => s.launches.find n) = some x → x.cores.contains core = true) →
    (s.core core).spill.length < (s.core core).spillSize →
    yields (exec (.fibreArrival core) s) fun t => (t.core core).arrivals = l ∧ (t.core core).lastArrival = some s.clk ∧
      fibresHeld (t.core core) = fibresHeld (s.core core) + 1 ∧ ((t.core core).spill = (s.core core).spill → t.mem = s.mem)) ∧
  (∀ (s : State) (m : Memory) (a : Nat) (f : Fibre), f.tag < 2 ^ 24 → f.prio < 4 → f.seq < 2 ^ 32 → f.launch < 2 ^ 32 → f.origin < 2 ^ 16 →
    Memory.wf m = true → s.mem = putDws m a (fibreDws f) → devReads s a (8 * (fibreDws f).length) → fibreOfImage s a = f) ∧
  (∀ (s : State) (core e : Nat) (a : Away) (l : List Away), (s.core core).spill = a :: l → freeEntry (s.core core) = some e →
    (s.core core).rq.length + 32 < (s.core core).fadmit → devHeld s (spillPlace (s.core core) 0) 96 = none →
    yields (exec (.refetchStart core) s) fun t => (t.core core).spill = l ∧
      (∃ x, (t.core core).rq.find e = some x ∧ x.fib = fibreOfImage s (spillPlace (s.core core) 0) ∧ x.t = a.t ∧ x.st = .parked ∧
        x.refetch.isSome = true) ∧ t.mem = s.mem) ∧
  (∀ (s : State) (core e : Nat) (x : RqEntry), oldestRefetch (s.core core) = some (e, x) → launchDead s x.t = false → x.t.wait ≠ .parked →
    yields (exec (.refetchComplete core) s) fun t =>
      (t.core core).rq.find e = some { x with t := { x.t with wait := .none }, st := .ready (readyRank s e), refetch := none } ∧
      t.mem = s.mem) ∧
  ∀ (s : State) (core : Nat) (r : List Nat) (l : List (List Nat)), (s.core core).trayIn = r :: l →
    ((s.core core).tray.length < 512 → exec (.trayRecordArrival core) s =
      .next (s.setCore core { s.core core with trayIn := l, tray := (s.core core).tray ++ [(r, s.clk)] })) ∧
    (512 ≤ (s.core core).tray.length → exec (.trayRecordArrival core) s = .next s)

/-- LONG_ACCESS_REPLY: while a reply is missing nothing happens. With it, a scalar load or atomic takes its value into its destination and its
thread goes on; a WAITLINE does so when the value differs from its operand, and otherwise waits for a write to the line, at which
WAITLINE_RELOAD reads again; the waits of a fence end (R30, R95, R193, R206). That the reload translates its address again, and waits for a
miss there, is the model's choice (notes/assumptions/113.md). -/
def Obligations.RepliesEnd : Prop :=
  ∀ (s : State) (x : Tid) (core : Nat) (th : Thr), isThread s x core th →
    (∀ ids got d acq marks, th.wait = .access ids got d acq marks → ids.all (arrivedReq s) = false →
      exec (.longAccessReply x) s = .next s) ∧
    (∀ id r sd n sg, th.wait = .access [id] [] (.scalar sd n sg) none [] → s.reqs.find id = some r → r.stage = .replied → r.poison = false →
      r.parts = [(0, r.pa, n)] → r.n = n → 0 < n → n ≤ 8 → uidHasReg s core th.uid sd →
      yields (exec (.longAccessReply x) s) fun t => nowWaits t core th.uid .none ∧ t.mem = s.mem ∧ t.reqs.find id = none ∧
        regOfUid t core th.uid sd = (if sg then (BitVec.ofNat (8 * n) (replyVal r)).signExtend 64 else (BitVec.ofNat (8 * n) (replyVal r)).setWidth 64) ∧
        ∀ q, q ≠ sd → regOfUid t core th.uid q = regOfUid s core th.uid q) ∧
    (∀ id r sd va pa other, th.wait = .waitline sd va pa other (some id) → s.reqs.find id = some r → r.stage = .replied → r.poison = false →
      r.parts = [(0, r.pa, 8)] → r.n = 8 → uidHasReg s core th.uid sd →
      let v := word (replyVal r)
      (v ≠ other → yields (exec (.longAccessReply x) s) fun t => nowWaits t core th.uid .none ∧ regOfUid t core th.uid sd = v ∧ t.mem = s.mem) ∧
      (v = other → yields (exec (.longAccessReply x) s) fun t => nowWaits t core th.uid (.waitline sd va pa other none) ∧ t.mem = s.mem ∧
        ∀ q, regOfUid t core th.uid q = regOfUid s core th.uid q)) ∧
    (∀ m ar, th.wait = .release (.fence m ar) →
      (writesOut s th.uid = true → exec (.longAccessReply x) s = .next s) ∧
      (writesOut s th.uid = false → yields (exec (.longAccessReply x) s) fun t => nowWaits t core th.uid .none ∧ t.mem = s.mem)) ∧
    ∀ sd va pa other u, th.wait = .waitline sd va pa other none → s.watchers.find th.uid = none →
      (∀ p, prefLook s (threadWho s core th) .waitline va.toNat = (some p, u) → badRangeP u .waitline p = false → pwinOf p ≠ .none →
        yields (exec (.waitlineReload x) s) fun t => ∃ id, nowWaits t core th.uid (.waitline sd va p other (some id)) ∧
          isSent t id (fun r => r.core = core ∧ r.pa = p ∧ r.n = 8 ∧ r.kind = .watch) ∧ t.mem = s.mem) ∧
      (prefLook s (threadWho s core th) .waitline va.toNat = (none, u) →
        yields (exec (.waitlineReload x) s) fun t => nowWaits t core th.uid (.miss [va.toNat / 4096] 0) ∧ t.mem = s.mem)

/-- The oldest entry of a store buffer leaves for its home when it may, to a line of another die through a slice of its own (R409). A reservation granted to an atomic is answered by its release; the
release performs the event of R104 at the home: the function's value, or nothing where it writes nothing (R104, R208, R217). -/
def Claims.StoresAndAtomicsEnd : Prop :=
  (∀ (s : State) (core id : Nat) (l : List Nat) (r : Req) (b : List (Nat × Byte)) (rel : Option RelMark), (s.core core).sbuf = id :: l →
    s.reqs.find id = some r → r.kind = .store b rel → mayLeave s id r = true →
    (∀ w ∈ wavesOf s core, ∀ d, w.t.wait ≠ .drain d) →
    yields (exec (.storeBufferSend core) s) fun t => (t.core core).sbuf = l ∧ t.mem = s.mem ∧
      (looksInVisitor r = false → t.reqs.find id = some { r with stage := .sent } ∧
        underWay t .request (.core r.core) (homeNode s r.pa) 0 (.req id)) ∧
      (looksInVisitor r = true → t.reqs.find id = some { r with stage := .sentVis } ∧
        underWay t .request (.core r.core) (.slice (visitorSlice (dieOf r.core) (lineOf r.pa))) 0 (.req id))) ∧
  (∀ (s : State) (id : Nat) (r : Req) (f : List AtomFn) (rel : Option RelMark), s.reqs.find id = some r → r.kind = .atomic f rel →
    r.stage = .replied → r.poison = false → yields (exec (.reservationGrant id) s) fun t =>
      t.reqs.find id = some { r with stage := .releasing } ∧ underWay t .request (.core r.core) (homeNode s r.pa) 0 (.release id) ∧
      t.mem = s.mem) ∧
  ∀ (s : State) (id : Nat) (r : Req) (f : AtomFn) (rel : Option RelMark), s.reqs.find id = some r → r.kind = .atomic [f] rel →
    r.stage = .released → r.poison = false → 0 < r.n → r.n ≤ 8 → r.pa % r.n = 0 → inSlice r.pa = true → Memory.wf s.mem = true →
    (s.fifos.find (lineOf r.pa)).getD [] = [id] → (∀ p, (s.part p).recLaunch = none) →
    yields (exec (.atomicRelease id) s) fun t => t.reqs.find id = none ∧
      (∀ a, a < r.pa ∨ r.pa + r.n ≤ a → memRead t.mem a = memRead s.mem a) ∧
      memGet t.mem r.pa r.n = match atomApply r.n f (memGet s.mem r.pa r.n) with
        | some v => v % 256 ^ r.n
        | none => memGet s.mem r.pa r.n

/-! ## Barriers and semaphores: their events -/

/-- An arrival counts once its waits are over. The last one releases the barrier: every member goes on (R57, R221). -/
def Claims.BarrierEvents : Prop :=
  ∀ (s : State) (core slot : Nat) (w : Wave) (k : BarKind) (tab : List Nat) (sd : Nat), (s.core core).slots.find slot = some w →
    s.thrOf core w.t.uid = some w.t → entryOfUid (s.core core) w.t.uid = none → ordered (s.core core).slots → hasImage s core slot = false →
    w.owed = none → w.t.wait = .barrier k false tab sd →
    let ready := releaseDone s core w.t.uid (if k = .develop then 2 else 1)
    (ready = false → exec (.barrierArrivalCount core slot) s = .next s) ∧
    (ready = true → (∃ m ∈ barMembers s core w k, m.2.t.uid ≠ w.t.uid ∧ arrivedAt k m.2 = false) →
      yields (exec (.barrierArrivalCount core slot) s) fun t => nowWaits t core w.t.uid (.barrier k true tab sd) ∧ t.mem = s.mem) ∧
    (ready = true → k = .barc → barMembers s core w k = [(core, w)] →
      yields (exec (.barrierArrivalCount core slot) s) fun t => nowWaits t core w.t.uid .none ∧ t.mem = s.mem)

/-- SEMW_SATISFIED: the condition holds, the destination takes the count. SEMS_RELEASE_DONE: the increment is ready. SEMAPHORE_UPDATE: the
signals of the clk are summed, modulo 2^16, a SEMSET coming first, and one ready SEMS follows, told the count before it (R227 to R229). -/
def Claims.SemaphoreEvents : Prop :=
  (∀ (s : State) (x : Tid) (core q thr sd : Nat) (a : Acq) (th : Thr), isThread s x core th → th.wait = .semw q thr sd a →
    uidHasReg s core th.uid sd →
    (semHolds (semCount s core q) thr = false → exec (.semwSatisfied x) s = .next s) ∧
    (semHolds (semCount s core q) thr = true → yields (exec (.semwSatisfied x) s) fun t => nowWaits t core th.uid .none ∧
      regOfUid t core th.uid sd = word (semCount s core q) ∧ t.mem = s.mem)) ∧
  (∀ (s : State) (x : Tid) (core q inc sd o : Nat) (th : Thr), isThread s x core th → th.wait = .release (.sems q inc sd o) →
    writesOut s th.uid = false → yields (exec (.semsReleaseDone x) s) fun t => nowWaits t core th.uid (.semsReady q inc sd o) ∧ t.mem = s.mem) ∧
  (∀ (s : State) (core q : Nat), readySems s core q = [] → semCount s core q < 2 ^ 16 →
    let mine := (s.core core).semIn.filter fun x => x.1 == q
    let sum := ((mine.filter fun x => !x.2.1).map fun x => x.2.2.1).sum
    (mine.filter (fun x => x.2.1) = [] → yields (exec (.semaphoreUpdate core q) s) fun t =>
      semCount t core q = (semCount s core q + sum) % 2 ^ 16 ∧ t.mem = s.mem ∧ ∀ p, p ≠ q → semCount t core p = semCount s core p) ∧
    ∀ y, mine.filter (fun x => x.2.1) = [y] → yields (exec (.semaphoreUpdate core q) s) fun t =>
      semCount t core q = (y.2.2.1 + sum) % 2 ^ 16 ∧ t.mem = s.mem) ∧
  ∀ (s : State) (x : Tid) (core q o uid inc sd : Nat) (th : Thr), readySems s core q = [(o, uid, inc, sd)] → (s.core core).semIn = [] →
    (s.core core).semClk.find q ≠ some s.clk → isThread s x core th → th.uid = uid → uidHasReg s core uid sd → semCount s core q < 2 ^ 16 →
    yields (exec (.semaphoreUpdate core q) s) fun t => semCount t core q = (semCount s core q + inc) % 2 ^ 16 ∧
      regOfUid t core uid sd = word (semCount s core q) ∧ nowWaits t core uid .none ∧ t.mem = s.mem

/-- A write of the device itself puts its doublewords into memory, and nothing else, when no earlier one waits and it may write its lines;
while the host holds the line, or a reservation is queued there, it waits, and memory is unchanged (R105, R413, R425). A read of the device
finds what memory holds. -/
def Claims.DeviceAccesses : Prop :=
  (∀ (s : State) (a : Nat) (l : List Nat), devFree s a (8 * l.length) → (devicePut s a l).mem = putDws s.mem a l ∧ (devicePut s a l).devWait = []) ∧
  (∀ (s : State) (a d : Nat), a % 8 = 0 → s.devWait ≠ [] ∨ devMayWrite s (lineOf a) = false →
    (devicePut s a [d]).mem = s.mem ∧ (devicePut s a [d]).devWait = s.devWait ++ [bytesOf a d 8]) ∧
  ∀ (s : State) (a n : Nat), devReads s a n → devGet s a n = memGet s.mem a n

/-- Recording: the first write of a line by the recorded launch appends the line's address and its bytes before the write to the undo log,
and marks the line; a marked line's next write appends nothing there (R397). -/
def Claims.UndoLog : Prop :=
  ∀ (s : State) (p line : Nat), let r := s.part p
    let n := undoUsed r
    let a := r.undobase.toNat + 128 * n
    (r.marked.contains line = true → appendUndo s p line = s) ∧
    (r.marked.contains line = false → (recPhase r = 1 ∨ recPhase r = 2) → n < r.undosize → n + 1 < 2 ^ 27 → line < 2 ^ 58 → Memory.wf s.mem = true →
      devFree s a 128 →
      let t := appendUndo s p line
      memGet t.mem a 8 = 64 * line ∧ (∀ i, i < 64 → memRead t.mem (a + 64 + i) = memRead s.mem (64 * line + i)) ∧
      (∀ b, b < a ∨ a + 128 ≤ b → memRead t.mem b = memRead s.mem b) ∧ (t.part p).marked = r.marked ++ [line] ∧ undoUsed (t.part p) = n + 1)

/-! ## Work distribution: events -/

/-- TASK_TAKE starts the one record of a deque when it is eligible and finds its slots; TASK_COMPLETE empties the tile buffers that it read,
fills those that it wrote, and counts for the launch; GANG_START starts a gang task whose groups all find slots; PRIORITY_AGING raises
the effective priority and never lowers it (R48 to R54, R362). -/
def Claims.TaskEvents : Prop :=
  (∀ (s : State) (core : Nat) (r : Task) (l : Launch) (sl : List Nat), (s.core core).deque = [r] → s.launches.find r.lid = some l →
    l.dead = false → l.mode ≠ 1 → idleBarred s core = false → (s.core core).lastTake ≠ some s.clk → eligible (applyTiles s core) (clusterOf core) r = true →
    slotsFor s core r (freeSlots s core r.prio) = some sl →
    yields (exec (.taskTake core) s) fun t => (t.core core).deque = [] ∧ (t.core core).lastTake = some s.clk ∧ t.mem = s.mem ∧
      ∃ id y, t.tasks.find id = some y ∧ y.lid = r.lid ∧ y.core = core ∧ y.ins = r.ins ∧ y.outs = r.outs) ∧
  (∀ (s : State) (id : Nat) (r : RunTask) (l : Launch), s.tasks.find id = some r → s.launches.find r.lid = some l →
    (∀ c ∈ coresOfCluster (clusterOf r.core), ∀ w ∈ wavesOf s c, w.task ≠ id) →
    yields (exec (.taskComplete id) s) fun t => t.tasks.find id = none ∧ t.mem = s.mem ∧
      (∀ x ∈ r.outs, tileState t (clusterOf r.core) x = 1) ∧ (∀ x ∈ r.ins, x ∉ r.outs → tileState t (clusterOf r.core) x = 0) ∧
      ∃ y, t.launches.find r.lid = some y ∧ y.left = l.left - 1) ∧
  (∀ (s : State) (k : Nat) (r : Task) (l : Launch) (pl : List (Nat × List Nat)), (s.cluster k).gangq = [r] →
    s.launches.find r.lid = some l → l.dead = false →
    placeGroups s r ((coresOfCluster k).filter fun c => !idleBarred s c) (2 ^ widthField l.widths 2) [] = some pl →
    yields (exec (.gangStart k) s) fun t => (t.cluster k).gangq = [] ∧ t.mem = s.mem ∧
      ∃ id y, t.tasks.find id = some y ∧ y.lid = r.lid ∧ y.core = 16 * k) ∧
  ∀ (s : State) (lid : Nat) (l : Launch), s.launches.find lid = some l → l.written < l.tasks → bits (s.die l.die).agecfg 15 0 ≠ 0 →
    yields (exec (.priorityAging lid) s) fun t => t.launches.find lid = some { l with
      eff := max l.eff (min 3 (l.prio + (s.clk - l.accepted) / (256 * bits (s.die l.die).agecfg 15 0))) }

/-- A core with a vacant slot and nothing startable asks the next victim of its ring, which answers with a record or a refusal. A refusal
moves the ring on; a record starts on the slots held for it, and waits while HOLD is set; the backoff ends after its clk (R53, R363, R364).
That HOLD delays it, and that the ring starts at its first victim again after a record, are the model's choices (notes/assumptions/88.md,
48.md). -/
def Claims.StealEvents : Prop :=
  (∀ (s : State) (core v : Nat) (l : List Nat), let k := s.core core
    let vac := (List.range 7).filter (vacantSlot s core)
    idleBarred s core = false → k.stealHeld = none → k.backoff = none → vac ≠ [] → startable s core = [] → core < 6144 →
    (ringOf s core).drop k.ringPos = v :: l → badVictim s core v = false →
    yields (exec (.stealRequest core) s) fun t => let mask := (vac.map fun n => 2 ^ n).sum
      (t.core core).stealHeld = some mask ∧ underWay t .system (.core core) (.core v) 0 (.steal core mask) ∧ t.mem = s.mem) ∧
  (∀ (s : State) (core thief mask at_ : Nat), let k := s.core core
    k.stealIn = [(thief, mask, at_)] → k.stealAns ≠ some s.clk →
    (idleBarred s core = true ∨ stealPick s core thief mask = none → yields (exec (.stealAnswer core) s) fun t =>
      (t.core core).stealIn = [] ∧ (t.core core).deque = k.deque ∧ underWay t .system (.core core) (.core thief) 0 (.stolen none) ∧ t.mem = s.mem) ∧
    ∀ r, idleBarred s core = false → stealPick s core thief mask = some r → yields (exec (.stealAnswer core) s) fun t =>
      (t.core core).stealIn = [] ∧ (t.core core).deque = k.deque.erase r ∧ (∀ i ∈ r.ins ++ r.outs, tileState t (clusterOf core) i = 2) ∧
      underWay t .system (.core core) (.core thief) 0 (.stolen (some r)) ∧ t.mem = s.mem) ∧
  (∀ (s : State) (core : Nat), (s.core core).stolen = some none → yields (exec (.stealReplyArrival core) s) fun t =>
    (t.core core).stolen = none ∧ (t.core core).stealHeld = none ∧ t.mem = s.mem ∧
    (t.core core).ringPos = if (ringOf s core).length ≤ (s.core core).ringPos + 1 then 0 else (s.core core).ringPos + 1) ∧
  (∀ (s : State) (core mask : Nat) (r : Task) (l : Launch) (sl : List Nat), (s.core core).stolen = some (some r) →
    (s.core core).stealHeld = some mask → (s.core core).hold = false → s.launches.find r.lid = some l → l.mode ≠ 1 →
    slotsFor s core r (slotsOfMask mask) = some sl → yields (exec (.stealReplyArrival core) s) fun t => (t.core core).stolen = none ∧ (t.core core).stealHeld = none ∧
      (t.core core).ringPos = 0 ∧ t.mem = s.mem ∧ ∃ id y, t.tasks.find id = some y ∧ y.lid = r.lid ∧ y.core = core) ∧
  (∀ (s : State) (core : Nat) (r : Task), (s.core core).stolen = some (some r) → (s.core core).hold = true →
    exec (.stealReplyArrival core) s = .next s) ∧
  ∀ (s : State) (core b : Nat), (s.core core).backoff = some b →
    (b ≤ s.clk → exec (.stealBackoffExpiry core) s = .next (s.modCore core fun k => { k with backoff := none, ringPos := 0 })) ∧
    (s.clk < b → exec (.stealBackoffExpiry core) s = .next s)

/-- DISTRIBUTOR_RECORD_WRITE sends the next record of the one launch that has records left and a place for it, with the launch's effective
priority of this clk; TASK_RECORD_ARRIVAL puts it into its deque (R47, R355, R358, R362): at the own end, which is the model's choice
(notes/assumptions/12.md). -/
def Claims.RecordEvents : Prop :=
  (∀ (s : State) (d lid : Nat) (l : Launch), (s.die d).lastRecord ≠ some s.clk → l.gang = false →
    (s.launches.filter fun x => x.2.die == d && !x.2.dead && !x.2.done && x.2.written < x.2.tasks && isBound s x.1 x.2) = [(lid, l)] →
    s.launches.find lid = some l → hasPlace s l (nextRecord s l lid).2 = true →
    let core := (nextRecord s l lid).2
    yields (exec (.distributorRecordWrite d) s) fun t => t.launches.find lid = some { l with written := l.written + 1, eff := effNow s l } ∧ (nextRecord s l lid).1.prio = effNow s l ∧
      (t.die d).lastRecord = some s.clk ∧ (t.core core).reserved = (s.core core).reserved + 1 ∧ t.mem = s.mem ∧
      underWay t .system (.die d) (.core core) 0 (.task (some core) (clusterOf core) (nextRecord s l lid).1)) ∧
  ∀ (s : State) (id core k : Nat) (m : Msg) (r : Task), s.msgs.find id = some m → m.body = .task (some core) k r → msgReady s id m = true →
    yields (exec (.taskRecordArrival id) s) fun t => t.msgs.find id = none ∧ (t.core core).deque = (s.core core).deque ++ [r] ∧
      (t.core core).reserved = (s.core core).reserved - 1 ∧ t.mem = s.mem

/-! ## Paging: events -/

/-- CLUSTER_TLB_FILL: a page that the cluster TLB holds is copied into the micro-TLB and its thread goes on. MISS_ENTRY_OPEN: one that it does
not hold gets a miss entry. WAKE: the wake of its last page lets a thread go on (R373, R381, R383). -/
def Claims.MissEvents : Prop :=
  (∀ (s : State) (x : Tid) (core p a : Nat) (th : Thr) (e : Tlb), isThread s x core th → th.wait = .miss [p] a →
    clusterLook s core (p * 4096) (accessWrites a) (!th.sup) = some e → hasJoined (s.cluster (clusterOf core)) core th.uid none p = false →
    yields (exec (.clusterTlbFill x) s) fun t => nowWaits t core th.uid .none ∧ t.mem = s.mem ∧
      ∃ y ∈ (t.core core).micro, sameEntry y e = true ∧ y.pbase = e.pbase ∧ y.perm = e.perm) ∧
  (∀ (s : State) (core slot p a asid : Nat) (th : Thr), isThread s (.wave core slot) core th → th.wait = .miss [p] a →
    s.asidOf core = some asid → clusterLook s core (p * 4096) (accessWrites a) (!th.sup) = none →
    let q := s.cluster (clusterOf core)
    hasJoined q core th.uid none p = false → inMissQ q core th.uid none p = false → (∀ m ∈ q.misses, ¬(m.asid = asid ∧ m.page = p)) → q.misses.length < 256 →
    yields (exec (.missEntryOpen (.wave core slot)) s) fun t => t.mem = s.mem ∧ (t.cluster (clusterOf core)).misses = q.misses ++
      [{ asid := asid, page := p, st := .walk, cause := 0, detail := 0,
         waiters := [{ core := core, uid := th.uid, cmd := none, tid := tidWord 0 slot core, access := a, user := !th.sup }] }]) ∧
  ∀ (s : State) (x : Tid) (core p a : Nat) (th : Thr), isThread s x core th → th.uid ≠ 0 → th.wait = .miss [p] a → (∀ c n, x ≠ .cmd c n) →
    (s.cluster (clusterOf core)).wakes.find? (fun w => w.1 == core) = some (core, th.uid, 0, p) → (s.core core).lastWake ≠ some s.clk →
    yields (exec (.wake x) s) fun t => nowWaits t core th.uid .none ∧ t.mem = s.mem ∧ (t.core core).lastWake = some s.clk ∧
      (t.cluster (clusterOf core)).wakes =
        ((s.cluster (clusterOf core)).wakes.filter fun w => w.1 != core || wakeWanted s w).erase (core, th.uid, 0, p)

/-- PAGE_WALK: a leaf that grants what its waiters ask enters the cluster TLB, wakes them and ends the entry; a fatal cause ends it and
their launches; a page that is not there is recorded when the trap queue has room, and by FAULT_RECORD_WRITE once it has and the host does not
own HEAD's line (R377, R378, R382, R385, R425). -/
def Claims.WalkEvents : Prop :=
  (∀ (s : State) (k p : Nat) (m : Miss), partOfAsid s m.asid = some p →
    ((s.cluster k).misses.find? fun x => x.asid == m.asid && x.page == m.page && x.st == .walk) = some m →
    let root := (s.part p).ptroot
    let ended := walkEnded (dropMiss s k m.asid m.page) k m.asid m.page
    let w := walkFrom s (s.part p).cfg (m.page * 4096) 4 (keep root 46 12)
    root.getLsbD 0 = true →
    (∀ l e g, w = .leaf l e g → let ent := leafEntry s m.asid (m.page * 4096) l e g
      (∀ x ∈ m.waiters, lacks ent x = 0) → (s.cluster k).missQ = [] → yields (exec (.pageWalk k m.asid m.page) s) fun t => ent ∈ (t.cluster k).tlb ∧
        (t.cluster k).misses = (s.cluster k).misses.filter (fun x => !(x.asid == m.asid && x.page == m.page)) ∧
        (t.cluster k).wakes = (s.cluster k).wakes ++ (m.waiters.filter fun x => x.access != 7).map (Waiter.wake m.page) ∧ t.mem = s.mem) ∧
    (∀ l e, w = .badpte l e → exec (.pageWalk k m.asid m.page) s = .next (fatalWaiters ended m.page 0x4D [l, e] m.waiters)) ∧
    (∀ key, w = .keyrange key → exec (.pageWalk k m.asid m.page) s = .next (fatalWaiters ended m.page 0x4E [key] m.waiters)) ∧
    ∀ l, w = .pagemiss l → m.waiters ≠ [] → trapOcc s (k / 64) < 4032 →
      yields (exec (.pageWalk k m.asid m.page) s) fun t =>
        ∃ x ∈ (t.cluster k).misses, x.asid = m.asid ∧ x.page = m.page ∧ x.st = .recorded ∧ x.cause = 1 ∧ x.detail = l) ∧
  ∀ (s : State) (k : Nat) (m : Miss) (x : Waiter) (l : List Waiter), (s.cluster k).held = [] → m.waiters = x :: l →
    devHeld s ((s.die (k / 64)).trapqBase.toNat + 8) 8 = none →
    (s.cluster k).misses.find? (fun m => m.st == .unrecorded) = some m → trapOcc s (k / 64) < 4032 →
    yields (exec (.faultRecordWrite k) s) fun t => ∃ y ∈ (t.cluster k).misses, y.asid = m.asid ∧ y.page = m.page ∧ y.st = .recorded

/-- TLBWRITE's four operations: INSERT puts the entry of TLBENTHI and TLBENTLO into the cluster TLB, or sets its refusal flag; INVPAGE,
INVASID and INVCLU remove every entry that they name at once, and the writer goes on when no access made before that may have used one
and is still out (R376). -/
def Claims.TlbEvents : Prop :=
  ∀ (s : State) (x : Tid) (core : Nat) (th : Thr) (v : Word), isThread s x core th →
    let asid := bits th.tlbHi.toNat 50 35
    let page := bits th.tlbHi.toNat 34 0
    let goesOn := fun t : State => nowWaits t core th.uid .none ∧ t.mem = s.mem
    let noTlb := fun (t : State) (inPart : Nat → Bool) (gone : Tlb → Prop) =>
      (∀ k, inPart k = true → ∀ e ∈ (t.cluster k).tlb, ¬gone e) ∧ ∀ c, inPart (clusterOf c) = true → ∀ e ∈ (t.core c).micro, ¬gone e
    (pendingTlb s x 0 = some (core, th, v) → entryOf s th.tlbHi th.tlbLo = none → yields (exec (.tlbInsert x) s) fun t => goesOn t ∧
      (∃ y, t.thrOf core th.uid = some y ∧ y.tlbRefused = true) ∧ t.cluster (clusterOf core) = s.cluster (clusterOf core)) ∧
    (∀ e, pendingTlb s x 0 = some (core, th, v) → entryOf s th.tlbHi th.tlbLo = some e → yields (exec (.tlbInsert x) s) fun t => goesOn t ∧
      (∃ y, t.thrOf core th.uid = some y ∧ y.tlbRefused = false) ∧ e ∈ (t.cluster (clusterOf core)).tlb) ∧
    let invalidates := fun (i : Instr) (inPart : Nat → Bool) (page : Option Nat) (gone : Tlb → Prop) =>
      (th.latch = [] → yields (exec i s) fun t => noTlb t inPart gone ∧ t.mem = s.mem ∧
        (accessesOut s inPart page s.fresh (accessUids s inPart page) = false → goesOn t)) ∧
      ∀ n us, th.latch = n :: us → accessesOut s inPart page n us = false → yields (exec i s) goesOn
    (pendingTlb s x 1 = some (core, th, v) → invalidates (.tlbInvpage x) (asidClusters s asid) (some page)
      fun e => e.asid = asid ∧ e.vbase ≤ page * 4096 ∧ page * 4096 < e.vbase + e.size) ∧
    (pendingTlb s x 2 = some (core, th, v) → invalidates (.tlbInvasid x) (asidClusters s asid) none fun e => e.asid = asid) ∧
    (pendingTlb s x 3 = some (core, th, v) → invalidates (.tlbInvclu x) (fun k => k == clusterOf core) none fun _ => True)

/-- A reply entry whose reserved fields are not zero is passed over, and one of another operation is left. RETRY makes recorded entries walk
again and moves the head when their walks are over; FAIL ends the launches of the waiters and moves it; INVAL and INVASID remove the
entries that they name at once, and move it when no access made before that is out (R388). The ring is read once the host does not own its
lines (R425). -/
def Claims.FaultReplies : Prop :=
  ∀ (s : State) (d : Nat) (r : Reply), replyAt s d = some r →
    devHeld s (s.die d).freplyBase.toNat 16 = none →
    devHeld s ((s.die d).freplyBase.toNat + 64 + 16 * (devGet s ((s.die d).freplyBase.toNat + 8) 8 % 1024)) 16 = none →
    let recorded := (replyClusters s d r).filter fun k => hasMiss s k r .recorded
    let noTlb := fun (t : State) (gone : Tlb → Prop) =>
      (∀ k, asidClusters s r.asid k = true → ∀ e ∈ (t.cluster k).tlb, ¬gone e) ∧
      ∀ c, asidClusters s r.asid (clusterOf c) = true → ∀ e ∈ (t.core c).micro, ¬gone e
    let invalidates := fun (i : Instr) (page : Option Nat) (gone : Tlb → Prop) =>
      ((s.die d).replyBusy = none → yields (exec i s) fun t => noTlb t gone ∧
        let us := accessUids s (asidClusters s r.asid) page
        if accessesOut s (asidClusters s r.asid) page s.fresh us then t.mem = s.mem ∧ (t.die d).replyBusy = some (s.fresh :: us)
        else t.mem = (advanceReply s d).mem ∧ (t.die d).replyBusy = none) ∧
      ∀ n us, (s.die d).replyBusy = some (n :: us) → accessesOut s (asidClusters s r.asid) page n us = false →
        exec i s = .next (advanceReply s d)
    let passed := fun (n : Nat) (i : Instr) => (r.op ≠ n → exec i s = .next s) ∧ (r.op = n → r.ok = false → exec i s = .next (advanceReply s d))
    passed 0 (.faultReplyRetry d) ∧ passed 1 (.faultReplyFail d) ∧ passed 2 (.faultReplyInval d) ∧ passed 3 (.faultReplyInvasid d) ∧
    (r.op = 0 → r.ok = true →
      ((s.die d).replyBusy = none → recorded ≠ [] → yields (exec (.faultReplyRetry d) s) fun t =>
        (t.die d).replyBusy = some recorded ∧ t.mem = s.mem ∧
        ∀ k ∈ recorded, ∀ m ∈ (t.cluster k).misses, m.asid = r.asid → m.page = r.page → m.st = .walk) ∧
      ((s.die d).replyBusy = some [] → exec (.faultReplyRetry d) s = .next (advanceReply s d))) ∧
    (∀ k m, r.op = 1 → r.ok = true → recorded = [k] →
      ((s.cluster k).misses.find? fun m => m.asid == r.asid && m.page == r.page) = some m →
      exec (.faultReplyFail d) s = .next (advanceReply (fatalWaiters (dropMiss s k r.asid r.page) r.page 0x4C [] m.waiters) d)) ∧
    (r.op = 2 → r.ok = true → invalidates (.faultReplyInval d) (some r.page)
      fun e => e.asid = r.asid ∧ e.vbase ≤ r.page * 4096 ∧ r.page * 4096 < e.vbase + e.size) ∧
    (r.op = 3 → r.ok = true → invalidates (.faultReplyInvasid d) none fun e => e.asid = r.asid)

/-! ## System-register events, slots and contexts -/

/-- LSPLIT_WRITE refuses sizes outside the chapter's limits and otherwise takes the new split, keeps the bytes of the private memory that
stay, and, when a size changes, drops the local cache and withdraws the treelets whose units leave the store from the directory;
PHASEWIN_WRITE refuses a window that does not fit and otherwise takes it, with its
written bits clear; TRIMTAB_WRITE normalises the half it is given, beside the half that the last write of the clk leaves, and installs the
table from the next clk if it is allowed; the table of this clk stands (R68, R69, R78, R359). -/
def Claims.CoreSettings : Prop :=
  (∀ (s : State) (core : Nat) (v : Word), let n := keep v 16 16 + keep v 11 8 + keep v 4 0
    let old := (s.core core).lsplit
    let bad := privUnits n < 4 ∨ 24 < privUnits n ∨ 12 < treeUnits n ∨ 24 < privUnits n + treeUnits n
    (bad → exec (.lsplitWrite core v) s = .next s) ∧
    (¬bad → Memory.wf s.mem = true → yields (exec (.lsplitWrite core v) s) fun t => (t.core core).lsplit = n ∧ (t.core core).slots = (s.core core).slots ∧
      (∀ a, (∀ o, privSize n ≤ o → o < privSize old → a ≠ tcmKey core o) → memRead t.mem a = memRead s.mem a) ∧
      (privUnits n ≠ privUnits old ∨ treeUnits n ≠ treeUnits old → (t.core core).cache = [] ∧
        let stays := fun u => unitRole old u == 1 && unitRole n u == 1
        (t.core core).treelets = (s.core core).treelets.filter (fun x => x.units.all stays) ∧
        ∀ p, s.partOf core = some p → ∀ x ∈ (s.core core).treelets, x.units.all stays = false →
          ∀ e ∈ (t.slice (dirSlice x.id)).dir, e.isKey p x.tbase x.id = true → core ∉ e.owners))) ∧
  (∀ (s : State) (k : Nat) (v : Word), let n := keep v 19 0
    (1024 < pwBase n + 2 * pwCount n → exec (.phasewinWrite k v) s = .next s) ∧
    (pwBase n + 2 * pwCount n ≤ 1024 →
      exec (.phasewinWrite k v) s = .next (s.modCluster k fun q => { q with phasewin := n, written := [], early := [] }))) ∧
  ∀ (s : State) (core : Nat) (hi : Bool) (v : Word),
    let k := s.core core
    let now := tableNow k (s.clk + 1)
    let tab := if hi then trimTable (tableHalf now false) v.toNat else trimTable v.toNat (tableHalf now true)
    yields (exec (.trimtabWrite core hi v) s) fun t => t.mem = s.mem ∧ let n := t.core core
      tableNow n s.clk = tableNow k s.clk ∧ tableNow n (s.clk + 1) = (if trimOk tab then tab else now) ∧
      { n with trim := k.trim, trimNew := k.trimNew, trimSet := k.trimSet } = k

/-- The writes that a thread waits for. STEALRING reads its list of victims, at its home, and so not before a host that owns one of its lines
has given it back (R425); a scope register takes its bits; RIGLOAD installs
an entry that is left to load once its old instruction is over and the host does not own its lines, counting an invalid one, and waits before. The thread then goes on (R93,
R363, R365 to R368). -/
def Claims.SlowWrites : Prop :=
  ∀ (s : State) (x : Tid) (core n : Nat) (th : Thr) (v : Word), isThread s x core th → th.wait = .sysop n v →
    let goesOn := fun t : State => nowWaits t core th.uid .none ∧ t.mem = s.mem
    let a := keep v 46 6
    let victims := devGet s a 2 % 256
    (n = 0x18 → devHeld s a (2 + 2 * victims) = none → yields (exec (.stealringLoad x) s) fun t => goesOn t ∧ (t.core core).ringPos = 0 ∧
      (t.core core).ring = some ((List.range victims).map fun i => devGet s (a + 2 + 2 * i) 2 % 2 ^ 13)) ∧
    (∀ l, n = 0x18 → devHeld s a (2 + 2 * victims) = some l → exec (.stealringLoad x) s = .next (askHost s l)) ∧
    (∀ p, 0x36 ≤ n → n ≤ 0x3F → s.partOf core = some p → yields (exec (.scopeWrite x) s) fun t => goesOn t ∧
      (t.part p).scopes.find (n - 0x30) = some (word (keep v 31 16 + keep v 5 0))) ∧
    (∀ p, 0x46 ≤ n → n ≤ 0x4F → s.partOf core = some p → yields (exec (.scopeWrite x) s) fun t => goesOn t ∧
      (t.part p).scopesC.find (n - 0x40) = some v) ∧
    ∀ p i, n = 0x51 → s.partOf core = some p → th.latch = [0, i] →
      let ent := rigEntryAt s p i (rigImage s p i)
      let held := devHeld s (rigImage s p i) 128
      (rigIdle s (rigKey p i) = true → held = none → yields (exec (.rigload x) s) fun t => goesOn t ∧ t.rigs.find (rigKey p i) = ent.map Rig.fresh ∧
        (ent.isNone = true → (t.part p).rigbad = 1) ∧ (ent.isSome = true → (t.part p).rigbad = 0)) ∧
      (rigIdle s (rigKey p i) = false ∨ held.isSome = true → yields (exec (.rigload x) s) fun t => nowWaits t core th.uid (.sysop n v) ∧ t.rigs = s.rigs ∧
        t.mem = s.mem)

/-- CONTEXT_SAVE_COMPLETE completes: a slot asked to be saved leaves its core, its image the newest of the context cache, and a PREEMPT that waits
for it counts it saved, with REASON HALT
for the debugger's; SLOT_RESTORE, with nothing that bars it and an image in the area that the host does not own, restores it into the same slot as it was saved (R369, R370, R391, R395). -/
def Claims.ContextSaves : Prop :=
  (∀ (s : State) (core slot : Nat) (w : Wave), (s.core core).slots.find slot = some w → (w.saving = 1 ∨ w.saving = 2) →
    (∀ n, w.t.wait ≠ .matrix n) → ((s.cluster (clusterOf core)).saved.filter fun x => x.onChip).length < 56 →
    yields (exec (.contextSaveComplete core slot) s) fun t => (t.core core).slots.find slot = none ∧ t.mem = s.mem ∧
      ∃ x, (t.cluster (clusterOf core)).saved = (s.cluster (clusterOf core)).saved ++ [x] ∧ x.core = core ∧ x.slot = slot ∧
        x.reason = w.saving ∧ x.onChip = true ∧ x.wave.s = w.s ∧ x.wave.v = w.v ∧ x.wave.t.uid = w.t.uid ∧ x.wave.trappc = w.trappc ∧
        x.wave.utvec = w.utvec ∧ x.wave.fpmode = w.fpmode ∧ (w.t.wait = .none → w.t.latch ≠ [0] → x.wave.pc = w.pc) ∧
        ∀ on num q done skipped m, cmdAt s on num = some q → (preemptOf core q).isSome = true → q.acc = [done, skipped, slot, w.t.uid, m] →
          cmdAt t on num = some { q with acc := [done + 2 ^ slot, skipped, slot + 1, 0, m] }) ∧
  (∀ (s : State) (core slot : Nat) (w : Wave), (s.core core).slots.find slot = some w → (w.saving = 3 ∨ (w.saving = 4 ∧ w.t.wait = .none)) →
    (∀ n, w.t.wait ≠ .matrix n) → ((s.cluster (clusterOf core)).saved.filter fun x => x.onChip).length < 56 →
    yields (exec (.contextSaveComplete core slot) s) fun t => (t.core core).slots.find slot = none ∧
      ∃ x, (t.cluster (clusterOf core)).saved = (s.cluster (clusterOf core)).saved ++ [x] ∧ x.core = core ∧ x.slot = slot ∧ x.reason = 3 ∧
        x.wave.s = w.s ∧ x.wave.v = w.v ∧ x.wave.t.uid = w.t.uid) ∧
  ∀ (s : State) (core slot : Nat) (x : Saved),
    ((s.cluster (clusterOf core)).saved.find? fun x => x.core == core && x.slot == slot) = some x → (s.core core).slots.find slot = none →
    (s.core core).stealHeld = none → (s.core core).hold = false → restorable s x = true → startable s core = [] →
    ((resumed s x).t.wait = .none → (resumed s x).owed = none) → (x.onChip = false → devHeld s (imageAddr s core slot) 0x2400 = none) →
    yields (exec (.slotRestore core slot) s) fun t => (t.core core).slots.find slot = some (resumed s x) ∧ hasImage t core slot = false ∧
      t.mem = s.mem

/-- SLOT_LEND asks for the save of a slot whose page fault has been recorded; a written HALTREQ bit asks for that of a user slot, and is
served; RESUME turns REASON HALT into PREEMPT; CTXSYNC writes the images back, or, when it drops the on-chip copies, writes
them as they then stand (R390, R394, R395). -/
def Claims.ContextRequests : Prop :=
  (∀ (s : State) (core slot a : Nat) (w : Wave) (pages : List Nat), (s.core core).slots.find slot = some w → w.t.wait = .miss pages a →
    (bitAt (s.cluster (clusterOf core)).faultcfg 0 = true → w.saving = 0 → hasImage s core slot = false → pages.any (faulted s core) = true →
      exec (.slotLend core slot) s = .next (s.modCore core fun k => { k with slots := k.slots.put slot { w with saving := 2 } })) ∧
    (bitAt (s.cluster (clusterOf core)).faultcfg 0 = false ∨ pages.any (faulted s core) = false → exec (.slotLend core slot) s = .next s)) ∧
  (∀ (s : State) (core slot : Nat) (w : Wave), slot < 8 → (s.core core).haltReq < 256 → bitAt (s.core core).haltReq slot = true →
    (s.core core).slots.find slot = some w → hasImage s core slot = false → (w.saving = 0 ∨ w.saving = 4) →
    (w.t.sup = false → yields (exec (.debugHaltreq core slot) s) fun t => (t.core core).slots.find slot = some { w with saving := 3 } ∧
      bitAt (t.core core).haltReq slot = false ∧ t.mem = s.mem) ∧
    (w.t.sup = true → yields (exec (.debugHaltreq core slot) s) fun t => (t.core core).slots = (s.core core).slots ∧
      bitAt (t.core core).haltReq slot = false ∧ t.mem = s.mem)) ∧
  (∀ (s : State) (core slot : Nat) (x : Saved),
    ((s.cluster (clusterOf core)).saved.find? fun x => x.core == core && x.slot == slot && savedReason s x == 3) = some x →
    x.onChip = true → yields (exec (.debugResume core slot) s) fun t => t.mem = s.mem ∧
      { x with reason := 1 } ∈ (t.cluster (clusterOf core)).saved) ∧
  (∀ (s : State) (x : Tid) (k core : Nat) (th : Thr) (v : Word), isThread s x core th → syncers s k = [(core, th.uid, v)] → v ≠ 4 →
    th.wait = .sysop 0x110 v → yields (exec (.ctxsyncWriteback k) s) fun t =>
      (v.getLsbD 0 = true → t.mem = (((s.cluster k).saved.filter fun x => x.onChip).foldl writeImage s).mem) ∧
      (v.getLsbD 0 = false → t.mem = s.mem) ∧
      nowWaits t core th.uid (if v.getLsbD 0 && v.getLsbD 1 then .sysop 0x110 4 else .none)) ∧
  ∀ (s : State) (x : Tid) (k core : Nat) (th : Thr), isThread s x core th → syncers s k = [(core, th.uid, 4)] → clusterOf core = k →
    yields (exec (.ctxsyncDrop k) s) fun t => nowWaits t core th.uid .none ∧
      t.mem = (((s.cluster k).saved.filter fun x => x.onChip).foldl writeImage s).mem ∧
      ∀ y ∈ (t.cluster k).saved, y.onChip = false

/-! ## Commands: events -/

/-- COMMAND_START takes the one command of the queue that may start; SEMOP and SEMSET then send their message (R298, R318). A running command
with a translation missing does not go on. FCLK does nothing before its time (`CommandEnd` says what it does then), LSTAT with its answer, SPAWNT with its record at the own end of the
deque (R321 to R324, R51). -/
def Claims.CommandEvents : Prop :=
  (∀ (s : State) (core i : Nat) (q : Cmd), (s.core core).cmdq.filter (mayStart s core) = [q] → freeNum (s.core core) = some i →
    yields (exec (.commandStart core) s) fun t => t.mem = s.mem ∧ (t.core core).cmdq = (s.core core).cmdq.filter (fun x => x.num != q.num) ∧
      ((∀ h x p v, q.instr ≠ .semop h x p v ∧ q.instr ≠ .semset h x p v) → (∀ h x, q.instr ≠ .launch h x) →
        (∀ h r, q.instr ≠ .fclk h r) →
        (t.core core).running = (s.core core).running ++ [(acquireCmd s core { q with running := true, idx := i, started := s.fresh }).2]) ∧
      (∀ h r, q.instr = .fclk h r → s.nanos < opAt q.ops 0 →
        (t.core core).running = (s.core core).running ++ [(acquireCmd s core { q with running := true, idx := i, started := s.fresh }).2]) ∧
      (∀ h x p v, q.instr = .semop h x p v → underWay t .system (.core core) (.core (if x = 0xFFFF then core else x.toNat)) 0
        (.sem p.toNat false v.toNat core q.num)) ∧
      ∀ h x p v, q.instr = .semset h x p v → underWay t .system (.core core) (.core (if x = 0xFFFF then core else x.toNat)) 0
        (.sem p.toNat true v.toNat core q.num)) ∧
  ∀ (s : State) (core num : Nat) (q : Cmd), cmdAt s core num = some q →
    (q.miss.isSome = true ∨ q.phase = 2 → exec (.commandLineTake core num) s = .next s) ∧
    (∀ h y, q.instr = .fclk h y → exec (.commandLineTake core num) s = .next s) ∧
    (∀ h y, q.instr = .fclk h y → s.nanos < opAt q.ops 0 → exec (.commandComplete core num) s = .next s) ∧
    (q.miss = none → q.phase ≠ 2 →
      (∀ h id p, q.instr = .lstat h id → s.partOf core = some p → yields (exec (.commandLineTake core num) s) fun t =>
        cmdAt t core num = some { q with phase := 2, token := lstatWord s (dieOf core) p id.toNat } ∧ t.mem = s.mem) ∧
      (∀ h r lid, q.instr = .spawnt h r → q.lid = some lid → isHelm s core = false → (s.core core).deque.length + (s.core core).reserved < 64 →
        yields (exec (.commandLineTake core num) s) fun t => cmdAt t core num = some { q with phase := 2 } ∧ t.mem = s.mem ∧
          (t.core core).deque = (s.core core).deque ++ [spawnTask q lid]))

/-- MCAS, once all its lines are held, compares every entry: when all agree it writes all of them and its token is all ones; otherwise it
writes none, and its token is the number of the first that differs (R107, R319). -/
def Claims.McasCommit : Prop :=
  ∀ (s : State) (core num : Nat) (q : Cmd) (h : CmdHdr) (b : RegOp) (n : BitVec 4) (o : Ord), cmdAt s core num = some q →
    q.instr = .mcas h b n o → q.miss = none → q.phase = 1 → q.acc.length = 4 * n.toNat → q.dsts = [] → (∀ p, (s.slice p).windows = []) →
    (∀ x ∈ q.takes, ∃ r, s.reqs.find x.1 = some r ∧ r.stage = .replied ∧ r.poison = false) →
    let es := (List.range n.toNat).map (mcasEntry q)
    let differs := (List.range n.toNat).filter fun e => heldValue s q (mcasEntry q e).2.2.2 != (mcasEntry q e).2.1
    yields (exec (.commandLineTake core num) s) fun t => t.mem = s.mem ∧
      (∃ q', cmdAt t core num = some q' ∧ q'.phase = 3 ∧ q'.token = match differs with | [] => 2 ^ 64 - 1 | e :: _ => e) ∧
      ∀ x ∈ q.takes, ∀ r, s.reqs.find x.1 = some r → ∃ r', t.reqs.find x.1 = some r' ∧ r'.stage = .releasing ∧
        r'.fwd = if differs = [] then (es.filter fun e => lineOf e.2.2.2 == lineOf r.pa).flatMap fun e => bytesOf e.2.2.2 e.2.2.1 8 else []

/-- COMMAND_COMPLETE completes: it writes the token to the register of a thread that is there, which is no longer pending, hands the signal's
increment to its semaphore's update of the clk, and the command no longer runs; an FCLK completes once its time has come, with the frame clock
as its token, and a SEMOP or SEMSET on a clk after its change (R229, R302, R318, R324). -/
def Claims.CommandEnd : Prop :=
  ∀ (s : State) (core num : Nat) (q : Cmd) (x : Tid) (th : Thr) (token : Nat), cmdAt s core num = some q → cmdCtx q.instr = none →
    isThread s x core th → th.uid = q.uid →
    (((∀ h r, q.instr ≠ .fclk h r) ∧ workDone s q = true ∧ token = q.token) ∨
      ((∃ h r, q.instr = .fclk h r) ∧ opAt q.ops 0 ≤ s.nanos ∧ token = s.nanos)) →
    yields (exec (.commandComplete core num) s) fun t => t.mem = s.mem ∧ (∀ y ∈ (t.core core).running, y.num ≠ q.num) ∧
      (uidHasReg s core q.uid q.hdr.token.toNat → regOfUid t core q.uid q.hdr.token.toNat = word token) ∧
      (∃ y, t.thrOf core q.uid = some y ∧ (∀ p ∈ y.pend, p.2 ≠ q.num) ∧
        (q.hdr.token ≠ 0 → th.wait = .token q.hdr.token.toNat → y.wait = .none)) ∧
      (q.hdr.se = true → ∃ f, (t.core core).semIn =
        (s.core core).semIn ++ [(q.hdr.ssem.toNat, false, q.hdr.sinc.toNat, core, q.num, f)]) ∧
      (q.hdr.se = false → (t.core core).semIn = (s.core core).semIn)

/-! ## Matrix and rig events -/

/-- MATRIX_TILE_STEP starts the ready head of the context that did not run the last step; that of the other one where the first has
none, or only a rig's that cannot start (R310). -/
def Claims.MatrixStart : Prop :=
  ∀ (s : State) (core n : Nat) (q : Cmd), let k := s.core core
    let other := !k.matLast
    matRunning k = none → freeNum k = some n → isRig q.instr = false →
    let noTurn := ∀ x, readyHead s core other = some x → isRig x.instr = true ∧ ∀ g, rigOfCmd s core x.num = some g → rigPreferred s g = false
    let begun := fun (x : Bool) (t : State) => (t.core core).matLast = x ∧ t.mem = s.mem ∧
      (t.core core).running = k.running ++ [{ (acquireCmd s core q).2 with idx := n, running := true, acc := [s.clk] }] ∧
      (matCtxOf (t.core core) x).elems = (matCtxOf k x).elems ∧ matCtxOf (t.core core) (!x) = matCtxOf k (!x)
    (readyHead s core other = some q → yields (exec (.matrixTileStep core) s) (begun other)) ∧
    (noTurn → readyHead s core k.matLast = some q → yields (exec (.matrixTileStep core) s) (begun k.matLast))

/-- MATRIX_STEP_COMPLETE, the step having lasted its time: MMA and MMAX leave in each element of the tile the accumulation of R133 to R136,
MZERO zeroes the tiles of its mask, MLD loads what it has read; other tiles, and the other context, are unchanged; the command leaves
its context (R310 to R313). -/
def Claims.MatrixResults : Prop :=
  ∀ (s : State) (core : Nat) (ctx : Bool) (q : Cmd), matRunning (s.core core) = some q → cmdCtx q.instr = some ctx → stepDone s q = true →
    let m := matCtxOf (s.core core) ctx
    yields (exec (.matrixStepComplete core ctx) s) fun t => let m' := matCtxOf (t.core core) ctx
      m'.queue = m.queue.filter (fun x => x.num != q.num) ∧
      (matCtxOf (t.core core) (!ctx)).elems = (matCtxOf (s.core core) (!ctx)).elems ∧
      (∀ h va vb tile ta tb, q.instr = .mma h va vb tile ctx ta tb →
        ∀ j, m'.get j = if j / 4096 = tile.toNat then ((regsOp q ta tb h.x0 false).elem (j % 4096 / 64) (j % 64) (m.get j)).1 else m.get j) ∧
      (∀ h va vb vs tile ta tb, q.instr = .mmax h va vb vs tile ctx ta tb →
        ∀ j, m'.get j = if j / 4096 = tile.toNat then ((regsOp q ta tb h.x0 true).elem (j % 4096 / 64) (j % 64) (m.get j)).1 else m.get j) ∧
      (∀ h tm, q.instr = .mzero h tm ctx → ∀ j, m'.get j = if tm.getLsbD (j / 4096) then 0 else m.get j) ∧
      (∀ h a tile st, q.instr = .mld h a tile ctx st → ∀ j, m'.get j = if j / 4096 = tile.toNat then
        ((gotBytes q (opAt q.ops 0 + j % 4096 / 64 * st.toNat + 4 * (j % 64)) 4).map ofBytes).getD (m.get j) else m.get j) ∧
      (∀ h a tile st, q.instr = .mst h a tile ctx st → m'.elems = m.elems)

/-- RIG_RUN starts an instruction all of whose members have arrived and whose turn it is on each. RIG_COMPLETE, all its panels read, leaves an RMMAK's sum
in the last member's tile, and an RMMAN's product in each member's, and closes the instruction. RIG_ABANDON and a pre-emption that has waited 65,536 clk abandon it: no member has
arrived, and no command of theirs is left (R137, R316, R317). -/
def Obligations.RigEvents : Prop :=
  ∀ (s : State) (part rig : Nat) (g : Rig), s.rigs.find (rigKey part rig) = some g →
    let key := rigKey part rig
    let closed := { g with arrived := [], running := false, abandon := false, waitedAt := none }
    (∀ l, rigHeads s g = some l → g.members.Nodup → (∀ x ∈ l, yieldsTurn s x.1 x.2.1 = false) →
      (∀ x ∈ l.zipIdx, let q := x.1.2.2.1
        q.out = [] ∧ q.dsts = [] ∧ q.takes = [] ∧
        ∀ p ∈ memberReads q x.2, winOf p.1 = .shared ∧ (q.xlat.find (2 * (p.1 / 4096))).isSome = true) →
      yields (exec (.rigRun part rig) s) fun t => t.rigs.find key = some { g with running := true } ∧ t.mem = s.mem ∧
        ∀ x ∈ chain g, ∃ q ∈ (t.core x.1).running, q.num = x.2) ∧
    (let l := runningMembers s g
     g.running = true → l.length = g.members.length → g.members.Nodup →
      (∀ x ∈ l, x.2.1.phase = 2 ∧ x.2.2.split = true ∧ owesNothing s x.1 x.2.1.uid) →
      ∀ core q r, l.getLast? = some (core, q, r) → yields (exec (.rigComplete part rig) s) fun t => t.rigs.find key = some closed ∧
        ∀ e, e < 4096 → (matCtxOf (t.core core) r.ctx).get (4096 * r.tile + e) =
          (splitElem (l.map fun x => rigOp x.2.2 x.2.1 x.2.1) (e / 64) (e % 64)
            ((matCtxOf (s.core core) r.ctx).get (4096 * r.tile + e))).1) ∧
    (let l := runningMembers s g
     g.running = true → l.length = g.members.length → g.members.Nodup →
      (∀ x ∈ l, x.2.1.phase = 2 ∧ x.2.2.split = false ∧ owesNothing s x.1 x.2.1.uid) →
      ∀ first, l.head? = some first → yields (exec (.rigComplete part rig) s) fun t => t.rigs.find key = some closed ∧
        ∀ x ∈ l, ∀ e, e < 4096 → (matCtxOf (t.core x.1) x.2.2.ctx).get (4096 * x.2.2.tile + e) =
          ((rigOp x.2.2 first.2.1 x.2.1).elem (e / 64) (e % 64) ((matCtxOf (s.core x.1) x.2.2.ctx).get (4096 * x.2.2.tile + e))).1) ∧
    (g.abandon = true → yields (exec (.rigAbandon part rig) s) fun t => t.rigs.find key = some closed ∧
      ∀ x ∈ g.arrived, ∀ y ∈ (t.core x.1).running, y.num ≠ x.2.2) ∧
    (g.abandon = false → exec (.rigAbandon part rig) s = .next s) ∧
    ∀ core slot b w, (s.core core).slots.find slot = some w → rigOfUid s core w.t.uid = some (key, g) → g.waitedAt = some b →
      (b + 65536 ≤ s.clk → yields (exec (.rigPreemptTimeout core slot) s) fun t => t.rigs.find key = some closed) ∧
      (s.clk < b + 65536 → exec (.rigPreemptTimeout core slot) s = .next s)

/-! ## Launches: events -/

/-- LAUNCH_HEADER_CHECK and LAUNCH_DEFERRED complete: a launch's header, read and with room, is checked in the order of its codes: a bad
one ends the command with the code as its token, at once or once a deferred launch has room, and a good one goes on to the placement
table; without room, or behind a deferred one that started earlier, it waits. With every check behind it the launch takes the next LSEQ (R44, R354, R357). -/
def Claims.LaunchChecks : Prop :=
  ∀ (s : State) (core num p : Nat) (q : Cmd) (h : CmdHdr) (a : RegOp), cmdAt s core num = some q → s.partOf core = some p →
    q.instr = .launch h a →
    let dws := dwsAt q (opAt q.ops 0) 8
    let read := q.phase = 3 ∧ q.out = [] ∧ launchStage q = 0
    let code := headerCode fun i => dws.getD i 0
    (read → launchRoom s core p = true → earlierDeferred s p q = false → code ≠ 0 → yields (exec (.launchHeaderCheck core num) s) fun t => t.mem = s.mem ∧
      ∃ y, cmdAt t core num = some y ∧ y.phase = 2 ∧ y.token = code) ∧
    (read → launchRoom s core p = true → earlierDeferred s p q = false → code = 0 → partCores s p ≠ [] →
      (∀ x ∈ partCores s p, bits (dws.getD 4 0) 63 32 + bits (dws.getD 4 0) 31 0 ≤ launchPriv s x) →
      yields (exec (.launchHeaderCheck core num) s) fun t => t.mem = s.mem ∧
        ∃ y, cmdAt t core num = some y ∧ y.phase = 0 ∧ launchStage y = 1 ∧ ∀ i, i < 8 → hdrDw y i = dws.getD i 0) ∧
    (read → launchRoom s core p = false ∨ earlierDeferred s p q = true → yields (exec (.launchHeaderCheck core num) s) fun t => t.mem = s.mem ∧
      ∃ y, cmdAt t core num = some y ∧ y.phase = 6 ∧ ∀ i, i < 8 → hdrDw y i = dws.getD i 0) ∧
    (q.phase = 6 → launchRoom s core p = false ∨ earlierDeferred s p q = true → exec (.launchDeferred core num) s = .next s) ∧
    (q.phase = 6 → launchRoom s core p = true → earlierDeferred s p q = false → headerCode (hdrDw q) ≠ 0 → yields (exec (.launchDeferred core num) s) fun t => t.mem = s.mem ∧
      ∃ y, cmdAt t core num = some y ∧ y.phase = 2 ∧ y.token = headerCode (hdrDw q)) ∧
    (q.phase = 6 → launchRoom s core p = true → earlierDeferred s p q = false → headerCode (hdrDw q) = 0 → partCores s p ≠ [] →
      (∀ x ∈ partCores s p, bits (hdrDw q 4) 63 32 + bits (hdrDw q 4) 31 0 ≤ launchPriv s x) →
      yields (exec (.launchDeferred core num) s) fun t => t.mem = s.mem ∧
        ∃ y, cmdAt t core num = some y ∧ y.phase = 0 ∧ launchStage y = 1) ∧
    (q.phase = 3 → q.out = [] → launchStage q = 3 → earlierCheck s p q = false → earlierDeferred s p q = false → launchRoom s core p = true → yields (exec (.launchHeaderCheck core num) s) fun t => t.mem = s.mem ∧
      (t.part p).lseq = nextLseq (s.part p).lseq ∧
      ∃ lid, t.launches.find lid = some (makeLaunch s core p q (nextLseq (s.part p).lseq)) ∧
        ∃ y, cmdAt t core num = some y ∧ y.phase = 1)

/-- LAUNCH_FILL: with all the reads of a core's fill answered, its constants and its code are in place, the rest of the bank is zero, and
the core is filled. LAUNCH_COMPLETE, with no task, slot or fibre left: its banks are free on every core, and its command's token is
LSEQ with status 0 (R45, R46, R72, R74). -/
def Claims.LaunchFills : Prop :=
  (∀ (s : State) (core lid b : Nat) (l : Launch) (ids : List Nat), s.launches.find lid = some l → l.dead = false → l.done = false →
    l.filled.contains core = false → l.cores.contains core = true → (l.fills.find? fun x => x.1 == core) = some (core, ids) →
    (∀ id ∈ ids, ∃ r, s.reqs.find id = some r ∧ r.stage = .replied ∧ r.poison = false) → b < 4 → core < 2 ^ 13 →
    ((s.core core).banks.find? fun x => x.2 == lid) = some (b, lid) →
    (∀ id ∈ ids, ∀ r, s.reqs.find id = some r →
      (r.marked = true → l.code.toNat ≤ r.va ∧ r.va + r.n ≤ l.code.toNat + l.csize) ∧
      (r.marked = false → l.const.toNat ≤ r.va ∧ r.va + r.n ≤ l.const.toNat + 8 * l.ncon)) →
    (∀ id ∈ ids, ∀ id' ∈ ids, ∀ r r', id ≠ id' → s.reqs.find id = some r → s.reqs.find id' = some r' →
      r.marked ≠ r'.marked ∨ r.va + r.n ≤ r'.va ∨ r'.va + r'.n ≤ r.va) →
    8 * l.ncon ≤ 1408 → l.cload + l.csize < 2 ^ 19 → Memory.wf s.mem = true →
    yields (exec (.launchFill core lid) s) fun t => (∃ y, t.launches.find lid = some y ∧ core ∈ y.filled) ∧
      (∀ id ∈ ids, ∀ r i, s.reqs.find id = some r → i < r.n →
        (r.marked = true → memRead t.mem (tcmKey core (l.cload + (r.va - l.code.toNat + i))) = BitVec.ofNat 8 (r.val >>> (8 * i))) ∧
        (r.marked = false → memRead t.mem (bankKey core b (r.va - l.const.toNat + i)) = BitVec.ofNat 8 (r.val >>> (8 * i)))) ∧
      ∀ i, 8 * l.ncon ≤ i → i < 1408 → memRead t.mem (bankKey core b i) = 0) ∧
  ∀ (s : State) (lid : Nat) (l : Launch), s.launches.find lid = some l → l.done = false → l.tasks ≤ l.written → l.left = 0 →
    fibresLeft s lid = false → yields (exec (.launchComplete lid) s) fun t => t.mem = s.mem ∧
      (∃ y, t.launches.find lid = some y ∧ y.done = true) ∧ (∀ c, ∀ b ∈ (t.core c).banks, b.2 ≠ lid) ∧
      ∀ q ∈ (t.core l.byCore).running, q.num = l.byCmd → q.phase = 2 ∧ q.token = l.lseq * 2 ^ 32

/-- A running data command, all of whose source bytes have been read, and that has been granted a line of its destination, lets the line go
with its bytes: CPY and FILLZ byte by byte, CPYM to the same offset of each scratchpad of its mask, CPY2 row by row, CPYT element by element with rows and columns exchanged, CPYB
as the panels of R306, CPYG gathered element by gathered element, CPYR the rounded sum of the destination's element and the source's. At the home they are written, and nothing
else (R109, R300, R305 to R308). -/
def Claims.CommandData : Prop :=
  (∀ (s : State) (core num id va : Nat) (q : Cmd) (r : Req), cmdAt s core num = some q → q.miss = none → q.phase = 1 → q.reads = [] →
    q.out = [] → q.dsts = [] → q.takes = [(id, va)] → s.reqs.find id = some r → r.stage = .replied → r.poison = false → beyond r.pa = false →
    r.data ≠ [] → (∀ p ∈ srcSegs q, ∀ i, i < p.2 → (gotByte q (p.1 + i)).isSome = true) →
    let a := opAt q.ops 0
    let b := opAt q.ops 1
    let writes := fun (w : Nat → Byte → Prop) => yields (exec (.commandLineTake core num) s) fun t => t.mem = s.mem ∧
      ∃ y, t.reqs.find id = some y ∧ y.stage = .releasing ∧ ∀ j x, j < 64 → ((64 * lineOf r.pa + j, x) ∈ y.fwd ↔ w (va + j) x)
    (∀ h src dst len, q.instr = .cpy h src dst len → writes fun v x => ∃ i, i < len.toNat ∧ v = b + i ∧ gotByte q (a + i) = some x) ∧
    (∀ h dst len, q.instr = .fillz h dst len → writes fun v x => ∃ i, i < len.toNat ∧ v = a + i ∧ x = 0) ∧
    (∀ h src dst rows rowb sstr dstr, q.instr = .cpy2 h src dst rows rowb sstr dstr → rowb.toNat ≤ 8 * dstr.toNat →
      writes fun v x => ∃ n i, n < rows.toNat ∧ i < rowb.toNat ∧ v = b + 8 * n * dstr.toNat + i ∧
        gotByte q (a + 8 * n * sstr.toNat + i) = some x) ∧
    (∀ h src dst rows cols sstr dstr esz, q.instr = .cpyt h src dst rows cols sstr dstr esz → 2 ^ esz.toNat * rows.toNat ≤ 8 * dstr.toNat →
      writes fun v x => ∃ n k i, n < rows.toNat ∧ k < cols.toNat ∧ i < 2 ^ esz.toNat ∧
        v = b + 8 * k * dstr.toNat + 2 ^ esz.toNat * n + i ∧ gotByte q (a + 8 * n * sstr.toNat + 2 ^ esz.toNat * k + i) = some x) ∧
    (∀ h src dst rows cols sstr bsz role tr, q.instr = .cpyb h src dst rows cols sstr bsz role tr → rows ≠ 0 → cols ≠ 0 →
      writes fun v x => ∃ o, o < 2048 * cpybPanels rows.toNat cols.toNat (bszBits bsz) role ∧ v = b + o ∧
        cpybByte q a rows.toNat cols.toNat sstr.toNat (bszBits bsz) role tr o = some x) ∧
    (∀ h src doff die len mask, q.instr = .cpym h src doff die len mask →
      writes fun v x => ∃ i, i < len.toNat ∧ (v - spadBase) % 0x400000 = doff.toNat + i ∧ gotByte q (a + i) = some x) ∧
    (∀ h src dst count gsz, q.instr = .cpyg h src dst count gsz → q.acc.length = count.toNat → let e := 8 * 2 ^ gsz.toNat
      writes fun v x => ∃ k i, k < count.toNat ∧ i < e ∧ v = b + e * k + i ∧ gotByte q (q.acc.getD k 0 + i) = some x) ∧
    ∀ h src dst len ty, q.instr = .cpyr h src dst len ty → len.toNat % cpyrSize ty = 0 → let e := cpyrSize ty
      writes fun v x => ∃ k i m, i < e ∧ e * k < len.toNat ∧ v = b + e * k + i ∧ gotBytes q (a + e * k) e = some m ∧
        x = BitVec.ofNat 8 (cpyrAdd ty.toNat (ofBytes ((List.range e).map fun j => r.data.getD ((b + e * k) % 64 + j) 0)) (ofBytes m) >>>
          (8 * i))) ∧
  ∀ (s : State) (id n : Nat) (r : Req), s.reqs.find id = some r → r.kind = .take n false → r.stage = .released → pwinOf r.pa = .hbm →
    (∀ x ∈ r.fwd, pwinOf x.1 = .hbm) → (r.fwd.map fun x => x.1).Nodup → s.fifos.find (lineOf r.pa) = some [id] →
    (∀ p, (s.part p).recLaunch = none) → Memory.wf s.mem = true →
    yields (exec (.homeWritePerform id) s) fun t => t.reqs.find id = none ∧ t.fifos.find (lineOf r.pa) = none ∧
      (∀ x ∈ r.fwd, memRead t.mem x.1 = x.2) ∧ ∀ a, (∀ x ∈ r.fwd, x.1 ≠ a) → memRead t.mem a = memRead s.mem a

/-- What the other commands come to. PREF2 ends once its fetches are sent, and writes nothing (the model's choice: log 43). FLUSH leaves no line of its range newer than HBM, and
with INV no copy in a local cache. FPOST publishes its frame, under the physical address of its buffer (the model's reading: log 43), at the current time, if its output is enabled for its partition and the
frame is newer. SCENEB binds the table it has read, once and if it is valid. WAYCFG gives a way its role. PREEMPT asks for the save of
each of its slots that no PREEMPT started earlier names and tells which it has saved (R305, R309, R323, R325, R369, R371). -/
def Obligations.CommandEffects : Prop :=
  ∀ (s : State) (core num : Nat) (q : Cmd), cmdAt s core num = some q → q.miss = none →
    let works := fun (f : Cmd) (p : State → Prop) => yields (exec (.commandLineTake core num) s) fun t => t.mem = s.mem ∧
      cmdAt t core num = some f ∧ p t
    let ended := fun (token : Nat) => { q with phase := 2, token := token }
    let a := opAt q.ops 0
    let ready := fun (l : List (Nat × Nat)) => ∀ x ∈ l, winOf x.1 = .shared ∧ (q.xlat.find (2 * (x.1 / 4096))).isSome = true ∧
      pwinOf (cmdPa core q false x.1).1 = .hbm
    (∀ h r len, q.instr = .pref2 h r len → q.phase = 0 → works { q with phase := 2 } fun _ => True) ∧
    (∀ h r len, q.instr = .flush h r len → q.phase = 0 → ready (segPieces [(a, len.toNat)]) → works { q with phase := 2 } fun t =>
      ∀ x ∈ segPieces [(a, len.toNat)], let line := lineOf (cmdPa core q false x.1).1
        t.dirty.find line = none ∧ (h.x0 = true → ∀ c, ∀ y ∈ (t.core c).cache, y.line ≠ line)) ∧
    (∀ h r bytes fnum out, q.instr = .fpost h r bytes fnum out → q.phase = 0 → ready [(a, 64)] → let x := s.output out.toNat
      (bitAt x.w0 63 = true → s.partOf core = some (bits x.w0 50 48) → newerFrame x.fnum fnum.toNat = true → works (ended s.nanos) fun t =>
        ∃ f, (t.output out.toNat).latest = some f ∧ f.fnum = fnum.toNat ∧ f.base = (cmdPa core q false a).1 ∧ f.bytes = bytes.toNat ∧
          f.time = s.nanos ∧ (t.output out.toNat).fnum = some fnum.toNat) ∧
      ((bitAt x.w0 63 = false ∨ newerFrame x.fnum fnum.toNat = false) → works (ended (2 ^ 64 - 1)) fun t => t.output out.toNat = x)) ∧
    (∀ h r lid l, q.instr = .sceneb h r → q.lid = some lid → s.launches.find lid = some l →
      let d := (List.range 8).map fun i => ofBytes ((gotBytes q (a + 8 * i) 8).getD [])
      (l.scene = none → q.phase = 3 → q.out = [] → sceneOk d = true → works (ended 0) fun t =>
        t.launches.find lid = some { l with scene := some d }) ∧
      (l.scene = none → q.phase = 3 → q.out = [] → sceneOk d = false → works (ended 1) fun t => t.launches.find lid = some l) ∧
      (l.scene.isSome = true → q.phase = 0 → works (ended 2) fun t => t.launches.find lid = some l)) ∧
    (∀ h slice ways mode chg w, q.instr = .waycfg h slice ways mode → q.phase ≠ 2 → q.acc = [chg, w] → let p := slice.toNat
      (12 ≤ w → works (ended chg) fun _ => True) ∧
      (w < 12 → bitAt chg w = true → bitAt (sliceDisabled s p) w = false → (mode = true → (s.slice p).home = []) → (mode = false → s.fifos = []) →
        yields (exec (.commandLineTake core num) s) fun t => cmdAt t core num = some { q with acc := [chg, w + 1] } ∧
          bitAt (sliceScratch t p) w = mode ∧ ∀ b, memRead t.mem b =
            if wayBase p w ≤ b ∧ b < wayBase p w + 0x40000 then memRead [] b else memRead s.mem b)) ∧
    ∀ h target slots, q.instr = .preempt h target slots → q.phase ≠ 2 → let n := target.toNat
      (q.acc = [] → works { q with acc := [0, 0, 0, 0, preemptsBefore s n q.started] } fun _ => True) ∧
      ∀ done skipped k uid m, q.acc = [done, skipped, k, uid, m] →
        (8 ≤ k → works (ended (done + skipped * 256)) fun _ => True) ∧
        (k < 8 → bitAt slots.toNat k = false → works { q with acc := [done, skipped, k + 1, 0, m] } fun _ => True) ∧
        (k < 8 → bitAt slots.toNat k = true → uid = 0 → ∀ w, (s.core n).slots.find k = some w →
          (bitAt m k = false → w.t.sup = false → w.saving = 0 → hasImage s n k = false →
            works { q with acc := [done, skipped, k, w.t.uid, m] } fun t => (t.core n).slots.find k = some { w with saving := 1 }) ∧
          (w.t.sup = true ∨ bitAt m k = true → works { q with acc := [done, skipped + 2 ^ k, k + 1, 0, m] } fun t =>
            (t.core n).slots.find k = some w)) ∧
        (k < 8 → bitAt slots.toNat k = true → uid ≠ 0 → slotOfUid (s.core n) uid = none →
          works { q with acc := [done, skipped + 2 ^ k, k + 1, 0, m] } fun _ => True)

/-! ## Homes, mesh, directory -/

/-- HOME_READ answers a read that nothing holds with the bytes as they stand, or with those that the line held before a later write, within
the bounds of R91; HOME_WRITE_PERFORM stores a store's bytes, and nothing else;
RESERVATION_REQUEST enters the line's FIFO, and its head is granted with the value as it stands (R88, R91, R217). The home here is a
cluster's scratchpad. -/
def Claims.HomeEvents : Prop :=
  ∀ (s : State) (id k : Nat) (r : Req), s.reqs.find id = some r → homeReady s id r = true → pwinOf r.pa = .spad k → r.remote = none →
    (r.kind = .load false → r.marked = false → yields (exec (.homeRead id) s) fun t => t.mem = s.mem ∧
      (∃ y, t.reqs.find id = some y ∧ y.stage = .replying ∧ y.core = r.core ∧ y.parts = r.parts ∧
        (y.val = memGet s.mem r.pa r.n ∨ ∃ x ∈ s.past, x.line = lineOf r.pa ∧ ((s.core r.core).seen.find x.line).getD 0 < x.ends ∧
          y.val = ofBytes ((x.data.drop (r.pa % 64)).take r.n))) ∧
      underWay t .reply (homeNode s r.pa) (.core r.core) 0 (.reply id)) ∧
    (∀ v n, r.kind = .store (bytesOf r.pa v n) none → s.fifos.find (lineOf r.pa) = none → Memory.wf s.mem = true →
      (∀ i, i < n → (spadTarget s (clusterOf r.core) (r.pa + i)).1 = r.pa + i) →
      yields (exec (.homeWritePerform id) s) fun t => memGet t.mem r.pa n = v % 256 ^ n ∧ t.reqs.find id = none ∧
        ∀ a, a < r.pa ∨ r.pa + n ≤ a → memRead t.mem a = memRead s.mem a) ∧
    (∀ f rel, r.kind = .atomic f rel → s.fifos.find (lineOf r.pa) = none →
      yields (exec (.reservationRequest id) s) fun t => t.mem = s.mem ∧ t.fifos.find (lineOf r.pa) = some [id] ∧
        (∃ y, t.reqs.find id = some y ∧ y.stage = .granted ∧ y.val = memGet s.mem r.pa r.n) ∧
        underWay t .reply (homeNode s r.pa) (.core r.core) 0 (.grant id))

/-- SLICE_MISS_FILL puts the line in a home way; SLICE_WRITEBACK lets the oldest write-back go, after which the line is newer in its slice
only where it has been written since, and a host's line into memory; a multicast window
ends at its clk; HBM_REFRESH counts a copy engine's burst that a refresh splits (R410 to R412, R416). -/
def Claims.SliceEvents : Prop :=
  (∀ (s : State) (line : Nat) (m : MissLine), let p := sliceOf (64 * line)
    (s.slice p).misses.find? (fun x => x.line == line) = some m → m.reqs = [] → yields (exec (.sliceMissFill p line) s) fun t =>
      resident t line = true ∧ (t.slice p).misses = (s.slice p).misses.erase m) ∧
  (∀ (s : State) (p line : Nat) (d : List Byte) (l : List (Nat × Bool × List Byte)), (s.slice p).wb = (line, false, d) :: l →
    yields (exec (.sliceWriteback p) s) fun t => (t.slice p).wb = l ∧ t.mem = s.mem ∧
      t.dirty.find line = if (s.dirty.find line).isSome ∧ memBytes s.mem (64 * line) 64 ≠ d then some d else none) ∧
  (∀ (s : State) (line : Nat) (d : List Byte) (l : List (Nat × Bool × List Byte)), let p := sliceOf (64 * line)
    (s.slice p).wb = (line, true, d) :: l → pwinOf (64 * line) = .hbm → s.lineKeys.find line = none → (s.slice p).windows = [] →
    (∀ q, (s.part q).recLaunch = none) → Memory.wf s.mem = true → yields (exec (.sliceWriteback p) s) fun t => (t.slice p).wb = l ∧
      ∀ a, memRead t.mem a = if 64 * line ≤ a ∧ a < 64 * line + 64 then d.getD (a - 64 * line) 0 else memRead s.mem a) ∧
  (∀ (s : State) (p line : Nat) (w : Window), (s.slice p).windows.find? (fun w => w.line == line) = some w →
    (s.clk < w.ends → exec (.multicastWindowExpiry p line) s = .next s) ∧
    (w.ends ≤ s.clk → heldByMcas s (64 * line) = false → p = sliceOf (64 * line) → pwinOf (64 * line) = .hbm →
      yields (exec (.multicastWindowExpiry p line) s) fun t => t.mem = s.mem ∧ ∀ x ∈ (t.slice p).windows, x.line ≠ line)) ∧
  (∀ (s : State) (d n : Nat) (x : Nat × Req), x ∈ s.reqs → pwinOf x.2.pa = .hbm → sliceOf x.2.pa / 48 = d → x.2.kind = .eng n →
    exec (.hbmRefresh d true) s = .next (s.modDie d fun y => { y with refsplit := (y.refsplit + 1) % 2 ^ 48 })) ∧
  ∀ (s : State) (d : Nat), exec (.hbmRefresh d false) s = .next s

/-- MESH_MESSAGE_DELIVERY, once a message may arrive: a fibre joins its core's arrivals, a request stands at its home, or, a load, at the visitor ways that it looks
in first, while a write goes on from there with its line's visitor copy dropped (R409); a reply at its core, a
grant at its atomic unit, and the message is gone; before that nothing happens (R35, R403 to R406, R409). -/
def Claims.MeshDelivery : Prop :=
  ∀ (s : State) (n : Nat) (m : Msg), s.msgs.find n = some m → n < s.fresh →
    (msgReady s n m = false → exec (.meshMessageDelivery n) s = .next s) ∧
    (msgReady s n m = true → staysOut s m = false →
      (∀ a c, m.body = .fibre a → m.dst = .core c → (s.core c).fenced = false → yields (exec (.meshMessageDelivery n) s) fun t =>
        t.msgs.find n = none ∧ (t.core c).arrivals = (s.core c).arrivals ++ [a] ∧ t.mem = s.mem) ∧
      (∀ id r, m.body = .req id → s.reqs.find id = some r → r.stage = .sentVis → needsWrite r.kind = true →
        yields (exec (.meshMessageDelivery n) s) fun t => t.msgs.find n = none ∧ t.mem = s.mem ∧
          underWay t .request (.slice (visitorSlice (dieOf r.core) (lineOf r.pa))) (homeNode s r.pa) 0 (.req id) ∧
          (∃ y, t.reqs.find id = some y ∧ y.pa = r.pa ∧ y.stage = .sent) ∧
          ∀ x ∈ t.visitors, ¬(x.1 = dieOf r.core ∧ x.2.line = lineOf r.pa)) ∧
      (∀ id r, m.body = .req id → s.reqs.find id = some r → beyond r.pa = false → (r.stage = .sentVis → needsWrite r.kind = false) →
        yields (exec (.meshMessageDelivery n) s) fun t => t.msgs.find n = none ∧ t.mem = s.mem ∧
          ∃ y, t.reqs.find id = some y ∧ y.pa = r.pa ∧ y.arrClk = s.clk ∧
            (r.stage = .sentVis → y.stage = .atVis) ∧ (r.stage ≠ .sentVis → y.stage = .atHome)) ∧
      (∀ id r, m.body = .reply id → s.reqs.find id = some r → replyWanted s r id = true → yields (exec (.meshMessageDelivery n) s) fun t =>
        t.msgs.find n = none ∧ t.mem = s.mem ∧ t.reqs.find id = some { r with stage := .replied }) ∧
      ∀ id r, m.body = .grant id → s.reqs.find id = some r → yields (exec (.meshMessageDelivery n) s) fun t =>
        t.msgs.find n = none ∧ t.mem = s.mem ∧ t.reqs.find id = some { r with stage := .replied })

/-- DIRECTORY_HOP forwards a fibre to an owner of its treelet, and the owners to the sender; a fibre of an ended launch goes no further.
PAGING_COMPLETE makes an image resident whose lines have all arrived; EVICTION_REPORT takes the core out of the treelet's entry; a
window ends with its counts at zero (R280 to R284, R419, R420). -/
def Obligations.DirectoryEvents : Prop :=
  (∀ (s : State) (p : Nat) (h : HopMsg) (e : DirEntry) (o : Nat) (l : List Nat), (s.slice p).hops = [h] → launchDead s h.a.t = false →
    dirEntry s h.part h.tbase h.id = some e → e.owners = o :: l →
    yields (exec (.directoryHop p) s) fun t => (t.slice p).hops = [] ∧ t.mem = s.mem ∧
      (∃ d ∈ o :: l, underWay t .fibre (dirNode h.id) (.core d) 0 (.hop h.a)) ∧
      underWay t .system (dirNode h.id) (.core h.src) 0 (.owners h.tbase h.id (o :: l))) ∧
  (∀ (s : State) (p : Nat) (h : HopMsg), (s.slice p).hops = [h] → launchDead s h.a.t = true →
    yields (exec (.directoryHop p) s) fun t => (t.slice p).hops = [] ∧ t.msgs = s.msgs) ∧
  (∀ (s : State) (core : Nat) (x : Treelet), (s.core core).treelets = [x] → x.ready = false →
    (∀ i ∈ x.reqs, ∃ r, s.reqs.find i = some r ∧ r.stage = .replied ∧ r.noFill = false ∧ r.poison = false) →
    let image := x.reqs.flatMap fun i => ((s.reqs.find i).map fun r => (bytesOf 0 r.val 64).map (·.2)).getD []
    headerOk x.id image = true → yields (exec (.pagingComplete core) s) fun t => t.mem = s.mem ∧
      ∃ y, (t.core core).treelets = [y] ∧ y.ready = true ∧ y.id = x.id ∧ y.image = image ∧ y.units = x.units ∧ y.reqs = []) ∧
  (∀ (s : State) (p n part b i core : Nat) (m : Msg), m.body = .evicted part b i core →
    s.msgs.find? (fun m => m.2.dst == .slice p && msgReady s m.1 m.2 && isReport m.2.body) = some (n, m) →
    yields (exec (.evictionReport p) s) fun t => t.msgs.find n = none ∧ t.mem = s.mem ∧
      ∀ e ∈ (t.slice (dirSlice i)).dir, e.isKey part b i = true → core ∉ e.owners ∧ core ∉ e.evicting ∧ e.paging ≠ some core) ∧
  ∀ (s : State) (p : Nat), (∀ e ∈ (s.slice p).dir, e.losing = none ∧ e.asked = none) →
    (s.clk < (s.slice p).dirStart + 256 * bits (s.die (p / 48)).dirpol 31 16 → exec (.directoryWindowExpiry p) s = .next s) ∧
    ((s.slice p).dirStart + 256 * bits (s.die (p / 48)).dirpol 31 16 ≤ s.clk → yields (exec (.directoryWindowExpiry p) s) fun t =>
      (t.slice p).dirStart = s.clk ∧ t.clk = s.clk ∧ ∀ e ∈ (t.slice p).dir, e.hops = 0)

/-- TRAV_EVENT_DELIVERY for a TRAV with no walk saved: an empty stack delivers DONE, at the bundle behind the TRAV; a top entry that is an instance
delivers event 3; a top treelet of the scene that is not in the core's store delivers event 1; the fibre is ready there, no walk saved,
and its other registers stand (R271, R272). -/
def Claims.TraversalDelivers : Prop :=
  ∀ (s : State) (core e form : Nat) (x : RqEntry), (s.core core).rq.find e = some x → entryOfUid (s.core core) x.t.uid = some e →
    x.t.wait = .walk form [] none → x.t.walkSaw = [] → x.fib.pin = false →
    let kind := bits (fibreGet x.fib 7).toNat 57 56
    let at_ := fun (n : Nat) (t : State) => ∃ y, (t.core core).rq.find e = some y ∧ y.fib.pc = x.fib.pc + word (8 * (1 + n)) ∧
      (∃ o, y.st = .ready o) ∧ y.t.wait = .none ∧ y.fib.pin = false ∧ (∀ r, r ≠ 7 → fibreGet y.fib r = fibreGet x.fib r) ∧
      bits (fibreGet y.fib 7).toNat 55 48 = fibDepth x.fib ∧ t.mem = s.mem
    (fibDepth x.fib = 0 → yields (exec (.travEventDelivery core e) s) (at_ 0)) ∧
    (fibDepth x.fib ≠ 0 → kind = 1 → yields (exec (.travEventDelivery core e) s) (at_ 3)) ∧
    (fibDepth x.fib ≠ 0 → kind = 0 → fibTop x.fib < (sceneOf s x.t).getD 1 0 % 2 ^ 24 →
      ((treeletAt s core x.t (fibTop x.fib)).bind fun t => if t.ready then some t.image else none) = none →
      yields (exec (.travEventDelivery core e) s) (at_ 1))

/-! ## The host port and the stay fabric -/

/-- The host's accesses: one that is not to bytes of one HBM line is answered with an error (that it is so for no bytes and for bytes of
two lines is the model's choice: log 72), another reaches its home; a line that the host gives up leaves the filter, its data performed first; a
write-back is always accepted: it updates a home way that holds its line, and goes through the slice's 16-entry buffer otherwise, whose oldest
entry leaves first where it is full; the oldest access to host memory takes the host's data; a snoop misses (R411, R423 to R426). -/
def Claims.HostEvents : Prop :=
  (∀ (s : State) (q : HostReq), (pwinOf q.addr ≠ .hbm ∨ q.n = 0 ∨ lineOf q.addr ≠ lineOf (q.addr + q.n - 1)) →
    exec (.hostMemRequest q) s = .next { s with sent := s.sent ++ [.host q.addr none] }) ∧
  (∀ (s : State) (q : HostReq), pwinOf q.addr = .hbm → q.n ≠ 0 → lineOf q.addr = lineOf (q.addr + q.n - 1) → s.hostWait = [] →
    hostRoom s q = true → yields (exec (.hostMemRequest q) s) fun t => t.hostWait = [] ∧ t.mem = s.mem ∧
      ∃ id r, t.reqs.find id = some r ∧ r.pa = q.addr ∧ r.n = q.n ∧ r.stage = .atHome ∧ r.remote = some (hostPkg, holdCode q.hold)) ∧
  (∀ (s : State) (line : Nat) (x : HostLine), hostEntry s line = some x → x.asked = true → s.hostWait = [] → s.devWait = [] →
    (yields (exec (.hostBackInvalidateResponse line none) s) fun t => hostEntry t line = none ∧ t.mem = s.mem) ∧
    ∀ d, s.lineKeys.find line = none → pwinOf (64 * line) = .hbm → (s.slice (sliceOf (64 * line))).windows = [] →
      (∀ q, (s.part q).recLaunch = none) → Memory.wf s.mem = true →
      yields (exec (.hostBackInvalidateResponse line (some d)) s) fun t => hostEntry t line = none ∧
        ∀ a, memRead t.mem a = if 64 * line ≤ a ∧ a < 64 * line + 64 then d.getD (a - 64 * line) 0 else memRead s.mem a) ∧
  (∀ (s : State) (line : Nat) (d : List Byte), let p := sliceOf (64 * line)
    pwinOf (64 * line) = .hbm →
    (resident s line = false → yields (exec (.hostWriteback line d) s) fun t => ∃ l, (t.slice p).wb = l ++ [(line, true, d)] ∧
      ((s.slice p).wb.length < 16 → l = (s.slice p).wb ∧ t.mem = s.mem) ∧ (16 ≤ (s.slice p).wb.length → l = (s.slice p).wb.tail)) ∧
    (resident s line = true → s.lineKeys.find line = none → (s.slice p).windows = [] → (∀ q, (s.part q).recLaunch = none) → Memory.wf s.mem = true →
      yields (exec (.hostWriteback line d) s) fun t => (t.slice p).wb = (s.slice p).wb ∧
        ∀ a, memRead t.mem a = if 64 * line ≤ a ∧ a < 64 * line + 64 then d.getD (a - 64 * line) 0 else memRead s.mem a)) ∧
  (∀ (s : State) (id : Nat) (r : Req) (d : List Byte), s.reqs.find id = some r → firstAtHost s id r = true → (∀ n m, r.kind ≠ .take n m) →
    yields (exec (.hostCompletion id (some d)) s) fun t => underWay t (replyVc s r) (homeNode s r.pa) (.core r.core) 0 (.reply id) ∧
      ∃ y, t.reqs.find id = some y ∧ y.stage = .replying ∧
        ((∀ l rel, r.kind ≠ .store l rel) → t.mem = s.mem ∧ y.val = ofBytes ((List.range r.n).map fun i => d.getD i 0)) ∧
        ∀ l rel, r.kind = .store l rel → t.mem = memPutAll s.mem l) ∧
  ∀ (s : State) (a : Nat), exec (.hostSnoop a) s = .next { s with sent := s.sent ++ [.snoopMiss a] }

/-- A stay packet in sequence is counted, and a read that it carries reaches its home; a duplicate is acknowledged again, and one out of
sequence is lost. An acknowledgement frees the packets up to it; unacknowledged packets are sent again after 2 µs; a context with
nothing to do for 4 µs closes; a port takes the state reported (R427 to R430). -/
def Claims.StayEvents : Prop :=
  (∀ (s : State) (p : StayPacket) (id : Nat) (r : StayRecv), p.start = false → recvOf s p.src (isReplyBody p.body) p.lane = some (id, r) →
    let d := (p.seq + 2 ^ 16 - r.seq.getD 0) % 2 ^ 16
    (r.burst ≠ p.burst → exec (.stayPacketReceive p) s = .next s) ∧
    (r.burst = p.burst → d = 1 → r.count + 1 < 16 → yields (exec (.stayPacketReceive p) s) fun t =>
      (∃ y, t.stayRecv.find id = some y ∧ y.seq = some p.seq ∧ y.count = r.count + 1) ∧
      ∀ tag a n, p.body = .read tag a n → pwinOf a = .hbm → ∃ i q, t.reqs.find i = some q ∧ q.pa = a ∧ q.n = n ∧ q.stage = .atHome ∧
        q.remote = some (p.src, tag)) ∧
    (r.burst = p.burst → d = 0 ∨ 2 ^ 15 ≤ d → exec (.stayPacketReceive p) s = .next { s with
      sent := s.sent ++ [.ack r.src r.reply r.lane r.burst (r.seq.getD 0)] }) ∧
    (r.burst = p.burst → 1 < d → d < 2 ^ 15 → exec (.stayPacketReceive p) s = .next s)) ∧
  (∀ (s : State) (id upto : Nat) (c : StayCtx), s.stayCtx.find id = some c → c.queue = [] → yields (exec (.stayAckReceive id upto) s) fun t =>
    t.mem = s.mem ∧ t.stayCtx.find id = some { c with active := s.clk
                                                      unacked := c.unacked.dropWhile fun u => (upto + 2 ^ 16 - u.pkt.seq) % 2 ^ 16 < 2 ^ 15 }) ∧
  (∀ (s : State) (id : Nat) (c : StayCtx), s.stayCtx.find id = some c →
    ((∀ u ∈ c.unacked, s.clk < u.sent + 6000) → exec (.stayResendTimeout id) s = .next s) ∧
    ((∃ u ∈ c.unacked, u.sent + 6000 ≤ s.clk) → (∀ u ∈ c.unacked, u.resends < 4) → yields (exec (.stayResendTimeout id) s) fun t =>
      t.sent = s.sent ++ c.unacked.map (fun u => .packet c.port c.dst u.pkt) ∧ t.mem = s.mem) ∧
    (c.open_ = true → c.unacked = [] → (∀ y ∈ s.stayCtx, y.2.queue = []) → c.queue = [] → c.active + 12000 ≤ s.clk →
      yields (exec (.stayContextIdle id) s) fun t => t.stayCtx.find id = none ∧ t.mem = s.mem)) ∧
  (∀ (s : State) (id : Nat) (r : StayRecv), s.stayRecv.find id = some r → 0 < r.count → yields (exec (.stayAckTimer id) s) fun t =>
    t.stayRecv.find id = some { r with count := 0 } ∧ t.sent = s.sent ++ [.ack r.src r.reply r.lane r.burst (r.seq.getD 0)]) ∧
  ∀ (s : State) (p st lanes : Nat), yields (exec (.stayPortStateChange p st lanes) s) fun t => (portOf t p).st = st ∧
    (portOf t p).lanes = lanes ∧ (portOf t p).en = (portOf s p).en ∧ (∀ q, q ≠ p → portOf t q = portOf s q) ∧
    t.sent = s.sent ++ if (portOf s p).st = st then [] else [.vector 8]

/-! ## The frame clock, errors, management -/

/-- The master sends its time once a µs to every port that is up; another package's first message sets the clock in one step and locks it;
100 µs without one is holdover; at its instant an output whose frame is early enough presents it (R432 to R436). -/
def Claims.FrameEvents : Prop :=
  (∀ s : State, s.frame.master = true → (∀ c, s.frame.lastSend = some c → c + 3000 ≤ s.clk) → yields (exec .frameTimingSend s) fun t =>
    t.frame.lastSend = some s.clk ∧ t.mem = s.mem ∧
    t.sent = s.sent ++ ((List.range 18).filter fun p => (portOf s p).st == 2).map fun p => .timing p s.nanos) ∧
  (∀ (s : State) (time tier : Nat), s.frame.master = false → s.frame.locked = false → yields (exec (.frameTimingReceive time tier) s) fun t =>
    t.nanos = time ∧ t.frame.lock = true ∧ t.frame.locked = true ∧ t.frame.holdover = false ∧ t.frame.tier = min tier 15 ∧
    t.frame.lastMsg = s.clk ∧ t.mem = s.mem) ∧
  (∀ s : State, s.frame.lock = true → s.frame.lastMsg + 300000 ≤ s.clk → exec .frameHoldoverTimeout s =
    .next { s with frame := { s.frame with lock := false, holdover := true }, sent := s.sent ++ [.vector 7] }) ∧
  ∀ (s : State) (o : Nat) (f : Frame), let x := s.output o
    bitAt x.w0 63 = true → presentAt x x.k ≤ s.nanos → x.latest = some f → x.shown = none → x.frozen = none →
    f.time + 1000 * bits x.w0 47 32 ≤ presentAt x x.k → yields (exec (.presentInstant o) s) fun t =>
      (t.output o).shown = some f ∧ (t.output o).k = x.k + 1 ∧ (t.output o).tail = x.tail + 1

/-- An uncorrectable error of a TCM poisons its doubleword, is counted and logged, with vector 9; a corrected one is counted and logged only;
a core's parity error fences the core, whose launches end (R446 to R448, Table 16.5). -/
def Obligations.StorageErrors : Prop :=
  (∀ (s : State) (core off : Nat) (fixed : Bool), yields (exec (.storageError (.tcm core off fixed)) s) fun t =>
    let key := 2 * 2 ^ 32 + core
    t.mgmt.errors.find key = some ((s.mgmt.errors.find key).getD 0 + 1) ∧ t.mgmt.rasTail = s.mgmt.rasTail + 1 ∧
    (∃ l, t.sent = s.sent ++ l ++ [.vector 9]) ∧ (fixed = true → s.poison = [] → t.poison = []) ∧
    (fixed = false → s.mgmt.rasbase < 2 ^ 47 → (t.poison.find (tcmKey core off / 8)).isSome = true)) ∧
  ∀ (s : State) (core : Nat), (s.core core).fenced = false → yields (exec (.storageError (.coreParity core)) s) fun t =>
    (t.core core).fenced = true ∧ (t.core core).slots = [] ∧ (t.core core).rq = [] ∧ t.mgmt.replace = true

/-- Ownership: CLAIM succeeds when there is no owner or the claimant is the one offered to, while its offer is open, and else counts in DENIED; claims
of one clk are decided together, the board controller's first, then the host's, then the fabric manager's; the owner alone may OFFER and
RELEASE; an offer ends after 100 ms, and ownership when the owner's path has been down for 10 ms (R437, R438). -/
def Claims.OwnershipEvents : Prop :=
  let alone := fun s : State => ∀ t b l, s.mgmt.claims = some (t, b, l) → t ≠ s.clk
  let more := fun n : Nat => min 0xFFFF (n + 1)
  (∀ (s : State) (m : Master), let p := masterCode m
    let opened := s.mgmt.offer = p ∧ s.clk < s.mgmt.offerAt + 300000000
    (alone s → s.mgmt.owner = 0 ∨ opened → yields (exec (.mgmtClaim m) s) fun t => t.mgmt.owner = p ∧ t.mgmt.offer = 0 ∧
      t.mgmt.denied = s.mgmt.denied ∧ t.mem = s.mem) ∧
    (alone s → s.mgmt.owner ≠ 0 → ¬opened → yields (exec (.mgmtClaim m) s) fun t => t.mgmt.owner = s.mgmt.owner ∧ t.mgmt.offer = s.mgmt.offer ∧
      t.mgmt.denied = more s.mgmt.denied ∧ t.mem = s.mem ∧ t.sent = s.sent) ∧
    (∀ q, s.mgmt.owner = p → yields (exec (.mgmtOffer m q) s) fun t => t.mgmt.offer = q % 4 ∧ t.mgmt.offerAt = s.clk ∧ t.mgmt.owner = p) ∧
    (∀ q, s.mgmt.owner ≠ p → exec (.mgmtOffer m q) s = .next (denied s)) ∧
    (s.mgmt.owner = p → yields (exec (.mgmtRelease m) s) fun t => t.mgmt.owner = 0 ∧ t.mgmt.offer = 0) ∧
    (s.mgmt.owner ≠ p → exec (.mgmtRelease m) s = .next (denied s))) ∧
  (∀ (s : State) (m n : Master), m ≠ n → alone s → s.mgmt.owner = 0 → yields (exec (.mgmtClaim m) s) fun t =>
    yields (exec (.mgmtClaim n) t) fun u => u.mgmt.denied = more s.mgmt.denied ∧
      u.mgmt.owner = if m = .board ∨ n = .board then masterCode .board else masterCode .host) ∧
  (∀ s : State, s.mgmt.offer ≠ 0 →
    (s.mgmt.offerAt + 300000000 ≤ s.clk → yields (exec .mgmtOfferExpiry s) fun t => t.mgmt.offer = 0 ∧ t.mgmt.owner = s.mgmt.owner) ∧
    (s.clk < s.mgmt.offerAt + 300000000 → exec .mgmtOfferExpiry s = .next s)) ∧
  ∀ (s : State) (n : Nat), s.mgmt.owner ≠ 0 →
    (30000000 ≤ n → yields (exec (.mgmtOwnerPathDown n) s) fun t => t.mgmt.owner = 0) ∧
    (n < 30000000 → exec (.mgmtOwnerPathDown n) s = .next s)

/-- A management write by any other master changes nothing but the count of denials (R437). -/
def Claims.OwnerAlone : Prop :=
  ∀ (s : State) (m : Master) (i : Instr), s.mgmt.owner ≠ masterCode m →
    (i = .attestGo m ∨ (∃ k, i = .keyLoad m k) ∨ (∃ k, i = .keyErase m k) ∨ (∃ v, i = .fenceGo m v) ∨ i = .drainSet m ∨ i = .drainClear m ∨
      (∃ p v, i = .partcfgWrite m p v) ∨ (∃ d v, i = .slicecfgWrite m d v) ∨ (∃ o w v, i = .outcfgWrite m o w v) ∨
      (∃ d o v, o % 8 = 0 ∧ i = .configWrite m (some d) o v) ∨
      ∃ o v, o % 8 = 0 ∧ (o = 0x10 → v.getLsbD 4 = false) ∧ i = .configWrite m none o v) →
    exec i s = .next (denied s)

/-- The owner's writes: the attestation starts when its destination is allowed and signatures are left, and ends with its count one more; a
key slot is loaded, with what KEYDATA unwraps to under the last report's key, or erased; a report is complete once its writes perform, which wait for
the device's earlier ones and for the host; draining is set, completes after 4 idle µs (idleness is looked at by events: log 62), and is cleared before that; FENCE fences (R443 to R445, R448, R450). -/
def Claims.OwnerWrites : Prop :=
  (∀ (s : State) (m : Master), s.mgmt.owner = masterCode m →
    (s.mgmt.attBusy = false → s.mgmt.attdest < Config.hbmBytes → (s.mgmt.attdest < Config.firmwareLo ∨ Config.firmwareHi < s.mgmt.attdest) →
      yields (exec (.attestGo m) s) fun t => t.mem = s.mem ∧
        (s.mgmt.aseq < Config.hssSignatures → t.mgmt.attBusy = true ∧ t.mgmt.attErr = false)) ∧
    (∀ slot, yields (exec (.keyLoad m slot) s) fun t => bitAt t.mgmt.keycmd 13 = true ∧ match Config.unwrapKey s.mgmt.keydata (reportKey s.mgmt.aseq) with
      | some k => t.mgmt.keys.find slot = some k ∧ bitAt t.mgmt.keycmd 14 = false
      | none => t.mgmt.keys = s.mgmt.keys ∧ bitAt t.mgmt.keycmd 14 = true) ∧
    (∀ slot, yields (exec (.keyErase m slot) s) fun t => t.mgmt.keys.find slot = none ∧ bitAt t.mgmt.keycmd 14 = false) ∧
    (∀ core, core < 6144 → (s.core core).fenced = false → yields (exec (.fenceGo m (word (2 ^ 14 + core))) s) fun t =>
      (t.core core).fenced = true ∧ t.mgmt.replace = true) ∧
    (s.mgmt.draining = false → yields (exec (.drainSet m) s) fun t => t.mgmt.draining = true ∧ t.mgmt.idleSince = none) ∧
    (s.mgmt.drained = false → yields (exec (.drainClear m) s) fun t => t.mgmt.draining = false) ∧
    (s.mgmt.drained = true → exec (.drainClear m) s = .next s)) ∧
  (∀ s : State, s.mgmt.attBusy = true →
    (s.devWait = [] → (∀ x ∈ (report s).zipIdx, devMayWrite s (lineOf (s.mgmt.attdest + x.2)) = true) →
      yields (exec .attestComplete s) fun t => t.mgmt.attBusy = false ∧ t.mgmt.aseq = s.mgmt.aseq + 1) ∧
    (s.devWait ≠ [] → yields (exec .attestComplete s) fun t => t.mgmt = s.mgmt ∧ t.mem = s.mem)) ∧
  ∀ s : State, s.mgmt.draining = true → s.mgmt.drained = false →
    (packageIdle s = false → yields (exec .drainComplete s) fun t => t.mgmt.drained = false ∧ t.mgmt.idleSince = none) ∧
    (packageIdle s = true → s.mgmt.idleSince = none → yields (exec .drainComplete s) fun t => t.mgmt.idleSince = some s.clk ∧ t.mgmt.drained = false) ∧
    ∀ b, packageIdle s = true → s.mgmt.idleSince = some b → b + 12000 ≤ s.clk → yields (exec .drainComplete s) fun t =>
      t.mgmt.drained = true ∧ ∀ p, (portOf t p).en = false

/-- The configuration words: a PARTCFG that keeps the rules of R350 is stored, and has the steal rings loaded anew, another is refused whole (what
counts as work on a die is the model's reading: log 63 and 95); SLICECFG, MEMCFG with TIMING, DIRPOL, the CAP of PWRCAP and the output words take
the nearest value of their ranges (R349, R350, R401, R407, R434). -/
def Claims.ConfigWrites : Prop :=
  ∀ (s : State) (m : Master), s.mgmt.owner = masterCode m →
    (∀ p v, let new := v &&& 0x81FF7FFFFFFFFF3F
      let ok := partsOk (fun q => if q == p then new else (s.part q).cfg) = true ∧
        ∀ d, d < 6 → bitAt (partMembers (s.part p).cfg ^^^ partMembers new) d = true → dieEmpty s d = true
      (ok → yields (exec (.partcfgWrite m p v) s) fun t => (t.part p).cfg = new ∧ (∀ q, q ≠ p → t.part q = s.part q) ∧ t.mem = s.mem ∧
        (new ≠ (s.part p).cfg → ∀ c, (t.core c).ring = none ∧ (t.core c).ringPos = 0)) ∧
      (¬ok → exec (.partcfgWrite m p v) s = .next s)) ∧
    (∀ d v, yields (exec (.slicecfgWrite m d v) s) fun t => t.mem = s.mem ∧ bits (t.die d).slicecfg 2 0 = min 4 (bits v.toNat 2 0) ∧
      bits (t.die d).slicecfg 14 8 = min 64 (bits v.toNat 14 8) ∧ bits (t.die d).slicecfg 19 16 = min 8 (bits v.toNat 19 16)) ∧
    (∀ o v, yields (exec (.outcfgWrite m o 0 v) s) fun t => t.mem = s.mem ∧ bits (t.output o).w0 31 0 = max 100000 (bits v.toNat 31 0) ∧
      bits (t.output o).w0 50 32 = bits v.toNat 50 32 ∧ bits (t.output o).w0 63 62 = bits v.toNat 63 62 ∧ (t.output o).frozen = none) ∧
    (∀ o v, yields (exec (.outcfgWrite m o 1 v) s) fun t => (t.output o).w1 = v.toNat ∧ (t.output o).w0 = (s.output o).w0) ∧
    (∀ o v, yields (exec (.outcfgWrite m o 2 v) s) fun t =>
      (t.output o).w2 = bits v.toNat 46 12 * 4096 + min 12 (max 4 (bits v.toNat 3 0)) ∧ (t.output o).w0 = (s.output o).w0) ∧
    (∀ v, yields (exec (.configWrite m none 0x30 v) s) fun t => t.mem = s.mem ∧
      t.mgmt = { s.mgmt with pwrcap := min 3000 (max 500 (bits v.toNat 11 0)) + bits v.toNat 12 12 * 2 ^ 12 }) ∧
    (∀ d v, yields (exec (.configWrite m (some d) 0x310 v) s) fun t => t.mem = s.mem ∧ bits (t.die d).dirpol 15 0 = bits v.toNat 15 0 ∧
      bits (t.die d).dirpol 31 16 = max 1 (bits v.toNat 31 16) ∧ bits (t.die d).dirpol 34 32 = min 4 (max 1 (bits v.toNat 34 32))) ∧
    (∀ v, yields (exec (.configWrite m none 0 v) s) fun t => t.fabnum = v.toNat % 64 ∧ t.mem = s.mem ∧ t.mgmt = s.mgmt) ∧
    (∀ d v, yields (exec (.configWrite m (some d) 0x308 v) s) fun t => t.mem = s.mem ∧
      (t.die d).memcfg = max 1 (bits v.toNat 11 4) * 16 + bits v.toNat 0 0)

/-- What any master reads: a word that its owner wrote reads as it was taken, OUTCFG with FREEZE clear, MGMTOWN with the owner, the offer and the
denials that CLAIM and OFFER leave, HEALTH with BOOTSTAT and DRAINING, RESOURCES as MFSR 0x221 gives it, STAYPORT with the state that its
link reported, and WAYSTAT with the ways that are disabled or scratch; an offset that is no doubleword's reads zero (R401, R408, R437, R440,
R449; the zero is the model's choice: log 114). -/
def Claims.ConfigReads : Prop :=
  (∀ (s : State) (m : Master), s.mgmt.owner = masterCode m →
    (∀ v, yields (exec (.configWrite m none 0 v) s) fun t => configRead t none 0 = word (v.toNat % 64)) ∧
    (∀ v, yields (exec (.configWrite m none 0x30 v) s) fun t =>
      configRead t none 0x30 = word (min 3000 (max 500 (bits v.toNat 11 0)) + bits v.toNat 12 12 * 2 ^ 12)) ∧
    (∀ d v, yields (exec (.slicecfgWrite m d v) s) fun t => configRead t (some d) 0x300 =
      word (min 4 (bits v.toNat 2 0) + min 64 (bits v.toNat 14 8) * 2 ^ 8 + min 8 (bits v.toNat 19 16) * 2 ^ 16)) ∧
    (∀ o v, o < 16 → yields (exec (.outcfgWrite m o 0 v) s) fun t => ∃ w, configRead t none (0x400 + 32 * o) = word w ∧ w < 2 ^ 64 ∧
      bits w 31 0 = max 100000 (bits v.toNat 31 0) ∧ bits w 50 32 = bits v.toNat 50 32 ∧ bitAt w 52 = false ∧
      bits w 63 62 = bits v.toNat 63 62) ∧
    (∀ q, s.mgmt.denied < 2 ^ 16 → yields (exec (.mgmtOffer m q) s) fun t =>
      configRead t none 0x10 = word (masterCode m + q % 4 * 4 + s.mgmt.denied * 2 ^ 16)) ∧
    (s.mgmt.draining = false → s.mgmt.bootstat < 2 ^ 8 → yields (exec (.drainSet m) s) fun t =>
      (configRead t none 0x18).extractLsb' 0 8 = BitVec.ofNat 8 s.mgmt.bootstat ∧ (configRead t none 0x18).getLsbD 11 = true ∧
        configRead t none 0x28 = 1)) ∧
  (∀ (s : State) (p st lanes : Nat), p < 18 → st < 4 → lanes < 16 → yields (exec (.stayPortStateChange p st lanes) s) fun t =>
    configRead t none (0x100 + 8 * p) = word (bit (portOf s p).en + st * 2 + lanes * 2 ^ 8)) ∧
  (∀ (s : State) (d p line w : Nat), d < 6 → p < 48 → w < 12 → yields (exec (.storageError (.slice (48 * d + p) w line false)) s) fun t =>
    (configRead t (some d) (0x318 + 8 * p)).getLsbD w = true) ∧
  (∀ (s : State) (c : Issue), sysRead s c 0x221 = configRead s none 0x20) ∧
  ∀ (s : State) (die : Option Nat) (off : Nat), off % 8 ≠ 0 → configRead s die off = 0

/-- SNAP writes a record for each core of the die and lets its writer go on, once the host holds none of its lines and no earlier write of the device
waits; the power controller acts every 10 µs, for a hot die by 8 levels more, at most 48, raises vector 11 where it finds a junction at 95 °C
that was below, and trips at 110 °C; an alert raises vector 11 (R425, R451, R452, R455). -/
def Claims.PackageEvents : Prop :=
  (∀ (s : State) (x : Tid) (core : Nat) (th : Thr) (v : Word), isThread s x core th → th.wait = .sysop 0x211 v → s.devWait = [] →
    (∀ i, i < 1024 → devMayWrite s (lineOf (keep v 46 12 + 64 * i)) = true) →
    yields (exec (.snap x) s) fun t => nowWaits t core th.uid .none ∧
      (t.die (dieOf core)).snapSeq = ((s.die (dieOf core)).snapSeq + 1) % 2 ^ 32 ∧ t.sent = s.sent ++ [.vector 15]) ∧
  (∀ (s : State) (d level junction : Nat), (∀ b, (s.die d).lastTick = some b → b + 30000 ≤ s.clk) →
    let base := if bitAt s.mgmt.pwrcap 12 then level else 0
    (junction < 110 → yields (exec (.powerControlTick d level junction) s) fun t => (t.die d).junction = junction ∧
      (t.die d).lastTick = some s.clk ∧ t.mem = s.mem ∧ ((s.die d).junction < 95 → 95 ≤ junction → .vector 11 ∈ t.sent) ∧
      (100 ≤ junction → (t.die d).level = min 48 (max base ((s.die d).level + 8))) ∧ (junction < 98 → (t.die d).level = base)) ∧
    (110 ≤ junction → yields (exec (.powerControlTick d level junction) s) fun t => t.mgmt.thermtrip = true ∧ t.mgmt.halted = true)) ∧
  ∀ (s : State) (d : Nat), ((s.die d).junction < 95 → yields (exec (.thermalAlert d) s) fun t => (t.die d).junction = 95 ∧
      t.sent = s.sent ++ [.vector 11] ∧ t.mem = s.mem) ∧
    (95 ≤ (s.die d).junction → exec (.thermalAlert d) s = .next s)

/-- RESET completes: it leaves the package as it is after reset, but for the clk, the environment and the fixed store, with bring-up at its first
step; or, after a thermal trip, held. Bring-up goes through the steps of Table 16.3 in order, each of which leaves BOOTSTAT at the next or at its
code, with the package halted: one a clk is the model's choice (log 97), and so is what the areas' pages are. Its last step leaves BOOTSTAT 7, with one
supervisor wave in slot 0 (the slot is the model's choice: log 97) of each translation service core and of each die's helm core, the highest core that
is not fenced. That the count of reports goes on over RESET is the model's reading (log 64). At 110 °C the package is held, and RESET does
not release it (R13, R344, R351, R440, R441, R452). -/
def Obligations.ResetEvents : Prop :=
  (∀ s : State, yields (exec .reset s) fun t => t.reqs = [] ∧ t.launches = [] ∧ t.msgs = [] ∧ t.mem = [] ∧ t.cores = State.reset.cores ∧
    t.clusters = State.reset.clusters ∧ atRest t ∧ t.clk = s.clk ∧ t.mgmt.thermtrip = s.mgmt.thermtrip ∧ t.mgmt.aseq = s.mgmt.aseq ∧
    t.mgmt.owner = 0 ∧ t.mgmt.bootstat = 1 ∧ t.mgmt.booting = true ∧ t.mgmt.halted = s.mgmt.thermtrip) ∧
  (∀ s : State, s.mgmt.booting = true → s.mgmt.halted = false → let b := (bootStep s).mgmt
    let fails := fun code : Nat => b.bootstat = code ∧ b.halted = true ∧ b.ready = s.mgmt.ready
    let goesOn := b.bootstat = s.mgmt.bootstat + 1 ∧ b.halted = false
    (s.mgmt.bootstat = 1 → goesOn) ∧
    (s.mgmt.bootstat = 2 → (imageRuns 0 = false → fails 0x12) ∧ (imageRuns 0 = true → goesOn)) ∧
    (s.mgmt.bootstat = 3 → (Config.stepPasses 3 = false → fails 0x13) ∧ (Config.stepPasses 3 = true → goesOn)) ∧
    (s.mgmt.bootstat = 4 → (slicesShort (selfTest s) = true → b.bootstat = 0x14 ∧ b.halted = true) ∧
      (slicesShort (selfTest s) = false → goesOn)) ∧
    (s.mgmt.bootstat = 5 → goesOn ∧ ∀ c, c < 6528 → Config.firmwareLo ≤ ((bootStep s).core c).spillBase.toNat ∧
      ((bootStep s).core c).spillBase.toNat ≤ Config.firmwareHi) ∧
    (s.mgmt.bootstat = 6 → imageRuns 1 = false ∨ imageRuns 2 = false → fails 0x16)) ∧
  (∀ s : State, s.mgmt.booting = true → s.mgmt.halted = false → s.mgmt.bootstat = 6 → imageRuns 1 = true → imageRuns 2 = true →
    let t := bootStep s
    t.mgmt.bootstat = 7 ∧ t.mgmt.ready = true ∧ t.mgmt.booting = false ∧
    let boots := fun core : Nat => ∃ w, (t.core core).slots.find 0 = some w ∧ w.t.sup = true ∧ w.t.lid = none ∧ w.t.wait = .none ∧
      w.pc = Config.firmwareEntry core
    (∀ k, k < 384 → (s.core (6144 + k)).fenced = false → boots (6144 + k)) ∧
    ∀ d c, d < 6 → chooseHelm s d = some c → boots c ∧ bits (t.die d).helmcore 12 0 = c) ∧
  (∀ s : State, s.mgmt.booting = false ∨ s.mgmt.halted = true → bootStep s = s) ∧
  ∀ (s : State) (d : Nat), yields (exec (.thermtrip d) s) fun t => t.mgmt.thermtrip = true ∧ t.mgmt.halted = true ∧ t.mem = [] ∧
    t.cores = State.reset.cores ∧ (t.die d).junction = 110

/-! ## Rules stated whole -/

/-- VHASH on 32-bit elements (R262). -/
def Claims.vhash32 (a b : BitVec 32) : BitVec 32 :=
  let h := a ^^^ (b * 0x9E3779B1)
  let h := (h ^^^ (h >>> 16)) * 0x85EBCA6B
  let h := (h ^^^ (h >>> 13)) * 0xC2B2AE35
  h ^^^ (h >>> 16)

/-- VHASH on 64-bit elements (R262). -/
def Claims.vhash64 (a b : BitVec 64) : BitVec 64 :=
  let h := a ^^^ (b * 0x9E3779B97F4A7C15)
  let h := (h ^^^ (h >>> 33)) * 0xFF51AFD7ED558CCD
  let h := (h ^^^ (h >>> 33)) * 0xC4CEB9FE1A85EC53
  h ^^^ (h >>> 33)

/-- VHASH whole: its encoding, its widths, the hash in each active element and nothing else, no flag raised; for each fixed b it is a
bijection of a, and it takes 0 and 0 to 0 (R262). -/
def Obligations.VectorHash : Prop :=
  (∀ (vd va vb : BitVec 5) (ms : BitVec 6) (et : BitVec 3), encode (.vhash vd va vb ms et) = [0#33 ++ 0x7E#7 ++ vd ++ va ++ vb ++ ms ++ et] ∧
    (wellFormed (.vhash vd va vb ms et) = true ↔ et = 2 ∨ et = 6 ∨ et = 3 ∨ et = 7)) ∧
  (∀ (s : State) (c : Issue) (vd va vb : BitVec 5) (ms : BitVec 6) (et : BitVec 3), let i := Instr.vhash vd va vb ms et
    c.entry = none → runs s c i 0 →
    (et = 2 ∨ et = 6 → yields (exec i s) fun t => completed s c 0 t ∧ elementsWritten s c vd.toNat 32
      (fun k => (Claims.vhash32 (BitVec.ofNat 32 (elem 32 (c.vreg va.toNat) k)) (BitVec.ofNat 32 (elem 32 (c.vreg vb.toNat) k))).toNat) t) ∧
    (et = 3 ∨ et = 7 → yields (exec i s) fun t => completed s c 0 t ∧ elementsWritten s c vd.toNat 64
      (fun k => (Claims.vhash64 (BitVec.ofNat 64 (elem 64 (c.vreg va.toNat) k)) (BitVec.ofNat 64 (elem 64 (c.vreg vb.toNat) k))).toNat) t)) ∧
  (∀ b, Function.Bijective fun a => Claims.vhash32 a b) ∧ (∀ b, Function.Bijective fun a => Claims.vhash64 a b) ∧
  Claims.vhash32 0 0 = 0 ∧ Claims.vhash64 0 0 = 0

/-- Level field k of a WID by the widths of c181 (R192). -/
def Claims.levelField (wid widths : Word) (k : Nat) : Nat :=
  let w := fun j => bits widths.toNat (8 * j + 7) (8 * j)
  if 5 < k then 0 else wid.toNat / 2 ^ ((List.range k).map w).sum % 2 ^ w k

/-- QWIDTH whole: its encoding; level field k of the WID in sa by the widths of c181, zero for k above 5; nothing else changes (R192). The
example of the rule: k = 3 gives 342, and k = 0 gives 7. -/
def Obligations.QWidth : Prop :=
  (∀ (sd sa : BitVec 6) (b : BitVec 8), encode (.qwidth sd sa b) = [0#2 ++ 0x0C#7 ++ sd ++ sa ++ b ++ 0#4 ++ 0#31]) ∧
  (∀ (s : State) (c : Issue) (sd sa : BitVec 6) (b : BitVec 8), runs s c (.qwidth sd sa b) 0 →
    yields (exec (.qwidth sd sa b) s) fun t => completed s c 0 t ∧ wroteReg s c sd.toNat
      (BitVec.ofNat 64 (Claims.levelField (c.reg sa.toNat) (constWord s c.core (s.issThr c) 181) (selVal s c b).toNat)) t) ∧
  Claims.levelField 0xAB5C7 0x0A030206 3 = 342 ∧ Claims.levelField 0xAB5C7 0x0A030206 0 = 7

/-- Among the owners of a replicated treelet, in the directory's order, the ray goes to owner VHASH32(f8[31:0], TOP) mod k: from the
directory, and from a core whose location cache names them (R284). -/
def Obligations.ReplicaChoice : Prop :=
  let choice := fun (f : Fibre) (l : List Nat) =>
    l.getD ((Claims.vhash32 ((fibreGet f 8).setWidth 32) (BitVec.ofNat 32 (fibTop f))).toNat % l.length) 0
  (∀ (s : State) (p : Nat) (h : HopMsg) (e : DirEntry), (s.slice p).hops = [h] → launchDead s h.a.t = false → h.id = fibTop h.a.fib →
    dirEntry s h.part h.tbase h.id = some e → e.owners ≠ [] →
    yields (exec (.directoryHop p) s) fun t => underWay t .fibre (dirNode h.id) (.core (choice h.a.fib e.owners)) 0 (.hop h.a)) ∧
  ∀ (s : State) (c : Issue) (e p tb : Nat) (x : RqEntry) (l : List Nat), clear s c .hop → c.entry = some e →
    (s.core c.core).rq.find e = some x → fibTop x.fib < (sceneOf s x.t).getD 1 0 % 2 ^ 24 → writesOut s x.t.uid = false → lastOp s →
    s.partOf c.core = some p → tbaseOf s x.t = some tb → l ≠ [] →
    (s.core c.core).locs.find? (fun y => y.1 == tb && y.2.1 == fibTop x.fib) = some (tb, fibTop x.fib, l) →
    yields (exec .hop s) fun t => ∃ y : Away, y.t.lid = x.t.lid ∧
      y.fib = { x.fib with pc := c.next, seq := (x.fib.seq + 1) % 2 ^ 32 } ∧
      underWay t .fibre (.core c.core) (.core (choice x.fib l)) 0 (.hop y)

/-- The checks of a fetch, in their order; a failing one traps at the target with TRAPPC holding it (R187). -/
def Claims.FetchChecks : Prop :=
  ∀ (u : State) (core slot : Nat) (pc : Word) (c : Issue), slotPc u core slot = some pc →
    let len := if (codeWord u core pc.toNat).extractLsb' 62 2 = 3 then 32 else 8
    let o := pc.toNat - 0xFFFFFFFF00000000
    let outsideCode := pc.toNat < 0xFFFFFFFF00000000 ∨ 0xFFFFFFFF00060000 ≤ pc.toNat ∨ o < 0x600 ∨ privSize (u.core core).lsplit ≤ o
    let inBlock := pc.toNat % 32 ≠ 0 ∧ ((codeWord u core (pc.toNat / 32 * 32)).extractLsb' 62 2 = 3 ∨ len = 32)
    issueOf u core slot pc len = some c →
    let traps := fun cause => fetchBundle u core slot = takeTrap { u with issue := some c, todo := [] } c ⟨cause, pc, 0, 0, 0, false⟩
    (pc.toNat % 8 ≠ 0 → traps cALIGN) ∧ (pc.toNat % 8 = 0 → outsideCode → traps cADDRESS) ∧
    (pc.toNat % 8 = 0 → ¬outsideCode → inBlock → traps 1)

/-- TRET's encoding: its scalar slot is zero but for op, its vector slot is VNOP, and no other dual word with its op is a bundle (R204). -/
def Claims.TrapReturnEncoding : Prop :=
  encode .tret = [0x0400000000000000] ∧
  ∀ w x y z : Word, w.extractLsb' 62 2 = 0 → w.extractLsb' 55 7 = 8 →
    ((∃ b, decodeBundle w x y z = .ok b) ↔ w = 0x0400000000000000)

/-! ## Statements of several parts -/

/-- A step runs the operations of the bundle that it fetches and decodes. -/
def Obligations.StepRunsBundle : Prop :=
  Claims.StepRunsDecoded ∧
  Claims.StepRunsBoth

/-- A bundle that something stops has no effect; its trap comes before any. -/
def Obligations.BundleIssuesWhole : Prop :=
  Claims.StoppedBundleHasNoEffect ∧
  Claims.TrapBeforeEffect

/-- What reset leaves. -/
def Obligations.ResetState : Prop :=
  Claims.ResetValues ∧
  Claims.ResetIsAtRest

/-- TRET: its encoding, its effect, where it is ILLEGAL, and the fetch at a TRAPPC that fails the checks. -/
def Obligations.TrapReturns : Prop :=
  Claims.TrapReturn ∧
  Claims.TrapReturnIllegal ∧
  Claims.TrapReturnEncoding ∧
  Claims.FetchChecks

/-- TRAP, BRK and the floating-point exception. -/
def Obligations.TrapsTaken : Prop :=
  Claims.TrapAndBreak ∧
  Claims.TrapAndBreakComplete ∧
  Claims.FlagTrap ∧
  Claims.OwedFlagTrap ∧
  Claims.SingleStepHalts

/-- Control transfer completes with its target as the pc, and the fetch there is checked. -/
def Obligations.FetchAndTransfer : Prop :=
  Claims.FetchChecks ∧
  Claims.ControlTransfers ∧
  Claims.NopsAdvance

/-- MFSR and MTSR complete. -/
def Obligations.SystemRegisterAccess : Prop :=
  Claims.SystemRegisterRead ∧
  Claims.SystemRegisterWrite

/-- What system registers read back, fibres, and privilege. -/
def Obligations.SystemRegisterRules : Prop :=
  Claims.SystemRegisterReadBack ∧
  Claims.FibreSystemRegisters ∧
  Claims.SystemRegisterPrivilege

/-- Results and frame of the vector integer operations and moves. -/
def Obligations.VectorIntegerAndMoves : Prop :=
  Claims.VectorIntegerResults ∧
  Claims.VectorMoveResults

/-- Results, flags and lanes of the vector floating-point operations. -/
def Obligations.VectorFloats : Prop :=
  Claims.VectorFloatResults ∧
  Claims.VectorFloatLanes

/-- Comparisons, whole-register results, VEXT. -/
def Obligations.VectorMasksAndWholes : Prop :=
  Claims.VectorMasks ∧
  Claims.VectorWholeResults ∧
  Claims.VectorExtract

/-- Reductions by the fixed tree, scans by doubling. -/
def Obligations.ReductionsAndScans : Prop :=
  Claims.Reductions ∧
  Claims.Scans

/-- Scalar loads, beside the core and from elsewhere. -/
def Obligations.ScalarLoads : Prop :=
  Claims.LocalLoads ∧
  Claims.LocalAcquire ∧
  Claims.SharedLoads

/-- Scalar stores: the bytes they store, their waits, the store buffer. -/
def Obligations.ScalarStores : Prop :=
  Claims.LocalStores ∧
  Claims.LocalReleaseWaits ∧
  Claims.SharedStores

/-- FENCE, PREF and WAITLINE. -/
def Obligations.FencesAndWatches : Prop :=
  Claims.Fences ∧
  Claims.Prefetches ∧
  Claims.WaitLines

/-- Scalar atomics and what they write. -/
def Obligations.ScalarAtomics : Prop :=
  Claims.ScalarAtomics ∧
  Claims.AtomicFunctions

/-- Vector loads and stores. -/
def Obligations.VectorMemory : Prop :=
  Claims.VectorLocalLoads ∧
  Claims.VectorSharedLoads ∧
  Claims.VectorLocalStores ∧
  Claims.VectorSharedStores

/-- Arriving at a barrier, and its release. -/
def Obligations.Barriers : Prop :=
  Claims.BarrierArrivals ∧
  Claims.BarriersComplete ∧
  Claims.BarrierEvents ∧
  Claims.BarrierRelease ∧
  Claims.DevelopMerge

/-- SEMW, SEMS and the events of semaphores. -/
def Obligations.Semaphores : Prop :=
  Claims.SemaphoreWait ∧
  Claims.SemaphoreSet ∧
  Claims.SemaphoreEvents

/-- Accumulator moves, matrix steps and their results. -/
def Obligations.MatrixState : Prop :=
  Claims.AccumulatorMoves ∧
  Claims.MatrixStart ∧
  Claims.MatrixResults

/-- SPAWN, RGEN and VRAYGEN. -/
def Obligations.FibreCreation : Prop :=
  Claims.FibreCreation ∧
  Claims.RayCreation

/-- FEND, FYIELD, the quantum, arrivals and refetches. -/
def Obligations.FibreLife : Prop :=
  Claims.FibreEnds ∧
  Claims.FibreQuantum ∧
  Claims.FibreMoves

/-- GO and HOP. -/
def Obligations.FibreMigration : Prop :=
  Claims.FibreGo ∧
  Claims.FibreHop

/-- HQPUSH and VHQPOP. -/
def Obligations.HitRecords : Prop :=
  Claims.HitPush ∧
  Claims.HitPop

/-- TRAV and its events. -/
def Obligations.Traversal : Prop :=
  Claims.TraversalParks ∧
  Claims.TraversalInstance ∧
  Claims.TraversalDelivers

/-- Every engine command enters its queue. -/
def Obligations.CommandIssue : Prop :=
  Claims.CommandIssue ∧
  Claims.MatrixIssue

/-- The store buffer, the home of a line, reservations, the accesses of the device itself, the undo log. -/
def Obligations.HomesAndStores : Prop :=
  Claims.StoresAndAtomicsEnd ∧
  Claims.HomeEvents ∧
  Claims.DeviceAccesses ∧
  Claims.UndoLog

/-- Task records, starts, ends and steals. -/
def Obligations.TaskAndStealEvents : Prop :=
  Claims.TaskEvents ∧
  Claims.RecordEvents ∧
  Claims.StealEvents

/-- Misses, page walks, fault records, wakes. -/
def Obligations.PagingEvents : Prop :=
  Claims.MissEvents ∧
  Claims.WalkEvents

/-- TLBWRITE and the replies to faults. -/
def Obligations.TlbAndReplies : Prop :=
  Claims.TlbEvents ∧
  Claims.FaultReplies

/-- LSPLIT, PHASEWIN, the trim table, and writes that take time. -/
def Obligations.CoreSettings : Prop :=
  Claims.CoreSettings ∧
  Claims.SlowWrites

/-- Saving and restoring slots, the debugger's requests. -/
def Obligations.Contexts : Prop :=
  Claims.ContextSaves ∧
  Claims.ContextRequests

/-- Commands start, move their bytes, commit, complete. -/
def Obligations.CommandEvents : Prop :=
  Claims.CommandEvents ∧
  Claims.CommandData ∧
  Claims.McasCommit ∧
  Claims.CommandEnd

/-- Launches: checks, fills, completion. -/
def Obligations.Launches : Prop :=
  Claims.LaunchChecks ∧
  Claims.LaunchFills

/-- Slices and the mesh. -/
def Obligations.SliceAndMesh : Prop :=
  Claims.SliceEvents ∧
  Claims.MeshDelivery

/-- The host port and the stay fabric. -/
def Obligations.HostAndStay : Prop :=
  Claims.HostEvents ∧
  Claims.StayEvents

/-- The frame clock, SNAP, power and heat. -/
def Obligations.FrameAndPackage : Prop :=
  Claims.FrameEvents ∧
  Claims.PackageEvents

/-- Ownership: the owner alone writes, any master reads. -/
def Obligations.Ownership : Prop :=
  Claims.OwnershipEvents ∧
  Claims.OwnerAlone ∧
  Claims.ConfigReads

/-- What the owner's writes do. -/
def Obligations.OwnerWrites : Prop :=
  Claims.OwnerWrites ∧
  Claims.ConfigWrites
end

