-- ==== Sys2Proof/Laws/Decode.lean ====
section
/-!
SUPPORT. What the encoder writes, the decoder's field readers give back. Each lemma is about one field; Laws/PerInstr.lean puts them
together for each instruction.
-/
namespace Sys2Proof

/-! ## Fields of appended words -/

theorem ext_lo {n m k : Nat} (a : BitVec n) (b : BitVec m) (j : Nat) (h : j + k ≤ m := by decide) :
    (a ++ b).extractLsb' j k = b.extractLsb' j k := by
  ext i hi
  rw [BitVec.getElem_extractLsb', BitVec.getElem_extractLsb', BitVec.getLsbD_append, if_pos (by omega)]

theorem ext_hi {n m k : Nat} (a : BitVec n) (b : BitVec m) (j : Nat) (h : m ≤ j := by decide) :
    (a ++ b).extractLsb' j k = a.extractLsb' (j - m) k := by
  ext i hi
  rw [BitVec.getElem_extractLsb', BitVec.getElem_extractLsb', BitVec.getLsbD_append, if_neg (by omega)]
  congr 1; omega

theorem ext_all {n : Nat} (a : BitVec n) : a.extractLsb' 0 n = a := by ext i hi; simp

theorem ext_zero {n k : Nat} (j : Nat) : (0 : BitVec n).extractLsb' j k = 0 := by ext i hi; simp

theorem bit_hi {n m : Nat} (a : BitVec n) (b : BitVec m) (j : Nat) (h : m ≤ j := by decide) : (a ++ b).getLsbD j = a.getLsbD (j - m) := by
  rw [BitVec.getLsbD_append, if_neg (by omega)]

theorem bit_lo {n m : Nat} (a : BitVec n) (b : BitVec m) (j : Nat) (h : j < m := by decide) : (a ++ b).getLsbD j = b.getLsbD j := by
  rw [BitVec.getLsbD_append, if_pos h]

theorem bit_one (x : Bool) : (BitVec.ofBool x).getLsbD 0 = x := by cases x <;> rfl

theorem sw_lo {n m : Nat} (a : BitVec n) (h : n ≤ m := by decide) : (a.setWidth m).extractLsb' 0 n = a := by
  ext i hi; simp [BitVec.getLsbD_eq_getElem hi]; omega

theorem sw_hi {n m k : Nat} (a : BitVec n) (j : Nat) (h : n ≤ j := by decide) : (a.setWidth m).extractLsb' j k = 0 := by
  ext i hi
  have h' : a.getLsbD (j + i) = false := BitVec.getLsbD_of_ge _ _ (by omega)
  simp [h']

theorem sw_sw {n m : Nat} (a : BitVec n) (h : n ≤ m) : (a.setWidth m).setWidth n = a := by
  ext i hi; simp [show i < m by omega, BitVec.getLsbD_eq_getElem hi]

theorem sw_append {n m : Nat} (a : BitVec n) (b : BitVec m) : (a ++ b).setWidth m = b := by
  ext i hi; simp [BitVec.getLsbD_append, hi]

theorem sw_toNat {n m : Nat} (a : BitVec n) (h : n ≤ m) : (a.setWidth m).toNat = a.toNat := by
  rw [BitVec.toNat_setWidth]
  exact Nat.mod_eq_of_lt (lt_of_lt_of_le a.isLt (Nat.pow_le_pow_right (by decide) h))

/-! ## Checks -/

theorem and_ok {a b : Bool} (ha : a = true) (hb : b = true) : (a && b) = true := by rw [ha, hb]; rfl
theorem beq_ok {n : Nat} {a b : BitVec n} (h : a = b) : (a == b) = true := by rw [h]; exact beq_self_eq_true b

theorem chk_eq {c : Bool} {i j : Instr} (hc : c = true) (h : i = j) : chk c i = .ok j := by subst hc; subst h; rfl
theorem chkB_eq {c : Bool} {r : Except Reject Instr} {j : Instr} (hc : c = true) (h : r = .ok j) : chkB c r = .ok j := by
  subst hc; exact h

theorem checked_ok {j : Instr} (hw : wellFormed j = true) : checked (.ok j) = .ok j := by simp [checked, hw]
theorem checked_eq {r : Except Reject Instr} {j : Instr} (hw : wellFormed j = true) (h : r = .ok j) : checked r = .ok j := by
  rw [h]; exact checked_ok hw
theorem orElse_ok {r q : Except Reject Instr} {j : Instr} (h : r = .ok j) : orElse r q = .ok j := by rw [h]; rfl

/-! ## Fields that several instructions share -/

theorem regOf_regW (r : RegOp) : regOf (regW r) = r := by
  cases r with
  | mk reg disp =>
    show RegOp.mk ((reg ++ disp).extractLsb' 58 6) ((reg ++ disp).extractLsb' 0 58) = _
    have h1 : (reg ++ disp).extractLsb' 58 6 = reg := (ext_hi _ _ _ (by decide)).trans (ext_all _)
    have h2 : (reg ++ disp).extractLsb' 0 58 = disp := (ext_lo _ _ _ (by decide)).trans (ext_all _)
    exact congr (congrArg _ h1) h2

theorem cwVB_cword (sc : BitVec 4) (o : Ord) (k : BitVec 4) (vc vb : BitVec 6) : cwVB (cword sc o k vc vb) = vb :=
  (ext_lo _ _ _ (by decide)).trans (ext_all _)
theorem cwVC_cword (sc : BitVec 4) (o : Ord) (k : BitVec 4) (vc vb : BitVec 6) : cwVC (cword sc o k vc vb) = vc :=
  (ext_hi _ _ _ (by decide)).trans ((ext_lo _ _ _ (by decide)).trans (ext_all _))
theorem cwKind_cword (sc : BitVec 4) (o : Ord) (k : BitVec 4) (vc vb : BitVec 6) : cwKind (cword sc o k vc vb) = k :=
  (ext_hi _ _ _ (by decide)).trans ((ext_hi _ _ _ (by decide)).trans ((ext_lo _ _ _ (by decide)).trans (ext_all _)))
theorem ordOf_ordCode (o : Ord) : ordOf (ordCode o) = o := by cases o <;> rfl
theorem cwOrd_cword (sc : BitVec 4) (o : Ord) (k : BitVec 4) (vc vb : BitVec 6) : cwOrd (cword sc o k vc vb) = o := by
  have h : (cword sc o k vc vb).extractLsb' 16 2 = ordCode o :=
    (ext_hi _ _ _ (by decide)).trans ((ext_hi _ _ _ (by decide)).trans ((ext_hi _ _ _ (by decide)).trans
      ((ext_lo _ _ _ (by decide)).trans (ext_all _))))
  unfold cwOrd; rw [h]; exact ordOf_ordCode o
theorem cwScope_cword (sc : BitVec 4) (o : Ord) (k : BitVec 4) (vc vb : BitVec 6) : cwScope (cword sc o k vc vb) = sc :=
  (ext_hi _ _ _ (by decide)).trans ((ext_hi _ _ _ (by decide)).trans ((ext_hi _ _ _ (by decide)).trans
    ((ext_hi _ _ _ (by decide)).trans ((ext_lo _ _ _ (by decide)).trans (ext_all _)))))
theorem cwTop_cword (sc : BitVec 4) (o : Ord) (k : BitVec 4) (vc vb : BitVec 6) : cwTop (cword sc o k vc vb) = 0 :=
  (ext_hi _ _ _ (by decide)).trans ((ext_hi _ _ _ (by decide)).trans ((ext_hi _ _ _ (by decide)).trans
    ((ext_hi _ _ _ (by decide)).trans ((ext_hi _ _ _ (by decide)).trans (ext_all _)))))

theorem withAmo_code (k : AmoKind) (f : AmoKind → Instr) : withAmo (amoCode k) f = .ok (f k) := by cases k <;> rfl
theorem withAmof_code (k : AmofKind) (f : AmofKind → Instr) : withAmof (amofCode k) f = .ok (f k) := by cases k <;> rfl

theorem withAmo_eq {c : BitVec 4} (k : AmoKind) {f : AmoKind → Instr} {j : Instr} (hc : c = amoCode k) (h : f k = j) :
    withAmo c f = .ok j := by subst hc; rw [withAmo_code, h]
theorem withAmof_eq {c : BitVec 4} (k : AmofKind) {f : AmofKind → Instr} {j : Instr} (hc : c = amofCode k) (h : f k = j) :
    withAmof c f = .ok j := by subst hc; rw [withAmof_code, h]

section
variable (base : BitVec 6) (lax zx : Bool) (sc : BitVec 2) (k : BitVec 4) (o : BitVec 2) (scope : BitVec 4)

theorem xBase_memX : xBase (memX base lax zx sc k o scope) = base :=
  (ext_hi _ _ _ (by decide)).trans ((ext_hi _ _ _ (by decide)).trans ((ext_hi _ _ _ (by decide)).trans
    ((ext_hi _ _ _ (by decide)).trans ((ext_hi _ _ _ (by decide)).trans ((ext_hi _ _ _ (by decide)).trans (ext_all _))))))
theorem xLax_memX : xLax (memX base lax zx sc k o scope) = lax :=
  (bit_hi _ _ _ (by decide)).trans ((bit_hi _ _ _ (by decide)).trans ((bit_hi _ _ _ (by decide)).trans
    ((bit_hi _ _ _ (by decide)).trans ((bit_hi _ _ _ (by decide)).trans ((bit_lo _ _ _ (by decide)).trans (bit_one _))))))
theorem xZx_memX : xZx (memX base lax zx sc k o scope) = zx :=
  (bit_hi _ _ _ (by decide)).trans ((bit_hi _ _ _ (by decide)).trans ((bit_hi _ _ _ (by decide)).trans
    ((bit_hi _ _ _ (by decide)).trans ((bit_lo _ _ _ (by decide)).trans (bit_one _)))))
theorem xSc_memX : xSc (memX base lax zx sc k o scope) = sc :=
  (ext_hi _ _ _ (by decide)).trans ((ext_hi _ _ _ (by decide)).trans ((ext_hi _ _ _ (by decide)).trans
    ((ext_lo _ _ _ (by decide)).trans (ext_all _))))
theorem xKind_memX : xKind (memX base lax zx sc k o scope) = k :=
  (ext_hi _ _ _ (by decide)).trans ((ext_hi _ _ _ (by decide)).trans ((ext_lo _ _ _ (by decide)).trans (ext_all _)))
theorem xOrd_memX : xOrd (memX base lax zx sc k o scope) = ordOf o :=
  congrArg ordOf ((ext_hi _ _ _ (by decide)).trans ((ext_lo _ _ _ (by decide)).trans (ext_all _)))
theorem low4_memX : (memX base lax zx sc k o scope).setWidth 4 = scope := sw_append _ _
theorem low10_memX : (memX base lax zx sc 0 0 0).setWidth 10 = 0 := by
  have h : ∀ y : BitVec 10, (y ++ (0 : BitVec 4) ++ (0 : BitVec 2) ++ (0 : BitVec 4)).setWidth 10 = (0 : BitVec 10) := by
    intro y
    rw [show y ++ (0 : BitVec 4) ++ (0 : BitVec 2) ++ (0 : BitVec 4) = (y ++ (0 : BitVec 10) : BitVec 20) by
      ext i hi; simp; grind]
    exact sw_append _ _
  exact h _
theorem low13_memX : (memX base lax false 0 0 0 0).setWidth 13 = 0 := by
  have h : ∀ y : BitVec 7, (y ++ BitVec.ofBool false ++ (0 : BitVec 2) ++ (0 : BitVec 4) ++ (0 : BitVec 2) ++ (0 : BitVec 4)).setWidth 13 = (0 : BitVec 13) := by
    intro y
    rw [show y ++ BitVec.ofBool false ++ (0 : BitVec 2) ++ (0 : BitVec 4) ++ (0 : BitVec 2) ++ (0 : BitVec 4) = (y ++ (0 : BitVec 13) : BitVec 20) by
      ext i hi; simp; grind]
    exact sw_append _ _
  exact h _
theorem low14_memX : (memX base false false 0 0 0 0).setWidth 14 = 0 := by
  have h : ∀ y : BitVec 6, (y ++ BitVec.ofBool false ++ BitVec.ofBool false ++ (0 : BitVec 2) ++ (0 : BitVec 4) ++ (0 : BitVec 2) ++ (0 : BitVec 4)).setWidth 14 = (0 : BitVec 14) := by
    intro y
    rw [show y ++ BitVec.ofBool false ++ BitVec.ofBool false ++ (0 : BitVec 2) ++ (0 : BitVec 4) ++ (0 : BitVec 2) ++ (0 : BitVec 4) = (y ++ (0 : BitVec 14) : BitVec 20) by
      ext i hi; simp; grind]
    exact sw_append _ _
  exact h _

variable (stride : BitVec 6)

theorem xBase_strideX : xBase (strideX base lax stride) = base :=
  (ext_hi _ _ _ (by decide)).trans ((ext_hi _ _ _ (by decide)).trans ((ext_hi _ _ _ (by decide)).trans
    ((ext_hi _ _ _ (by decide)).trans (ext_all _))))
theorem xLax_strideX : xLax (strideX base lax stride) = lax :=
  (bit_hi _ _ _ (by decide)).trans ((bit_hi _ _ _ (by decide)).trans ((bit_hi _ _ _ (by decide)).trans
    ((bit_lo _ _ _ (by decide)).trans (bit_one _))))
theorem xMid_strideX : xMid (strideX base lax stride) = 0 :=
  (ext_hi _ _ _ (by decide)).trans ((ext_hi _ _ _ (by decide)).trans ((ext_lo _ _ _ (by decide)).trans (ext_all _)))
theorem xStride_strideX : xStride (strideX base lax stride) = stride :=
  (ext_hi _ _ _ (by decide)).trans ((ext_lo _ _ _ (by decide)).trans (ext_all _))
theorem low4_strideX : (strideX base lax stride).setWidth 4 = 0 := sw_append _ _
end

theorem vcondOf_cmpX (c : VCond) (y : VSrc) : vcondOf (cmpX c y) = c := by
  cases y with
  | imm v => rw [show cmpX c (.imm v) = vcondCode c ++ (0 : BitVec 16) from rfl]; cases c <;> decide
  | reg vb =>
    have h : (cmpX c (.reg vb)).extractLsb' 16 3 = (vcondCode c).extractLsb' 0 3 :=
      (ext_hi _ _ _ (by decide)).trans ((ext_hi _ _ _ (by decide)).trans (ext_hi _ _ _ (by decide)))
    unfold vcondOf; rw [h]; cases c <;> rfl
theorem cmpReg_bit (c : VCond) (vb : BitVec 5) : (cmpX c (.reg vb)).getLsbD 15 = true :=
  (bit_hi _ _ _ (by decide)).trans ((bit_hi _ _ _ (by decide)).trans ((bit_lo _ _ _ (by decide)).trans rfl))
theorem cmpReg_vb (c : VCond) (vb : BitVec 5) : (cmpX c (.reg vb)).extractLsb' 0 5 = vb :=
  (ext_lo _ _ _ (by decide)).trans (ext_all _)
theorem cmpReg_mid (c : VCond) (vb : BitVec 5) : (cmpX c (.reg vb)).extractLsb' 5 10 = 0 :=
  (ext_hi _ _ _ (by decide)).trans ((ext_lo _ _ _ (by decide)).trans (ext_all _))
theorem cmpReg_top (c : VCond) (vb : BitVec 5) : (cmpX c (.reg vb)).getLsbD 19 = false :=
  (bit_hi _ _ _ (by decide)).trans ((bit_hi _ _ _ (by decide)).trans ((bit_hi _ _ _ (by decide)).trans (by cases c <;> rfl)))
theorem cmpImm_bit (c : VCond) (v : BitVec 16) : (cmpX c (.imm v)).getLsbD 15 = false :=
  (bit_lo _ _ _ (by decide)).trans rfl
theorem cmpImm_zero (c : VCond) (v : BitVec 16) : (cmpX c (.imm v)).setWidth 16 = 0 := sw_append _ _
theorem cmpSrc_cmpX (c : VCond) (y : VSrc) : cmpSrc (cmpX c y) (cmpImm y) = y := by
  cases y with
  | imm v => simp only [cmpSrc, cmpImm_bit]; rfl
  | reg vb => simp only [cmpSrc, cmpReg_bit, cmpReg_vb, if_true]
theorem cmpOk_cmpX (c : VCond) (y : VSrc) : cmpOk (cmpX c y) (cmpImm y) = true := by
  cases y with
  | imm v =>
    simp only [cmpOk, cmpImm_bit, Bool.false_eq_true, if_false]
    rw [show cmpX c (.imm v) = vcondCode c ++ (0 : BitVec 16) from rfl]
    cases c <;> decide
  | reg vb => simp only [cmpOk, cmpReg_bit, cmpReg_top, cmpReg_mid, if_true]; rfl

theorem withE_code (e : FpE) (k : FpE → Instr) : withE (eCode e) k = .ok (k e) := by cases e <;> rfl

end Sys2Proof
end

