-- ==== Sys2Proof/Laws/Exec.lean ====
section
/-!
SUPPORT. The arms of `exec`, one equation each, so that no proof unfolds the dispatch.
-/
namespace Sys2Proof.Machine

variable (s : State)

theorem exec_nop : exec .nop s = execNop s := rfl
theorem exec_bc (sa : BitVec 6) (c : BCond) (imm : BitVec 32) : exec (.bc sa c imm) s = execBc sa c imm s := rfl
theorem exec_jmp (imm : BitVec 32) : exec (.jmp imm) s = execJmp imm s := rfl
theorem exec_jmpi (sa : BitVec 6) (b : BitVec 8) : exec (.jmpi sa b) s = execJmpi sa b s := rfl
theorem exec_call (sd : BitVec 6) (imm : BitVec 32) : exec (.call sd imm) s = execCall sd imm s := rfl
theorem exec_calli (sd sa : BitVec 6) (b : BitVec 8) : exec (.calli sd sa b) s = execCalli sd sa b s := rfl
theorem exec_ret (sa : BitVec 6) : exec (.ret sa) s = execRet sa s := rfl
theorem exec_trap (code : BitVec 16) : exec (.trap code) s = execTrap code s := rfl
theorem exec_tret : exec .tret s = execTret s := rfl
theorem exec_brk : exec .brk s = execBrk s := rfl
theorem exec_mfsr (sd : BitVec 6) (num : BitVec 16) : exec (.mfsr sd num) s = execMfsr sd num s := rfl
theorem exec_mtsr (sa : BitVec 6) (num : BitVec 16) : exec (.mtsr sa num) s = execMtsr sa num s := rfl
theorem exec_qwidth (sd sa : BitVec 6) (b : BitVec 8) : exec (.qwidth sd sa b) s = execQwidth sd sa b s := rfl
theorem exec_waitline (sd sa : BitVec 6) (b : BitVec 8) : exec (.waitline sd sa b) s = execWaitline sd sa b s := rfl
theorem exec_add (sd sa : BitVec 6) (y : Opb) (zx sat : Bool) (w : IntW) : exec (.add sd sa y zx sat w) s = execAdd sd sa y zx sat w s := rfl
theorem exec_sub (sd sa : BitVec 6) (y : Opb) (zx sat : Bool) (w : IntW) : exec (.sub sd sa y zx sat w) s = execSub sd sa y zx sat w s := rfl
theorem exec_mul (sd sa : BitVec 6) (y : Opb) (zx sat : Bool) (w : IntW) : exec (.mul sd sa y zx sat w) s = execMul sd sa y zx sat w s := rfl
theorem exec_mulh (sd sa : BitVec 6) (y : Opb) (zx : Bool) (w : IntW) : exec (.mulh sd sa y zx w) s = execMulh sd sa y zx w s := rfl
theorem exec_mulhn (sd sa : BitVec 6) (y : Opb) (zx : Bool) (w : IntW) : exec (.mulhn sd sa y zx w) s = execMulhn sd sa y zx w s := rfl
theorem exec_div (sd sa : BitVec 6) (y : Opb) (zx : Bool) (w : IntW) : exec (.div sd sa y zx w) s = execDiv sd sa y zx w s := rfl
theorem exec_divn (sd sa : BitVec 6) (y : Opb) (zx : Bool) (w : IntW) : exec (.divn sd sa y zx w) s = execDivn sd sa y zx w s := rfl
theorem exec_rem (sd sa : BitVec 6) (y : Opb) (zx : Bool) (w : IntW) : exec (.rem sd sa y zx w) s = execRem sd sa y zx w s := rfl
theorem exec_remn (sd sa : BitVec 6) (y : Opb) (zx : Bool) (w : IntW) : exec (.remn sd sa y zx w) s = execRemn sd sa y zx w s := rfl
theorem exec_and (sd sa : BitVec 6) (y : Opb) (zx : Bool) (w : IntW) : exec (.and sd sa y zx w) s = execAnd sd sa y zx w s := rfl
theorem exec_or (sd sa : BitVec 6) (y : Opb) (zx : Bool) (w : IntW) : exec (.or sd sa y zx w) s = execOr sd sa y zx w s := rfl
theorem exec_xor (sd sa : BitVec 6) (y : Opb) (zx : Bool) (w : IntW) : exec (.xor sd sa y zx w) s = execXor sd sa y zx w s := rfl
theorem exec_andn (sd sa : BitVec 6) (y : Opb) (zx : Bool) (w : IntW) : exec (.andn sd sa y zx w) s = execAndn sd sa y zx w s := rfl
theorem exec_shl (sd sa : BitVec 6) (y : Opb) (zx : Bool) (w : IntW) : exec (.shl sd sa y zx w) s = execShl sd sa y zx w s := rfl
theorem exec_shr (sd sa : BitVec 6) (y : Opb) (zx : Bool) (w : IntW) : exec (.shr sd sa y zx w) s = execShr sd sa y zx w s := rfl
theorem exec_sha (sd sa : BitVec 6) (y : Opb) (zx : Bool) (w : IntW) : exec (.sha sd sa y zx w) s = execSha sd sa y zx w s := rfl
theorem exec_rol (sd sa : BitVec 6) (y : Opb) (zx : Bool) (w : IntW) : exec (.rol sd sa y zx w) s = execRol sd sa y zx w s := rfl
theorem exec_min (sd sa : BitVec 6) (y : Opb) (zx : Bool) (w : IntW) : exec (.min sd sa y zx w) s = execMin sd sa y zx w s := rfl
theorem exec_max (sd sa : BitVec 6) (y : Opb) (zx : Bool) (w : IntW) : exec (.max sd sa y zx w) s = execMax sd sa y zx w s := rfl
theorem exec_minn (sd sa : BitVec 6) (y : Opb) (zx : Bool) (w : IntW) : exec (.minn sd sa y zx w) s = execMinn sd sa y zx w s := rfl
theorem exec_maxn (sd sa : BitVec 6) (y : Opb) (zx : Bool) (w : IntW) : exec (.maxn sd sa y zx w) s = execMaxn sd sa y zx w s := rfl
theorem exec_abs (sd sa : BitVec 6) (zx : Bool) (w : IntW) : exec (.abs sd sa zx w) s = execAbs sd sa zx w s := rfl
theorem exec_clz (sd sa : BitVec 6) (zx : Bool) (w : IntW) : exec (.clz sd sa zx w) s = execClz sd sa zx w s := rfl
theorem exec_ctz (sd sa : BitVec 6) (zx : Bool) (w : IntW) : exec (.ctz sd sa zx w) s = execCtz sd sa zx w s := rfl
theorem exec_popc (sd sa : BitVec 6) (zx : Bool) (w : IntW) : exec (.popc sd sa zx w) s = execPopc sd sa zx w s := rfl
theorem exec_brev (sd sa : BitVec 6) (zx : Bool) (w : IntW) : exec (.brev sd sa zx w) s = execBrev sd sa zx w s := rfl
theorem exec_sext (sd sa : BitVec 6) (y : Opb) (zx : Bool) (w : IntW) : exec (.sext sd sa y zx w) s = execSext sd sa y zx w s := rfl
theorem exec_bfx (sd sa : BitVec 6) (y : Opb) (zx : Bool) (w : IntW) : exec (.bfx sd sa y zx w) s = execBfx sd sa y zx w s := rfl
theorem exec_bfi (sd sa : BitVec 6) (y : Opb) (zx : Bool) (w : IntW) : exec (.bfi sd sa y zx w) s = execBfi sd sa y zx w s := rfl
theorem exec_seq (sd sa : BitVec 6) (y : Opb) (w : IntW) : exec (.seq sd sa y w) s = execSeq sd sa y w s := rfl
theorem exec_sne (sd sa : BitVec 6) (y : Opb) (w : IntW) : exec (.sne sd sa y w) s = execSne sd sa y w s := rfl
theorem exec_slt (sd sa : BitVec 6) (y : Opb) (w : IntW) : exec (.slt sd sa y w) s = execSlt sd sa y w s := rfl
theorem exec_sltn (sd sa : BitVec 6) (y : Opb) (w : IntW) : exec (.sltn sd sa y w) s = execSltn sd sa y w s := rfl
theorem exec_sel (sd sa : BitVec 6) (y : Opb) : exec (.sel sd sa y) s = execSel sd sa y s := rfl
theorem exec_lea (sd sa : BitVec 6) (y : Opb) (sh : BitVec 2) : exec (.lea sd sa y sh) s = execLea sd sa y sh s := rfl
theorem exec_li (sd : BitVec 6) (imm : BitVec 32) : exec (.li sd imm) s = execLi sd imm s := rfl
theorem exec_lih (sd : BitVec 6) (imm : BitVec 32) : exec (.lih sd imm) s = execLih sd imm s := rfl
theorem exec_fadd (sd sa : BitVec 6) (y : Opb) (t : FpT) : exec (.fadd sd sa y t) s = execFadd sd sa y t s := rfl
theorem exec_fsub (sd sa : BitVec 6) (y : Opb) (t : FpT) : exec (.fsub sd sa y t) s = execFsub sd sa y t s := rfl
theorem exec_fmul (sd sa : BitVec 6) (y : Opb) (t : FpT) : exec (.fmul sd sa y t) s = execFmul sd sa y t s := rfl
theorem exec_ffma (sd sa : BitVec 6) (y : Opb) (t : FpT) : exec (.ffma sd sa y t) s = execFfma sd sa y t s := rfl
theorem exec_fdiv (sd sa : BitVec 6) (y : Opb) (t : FpT) : exec (.fdiv sd sa y t) s = execFdiv sd sa y t s := rfl
theorem exec_fsqrt (sd sa : BitVec 6) (t : FpT) : exec (.fsqrt sd sa t) s = execFsqrt sd sa t s := rfl
theorem exec_fmin (sd sa : BitVec 6) (y : Opb) (t : FpT) : exec (.fmin sd sa y t) s = execFmin sd sa y t s := rfl
theorem exec_fmax (sd sa : BitVec 6) (y : Opb) (t : FpT) : exec (.fmax sd sa y t) s = execFmax sd sa y t s := rfl
theorem exec_fset (sd sa : BitVec 6) (y : Opb) (c : FCond) (t : FpT) : exec (.fset sd sa y c t) s = execFset sd sa y c t s := rfl
theorem exec_fcvt (sd sa : BitVec 6) (code : BitVec 4) : exec (.fcvt sd sa code) s = execFcvt sd sa code s := rfl
theorem exec_fabs (sd sa : BitVec 6) (t : FpT) : exec (.fabs sd sa t) s = execFabs sd sa t s := rfl
theorem exec_ldb (sd sa : BitVec 6) (y : Opb) (lax : Bool) : exec (.ldb sd sa y lax) s = execLdb sd sa y lax s := rfl
theorem exec_ldbn (sd sa : BitVec 6) (y : Opb) (lax : Bool) : exec (.ldbn sd sa y lax) s = execLdbn sd sa y lax s := rfl
theorem exec_ldh (sd sa : BitVec 6) (y : Opb) (lax : Bool) : exec (.ldh sd sa y lax) s = execLdh sd sa y lax s := rfl
theorem exec_ldhn (sd sa : BitVec 6) (y : Opb) (lax : Bool) : exec (.ldhn sd sa y lax) s = execLdhn sd sa y lax s := rfl
theorem exec_ldw (sd sa : BitVec 6) (y : Opb) (lax : Bool) : exec (.ldw sd sa y lax) s = execLdw sd sa y lax s := rfl
theorem exec_ldwn (sd sa : BitVec 6) (y : Opb) (lax : Bool) : exec (.ldwn sd sa y lax) s = execLdwn sd sa y lax s := rfl
theorem exec_ldd (sd sa : BitVec 6) (y : Opb) (lax : Bool) : exec (.ldd sd sa y lax) s = execLdd sd sa y lax s := rfl
theorem exec_stb (sd sa : BitVec 6) (y : Opb) : exec (.stb sd sa y) s = execStb sd sa y s := rfl
theorem exec_sth (sd sa : BitVec 6) (y : Opb) : exec (.sth sd sa y) s = execSth sd sa y s := rfl
theorem exec_stw (sd sa : BitVec 6) (y : Opb) : exec (.stw sd sa y) s = execStw sd sa y s := rfl
theorem exec_std (sd sa : BitVec 6) (y : Opb) : exec (.std sd sa y) s = execStd sd sa y s := rfl
theorem exec_lda (sd sa : BitVec 6) (y : Opb) (scope : BitVec 4) : exec (.lda sd sa y scope) s = execLda sd sa y scope s := rfl
theorem exec_stl (sd sa : BitVec 6) (y : Opb) (scope : BitVec 4) : exec (.stl sd sa y scope) s = execStl sd sa y scope s := rfl
theorem exec_pref (sa : BitVec 6) (y : Opb) (lax : Bool) : exec (.pref sa y lax) s = execPref sa y lax s := rfl
theorem exec_amo (sd sa vb : BitVec 6) (k : AmoKind) (o : Ord) (scope : BitVec 4) : exec (.amo sd sa vb k o scope) s = execAmo sd sa vb k o scope s := rfl
theorem exec_amow (sd sa vb : BitVec 6) (k : AmoKind) (o : Ord) (scope : BitVec 4) : exec (.amow sd sa vb k o scope) s = execAmow sd sa vb k o scope s := rfl
theorem exec_cas (sd sa vb vc : BitVec 6) (o : Ord) (scope : BitVec 4) : exec (.cas sd sa vb vc o scope) s = execCas sd sa vb vc o scope s := rfl
theorem exec_casw (sd sa vb vc : BitVec 6) (o : Ord) (scope : BitVec 4) : exec (.casw sd sa vb vc o scope) s = execCasw sd sa vb vc o scope s := rfl
theorem exec_amof (sd sa vb : BitVec 6) (k : AmofKind) (single : Bool) (o : Ord) (scope : BitVec 4) : exec (.amof sd sa vb k single o scope) s = execAmof sd sa vb k single o scope s := rfl
theorem exec_fence (o : Ord) (scope : BitVec 4) : exec (.fence o scope) s = execFence o scope s := rfl
theorem exec_barc : exec .barc s = execBarc s := rfl
theorem exec_barg : exec .barg s = execBarg s := rfl
theorem exec_develop : exec .develop s = execDevelop s := rfl
theorem exec_trim (sd sa : BitVec 6) (b : BitVec 8) : exec (.trim sd sa b) s = execTrim sd sa b s := rfl
theorem exec_semw (sd sa : BitVec 6) (sem : BitVec 8) (thr : BitVec 16) (scope : BitVec 4) : exec (.semw sd sa sem thr scope) s = execSemw sd sa sem thr scope s := rfl
theorem exec_sems (sd sa : BitVec 6) (sem : BitVec 8) (inc : BitVec 16) (scope : BitVec 4) : exec (.sems sd sa sem inc scope) s = execSems sd sa sem inc scope s := rfl
theorem exec_trav : exec .trav s = execTrav s := rfl
theorem exec_travAcc : exec .travAcc s = execTravAcc s := rfl
theorem exec_travEnd : exec .travEnd s = execTravEnd s := rfl
theorem exec_travInst (b : BitVec 8) : exec (.travInst b) s = execTravInst b s := rfl
theorem exec_hop : exec .hop s = execHop s := rfl
theorem exec_go (sa : BitVec 6) (b : BitVec 8) : exec (.go sa b) s = execGo sa b s := rfl
theorem exec_spawn (sd : BitVec 6) (imm : BitVec 32) : exec (.spawn sd imm) s = execSpawn sd imm s := rfl
theorem exec_fend : exec .fend s = execFend s := rfl
theorem exec_fyield : exec .fyield s = execFyield s := rfl
theorem exec_hqpush (sa : BitVec 6) : exec (.hqpush sa) s = execHqpush sa s := rfl
theorem exec_rgen (sd sa : BitVec 6) (b : BitVec 8) : exec (.rgen sd sa b) s = execRgen sd sa b s := rfl
theorem exec_vnop : exec .vnop s = execVnop s := rfl
theorem exec_vadd (vd va : BitVec 5) (y : VSrc) (ms : BitVec 6) (e : FpE) : exec (.vadd vd va y ms e) s = execVadd vd va y ms e s := rfl
theorem exec_vsub (vd va : BitVec 5) (y : VSrc) (ms : BitVec 6) (e : FpE) : exec (.vsub vd va y ms e) s = execVsub vd va y ms e s := rfl
theorem exec_vmul (vd va : BitVec 5) (y : VSrc) (ms : BitVec 6) (e : FpE) : exec (.vmul vd va y ms e) s = execVmul vd va y ms e s := rfl
theorem exec_vfma (vd va : BitVec 5) (y : VSrc) (ms : BitVec 6) (e : FpE) : exec (.vfma vd va y ms e) s = execVfma vd va y ms e s := rfl
theorem exec_vfms (vd va : BitVec 5) (y : VSrc) (ms : BitVec 6) (e : FpE) : exec (.vfms vd va y ms e) s = execVfms vd va y ms e s := rfl
theorem exec_vfnma (vd va : BitVec 5) (y : VSrc) (ms : BitVec 6) (e : FpE) : exec (.vfnma vd va y ms e) s = execVfnma vd va y ms e s := rfl
theorem exec_vmin (vd va : BitVec 5) (y : VSrc) (ms : BitVec 6) (e : FpE) : exec (.vmin vd va y ms e) s = execVmin vd va y ms e s := rfl
theorem exec_vmax (vd va : BitVec 5) (y : VSrc) (ms : BitVec 6) (e : FpE) : exec (.vmax vd va y ms e) s = execVmax vd va y ms e s := rfl
theorem exec_vminp (vd va : BitVec 5) (y : VSrc) (ms : BitVec 6) (e : FpE) : exec (.vminp vd va y ms e) s = execVminp vd va y ms e s := rfl
theorem exec_vmaxp (vd va : BitVec 5) (y : VSrc) (ms : BitVec 6) (e : FpE) : exec (.vmaxp vd va y ms e) s = execVmaxp vd va y ms e s := rfl
theorem exec_vabs (vd va : BitVec 5) (ms : BitVec 6) (e : FpE) : exec (.vabs vd va ms e) s = execVabs vd va ms e s := rfl
theorem exec_vneg (vd va : BitVec 5) (ms : BitVec 6) (e : FpE) : exec (.vneg vd va ms e) s = execVneg vd va ms e s := rfl
theorem exec_vcmp (vd va : BitVec 5) (c : VCond) (y : VSrc) (ms : BitVec 6) (e : FpE) : exec (.vcmp vd va c y ms e) s = execVcmp vd va c y ms e s := rfl
theorem exec_vclass (vd va : BitVec 5) (ms : BitVec 6) (e : FpE) : exec (.vclass vd va ms e) s = execVclass vd va ms e s := rfl
theorem exec_vround (vd va : BitVec 5) (rm : BitVec 3) (ms : BitVec 6) (e : FpE) : exec (.vround vd va rm ms e) s = execVround vd va rm ms e s := rfl
theorem exec_vfract (vd va : BitVec 5) (ms : BitVec 6) (e : FpE) : exec (.vfract vd va ms e) s = execVfract vd va ms e s := rfl
theorem exec_vcopysign (vd va : BitVec 5) (y : VSrc) (ms : BitVec 6) (e : FpE) : exec (.vcopysign vd va y ms e) s = execVcopysign vd va y ms e s := rfl
theorem exec_vldexp (vd va : BitVec 5) (y : VSrc) (ms : BitVec 6) (e : FpE) : exec (.vldexp vd va y ms e) s = execVldexp vd va y ms e s := rfl
theorem exec_vfrexp (vd va : BitVec 5) (ms : BitVec 6) (e : FpE) : exec (.vfrexp vd va ms e) s = execVfrexp vd va ms e s := rfl
theorem exec_vdiv (vd va : BitVec 5) (y : VSrc) (ms : BitVec 6) (e : FpE) : exec (.vdiv vd va y ms e) s = execVdiv vd va y ms e s := rfl
theorem exec_vsqrt (vd va : BitVec 5) (ms : BitVec 6) (e : FpE) : exec (.vsqrt vd va ms e) s = execVsqrt vd va ms e s := rfl
theorem exec_vrcp (vd va : BitVec 5) (ms : BitVec 6) (e : FpE) : exec (.vrcp vd va ms e) s = execVrcp vd va ms e s := rfl
theorem exec_vrsq (vd va : BitVec 5) (ms : BitVec 6) (e : FpE) : exec (.vrsq vd va ms e) s = execVrsq vd va ms e s := rfl
theorem exec_vexp2 (vd va : BitVec 5) (ms : BitVec 6) (e : FpE) : exec (.vexp2 vd va ms e) s = execVexp2 vd va ms e s := rfl
theorem exec_vlog2 (vd va : BitVec 5) (ms : BitVec 6) (e : FpE) : exec (.vlog2 vd va ms e) s = execVlog2 vd va ms e s := rfl
theorem exec_vsin (vd va : BitVec 5) (ms : BitVec 6) (e : FpE) : exec (.vsin vd va ms e) s = execVsin vd va ms e s := rfl
theorem exec_vcos (vd va : BitVec 5) (ms : BitVec 6) (e : FpE) : exec (.vcos vd va ms e) s = execVcos vd va ms e s := rfl
theorem exec_vtanh (vd va : BitVec 5) (ms : BitVec 6) (e : FpE) : exec (.vtanh vd va ms e) s = execVtanh vd va ms e s := rfl
theorem exec_viadd (vd va : BitVec 5) (y : VSrc) (ms : BitVec 6) (et : BitVec 3) : exec (.viadd vd va y ms et) s = execViadd vd va y ms et s := rfl
theorem exec_visub (vd va : BitVec 5) (y : VSrc) (ms : BitVec 6) (et : BitVec 3) : exec (.visub vd va y ms et) s = execVisub vd va y ms et s := rfl
theorem exec_vimul (vd va : BitVec 5) (y : VSrc) (ms : BitVec 6) (et : BitVec 3) : exec (.vimul vd va y ms et) s = execVimul vd va y ms et s := rfl
theorem exec_vimulh (vd va : BitVec 5) (y : VSrc) (ms : BitVec 6) (et : BitVec 3) : exec (.vimulh vd va y ms et) s = execVimulh vd va y ms et s := rfl
theorem exec_vimad (vd va : BitVec 5) (y : VSrc) (ms : BitVec 6) (et : BitVec 3) : exec (.vimad vd va y ms et) s = execVimad vd va y ms et s := rfl
theorem exec_vimin (vd va : BitVec 5) (y : VSrc) (ms : BitVec 6) (et : BitVec 3) : exec (.vimin vd va y ms et) s = execVimin vd va y ms et s := rfl
theorem exec_vimax (vd va : BitVec 5) (y : VSrc) (ms : BitVec 6) (et : BitVec 3) : exec (.vimax vd va y ms et) s = execVimax vd va y ms et s := rfl
theorem exec_viabs (vd va : BitVec 5) (ms : BitVec 6) (et : BitVec 3) : exec (.viabs vd va ms et) s = execViabs vd va ms et s := rfl
theorem exec_vand (vd va : BitVec 5) (y : VSrc) (ms : BitVec 6) (et : BitVec 3) : exec (.vand vd va y ms et) s = execVand vd va y ms et s := rfl
theorem exec_vor (vd va : BitVec 5) (y : VSrc) (ms : BitVec 6) (et : BitVec 3) : exec (.vor vd va y ms et) s = execVor vd va y ms et s := rfl
theorem exec_vxor (vd va : BitVec 5) (y : VSrc) (ms : BitVec 6) (et : BitVec 3) : exec (.vxor vd va y ms et) s = execVxor vd va y ms et s := rfl
theorem exec_vandn (vd va : BitVec 5) (y : VSrc) (ms : BitVec 6) (et : BitVec 3) : exec (.vandn vd va y ms et) s = execVandn vd va y ms et s := rfl
theorem exec_vshl (vd va : BitVec 5) (y : VSrc) (ms : BitVec 6) (et : BitVec 3) : exec (.vshl vd va y ms et) s = execVshl vd va y ms et s := rfl
theorem exec_vshr (vd va : BitVec 5) (y : VSrc) (ms : BitVec 6) (et : BitVec 3) : exec (.vshr vd va y ms et) s = execVshr vd va y ms et s := rfl
theorem exec_vsha (vd va : BitVec 5) (y : VSrc) (ms : BitVec 6) (et : BitVec 3) : exec (.vsha vd va y ms et) s = execVsha vd va y ms et s := rfl
theorem exec_vicmp (vd va : BitVec 5) (c : VCond) (y : VSrc) (ms : BitVec 6) (et : BitVec 3) : exec (.vicmp vd va c y ms et) s = execVicmp vd va c y ms et s := rfl
theorem exec_vpopc (vd va : BitVec 5) (ms : BitVec 6) (et : BitVec 3) : exec (.vpopc vd va ms et) s = execVpopc vd va ms et s := rfl
theorem exec_vclz (vd va : BitVec 5) (ms : BitVec 6) (et : BitVec 3) : exec (.vclz vd va ms et) s = execVclz vd va ms et s := rfl
theorem exec_vsatadd (vd va : BitVec 5) (y : VSrc) (ms : BitVec 6) (et : BitVec 3) : exec (.vsatadd vd va y ms et) s = execVsatadd vd va y ms et s := rfl
theorem exec_vsatsub (vd va : BitVec 5) (y : VSrc) (ms : BitVec 6) (et : BitVec 3) : exec (.vsatsub vd va y ms et) s = execVsatsub vd va y ms et s := rfl
theorem exec_vidiv (vd va : BitVec 5) (y : VSrc) (ms : BitVec 6) (et : BitVec 3) : exec (.vidiv vd va y ms et) s = execVidiv vd va y ms et s := rfl
theorem exec_virem (vd va : BitVec 5) (y : VSrc) (ms : BitVec 6) (et : BitVec 3) : exec (.virem vd va y ms et) s = execVirem vd va y ms et s := rfl
theorem exec_vbitsel (vd va vb : BitVec 5) (ms : BitVec 6) (et : BitVec 3) : exec (.vbitsel vd va vb ms et) s = execVbitsel vd va vb ms et s := rfl
theorem exec_vbfx (vd va : BitVec 5) (y : VSrc) (ms : BitVec 6) (et : BitVec 3) : exec (.vbfx vd va y ms et) s = execVbfx vd va y ms et s := rfl
theorem exec_vbfi (vd va : BitVec 5) (y : VSrc) (ms : BitVec 6) (et : BitVec 3) : exec (.vbfi vd va y ms et) s = execVbfi vd va y ms et s := rfl
theorem exec_vwhile (vd va vb : BitVec 5) (ms : BitVec 6) (et : BitVec 3) : exec (.vwhile vd va vb ms et) s = execVwhile vd va vb ms et s := rfl
theorem exec_vmatch (vd va : BitVec 5) (ms : BitVec 6) (et : BitVec 3) : exec (.vmatch vd va ms et) s = execVmatch vd va ms et s := rfl
theorem exec_vmov (vd va : BitVec 5) (ms : BitVec 6) (et : BitVec 3) : exec (.vmov vd va ms et) s = execVmov vd va ms et s := rfl
theorem exec_vsplat (vd va : BitVec 5) (ms : BitVec 6) (et : BitVec 3) : exec (.vsplat vd va ms et) s = execVsplat vd va ms et s := rfl
theorem exec_vmovi (vd : BitVec 5) (imm : BitVec 16) (ms : BitVec 6) (et : BitVec 3) : exec (.vmovi vd imm ms et) s = execVmovi vd imm ms et s := rfl
theorem exec_vext (vd va vb : BitVec 5) (ms : BitVec 6) (et : BitVec 3) : exec (.vext vd va vb ms et) s = execVext vd va vb ms et s := rfl
theorem exec_vins (vd va vb : BitVec 5) (ms : BitVec 6) (et : BitVec 3) : exec (.vins vd va vb ms et) s = execVins vd va vb ms et s := rfl
theorem exec_vperm (vd va vb : BitVec 5) (ms : BitVec 6) (et : BitVec 3) : exec (.vperm vd va vb ms et) s = execVperm vd va vb ms et s := rfl
theorem exec_vrot (vd va : BitVec 5) (y : VSrc) (ms : BitVec 6) (et : BitVec 3) : exec (.vrot vd va y ms et) s = execVrot vd va y ms et s := rfl
theorem exec_vslideup (vd va : BitVec 5) (y : VSrc) (ms : BitVec 6) (et : BitVec 3) : exec (.vslideup vd va y ms et) s = execVslideup vd va y ms et s := rfl
theorem exec_vslidedn (vd va : BitVec 5) (y : VSrc) (ms : BitVec 6) (et : BitVec 3) : exec (.vslidedn vd va y ms et) s = execVslidedn vd va y ms et s := rfl
theorem exec_viota (vd : BitVec 5) (ms : BitVec 6) (et : BitVec 3) : exec (.viota vd ms et) s = execViota vd ms et s := rfl
theorem exec_vsel (vd va vb : BitVec 5) (ms : BitVec 6) (et : BitVec 3) : exec (.vsel vd va vb ms et) s = execVsel vd va vb ms et s := rfl
theorem exec_vcompress (vd va : BitVec 5) (ms : BitVec 6) (et : BitVec 3) : exec (.vcompress vd va ms et) s = execVcompress vd va ms et s := rfl
theorem exec_vexpand (vd va : BitVec 5) (ms : BitVec 6) (et : BitVec 3) : exec (.vexpand vd va ms et) s = execVexpand vd va ms et s := rfl
theorem exec_vshfl (vd va vb : BitVec 5) (ms : BitVec 6) (et : BitVec 3) : exec (.vshfl vd va vb ms et) s = execVshfl vd va vb ms et s := rfl
theorem exec_vredadd (vd va : BitVec 5) (ms : BitVec 6) (et : BitVec 3) : exec (.vredadd vd va ms et) s = execVredadd vd va ms et s := rfl
theorem exec_vredmin (vd va : BitVec 5) (ms : BitVec 6) (et : BitVec 3) : exec (.vredmin vd va ms et) s = execVredmin vd va ms et s := rfl
theorem exec_vredmax (vd va : BitVec 5) (ms : BitVec 6) (et : BitVec 3) : exec (.vredmax vd va ms et) s = execVredmax vd va ms et s := rfl
theorem exec_vredand (vd va : BitVec 5) (ms : BitVec 6) (et : BitVec 3) : exec (.vredand vd va ms et) s = execVredand vd va ms et s := rfl
theorem exec_vredor (vd va : BitVec 5) (ms : BitVec 6) (et : BitVec 3) : exec (.vredor vd va ms et) s = execVredor vd va ms et s := rfl
theorem exec_vscanadd (vd va : BitVec 5) (ms : BitVec 6) (et : BitVec 3) : exec (.vscanadd vd va ms et) s = execVscanadd vd va ms et s := rfl
theorem exec_vscanmin (vd va : BitVec 5) (ms : BitVec 6) (et : BitVec 3) : exec (.vscanmin vd va ms et) s = execVscanmin vd va ms et s := rfl
theorem exec_vscanmax (vd va : BitVec 5) (ms : BitVec 6) (et : BitVec 3) : exec (.vscanmax vd va ms et) s = execVscanmax vd va ms et s := rfl
theorem exec_vcvt (vd va : BitVec 5) (ty : BitVec 4) (sat : Bool) (ms : BitVec 6) (et : BitVec 3) : exec (.vcvt vd va ty sat ms et) s = execVcvt vd va ty sat ms et s := rfl
theorem exec_vcvti (vd va : BitVec 5) (ty : BitVec 4) (sat : Bool) (ms : BitVec 6) (et : BitVec 3) : exec (.vcvti vd va ty sat ms et) s = execVcvti vd va ty sat ms et s := rfl
theorem exec_vnarrow (vd va : BitVec 5) (ty : BitVec 4) (sat : Bool) (ms : BitVec 6) (et : BitVec 3) : exec (.vnarrow vd va ty sat ms et) s = execVnarrow vd va ty sat ms et s := rfl
theorem exec_vwiden (vd va : BitVec 5) (ty : BitVec 4) (sat : Bool) (ms : BitVec 6) (et : BitVec 3) : exec (.vwiden vd va ty sat ms et) s = execVwiden vd va ty sat ms et s := rfl
theorem exec_vqmx (vd va : BitVec 5) (ty : BitVec 4) (ms : BitVec 6) (et : BitVec 3) : exec (.vqmx vd va ty ms et) s = execVqmx vd va ty ms et s := rfl
theorem exec_vdqmx (vd va : BitVec 5) (ty : BitVec 4) (ms : BitVec 6) (et : BitVec 3) : exec (.vdqmx vd va ty ms et) s = execVdqmx vd va ty ms et s := rfl
theorem exec_vld (vd : BitVec 5) (base : BitVec 6) (imm : BitVec 16) (lax : Bool) (ms : BitVec 6) (et : BitVec 3) : exec (.vld vd base imm lax ms et) s = execVld vd base imm lax ms et s := rfl
theorem exec_vst (vd : BitVec 5) (base : BitVec 6) (imm : BitVec 16) (ms : BitVec 6) (et : BitVec 3) : exec (.vst vd base imm ms et) s = execVst vd base imm ms et s := rfl
theorem exec_vlds (vd : BitVec 5) (base stride : BitVec 6) (imm : BitVec 16) (lax : Bool) (ms : BitVec 6) (et : BitVec 3) : exec (.vlds vd base stride imm lax ms et) s = execVlds vd base stride imm lax ms et s := rfl
theorem exec_vsts (vd : BitVec 5) (base stride : BitVec 6) (imm : BitVec 16) (ms : BitVec 6) (et : BitVec 3) : exec (.vsts vd base stride imm ms et) s = execVsts vd base stride imm ms et s := rfl
theorem exec_vgath (vd va : BitVec 5) (base : BitVec 6) (imm : BitVec 16) (zx : Bool) (sc : BitVec 2) (lax : Bool) (ms : BitVec 6) (et : BitVec 3) : exec (.vgath vd va base imm zx sc lax ms et) s = execVgath vd va base imm zx sc lax ms et s := rfl
theorem exec_vscat (vd va : BitVec 5) (base : BitVec 6) (imm : BitVec 16) (zx : Bool) (sc : BitVec 2) (ms : BitVec 6) (et : BitVec 3) : exec (.vscat vd va base imm zx sc ms et) s = execVscat vd va base imm zx sc ms et s := rfl
theorem exec_vldb (vd : BitVec 5) (base : BitVec 6) (imm : BitVec 16) (lax : Bool) (ms : BitVec 6) (et : BitVec 3) : exec (.vldb vd base imm lax ms et) s = execVldb vd base imm lax ms et s := rfl
theorem exec_vamo (vd va : BitVec 5) (base : BitVec 6) (imm : BitVec 16) (zx : Bool) (sc : BitVec 2) (k : AmoKind) (o : Ord) (scope : BitVec 4) (ms : BitVec 6) (et : BitVec 3) : exec (.vamo vd va base imm zx sc k o scope ms et) s = execVamo vd va base imm zx sc k o scope ms et s := rfl
theorem exec_vamof (vd va : BitVec 5) (base : BitVec 6) (imm : BitVec 16) (zx : Bool) (sc : BitVec 2) (k : AmofKind) (o : Ord) (scope : BitVec 4) (ms : BitVec 6) (et : BitVec 3) : exec (.vamof vd va base imm zx sc k o scope ms et) s = execVamof vd va base imm zx sc k o scope ms et s := rfl
theorem exec_vhqpop (vd vb : BitVec 5) (ms : BitVec 6) : exec (.vhqpop vd vb ms) s = execVhqpop vd vb ms s := rfl
theorem exec_vraygen (vd va vb : BitVec 5) (ms : BitVec 6) : exec (.vraygen vd va vb ms) s = execVraygen vd va vb ms s := rfl
theorem exec_vaccrd (vd : BitVec 5) (tile : BitVec 2) (ctx : Bool) (vb : BitVec 5) (ms : BitVec 6) (et : BitVec 3) : exec (.vaccrd vd tile ctx vb ms et) s = execVaccrd vd tile ctx vb ms et s := rfl
theorem exec_vaccwr (vd : BitVec 5) (tile : BitVec 2) (ctx : Bool) (vb : BitVec 5) (ms : BitVec 6) (et : BitVec 3) : exec (.vaccwr vd tile ctx vb ms et) s = execVaccwr vd tile ctx vb ms et s := rfl
theorem exec_vdot4 (vd va : BitVec 5) (y : VSrc) (ms : BitVec 6) (et : BitVec 3) : exec (.vdot4 vd va y ms et) s = execVdot4 vd va y ms et s := rfl
theorem exec_vbfdot (vd va vb : BitVec 5) (ms : BitVec 6) : exec (.vbfdot vd va vb ms) s = execVbfdot vd va vb ms s := rfl
theorem exec_vhash (vd va vb : BitVec 5) (ms : BitVec 6) (et : BitVec 3) : exec (.vhash vd va vb ms et) s = execVhash vd va vb ms et s := rfl
theorem exec_cpy (h : CmdHdr) (src dst : RegOp) (len : BitVec 32) : exec (.cpy h src dst len) s = execCpy h src dst len s := rfl
theorem exec_cpy2 (h : CmdHdr) (src dst : RegOp) (rows rowb sstr dstr : BitVec 16) : exec (.cpy2 h src dst rows rowb sstr dstr) s = execCpy2 h src dst rows rowb sstr dstr s := rfl
theorem exec_cpyt (h : CmdHdr) (src dst : RegOp) (rows cols : BitVec 12) (sstr dstr : BitVec 18) (esz : BitVec 2) : exec (.cpyt h src dst rows cols sstr dstr esz) s = execCpyt h src dst rows cols sstr dstr esz s := rfl
theorem exec_cpyb (h : CmdHdr) (src dst : RegOp) (rows cols : BitVec 12) (sstr : BitVec 18) (bsz : BitVec 2) (role tr : Bool) : exec (.cpyb h src dst rows cols sstr bsz role tr) s = execCpyb h src dst rows cols sstr bsz role tr s := rfl
theorem exec_cpym (h : CmdHdr) (src : RegOp) (doff : BitVec 22) (die : BitVec 3) (len : BitVec 32) (cmask : BitVec 64) : exec (.cpym h src doff die len cmask) s = execCpym h src doff die len cmask s := rfl
theorem exec_cpyr (h : CmdHdr) (src dst : RegOp) (len : BitVec 32) (ty : BitVec 3) : exec (.cpyr h src dst len ty) s = execCpyr h src dst len ty s := rfl
theorem exec_cpyg (h : CmdHdr) (src dst : RegOp) (count : BitVec 32) (gsz : BitVec 3) : exec (.cpyg h src dst count gsz) s = execCpyg h src dst count gsz s := rfl
theorem exec_pref2 (h : CmdHdr) (addr : RegOp) (len : BitVec 32) : exec (.pref2 h addr len) s = execPref2 h addr len s := rfl
theorem exec_flush (h : CmdHdr) (addr : RegOp) (len : BitVec 32) : exec (.flush h addr len) s = execFlush h addr len s := rfl
theorem exec_fillz (h : CmdHdr) (addr : RegOp) (len : BitVec 32) : exec (.fillz h addr len) s = execFillz h addr len s := rfl
theorem exec_mma (h : CmdHdr) (va vb : BitVec 5) (tile : BitVec 2) (ctx : Bool) (ta tb : BitVec 4) : exec (.mma h va vb tile ctx ta tb) s = execMma h va vb tile ctx ta tb s := rfl
theorem exec_mmax (h : CmdHdr) (va vb vs : BitVec 5) (tile : BitVec 2) (ctx : Bool) (ta tb : BitVec 4) : exec (.mmax h va vb vs tile ctx ta tb) s = execMmax h va vb vs tile ctx ta tb s := rfl
theorem exec_mzero (h : CmdHdr) (tmask : BitVec 4) (ctx : Bool) : exec (.mzero h tmask ctx) s = execMzero h tmask ctx s := rfl
theorem exec_mld (h : CmdHdr) (addr : RegOp) (tile : BitVec 2) (ctx : Bool) (stride : BitVec 32) : exec (.mld h addr tile ctx stride) s = execMld h addr tile ctx stride s := rfl
theorem exec_mst (h : CmdHdr) (addr : RegOp) (tile : BitVec 2) (ctx : Bool) (stride : BitVec 32) : exec (.mst h addr tile ctx stride) s = execMst h addr tile ctx stride s := rfl
theorem exec_rmmak (h : CmdHdr) (rseq : BitVec 32) (sreg : BitVec 6) (rig : BitVec 8) (kb : BitVec 6) (mx : Bool) (ta tb : BitVec 4) (ctx : Bool) (tile : BitVec 2) (apanel bpanel : RegOp) : exec (.rmmak h rseq sreg rig kb mx ta tb ctx tile apanel bpanel) s = execRmmak h rseq sreg rig kb mx ta tb ctx tile apanel bpanel s := rfl
theorem exec_rmman (h : CmdHdr) (rseq : BitVec 32) (sreg : BitVec 6) (rig : BitVec 8) (kb : BitVec 6) (mx : Bool) (ta tb : BitVec 4) (ctx : Bool) (tile : BitVec 2) (apanel bpanel : RegOp) : exec (.rmman h rseq sreg rig kb mx ta tb ctx tile apanel bpanel) s = execRmman h rseq sreg rig kb mx ta tb ctx tile apanel bpanel s := rfl
theorem exec_semop (h : CmdHdr) (core : BitVec 16) (sem : BitVec 8) (v : BitVec 16) : exec (.semop h core sem v) s = execSemop h core sem v s := rfl
theorem exec_semset (h : CmdHdr) (core : BitVec 16) (sem : BitVec 8) (v : BitVec 16) : exec (.semset h core sem v) s = execSemset h core sem v s := rfl
theorem exec_mcas (h : CmdHdr) (block : RegOp) (count : BitVec 4) (o : Ord) : exec (.mcas h block count o) s = execMcas h block count o s := rfl
theorem exec_launch (h : CmdHdr) (hdr : RegOp) : exec (.launch h hdr) s = execLaunch h hdr s := rfl
theorem exec_spawnt (h : CmdHdr) (reg : BitVec 6) : exec (.spawnt h reg) s = execSpawnt h reg s := rfl
theorem exec_lstat (h : CmdHdr) (id : BitVec 32) : exec (.lstat h id) s = execLstat h id s := rfl
theorem exec_fpost (h : CmdHdr) (base : RegOp) (bytes fnum : BitVec 32) (out : BitVec 4) : exec (.fpost h base bytes fnum out) s = execFpost h base bytes fnum out s := rfl
theorem exec_fclk (h : CmdHdr) (t : RegOp) : exec (.fclk h t) s = execFclk h t s := rfl
theorem exec_sceneb (h : CmdHdr) (table : RegOp) : exec (.sceneb h table) s = execSceneb h table s := rfl
theorem exec_waycfg (h : CmdHdr) (slice : BitVec 9) (ways : BitVec 12) (mode : Bool) : exec (.waycfg h slice ways mode) s = execWaycfg h slice ways mode s := rfl
theorem exec_preempt (h : CmdHdr) (core : BitVec 13) (slots : BitVec 8) : exec (.preempt h core slots) s = execPreempt h core slots s := rfl
theorem exec_issueTurn (core : Nat) : exec (.issueTurn core) s = execIssueTurn core s := rfl
theorem exec_longAccessReply (t : Tid) : exec (.longAccessReply t) s = execLongAccessReply t s := rfl
theorem exec_fibreQuantumExpiry (core slot : Nat) : exec (.fibreQuantumExpiry core slot) s = execFibreQuantumExpiry core slot s := rfl
theorem exec_fibreArrival (core : Nat) : exec (.fibreArrival core) s = execFibreArrival core s := rfl
theorem exec_refetchStart (core : Nat) : exec (.refetchStart core) s = execRefetchStart core s := rfl
theorem exec_refetchComplete (core : Nat) : exec (.refetchComplete core) s = execRefetchComplete core s := rfl
theorem exec_taskTake (core : Nat) : exec (.taskTake core) s = execTaskTake core s := rfl
theorem exec_taskComplete (task : Nat) : exec (.taskComplete task) s = execTaskComplete task s := rfl
theorem exec_stealRequest (core : Nat) : exec (.stealRequest core) s = execStealRequest core s := rfl
theorem exec_stealAnswer (core : Nat) : exec (.stealAnswer core) s = execStealAnswer core s := rfl
theorem exec_stealReplyArrival (core : Nat) : exec (.stealReplyArrival core) s = execStealReplyArrival core s := rfl
theorem exec_stealBackoffExpiry (core : Nat) : exec (.stealBackoffExpiry core) s = execStealBackoffExpiry core s := rfl
theorem exec_gangStart (cluster : Nat) : exec (.gangStart cluster) s = execGangStart cluster s := rfl
theorem exec_barrierArrivalCount (core slot : Nat) : exec (.barrierArrivalCount core slot) s = execBarrierArrivalCount core slot s := rfl
theorem exec_semwSatisfied (t : Tid) : exec (.semwSatisfied t) s = execSemwSatisfied t s := rfl
theorem exec_semaphoreUpdate (core sem : Nat) : exec (.semaphoreUpdate core sem) s = execSemaphoreUpdate core sem s := rfl
theorem exec_semsReleaseDone (t : Tid) : exec (.semsReleaseDone t) s = execSemsReleaseDone t s := rfl
theorem exec_waitlineReload (t : Tid) : exec (.waitlineReload t) s = execWaitlineReload t s := rfl
theorem exec_storeBufferSend (core : Nat) : exec (.storeBufferSend core) s = execStoreBufferSend core s := rfl
theorem exec_homeWritePerform (req : Nat) : exec (.homeWritePerform req) s = execHomeWritePerform req s := rfl
theorem exec_homeRead (req : Nat) : exec (.homeRead req) s = execHomeRead req s := rfl
theorem exec_reservationRequest (req : Nat) : exec (.reservationRequest req) s = execReservationRequest req s := rfl
theorem exec_reservationGrant (req : Nat) : exec (.reservationGrant req) s = execReservationGrant req s := rfl
theorem exec_atomicRelease (req : Nat) : exec (.atomicRelease req) s = execAtomicRelease req s := rfl
theorem exec_commandStart (core : Nat) : exec (.commandStart core) s = execCommandStart core s := rfl
theorem exec_commandLineTake (core num : Nat) : exec (.commandLineTake core num) s = execCommandLineTake core num s := rfl
theorem exec_commandComplete (core num : Nat) : exec (.commandComplete core num) s = execCommandComplete core num s := rfl
theorem exec_matrixTileStep (core : Nat) : exec (.matrixTileStep core) s = execMatrixTileStep core s := rfl
theorem exec_matrixStepComplete (core : Nat) (ctx : Bool) : exec (.matrixStepComplete core ctx) s = execMatrixStepComplete core ctx s := rfl
theorem exec_rigRun (part rig : Nat) : exec (.rigRun part rig) s = execRigRun part rig s := rfl
theorem exec_rigComplete (part rig : Nat) : exec (.rigComplete part rig) s = execRigComplete part rig s := rfl
theorem exec_rigAbandon (part rig : Nat) : exec (.rigAbandon part rig) s = execRigAbandon part rig s := rfl
theorem exec_rigPreemptTimeout (core slot : Nat) : exec (.rigPreemptTimeout core slot) s = execRigPreemptTimeout core slot s := rfl
theorem exec_launchHeaderCheck (core num : Nat) : exec (.launchHeaderCheck core num) s = execLaunchHeaderCheck core num s := rfl
theorem exec_launchDeferred (core num : Nat) : exec (.launchDeferred core num) s = execLaunchDeferred core num s := rfl
theorem exec_launchFill (core lid : Nat) : exec (.launchFill core lid) s = execLaunchFill core lid s := rfl
theorem exec_distributorRecordWrite (die : Nat) : exec (.distributorRecordWrite die) s = execDistributorRecordWrite die s := rfl
theorem exec_taskRecordArrival (msg : Nat) : exec (.taskRecordArrival msg) s = execTaskRecordArrival msg s := rfl
theorem exec_launchComplete (lid : Nat) : exec (.launchComplete lid) s = execLaunchComplete lid s := rfl
theorem exec_priorityAging (lid : Nat) : exec (.priorityAging lid) s = execPriorityAging lid s := rfl
theorem exec_slotRestore (core slot : Nat) : exec (.slotRestore core slot) s = execSlotRestore core slot s := rfl
theorem exec_slotLend (core slot : Nat) : exec (.slotLend core slot) s = execSlotLend core slot s := rfl
theorem exec_clusterTlbFill (t : Tid) : exec (.clusterTlbFill t) s = execClusterTlbFill t s := rfl
theorem exec_missEntryOpen (t : Tid) : exec (.missEntryOpen t) s = execMissEntryOpen t s := rfl
theorem exec_pageWalk (cluster asid vpage : Nat) : exec (.pageWalk cluster asid vpage) s = execPageWalk cluster asid vpage s := rfl
theorem exec_faultRecordWrite (cluster : Nat) : exec (.faultRecordWrite cluster) s = execFaultRecordWrite cluster s := rfl
theorem exec_wake (t : Tid) : exec (.wake t) s = execWake t s := rfl
theorem exec_faultReplyRetry (die : Nat) : exec (.faultReplyRetry die) s = execFaultReplyRetry die s := rfl
theorem exec_faultReplyFail (die : Nat) : exec (.faultReplyFail die) s = execFaultReplyFail die s := rfl
theorem exec_faultReplyInval (die : Nat) : exec (.faultReplyInval die) s = execFaultReplyInval die s := rfl
theorem exec_faultReplyInvasid (die : Nat) : exec (.faultReplyInvasid die) s = execFaultReplyInvasid die s := rfl
theorem exec_tlbInsert (t : Tid) : exec (.tlbInsert t) s = execTlbInsert t s := rfl
theorem exec_tlbInvpage (t : Tid) : exec (.tlbInvpage t) s = execTlbInvpage t s := rfl
theorem exec_tlbInvasid (t : Tid) : exec (.tlbInvasid t) s = execTlbInvasid t s := rfl
theorem exec_tlbInvclu (t : Tid) : exec (.tlbInvclu t) s = execTlbInvclu t s := rfl
theorem exec_ctxsyncWriteback (cluster : Nat) : exec (.ctxsyncWriteback cluster) s = execCtxsyncWriteback cluster s := rfl
theorem exec_ctxsyncDrop (cluster : Nat) : exec (.ctxsyncDrop cluster) s = execCtxsyncDrop cluster s := rfl
theorem exec_debugHaltreq (core slot : Nat) : exec (.debugHaltreq core slot) s = execDebugHaltreq core slot s := rfl
theorem exec_debugResume (core slot : Nat) : exec (.debugResume core slot) s = execDebugResume core slot s := rfl
theorem exec_lsplitWrite (core : Nat) (v : Word) : exec (.lsplitWrite core v) s = execLsplitWrite core v s := rfl
theorem exec_phasewinWrite (cluster : Nat) (v : Word) : exec (.phasewinWrite cluster v) s = execPhasewinWrite cluster v s := rfl
theorem exec_trimtabWrite (core : Nat) (hi : Bool) (v : Word) : exec (.trimtabWrite core hi v) s = execTrimtabWrite core hi v s := rfl
theorem exec_stealringLoad (t : Tid) : exec (.stealringLoad t) s = execStealringLoad t s := rfl
theorem exec_scopeWrite (t : Tid) : exec (.scopeWrite t) s = execScopeWrite t s := rfl
theorem exec_rigload (t : Tid) : exec (.rigload t) s = execRigload t s := rfl
theorem exec_snap (t : Tid) : exec (.snap t) s = execSnap t s := rfl
theorem exec_partcfgWrite (m : Master) (p : Nat) (v : Word) : exec (.partcfgWrite m p v) s = execPartcfgWrite m p v s := rfl
theorem exec_slicecfgWrite (m : Master) (die : Nat) (v : Word) : exec (.slicecfgWrite m die v) s = execSlicecfgWrite m die v s := rfl
theorem exec_outcfgWrite (m : Master) (out w : Nat) (v : Word) : exec (.outcfgWrite m out w v) s = execOutcfgWrite m out w v s := rfl
theorem exec_configWrite (m : Master) (die : Option Nat) (offset : Nat) (v : Word) : exec (.configWrite m die offset v) s = execConfigWrite m die offset v s := rfl
theorem exec_meshMessageDelivery (msg : Nat) : exec (.meshMessageDelivery msg) s = execMeshMessageDelivery msg s := rfl
theorem exec_sliceMissFill (slice line : Nat) : exec (.sliceMissFill slice line) s = execSliceMissFill slice line s := rfl
theorem exec_sliceWriteback (slice : Nat) : exec (.sliceWriteback slice) s = execSliceWriteback slice s := rfl
theorem exec_multicastWindowExpiry (slice line : Nat) : exec (.multicastWindowExpiry slice line) s = execMulticastWindowExpiry slice line s := rfl
theorem exec_hbmRefresh (die : Nat) (split : Bool) : exec (.hbmRefresh die split) s = execHbmRefresh die split s := rfl
theorem exec_directoryHop (slice : Nat) : exec (.directoryHop slice) s = execDirectoryHop slice s := rfl
theorem exec_pagingComplete (core : Nat) : exec (.pagingComplete core) s = execPagingComplete core s := rfl
theorem exec_evictionReport (slice : Nat) : exec (.evictionReport slice) s = execEvictionReport slice s := rfl
theorem exec_directoryWindowExpiry (slice : Nat) : exec (.directoryWindowExpiry slice) s = execDirectoryWindowExpiry slice s := rfl
theorem exec_travEventDelivery (core entry : Nat) : exec (.travEventDelivery core entry) s = execTravEventDelivery core entry s := rfl
theorem exec_trayRecordArrival (core : Nat) : exec (.trayRecordArrival core) s = execTrayRecordArrival core s := rfl
theorem exec_hostMemRequest (q : HostReq) : exec (.hostMemRequest q) s = execHostMemRequest q s := rfl
theorem exec_hostBackInvalidateResponse (line : Nat) (data : Option (List Byte)) : exec (.hostBackInvalidateResponse line data) s = execHostBackInvalidateResponse line data s := rfl
theorem exec_hostWriteback (line : Nat) (data : List Byte) : exec (.hostWriteback line data) s = execHostWriteback line data s := rfl
theorem exec_hostCompletion (req : Nat) (data : Option (List Byte)) : exec (.hostCompletion req data) s = execHostCompletion req data s := rfl
theorem exec_hostSnoop (addr : Nat) : exec (.hostSnoop addr) s = execHostSnoop addr s := rfl
theorem exec_stayPacketReceive (p : StayPacket) : exec (.stayPacketReceive p) s = execStayPacketReceive p s := rfl
theorem exec_stayAckReceive (ctx upto : Nat) : exec (.stayAckReceive ctx upto) s = execStayAckReceive ctx upto s := rfl
theorem exec_stayResendTimeout (ctx : Nat) : exec (.stayResendTimeout ctx) s = execStayResendTimeout ctx s := rfl
theorem exec_stayContextIdle (ctx : Nat) : exec (.stayContextIdle ctx) s = execStayContextIdle ctx s := rfl
theorem exec_stayAckTimer (rctx : Nat) : exec (.stayAckTimer rctx) s = execStayAckTimer rctx s := rfl
theorem exec_stayPortStateChange (port : Nat) (st lanes : Nat) : exec (.stayPortStateChange port st lanes) s = execStayPortStateChange port st lanes s := rfl
theorem exec_frameTimingSend : exec .frameTimingSend s = execFrameTimingSend s := rfl
theorem exec_frameTimingReceive (time tier : Nat) : exec (.frameTimingReceive time tier) s = execFrameTimingReceive time tier s := rfl
theorem exec_frameHoldoverTimeout : exec .frameHoldoverTimeout s = execFrameHoldoverTimeout s := rfl
theorem exec_presentInstant (out : Nat) : exec (.presentInstant out) s = execPresentInstant out s := rfl
theorem exec_mgmtClaim (m : Master) : exec (.mgmtClaim m) s = execMgmtClaim m s := rfl
theorem exec_mgmtOffer (m : Master) (p : Nat) : exec (.mgmtOffer m p) s = execMgmtOffer m p s := rfl
theorem exec_mgmtRelease (m : Master) : exec (.mgmtRelease m) s = execMgmtRelease m s := rfl
theorem exec_mgmtOfferExpiry : exec .mgmtOfferExpiry s = execMgmtOfferExpiry s := rfl
theorem exec_mgmtOwnerPathDown (downFor : Nat) : exec (.mgmtOwnerPathDown downFor) s = execMgmtOwnerPathDown downFor s := rfl
theorem exec_attestGo (m : Master) : exec (.attestGo m) s = execAttestGo m s := rfl
theorem exec_attestComplete : exec .attestComplete s = execAttestComplete s := rfl
theorem exec_keyLoad (m : Master) (slot : Nat) : exec (.keyLoad m slot) s = execKeyLoad m slot s := rfl
theorem exec_keyErase (m : Master) (slot : Nat) : exec (.keyErase m slot) s = execKeyErase m slot s := rfl
theorem exec_storageError (e : StorageErr) : exec (.storageError e) s = execStorageError e s := rfl
theorem exec_fenceGo (m : Master) (v : Word) : exec (.fenceGo m v) s = execFenceGo m v s := rfl
theorem exec_drainSet (m : Master) : exec (.drainSet m) s = execDrainSet m s := rfl
theorem exec_drainClear (m : Master) : exec (.drainClear m) s = execDrainClear m s := rfl
theorem exec_drainComplete : exec .drainComplete s = execDrainComplete s := rfl
theorem exec_powerControlTick (die level junction : Nat) : exec (.powerControlTick die level junction) s = execPowerControlTick die level junction s := rfl
theorem exec_thermalAlert (die : Nat) : exec (.thermalAlert die) s = execThermalAlert die s := rfl
theorem exec_thermtrip (die : Nat) : exec (.thermtrip die) s = execThermtrip die s := rfl
theorem exec_reset : exec .reset s = execReset s := rfl
theorem exec_contextSaveComplete (core slot : Nat) : exec (.contextSaveComplete core slot) s = execContextSaveComplete core slot s := rfl

end Sys2Proof.Machine
end

