-- ==== Sys2Proof/Laws/Map.lean ====
section
/-!
SUPPORT. Sparse tables: a read after a write gives what was written, and a write leaves every other key alone.
-/
namespace Sys2Proof

@[simp] theorem Map.find_put_same {α : Type} (m : Map α) (n : Nat) (a : α) : (m.put n a).find n = some a := by
  induction m with
  | nil => simp [Map.put, Map.find]
  | cons x t ih =>
    obtain ⟨k, b⟩ := x
    simp only [Map.put]
    split
    · simp [Map.find]
    · split
      · simp [Map.find]
      · have h : k ≠ n := fun h => by simp_all
        simp [Map.find, h, ih]

theorem Map.find_put_other {α : Type} (m : Map α) (n n' : Nat) (a : α) (h : n' ≠ n) : (m.put n a).find n' = m.find n' := by
  induction m with
  | nil => simp [Map.put, Map.find, h.symm]
  | cons x t ih =>
    obtain ⟨k, b⟩ := x
    simp only [Map.put]
    split
    · simp [Map.find, h.symm]
    · split
      · rename_i h2
        subst h2
        simp [Map.find, h.symm]
      · simp [Map.find, ih]

theorem Map.find_del_other {α : Type} (m : Map α) (n n' : Nat) (h : n' ≠ n) : (m.del n).find n' = m.find n' := by
  induction m with
  | nil => rfl
  | cons x t ih =>
    obtain ⟨k, b⟩ := x
    simp only [Map.del]
    split
    · rename_i h2; subst h2; simp [Map.find, h.symm, ih]
    · simp [Map.find, ih]

@[simp] theorem Map.find_del_same {α : Type} (m : Map α) (n : Nat) : (m.del n).find n = none := by
  induction m with
  | nil => rfl
  | cons x t ih =>
    obtain ⟨k, b⟩ := x
    simp only [Map.del]
    split
    · exact ih
    · rename_i h2; simp [Map.find, h2, ih]

/-- What a table gives for a key stands in it. -/
theorem Map.mem_of_find {α : Type} {m : Map α} {n : Nat} {a : α} (h : m.find n = some a) : (n, a) ∈ m := by
  induction m with
  | nil => cases h
  | cons x t ih =>
    obtain ⟨k, b⟩ := x
    simp only [Map.find] at h
    split at h
    · rename_i h2; cases h; exact h2 ▸ List.mem_cons_self ..
    · exact List.mem_cons_of_mem _ (ih h)

end Sys2Proof
end

