-- ==== Sys2Proof/Laws/State.lean ====
section
/-!
SUPPORT. What each named update of State leaves alone, field by field (each by rfl), and what the tables read after it.
-/
namespace Sys2Proof.Machine

variable (s : State)

@[simp] theorem setCore_clk (c : Nat) (k : Core) : (s.setCore c k).clk = s.clk := rfl
@[simp] theorem setCore_mem (c : Nat) (k : Core) : (s.setCore c k).mem = s.mem := rfl
@[simp] theorem setCore_clusters (c : Nat) (k : Core) : (s.setCore c k).clusters = s.clusters := rfl
@[simp] theorem setCore_dieTab (c : Nat) (k : Core) : (s.setCore c k).dieTab = s.dieTab := rfl
@[simp] theorem setCore_parts (c : Nat) (k : Core) : (s.setCore c k).parts = s.parts := rfl
@[simp] theorem setCore_launches (c : Nat) (k : Core) : (s.setCore c k).launches = s.launches := rfl
@[simp] theorem setCore_fabnum (c : Nat) (k : Core) : (s.setCore c k).fabnum = s.fabnum := rfl
@[simp] theorem setCore_waysScratch (c : Nat) (k : Core) : (s.setCore c k).waysScratch = s.waysScratch := rfl
@[simp] theorem setCore_waysDisabled (c : Nat) (k : Core) : (s.setCore c k).waysDisabled = s.waysDisabled := rfl
@[simp] theorem setCore_sliceTab (c : Nat) (k : Core) : (s.setCore c k).sliceTab = s.sliceTab := rfl
@[simp] theorem setCore_tasks (c : Nat) (k : Core) : (s.setCore c k).tasks = s.tasks := rfl
@[simp] theorem setCore_frame (c : Nat) (k : Core) : (s.setCore c k).frame = s.frame := rfl
@[simp] theorem setCore_mgmt (c : Nat) (k : Core) : (s.setCore c k).mgmt = s.mgmt := rfl
@[simp] theorem setCore_stayCtx (c : Nat) (k : Core) : (s.setCore c k).stayCtx = s.stayCtx := rfl
@[simp] theorem setCore_stayBurst (c : Nat) (k : Core) : (s.setCore c k).stayBurst = s.stayBurst := rfl
@[simp] theorem setCore_stayRecv (c : Nat) (k : Core) : (s.setCore c k).stayRecv = s.stayRecv := rfl
@[simp] theorem setCore_hostWait (c : Nat) (k : Core) : (s.setCore c k).hostWait = s.hostWait := rfl
@[simp] theorem setCore_sent (c : Nat) (k : Core) : (s.setCore c k).sent = s.sent := rfl
@[simp] theorem setCore_lineKeys (c : Nat) (k : Core) : (s.setCore c k).lineKeys = s.lineKeys := rfl
@[simp] theorem setCore_lineOrigin (c : Nat) (k : Core) : (s.setCore c k).lineOrigin = s.lineOrigin := rfl
@[simp] theorem setCore_devWait (c : Nat) (k : Core) : (s.setCore c k).devWait = s.devWait := rfl
@[simp] theorem setCore_rigs (c : Nat) (k : Core) : (s.setCore c k).rigs = s.rigs := rfl
@[simp] theorem setCore_reqs (c : Nat) (k : Core) : (s.setCore c k).reqs = s.reqs := rfl
@[simp] theorem setCore_msgs (c : Nat) (k : Core) : (s.setCore c k).msgs = s.msgs := rfl
@[simp] theorem setCore_routes (c : Nat) (k : Core) : (s.setCore c k).routes = s.routes := rfl
@[simp] theorem setCore_fifos (c : Nat) (k : Core) : (s.setCore c k).fifos = s.fifos := rfl
@[simp] theorem setCore_watchers (c : Nat) (k : Core) : (s.setCore c k).watchers = s.watchers := rfl
@[simp] theorem setCore_poison (c : Nat) (k : Core) : (s.setCore c k).poison = s.poison := rfl
@[simp] theorem setCore_visitors (c : Nat) (k : Core) : (s.setCore c k).visitors = s.visitors := rfl
@[simp] theorem setCore_dirty (c : Nat) (k : Core) : (s.setCore c k).dirty = s.dirty := rfl
@[simp] theorem setCore_marks (c : Nat) (k : Core) : (s.setCore c k).marks = s.marks := rfl
@[simp] theorem setCore_issue (c : Nat) (k : Core) : (s.setCore c k).issue = s.issue := rfl
@[simp] theorem setCore_todo (c : Nat) (k : Core) : (s.setCore c k).todo = s.todo := rfl
@[simp] theorem setCore_agenda (c : Nat) (k : Core) : (s.setCore c k).agenda = s.agenda := rfl
@[simp] theorem setCore_turns (c : Nat) (k : Core) : (s.setCore c k).turns = s.turns := rfl
@[simp] theorem setCore_fresh (c : Nat) (k : Core) : (s.setCore c k).fresh = s.fresh := rfl
@[simp] theorem setCore_resetClk (c : Nat) (k : Core) : (s.setCore c k).resetClk = s.resetClk := rfl
@[simp] theorem setCore_waysChanging (c : Nat) (k : Core) : (s.setCore c k).waysChanging = s.waysChanging := rfl
@[simp] theorem setCore_past (c : Nat) (k : Core) : (s.setCore c k).past = s.past := rfl
@[simp] theorem setCore_lastWrite (c : Nat) (k : Core) : (s.setCore c k).lastWrite = s.lastWrite := rfl
@[simp] theorem setCore_due (c : Nat) (k : Core) : (s.setCore c k).due = s.due := rfl
@[simp] theorem setCore_closing (c : Nat) (k : Core) : (s.setCore c k).closing = s.closing := rfl
@[simp] theorem setCore_freeCtr (c : Nat) (k : Core) : (s.setCore c k).freeCtr = s.freeCtr := rfl

@[simp] theorem setCluster_clk (c : Nat) (k : Cluster) : (s.setCluster c k).clk = s.clk := rfl
@[simp] theorem setCluster_mem (c : Nat) (k : Cluster) : (s.setCluster c k).mem = s.mem := rfl
@[simp] theorem setCluster_cores (c : Nat) (k : Cluster) : (s.setCluster c k).cores = s.cores := rfl
@[simp] theorem setCluster_dieTab (c : Nat) (k : Cluster) : (s.setCluster c k).dieTab = s.dieTab := rfl
@[simp] theorem setCluster_parts (c : Nat) (k : Cluster) : (s.setCluster c k).parts = s.parts := rfl
@[simp] theorem setCluster_launches (c : Nat) (k : Cluster) : (s.setCluster c k).launches = s.launches := rfl
@[simp] theorem setCluster_fabnum (c : Nat) (k : Cluster) : (s.setCluster c k).fabnum = s.fabnum := rfl
@[simp] theorem setCluster_waysScratch (c : Nat) (k : Cluster) : (s.setCluster c k).waysScratch = s.waysScratch := rfl
@[simp] theorem setCluster_waysDisabled (c : Nat) (k : Cluster) : (s.setCluster c k).waysDisabled = s.waysDisabled := rfl
@[simp] theorem setCluster_sliceTab (c : Nat) (k : Cluster) : (s.setCluster c k).sliceTab = s.sliceTab := rfl
@[simp] theorem setCluster_tasks (c : Nat) (k : Cluster) : (s.setCluster c k).tasks = s.tasks := rfl
@[simp] theorem setCluster_frame (c : Nat) (k : Cluster) : (s.setCluster c k).frame = s.frame := rfl
@[simp] theorem setCluster_mgmt (c : Nat) (k : Cluster) : (s.setCluster c k).mgmt = s.mgmt := rfl
@[simp] theorem setCluster_stayCtx (c : Nat) (k : Cluster) : (s.setCluster c k).stayCtx = s.stayCtx := rfl
@[simp] theorem setCluster_stayBurst (c : Nat) (k : Cluster) : (s.setCluster c k).stayBurst = s.stayBurst := rfl
@[simp] theorem setCluster_stayRecv (c : Nat) (k : Cluster) : (s.setCluster c k).stayRecv = s.stayRecv := rfl
@[simp] theorem setCluster_hostWait (c : Nat) (k : Cluster) : (s.setCluster c k).hostWait = s.hostWait := rfl
@[simp] theorem setCluster_sent (c : Nat) (k : Cluster) : (s.setCluster c k).sent = s.sent := rfl
@[simp] theorem setCluster_lineKeys (c : Nat) (k : Cluster) : (s.setCluster c k).lineKeys = s.lineKeys := rfl
@[simp] theorem setCluster_lineOrigin (c : Nat) (k : Cluster) : (s.setCluster c k).lineOrigin = s.lineOrigin := rfl
@[simp] theorem setCluster_devWait (c : Nat) (k : Cluster) : (s.setCluster c k).devWait = s.devWait := rfl
@[simp] theorem setCluster_rigs (c : Nat) (k : Cluster) : (s.setCluster c k).rigs = s.rigs := rfl
@[simp] theorem setCluster_reqs (c : Nat) (k : Cluster) : (s.setCluster c k).reqs = s.reqs := rfl
@[simp] theorem setCluster_msgs (c : Nat) (k : Cluster) : (s.setCluster c k).msgs = s.msgs := rfl
@[simp] theorem setCluster_routes (c : Nat) (k : Cluster) : (s.setCluster c k).routes = s.routes := rfl
@[simp] theorem setCluster_fifos (c : Nat) (k : Cluster) : (s.setCluster c k).fifos = s.fifos := rfl
@[simp] theorem setCluster_watchers (c : Nat) (k : Cluster) : (s.setCluster c k).watchers = s.watchers := rfl
@[simp] theorem setCluster_poison (c : Nat) (k : Cluster) : (s.setCluster c k).poison = s.poison := rfl
@[simp] theorem setCluster_visitors (c : Nat) (k : Cluster) : (s.setCluster c k).visitors = s.visitors := rfl
@[simp] theorem setCluster_dirty (c : Nat) (k : Cluster) : (s.setCluster c k).dirty = s.dirty := rfl
@[simp] theorem setCluster_marks (c : Nat) (k : Cluster) : (s.setCluster c k).marks = s.marks := rfl
@[simp] theorem setCluster_issue (c : Nat) (k : Cluster) : (s.setCluster c k).issue = s.issue := rfl
@[simp] theorem setCluster_todo (c : Nat) (k : Cluster) : (s.setCluster c k).todo = s.todo := rfl
@[simp] theorem setCluster_agenda (c : Nat) (k : Cluster) : (s.setCluster c k).agenda = s.agenda := rfl
@[simp] theorem setCluster_turns (c : Nat) (k : Cluster) : (s.setCluster c k).turns = s.turns := rfl
@[simp] theorem setCluster_fresh (c : Nat) (k : Cluster) : (s.setCluster c k).fresh = s.fresh := rfl
@[simp] theorem setCluster_resetClk (c : Nat) (k : Cluster) : (s.setCluster c k).resetClk = s.resetClk := rfl
@[simp] theorem setCluster_waysChanging (c : Nat) (k : Cluster) : (s.setCluster c k).waysChanging = s.waysChanging := rfl
@[simp] theorem setCluster_past (c : Nat) (k : Cluster) : (s.setCluster c k).past = s.past := rfl
@[simp] theorem setCluster_lastWrite (c : Nat) (k : Cluster) : (s.setCluster c k).lastWrite = s.lastWrite := rfl
@[simp] theorem setCluster_due (c : Nat) (k : Cluster) : (s.setCluster c k).due = s.due := rfl
@[simp] theorem setCluster_closing (c : Nat) (k : Cluster) : (s.setCluster c k).closing = s.closing := rfl
@[simp] theorem setCluster_freeCtr (c : Nat) (k : Cluster) : (s.setCluster c k).freeCtr = s.freeCtr := rfl

@[simp] theorem setDie_clk (d : Nat) (x : Die) : (s.setDie d x).clk = s.clk := rfl
@[simp] theorem setDie_mem (d : Nat) (x : Die) : (s.setDie d x).mem = s.mem := rfl
@[simp] theorem setDie_cores (d : Nat) (x : Die) : (s.setDie d x).cores = s.cores := rfl
@[simp] theorem setDie_clusters (d : Nat) (x : Die) : (s.setDie d x).clusters = s.clusters := rfl
@[simp] theorem setDie_parts (d : Nat) (x : Die) : (s.setDie d x).parts = s.parts := rfl
@[simp] theorem setDie_launches (d : Nat) (x : Die) : (s.setDie d x).launches = s.launches := rfl
@[simp] theorem setDie_fabnum (d : Nat) (x : Die) : (s.setDie d x).fabnum = s.fabnum := rfl
@[simp] theorem setDie_waysScratch (d : Nat) (x : Die) : (s.setDie d x).waysScratch = s.waysScratch := rfl
@[simp] theorem setDie_waysDisabled (d : Nat) (x : Die) : (s.setDie d x).waysDisabled = s.waysDisabled := rfl
@[simp] theorem setDie_sliceTab (d : Nat) (x : Die) : (s.setDie d x).sliceTab = s.sliceTab := rfl
@[simp] theorem setDie_tasks (d : Nat) (x : Die) : (s.setDie d x).tasks = s.tasks := rfl
@[simp] theorem setDie_frame (d : Nat) (x : Die) : (s.setDie d x).frame = s.frame := rfl
@[simp] theorem setDie_mgmt (d : Nat) (x : Die) : (s.setDie d x).mgmt = s.mgmt := rfl
@[simp] theorem setDie_stayCtx (d : Nat) (x : Die) : (s.setDie d x).stayCtx = s.stayCtx := rfl
@[simp] theorem setDie_stayBurst (d : Nat) (x : Die) : (s.setDie d x).stayBurst = s.stayBurst := rfl
@[simp] theorem setDie_stayRecv (d : Nat) (x : Die) : (s.setDie d x).stayRecv = s.stayRecv := rfl
@[simp] theorem setDie_hostWait (d : Nat) (x : Die) : (s.setDie d x).hostWait = s.hostWait := rfl
@[simp] theorem setDie_sent (d : Nat) (x : Die) : (s.setDie d x).sent = s.sent := rfl
@[simp] theorem setDie_lineKeys (d : Nat) (x : Die) : (s.setDie d x).lineKeys = s.lineKeys := rfl
@[simp] theorem setDie_lineOrigin (d : Nat) (x : Die) : (s.setDie d x).lineOrigin = s.lineOrigin := rfl
@[simp] theorem setDie_devWait (d : Nat) (x : Die) : (s.setDie d x).devWait = s.devWait := rfl
@[simp] theorem setDie_rigs (d : Nat) (x : Die) : (s.setDie d x).rigs = s.rigs := rfl
@[simp] theorem setDie_reqs (d : Nat) (x : Die) : (s.setDie d x).reqs = s.reqs := rfl
@[simp] theorem setDie_msgs (d : Nat) (x : Die) : (s.setDie d x).msgs = s.msgs := rfl
@[simp] theorem setDie_routes (d : Nat) (x : Die) : (s.setDie d x).routes = s.routes := rfl
@[simp] theorem setDie_fifos (d : Nat) (x : Die) : (s.setDie d x).fifos = s.fifos := rfl
@[simp] theorem setDie_watchers (d : Nat) (x : Die) : (s.setDie d x).watchers = s.watchers := rfl
@[simp] theorem setDie_poison (d : Nat) (x : Die) : (s.setDie d x).poison = s.poison := rfl
@[simp] theorem setDie_visitors (d : Nat) (x : Die) : (s.setDie d x).visitors = s.visitors := rfl
@[simp] theorem setDie_dirty (d : Nat) (x : Die) : (s.setDie d x).dirty = s.dirty := rfl
@[simp] theorem setDie_marks (d : Nat) (x : Die) : (s.setDie d x).marks = s.marks := rfl
@[simp] theorem setDie_issue (d : Nat) (x : Die) : (s.setDie d x).issue = s.issue := rfl
@[simp] theorem setDie_todo (d : Nat) (x : Die) : (s.setDie d x).todo = s.todo := rfl
@[simp] theorem setDie_agenda (d : Nat) (x : Die) : (s.setDie d x).agenda = s.agenda := rfl
@[simp] theorem setDie_turns (d : Nat) (x : Die) : (s.setDie d x).turns = s.turns := rfl
@[simp] theorem setDie_fresh (d : Nat) (x : Die) : (s.setDie d x).fresh = s.fresh := rfl
@[simp] theorem setDie_resetClk (d : Nat) (x : Die) : (s.setDie d x).resetClk = s.resetClk := rfl
@[simp] theorem setDie_waysChanging (d : Nat) (x : Die) : (s.setDie d x).waysChanging = s.waysChanging := rfl
@[simp] theorem setDie_past (d : Nat) (x : Die) : (s.setDie d x).past = s.past := rfl
@[simp] theorem setDie_lastWrite (d : Nat) (x : Die) : (s.setDie d x).lastWrite = s.lastWrite := rfl
@[simp] theorem setDie_due (d : Nat) (x : Die) : (s.setDie d x).due = s.due := rfl
@[simp] theorem setDie_closing (d : Nat) (x : Die) : (s.setDie d x).closing = s.closing := rfl
@[simp] theorem setDie_freeCtr (d : Nat) (x : Die) : (s.setDie d x).freeCtr = s.freeCtr := rfl

@[simp] theorem setPart_clk (p : Nat) (x : Part) : (s.setPart p x).clk = s.clk := rfl
@[simp] theorem setPart_mem (p : Nat) (x : Part) : (s.setPart p x).mem = s.mem := rfl
@[simp] theorem setPart_cores (p : Nat) (x : Part) : (s.setPart p x).cores = s.cores := rfl
@[simp] theorem setPart_clusters (p : Nat) (x : Part) : (s.setPart p x).clusters = s.clusters := rfl
@[simp] theorem setPart_dieTab (p : Nat) (x : Part) : (s.setPart p x).dieTab = s.dieTab := rfl
@[simp] theorem setPart_launches (p : Nat) (x : Part) : (s.setPart p x).launches = s.launches := rfl
@[simp] theorem setPart_fabnum (p : Nat) (x : Part) : (s.setPart p x).fabnum = s.fabnum := rfl
@[simp] theorem setPart_waysScratch (p : Nat) (x : Part) : (s.setPart p x).waysScratch = s.waysScratch := rfl
@[simp] theorem setPart_waysDisabled (p : Nat) (x : Part) : (s.setPart p x).waysDisabled = s.waysDisabled := rfl
@[simp] theorem setPart_sliceTab (p : Nat) (x : Part) : (s.setPart p x).sliceTab = s.sliceTab := rfl
@[simp] theorem setPart_tasks (p : Nat) (x : Part) : (s.setPart p x).tasks = s.tasks := rfl
@[simp] theorem setPart_frame (p : Nat) (x : Part) : (s.setPart p x).frame = s.frame := rfl
@[simp] theorem setPart_mgmt (p : Nat) (x : Part) : (s.setPart p x).mgmt = s.mgmt := rfl
@[simp] theorem setPart_stayCtx (p : Nat) (x : Part) : (s.setPart p x).stayCtx = s.stayCtx := rfl
@[simp] theorem setPart_stayBurst (p : Nat) (x : Part) : (s.setPart p x).stayBurst = s.stayBurst := rfl
@[simp] theorem setPart_stayRecv (p : Nat) (x : Part) : (s.setPart p x).stayRecv = s.stayRecv := rfl
@[simp] theorem setPart_hostWait (p : Nat) (x : Part) : (s.setPart p x).hostWait = s.hostWait := rfl
@[simp] theorem setPart_sent (p : Nat) (x : Part) : (s.setPart p x).sent = s.sent := rfl
@[simp] theorem setPart_lineKeys (p : Nat) (x : Part) : (s.setPart p x).lineKeys = s.lineKeys := rfl
@[simp] theorem setPart_lineOrigin (p : Nat) (x : Part) : (s.setPart p x).lineOrigin = s.lineOrigin := rfl
@[simp] theorem setPart_devWait (p : Nat) (x : Part) : (s.setPart p x).devWait = s.devWait := rfl
@[simp] theorem setPart_rigs (p : Nat) (x : Part) : (s.setPart p x).rigs = s.rigs := rfl
@[simp] theorem setPart_reqs (p : Nat) (x : Part) : (s.setPart p x).reqs = s.reqs := rfl
@[simp] theorem setPart_msgs (p : Nat) (x : Part) : (s.setPart p x).msgs = s.msgs := rfl
@[simp] theorem setPart_routes (p : Nat) (x : Part) : (s.setPart p x).routes = s.routes := rfl
@[simp] theorem setPart_fifos (p : Nat) (x : Part) : (s.setPart p x).fifos = s.fifos := rfl
@[simp] theorem setPart_watchers (p : Nat) (x : Part) : (s.setPart p x).watchers = s.watchers := rfl
@[simp] theorem setPart_poison (p : Nat) (x : Part) : (s.setPart p x).poison = s.poison := rfl
@[simp] theorem setPart_visitors (p : Nat) (x : Part) : (s.setPart p x).visitors = s.visitors := rfl
@[simp] theorem setPart_dirty (p : Nat) (x : Part) : (s.setPart p x).dirty = s.dirty := rfl
@[simp] theorem setPart_marks (p : Nat) (x : Part) : (s.setPart p x).marks = s.marks := rfl
@[simp] theorem setPart_issue (p : Nat) (x : Part) : (s.setPart p x).issue = s.issue := rfl
@[simp] theorem setPart_todo (p : Nat) (x : Part) : (s.setPart p x).todo = s.todo := rfl
@[simp] theorem setPart_agenda (p : Nat) (x : Part) : (s.setPart p x).agenda = s.agenda := rfl
@[simp] theorem setPart_turns (p : Nat) (x : Part) : (s.setPart p x).turns = s.turns := rfl
@[simp] theorem setPart_fresh (p : Nat) (x : Part) : (s.setPart p x).fresh = s.fresh := rfl
@[simp] theorem setPart_resetClk (p : Nat) (x : Part) : (s.setPart p x).resetClk = s.resetClk := rfl
@[simp] theorem setPart_waysChanging (p : Nat) (x : Part) : (s.setPart p x).waysChanging = s.waysChanging := rfl
@[simp] theorem setPart_past (p : Nat) (x : Part) : (s.setPart p x).past = s.past := rfl
@[simp] theorem setPart_lastWrite (p : Nat) (x : Part) : (s.setPart p x).lastWrite = s.lastWrite := rfl
@[simp] theorem setPart_due (p : Nat) (x : Part) : (s.setPart p x).due = s.due := rfl
@[simp] theorem setPart_closing (p : Nat) (x : Part) : (s.setPart p x).closing = s.closing := rfl
@[simp] theorem setPart_freeCtr (p : Nat) (x : Part) : (s.setPart p x).freeCtr = s.freeCtr := rfl

@[simp] theorem modCore_clk (c : Nat) (f : Core → Core) : (s.modCore c f).clk = s.clk := rfl
@[simp] theorem modCore_mem (c : Nat) (f : Core → Core) : (s.modCore c f).mem = s.mem := rfl
@[simp] theorem modCore_clusters (c : Nat) (f : Core → Core) : (s.modCore c f).clusters = s.clusters := rfl
@[simp] theorem modCore_dieTab (c : Nat) (f : Core → Core) : (s.modCore c f).dieTab = s.dieTab := rfl
@[simp] theorem modCore_parts (c : Nat) (f : Core → Core) : (s.modCore c f).parts = s.parts := rfl
@[simp] theorem modCore_launches (c : Nat) (f : Core → Core) : (s.modCore c f).launches = s.launches := rfl
@[simp] theorem modCore_fabnum (c : Nat) (f : Core → Core) : (s.modCore c f).fabnum = s.fabnum := rfl
@[simp] theorem modCore_waysScratch (c : Nat) (f : Core → Core) : (s.modCore c f).waysScratch = s.waysScratch := rfl
@[simp] theorem modCore_waysDisabled (c : Nat) (f : Core → Core) : (s.modCore c f).waysDisabled = s.waysDisabled := rfl
@[simp] theorem modCore_sliceTab (c : Nat) (f : Core → Core) : (s.modCore c f).sliceTab = s.sliceTab := rfl
@[simp] theorem modCore_tasks (c : Nat) (f : Core → Core) : (s.modCore c f).tasks = s.tasks := rfl
@[simp] theorem modCore_frame (c : Nat) (f : Core → Core) : (s.modCore c f).frame = s.frame := rfl
@[simp] theorem modCore_mgmt (c : Nat) (f : Core → Core) : (s.modCore c f).mgmt = s.mgmt := rfl
@[simp] theorem modCore_stayCtx (c : Nat) (f : Core → Core) : (s.modCore c f).stayCtx = s.stayCtx := rfl
@[simp] theorem modCore_stayBurst (c : Nat) (f : Core → Core) : (s.modCore c f).stayBurst = s.stayBurst := rfl
@[simp] theorem modCore_stayRecv (c : Nat) (f : Core → Core) : (s.modCore c f).stayRecv = s.stayRecv := rfl
@[simp] theorem modCore_hostWait (c : Nat) (f : Core → Core) : (s.modCore c f).hostWait = s.hostWait := rfl
@[simp] theorem modCore_sent (c : Nat) (f : Core → Core) : (s.modCore c f).sent = s.sent := rfl
@[simp] theorem modCore_lineKeys (c : Nat) (f : Core → Core) : (s.modCore c f).lineKeys = s.lineKeys := rfl
@[simp] theorem modCore_lineOrigin (c : Nat) (f : Core → Core) : (s.modCore c f).lineOrigin = s.lineOrigin := rfl
@[simp] theorem modCore_devWait (c : Nat) (f : Core → Core) : (s.modCore c f).devWait = s.devWait := rfl
@[simp] theorem modCore_rigs (c : Nat) (f : Core → Core) : (s.modCore c f).rigs = s.rigs := rfl
@[simp] theorem modCore_reqs (c : Nat) (f : Core → Core) : (s.modCore c f).reqs = s.reqs := rfl
@[simp] theorem modCore_msgs (c : Nat) (f : Core → Core) : (s.modCore c f).msgs = s.msgs := rfl
@[simp] theorem modCore_routes (c : Nat) (f : Core → Core) : (s.modCore c f).routes = s.routes := rfl
@[simp] theorem modCore_fifos (c : Nat) (f : Core → Core) : (s.modCore c f).fifos = s.fifos := rfl
@[simp] theorem modCore_watchers (c : Nat) (f : Core → Core) : (s.modCore c f).watchers = s.watchers := rfl
@[simp] theorem modCore_poison (c : Nat) (f : Core → Core) : (s.modCore c f).poison = s.poison := rfl
@[simp] theorem modCore_visitors (c : Nat) (f : Core → Core) : (s.modCore c f).visitors = s.visitors := rfl
@[simp] theorem modCore_dirty (c : Nat) (f : Core → Core) : (s.modCore c f).dirty = s.dirty := rfl
@[simp] theorem modCore_marks (c : Nat) (f : Core → Core) : (s.modCore c f).marks = s.marks := rfl
@[simp] theorem modCore_issue (c : Nat) (f : Core → Core) : (s.modCore c f).issue = s.issue := rfl
@[simp] theorem modCore_todo (c : Nat) (f : Core → Core) : (s.modCore c f).todo = s.todo := rfl
@[simp] theorem modCore_agenda (c : Nat) (f : Core → Core) : (s.modCore c f).agenda = s.agenda := rfl
@[simp] theorem modCore_turns (c : Nat) (f : Core → Core) : (s.modCore c f).turns = s.turns := rfl
@[simp] theorem modCore_fresh (c : Nat) (f : Core → Core) : (s.modCore c f).fresh = s.fresh := rfl
@[simp] theorem modCore_resetClk (c : Nat) (f : Core → Core) : (s.modCore c f).resetClk = s.resetClk := rfl
@[simp] theorem modCore_waysChanging (c : Nat) (f : Core → Core) : (s.modCore c f).waysChanging = s.waysChanging := rfl
@[simp] theorem modCore_past (c : Nat) (f : Core → Core) : (s.modCore c f).past = s.past := rfl
@[simp] theorem modCore_lastWrite (c : Nat) (f : Core → Core) : (s.modCore c f).lastWrite = s.lastWrite := rfl
@[simp] theorem modCore_due (c : Nat) (f : Core → Core) : (s.modCore c f).due = s.due := rfl
@[simp] theorem modCore_closing (c : Nat) (f : Core → Core) : (s.modCore c f).closing = s.closing := rfl
@[simp] theorem modCore_freeCtr (c : Nat) (f : Core → Core) : (s.modCore c f).freeCtr = s.freeCtr := rfl

@[simp] theorem modCluster_clk (c : Nat) (f : Cluster → Cluster) : (s.modCluster c f).clk = s.clk := rfl
@[simp] theorem modCluster_mem (c : Nat) (f : Cluster → Cluster) : (s.modCluster c f).mem = s.mem := rfl
@[simp] theorem modCluster_cores (c : Nat) (f : Cluster → Cluster) : (s.modCluster c f).cores = s.cores := rfl
@[simp] theorem modCluster_dieTab (c : Nat) (f : Cluster → Cluster) : (s.modCluster c f).dieTab = s.dieTab := rfl
@[simp] theorem modCluster_parts (c : Nat) (f : Cluster → Cluster) : (s.modCluster c f).parts = s.parts := rfl
@[simp] theorem modCluster_launches (c : Nat) (f : Cluster → Cluster) : (s.modCluster c f).launches = s.launches := rfl
@[simp] theorem modCluster_fabnum (c : Nat) (f : Cluster → Cluster) : (s.modCluster c f).fabnum = s.fabnum := rfl
@[simp] theorem modCluster_waysScratch (c : Nat) (f : Cluster → Cluster) : (s.modCluster c f).waysScratch = s.waysScratch := rfl
@[simp] theorem modCluster_waysDisabled (c : Nat) (f : Cluster → Cluster) : (s.modCluster c f).waysDisabled = s.waysDisabled := rfl
@[simp] theorem modCluster_sliceTab (c : Nat) (f : Cluster → Cluster) : (s.modCluster c f).sliceTab = s.sliceTab := rfl
@[simp] theorem modCluster_tasks (c : Nat) (f : Cluster → Cluster) : (s.modCluster c f).tasks = s.tasks := rfl
@[simp] theorem modCluster_frame (c : Nat) (f : Cluster → Cluster) : (s.modCluster c f).frame = s.frame := rfl
@[simp] theorem modCluster_mgmt (c : Nat) (f : Cluster → Cluster) : (s.modCluster c f).mgmt = s.mgmt := rfl
@[simp] theorem modCluster_stayCtx (c : Nat) (f : Cluster → Cluster) : (s.modCluster c f).stayCtx = s.stayCtx := rfl
@[simp] theorem modCluster_stayBurst (c : Nat) (f : Cluster → Cluster) : (s.modCluster c f).stayBurst = s.stayBurst := rfl
@[simp] theorem modCluster_stayRecv (c : Nat) (f : Cluster → Cluster) : (s.modCluster c f).stayRecv = s.stayRecv := rfl
@[simp] theorem modCluster_hostWait (c : Nat) (f : Cluster → Cluster) : (s.modCluster c f).hostWait = s.hostWait := rfl
@[simp] theorem modCluster_sent (c : Nat) (f : Cluster → Cluster) : (s.modCluster c f).sent = s.sent := rfl
@[simp] theorem modCluster_lineKeys (c : Nat) (f : Cluster → Cluster) : (s.modCluster c f).lineKeys = s.lineKeys := rfl
@[simp] theorem modCluster_lineOrigin (c : Nat) (f : Cluster → Cluster) : (s.modCluster c f).lineOrigin = s.lineOrigin := rfl
@[simp] theorem modCluster_devWait (c : Nat) (f : Cluster → Cluster) : (s.modCluster c f).devWait = s.devWait := rfl
@[simp] theorem modCluster_rigs (c : Nat) (f : Cluster → Cluster) : (s.modCluster c f).rigs = s.rigs := rfl
@[simp] theorem modCluster_reqs (c : Nat) (f : Cluster → Cluster) : (s.modCluster c f).reqs = s.reqs := rfl
@[simp] theorem modCluster_msgs (c : Nat) (f : Cluster → Cluster) : (s.modCluster c f).msgs = s.msgs := rfl
@[simp] theorem modCluster_routes (c : Nat) (f : Cluster → Cluster) : (s.modCluster c f).routes = s.routes := rfl
@[simp] theorem modCluster_fifos (c : Nat) (f : Cluster → Cluster) : (s.modCluster c f).fifos = s.fifos := rfl
@[simp] theorem modCluster_watchers (c : Nat) (f : Cluster → Cluster) : (s.modCluster c f).watchers = s.watchers := rfl
@[simp] theorem modCluster_poison (c : Nat) (f : Cluster → Cluster) : (s.modCluster c f).poison = s.poison := rfl
@[simp] theorem modCluster_visitors (c : Nat) (f : Cluster → Cluster) : (s.modCluster c f).visitors = s.visitors := rfl
@[simp] theorem modCluster_dirty (c : Nat) (f : Cluster → Cluster) : (s.modCluster c f).dirty = s.dirty := rfl
@[simp] theorem modCluster_marks (c : Nat) (f : Cluster → Cluster) : (s.modCluster c f).marks = s.marks := rfl
@[simp] theorem modCluster_issue (c : Nat) (f : Cluster → Cluster) : (s.modCluster c f).issue = s.issue := rfl
@[simp] theorem modCluster_todo (c : Nat) (f : Cluster → Cluster) : (s.modCluster c f).todo = s.todo := rfl
@[simp] theorem modCluster_agenda (c : Nat) (f : Cluster → Cluster) : (s.modCluster c f).agenda = s.agenda := rfl
@[simp] theorem modCluster_turns (c : Nat) (f : Cluster → Cluster) : (s.modCluster c f).turns = s.turns := rfl
@[simp] theorem modCluster_fresh (c : Nat) (f : Cluster → Cluster) : (s.modCluster c f).fresh = s.fresh := rfl
@[simp] theorem modCluster_resetClk (c : Nat) (f : Cluster → Cluster) : (s.modCluster c f).resetClk = s.resetClk := rfl
@[simp] theorem modCluster_waysChanging (c : Nat) (f : Cluster → Cluster) : (s.modCluster c f).waysChanging = s.waysChanging := rfl
@[simp] theorem modCluster_past (c : Nat) (f : Cluster → Cluster) : (s.modCluster c f).past = s.past := rfl
@[simp] theorem modCluster_lastWrite (c : Nat) (f : Cluster → Cluster) : (s.modCluster c f).lastWrite = s.lastWrite := rfl
@[simp] theorem modCluster_due (c : Nat) (f : Cluster → Cluster) : (s.modCluster c f).due = s.due := rfl
@[simp] theorem modCluster_closing (c : Nat) (f : Cluster → Cluster) : (s.modCluster c f).closing = s.closing := rfl
@[simp] theorem modCluster_freeCtr (c : Nat) (f : Cluster → Cluster) : (s.modCluster c f).freeCtr = s.freeCtr := rfl

@[simp] theorem modDie_clk (d : Nat) (f : Die → Die) : (s.modDie d f).clk = s.clk := rfl
@[simp] theorem modDie_mem (d : Nat) (f : Die → Die) : (s.modDie d f).mem = s.mem := rfl
@[simp] theorem modDie_cores (d : Nat) (f : Die → Die) : (s.modDie d f).cores = s.cores := rfl
@[simp] theorem modDie_clusters (d : Nat) (f : Die → Die) : (s.modDie d f).clusters = s.clusters := rfl
@[simp] theorem modDie_parts (d : Nat) (f : Die → Die) : (s.modDie d f).parts = s.parts := rfl
@[simp] theorem modDie_launches (d : Nat) (f : Die → Die) : (s.modDie d f).launches = s.launches := rfl
@[simp] theorem modDie_fabnum (d : Nat) (f : Die → Die) : (s.modDie d f).fabnum = s.fabnum := rfl
@[simp] theorem modDie_waysScratch (d : Nat) (f : Die → Die) : (s.modDie d f).waysScratch = s.waysScratch := rfl
@[simp] theorem modDie_waysDisabled (d : Nat) (f : Die → Die) : (s.modDie d f).waysDisabled = s.waysDisabled := rfl
@[simp] theorem modDie_sliceTab (d : Nat) (f : Die → Die) : (s.modDie d f).sliceTab = s.sliceTab := rfl
@[simp] theorem modDie_tasks (d : Nat) (f : Die → Die) : (s.modDie d f).tasks = s.tasks := rfl
@[simp] theorem modDie_frame (d : Nat) (f : Die → Die) : (s.modDie d f).frame = s.frame := rfl
@[simp] theorem modDie_mgmt (d : Nat) (f : Die → Die) : (s.modDie d f).mgmt = s.mgmt := rfl
@[simp] theorem modDie_stayCtx (d : Nat) (f : Die → Die) : (s.modDie d f).stayCtx = s.stayCtx := rfl
@[simp] theorem modDie_stayBurst (d : Nat) (f : Die → Die) : (s.modDie d f).stayBurst = s.stayBurst := rfl
@[simp] theorem modDie_stayRecv (d : Nat) (f : Die → Die) : (s.modDie d f).stayRecv = s.stayRecv := rfl
@[simp] theorem modDie_hostWait (d : Nat) (f : Die → Die) : (s.modDie d f).hostWait = s.hostWait := rfl
@[simp] theorem modDie_sent (d : Nat) (f : Die → Die) : (s.modDie d f).sent = s.sent := rfl
@[simp] theorem modDie_lineKeys (d : Nat) (f : Die → Die) : (s.modDie d f).lineKeys = s.lineKeys := rfl
@[simp] theorem modDie_lineOrigin (d : Nat) (f : Die → Die) : (s.modDie d f).lineOrigin = s.lineOrigin := rfl
@[simp] theorem modDie_devWait (d : Nat) (f : Die → Die) : (s.modDie d f).devWait = s.devWait := rfl
@[simp] theorem modDie_rigs (d : Nat) (f : Die → Die) : (s.modDie d f).rigs = s.rigs := rfl
@[simp] theorem modDie_reqs (d : Nat) (f : Die → Die) : (s.modDie d f).reqs = s.reqs := rfl
@[simp] theorem modDie_msgs (d : Nat) (f : Die → Die) : (s.modDie d f).msgs = s.msgs := rfl
@[simp] theorem modDie_routes (d : Nat) (f : Die → Die) : (s.modDie d f).routes = s.routes := rfl
@[simp] theorem modDie_fifos (d : Nat) (f : Die → Die) : (s.modDie d f).fifos = s.fifos := rfl
@[simp] theorem modDie_watchers (d : Nat) (f : Die → Die) : (s.modDie d f).watchers = s.watchers := rfl
@[simp] theorem modDie_poison (d : Nat) (f : Die → Die) : (s.modDie d f).poison = s.poison := rfl
@[simp] theorem modDie_visitors (d : Nat) (f : Die → Die) : (s.modDie d f).visitors = s.visitors := rfl
@[simp] theorem modDie_dirty (d : Nat) (f : Die → Die) : (s.modDie d f).dirty = s.dirty := rfl
@[simp] theorem modDie_marks (d : Nat) (f : Die → Die) : (s.modDie d f).marks = s.marks := rfl
@[simp] theorem modDie_issue (d : Nat) (f : Die → Die) : (s.modDie d f).issue = s.issue := rfl
@[simp] theorem modDie_todo (d : Nat) (f : Die → Die) : (s.modDie d f).todo = s.todo := rfl
@[simp] theorem modDie_agenda (d : Nat) (f : Die → Die) : (s.modDie d f).agenda = s.agenda := rfl
@[simp] theorem modDie_turns (d : Nat) (f : Die → Die) : (s.modDie d f).turns = s.turns := rfl
@[simp] theorem modDie_fresh (d : Nat) (f : Die → Die) : (s.modDie d f).fresh = s.fresh := rfl
@[simp] theorem modDie_resetClk (d : Nat) (f : Die → Die) : (s.modDie d f).resetClk = s.resetClk := rfl
@[simp] theorem modDie_waysChanging (d : Nat) (f : Die → Die) : (s.modDie d f).waysChanging = s.waysChanging := rfl
@[simp] theorem modDie_past (d : Nat) (f : Die → Die) : (s.modDie d f).past = s.past := rfl
@[simp] theorem modDie_lastWrite (d : Nat) (f : Die → Die) : (s.modDie d f).lastWrite = s.lastWrite := rfl
@[simp] theorem modDie_due (d : Nat) (f : Die → Die) : (s.modDie d f).due = s.due := rfl
@[simp] theorem modDie_closing (d : Nat) (f : Die → Die) : (s.modDie d f).closing = s.closing := rfl
@[simp] theorem modDie_freeCtr (d : Nat) (f : Die → Die) : (s.modDie d f).freeCtr = s.freeCtr := rfl

@[simp] theorem modPart_clk (p : Nat) (f : Part → Part) : (s.modPart p f).clk = s.clk := rfl
@[simp] theorem modPart_mem (p : Nat) (f : Part → Part) : (s.modPart p f).mem = s.mem := rfl
@[simp] theorem modPart_cores (p : Nat) (f : Part → Part) : (s.modPart p f).cores = s.cores := rfl
@[simp] theorem modPart_clusters (p : Nat) (f : Part → Part) : (s.modPart p f).clusters = s.clusters := rfl
@[simp] theorem modPart_dieTab (p : Nat) (f : Part → Part) : (s.modPart p f).dieTab = s.dieTab := rfl
@[simp] theorem modPart_launches (p : Nat) (f : Part → Part) : (s.modPart p f).launches = s.launches := rfl
@[simp] theorem modPart_fabnum (p : Nat) (f : Part → Part) : (s.modPart p f).fabnum = s.fabnum := rfl
@[simp] theorem modPart_waysScratch (p : Nat) (f : Part → Part) : (s.modPart p f).waysScratch = s.waysScratch := rfl
@[simp] theorem modPart_waysDisabled (p : Nat) (f : Part → Part) : (s.modPart p f).waysDisabled = s.waysDisabled := rfl
@[simp] theorem modPart_sliceTab (p : Nat) (f : Part → Part) : (s.modPart p f).sliceTab = s.sliceTab := rfl
@[simp] theorem modPart_tasks (p : Nat) (f : Part → Part) : (s.modPart p f).tasks = s.tasks := rfl
@[simp] theorem modPart_frame (p : Nat) (f : Part → Part) : (s.modPart p f).frame = s.frame := rfl
@[simp] theorem modPart_mgmt (p : Nat) (f : Part → Part) : (s.modPart p f).mgmt = s.mgmt := rfl
@[simp] theorem modPart_stayCtx (p : Nat) (f : Part → Part) : (s.modPart p f).stayCtx = s.stayCtx := rfl
@[simp] theorem modPart_stayBurst (p : Nat) (f : Part → Part) : (s.modPart p f).stayBurst = s.stayBurst := rfl
@[simp] theorem modPart_stayRecv (p : Nat) (f : Part → Part) : (s.modPart p f).stayRecv = s.stayRecv := rfl
@[simp] theorem modPart_hostWait (p : Nat) (f : Part → Part) : (s.modPart p f).hostWait = s.hostWait := rfl
@[simp] theorem modPart_sent (p : Nat) (f : Part → Part) : (s.modPart p f).sent = s.sent := rfl
@[simp] theorem modPart_lineKeys (p : Nat) (f : Part → Part) : (s.modPart p f).lineKeys = s.lineKeys := rfl
@[simp] theorem modPart_lineOrigin (p : Nat) (f : Part → Part) : (s.modPart p f).lineOrigin = s.lineOrigin := rfl
@[simp] theorem modPart_devWait (p : Nat) (f : Part → Part) : (s.modPart p f).devWait = s.devWait := rfl
@[simp] theorem modPart_rigs (p : Nat) (f : Part → Part) : (s.modPart p f).rigs = s.rigs := rfl
@[simp] theorem modPart_reqs (p : Nat) (f : Part → Part) : (s.modPart p f).reqs = s.reqs := rfl
@[simp] theorem modPart_msgs (p : Nat) (f : Part → Part) : (s.modPart p f).msgs = s.msgs := rfl
@[simp] theorem modPart_routes (p : Nat) (f : Part → Part) : (s.modPart p f).routes = s.routes := rfl
@[simp] theorem modPart_fifos (p : Nat) (f : Part → Part) : (s.modPart p f).fifos = s.fifos := rfl
@[simp] theorem modPart_watchers (p : Nat) (f : Part → Part) : (s.modPart p f).watchers = s.watchers := rfl
@[simp] theorem modPart_poison (p : Nat) (f : Part → Part) : (s.modPart p f).poison = s.poison := rfl
@[simp] theorem modPart_visitors (p : Nat) (f : Part → Part) : (s.modPart p f).visitors = s.visitors := rfl
@[simp] theorem modPart_dirty (p : Nat) (f : Part → Part) : (s.modPart p f).dirty = s.dirty := rfl
@[simp] theorem modPart_marks (p : Nat) (f : Part → Part) : (s.modPart p f).marks = s.marks := rfl
@[simp] theorem modPart_issue (p : Nat) (f : Part → Part) : (s.modPart p f).issue = s.issue := rfl
@[simp] theorem modPart_todo (p : Nat) (f : Part → Part) : (s.modPart p f).todo = s.todo := rfl
@[simp] theorem modPart_agenda (p : Nat) (f : Part → Part) : (s.modPart p f).agenda = s.agenda := rfl
@[simp] theorem modPart_turns (p : Nat) (f : Part → Part) : (s.modPart p f).turns = s.turns := rfl
@[simp] theorem modPart_fresh (p : Nat) (f : Part → Part) : (s.modPart p f).fresh = s.fresh := rfl
@[simp] theorem modPart_resetClk (p : Nat) (f : Part → Part) : (s.modPart p f).resetClk = s.resetClk := rfl
@[simp] theorem modPart_waysChanging (p : Nat) (f : Part → Part) : (s.modPart p f).waysChanging = s.waysChanging := rfl
@[simp] theorem modPart_past (p : Nat) (f : Part → Part) : (s.modPart p f).past = s.past := rfl
@[simp] theorem modPart_lastWrite (p : Nat) (f : Part → Part) : (s.modPart p f).lastWrite = s.lastWrite := rfl
@[simp] theorem modPart_due (p : Nat) (f : Part → Part) : (s.modPart p f).due = s.due := rfl
@[simp] theorem modPart_closing (p : Nat) (f : Part → Part) : (s.modPart p f).closing = s.closing := rfl
@[simp] theorem modPart_freeCtr (p : Nat) (f : Part → Part) : (s.modPart p f).freeCtr = s.freeCtr := rfl

@[simp] theorem closeIssue_clk : (s.closeIssue).clk = s.clk := rfl
@[simp] theorem closeIssue_mem : (s.closeIssue).mem = s.mem := rfl
@[simp] theorem closeIssue_cores : (s.closeIssue).cores = s.cores := rfl
@[simp] theorem closeIssue_clusters : (s.closeIssue).clusters = s.clusters := rfl
@[simp] theorem closeIssue_dieTab : (s.closeIssue).dieTab = s.dieTab := rfl
@[simp] theorem closeIssue_parts : (s.closeIssue).parts = s.parts := rfl
@[simp] theorem closeIssue_launches : (s.closeIssue).launches = s.launches := rfl
@[simp] theorem closeIssue_fabnum : (s.closeIssue).fabnum = s.fabnum := rfl
@[simp] theorem closeIssue_waysScratch : (s.closeIssue).waysScratch = s.waysScratch := rfl
@[simp] theorem closeIssue_waysDisabled : (s.closeIssue).waysDisabled = s.waysDisabled := rfl
@[simp] theorem closeIssue_sliceTab : (s.closeIssue).sliceTab = s.sliceTab := rfl
@[simp] theorem closeIssue_tasks : (s.closeIssue).tasks = s.tasks := rfl
@[simp] theorem closeIssue_frame : (s.closeIssue).frame = s.frame := rfl
@[simp] theorem closeIssue_mgmt : (s.closeIssue).mgmt = s.mgmt := rfl
@[simp] theorem closeIssue_stayCtx : (s.closeIssue).stayCtx = s.stayCtx := rfl
@[simp] theorem closeIssue_stayBurst : (s.closeIssue).stayBurst = s.stayBurst := rfl
@[simp] theorem closeIssue_stayRecv : (s.closeIssue).stayRecv = s.stayRecv := rfl
@[simp] theorem closeIssue_hostWait : (s.closeIssue).hostWait = s.hostWait := rfl
@[simp] theorem closeIssue_sent : (s.closeIssue).sent = s.sent := rfl
@[simp] theorem closeIssue_lineKeys : (s.closeIssue).lineKeys = s.lineKeys := rfl
@[simp] theorem closeIssue_lineOrigin : (s.closeIssue).lineOrigin = s.lineOrigin := rfl
@[simp] theorem closeIssue_devWait : (s.closeIssue).devWait = s.devWait := rfl
@[simp] theorem closeIssue_rigs : (s.closeIssue).rigs = s.rigs := rfl
@[simp] theorem closeIssue_reqs : (s.closeIssue).reqs = s.reqs := rfl
@[simp] theorem closeIssue_msgs : (s.closeIssue).msgs = s.msgs := rfl
@[simp] theorem closeIssue_routes : (s.closeIssue).routes = s.routes := rfl
@[simp] theorem closeIssue_fifos : (s.closeIssue).fifos = s.fifos := rfl
@[simp] theorem closeIssue_watchers : (s.closeIssue).watchers = s.watchers := rfl
@[simp] theorem closeIssue_poison : (s.closeIssue).poison = s.poison := rfl
@[simp] theorem closeIssue_visitors : (s.closeIssue).visitors = s.visitors := rfl
@[simp] theorem closeIssue_dirty : (s.closeIssue).dirty = s.dirty := rfl
@[simp] theorem closeIssue_marks : (s.closeIssue).marks = s.marks := rfl
@[simp] theorem closeIssue_agenda : (s.closeIssue).agenda = s.agenda := rfl
@[simp] theorem closeIssue_turns : (s.closeIssue).turns = s.turns := rfl
@[simp] theorem closeIssue_fresh : (s.closeIssue).fresh = s.fresh := rfl
@[simp] theorem closeIssue_resetClk : (s.closeIssue).resetClk = s.resetClk := rfl
@[simp] theorem closeIssue_waysChanging : (s.closeIssue).waysChanging = s.waysChanging := rfl
@[simp] theorem closeIssue_past : (s.closeIssue).past = s.past := rfl
@[simp] theorem closeIssue_lastWrite : (s.closeIssue).lastWrite = s.lastWrite := rfl
@[simp] theorem closeIssue_due : (s.closeIssue).due = s.due := rfl
@[simp] theorem closeIssue_closing : (s.closeIssue).closing = s.closing := rfl
@[simp] theorem closeIssue_freeCtr : (s.closeIssue).freeCtr = s.freeCtr := rfl

@[simp] theorem closeIssue_issue : s.closeIssue.issue = none := rfl
@[simp] theorem closeIssue_todo : s.closeIssue.todo = [] := rfl

@[simp] theorem core_setCore (c : Nat) (k : Core) : (s.setCore c k).core c = k := by simp [State.core, State.setCore]
theorem core_setCore_other (c c' : Nat) (k : Core) (h : c' ≠ c) : (s.setCore c k).core c' = s.core c' := by
  simp [State.core, State.setCore, Map.find_put_other _ _ _ _ h]
@[simp] theorem core_modCore (c : Nat) (f : Core → Core) : (s.modCore c f).core c = f (s.core c) := core_setCore s c _
theorem core_modCore_other (c c' : Nat) (f : Core → Core) (h : c' ≠ c) : (s.modCore c f).core c' = s.core c' :=
  core_setCore_other s c c' _ h
@[simp] theorem cluster_setCluster (c : Nat) (k : Cluster) : (s.setCluster c k).cluster c = k := by
  simp [State.cluster, State.setCluster]
@[simp] theorem cluster_modCluster (c : Nat) (f : Cluster → Cluster) : (s.modCluster c f).cluster c = f (s.cluster c) :=
  cluster_setCluster s c _
theorem cluster_modCluster_other (c c' : Nat) (f : Cluster → Cluster) (h : c' ≠ c) :
    (s.modCluster c f).cluster c' = s.cluster c' := by
  simp [State.cluster, State.setCluster, State.modCluster, Map.find_put_other _ _ _ _ h]
@[simp] theorem die_setDie (d : Nat) (x : Die) : (s.setDie d x).die d = x := by simp [State.die, State.setDie]
@[simp] theorem die_modDie (d : Nat) (f : Die → Die) : (s.modDie d f).die d = f (s.die d) := die_setDie s d _
@[simp] theorem part_setPart (p : Nat) (x : Part) : (s.setPart p x).part p = x := by simp [State.part, State.setPart]
@[simp] theorem part_modPart (p : Nat) (f : Part → Part) : (s.modPart p f).part p = f (s.part p) := part_setPart s p _
@[simp] theorem core_modCluster (c k : Nat) (f : Cluster → Cluster) : (s.modCluster k f).core c = s.core c := rfl
@[simp] theorem core_modDie (c d : Nat) (f : Die → Die) : (s.modDie d f).core c = s.core c := rfl
@[simp] theorem core_modPart (c p : Nat) (f : Part → Part) : (s.modPart p f).core c = s.core c := rfl
@[simp] theorem core_closeIssue (c : Nat) : s.closeIssue.core c = s.core c := rfl
@[simp] theorem cluster_modCore (c k : Nat) (f : Core → Core) : (s.modCore c f).cluster k = s.cluster k := rfl
@[simp] theorem cluster_closeIssue (k : Nat) : s.closeIssue.cluster k = s.cluster k := rfl

end Sys2Proof.Machine
end

