-- ==== Sys2Proof/Laws/Start.lean ====
section
/-!
SUPPORT. What `start` can do: an operation that the bundle admits has its effect on the opened state; with no bundle open it faults;
and it never refuses.
-/
namespace Sys2Proof.Machine

theorem start_admits {i : Instr} {s : State} {c : Issue} (k : Issue → State → State) (h : admits s c i) :
    start i s k = .next (k c.passed (opened s c i)) := by
  obtain ⟨h1, h2⟩ := h
  unfold start opened
  rw [h1]
  cases hc : c.checked with
  | true =>
    have : c.passed = c := by unfold Issue.passed; rw [← hc]
    simp [hc, this]
  | false =>
    rw [hc] at h2
    have h3 : fate s c (i :: s.todo) = .go := by simpa using h2
    simp [hc, h3, Issue.passed]

theorem start_none {i : Instr} {s : State} (k : Issue → State → State) (h : s.issue = none) : start i s k = .fault .noBundle := by
  simp [start, h]

/-- With a bundle open the machine goes on, whatever becomes of the bundle. -/
theorem start_goes {i : Instr} {s : State} {c : Issue} (k : Issue → State → State) (h : s.issue = some c) : ∃ t, start i s k = .next t := by
  unfold start
  rw [h]
  split
  · rename_i h'; cases h'
  · split
    · exact ⟨_, rfl⟩
    · split <;> exact ⟨_, rfl⟩

/-- A trap that one of the bundle's operations meets is taken (R199). -/
theorem start_trap {i : Instr} {s : State} {c : Issue} {x : Trap} (k : Issue → State → State) (h : s.issue = some c)
    (hc : c.checked = false) (hf : fate s c (i :: s.todo) = .trap x) :
    start i s k = .next (takeTrap (condemnAt s c (i :: s.todo)) c x) := by
  simp [start, h, hc, hf]

@[simp] theorem passed_reg (c : Issue) (r : Nat) : c.passed.reg r = c.reg r := rfl
@[simp] theorem passed_vreg (c : Issue) (r : Nat) : c.passed.vreg r = c.vreg r := rfl
@[simp] theorem passed_core (c : Issue) : c.passed.core = c.core := rfl
@[simp] theorem passed_slot (c : Issue) : c.passed.slot = c.slot := rfl
@[simp] theorem passed_entry (c : Issue) : c.passed.entry = c.entry := rfl
@[simp] theorem passed_mask (c : Issue) : c.passed.mask = c.mask := rfl
@[simp] theorem passed_next (c : Issue) : c.passed.next = c.next := rfl
@[simp] theorem passed_pc (c : Issue) : c.passed.pc = c.pc := rfl
@[simp] theorem passed_fpmode (c : Issue) : c.passed.fpmode = c.fpmode := rfl

/-- Opening the bundle keeps every field but the pipe's and the mark that the checks are behind it. -/
theorem opened_mem (s : State) (c : Issue) (i : Instr) : (opened s c i).mem = s.mem := by
  unfold opened takeSfu; split
  · rfl
  · dsimp only; split <;> rfl
theorem opened_todo (s : State) (c : Issue) (i : Instr) : (opened s c i).todo = s.todo := by
  unfold opened takeSfu; split
  · rfl
  · dsimp only; split <;> rfl
theorem opened_issue (s : State) (c : Issue) (i : Instr) (h : s.issue = some c) : (opened s c i).issue = some c.passed := by
  unfold opened takeSfu
  split
  · rename_i hc; rw [h]; unfold Issue.passed; rw [← hc]
  · dsimp only; split <;> rfl
theorem opened_slots (s : State) (c : Issue) (i : Instr) (n : Nat) : ((opened s c i).core n).slots = (s.core n).slots := by
  unfold opened takeSfu; split
  · rfl
  · dsimp only
    split
    · rfl
    · by_cases h : n = c.core
      · subst h; simp only [core_modCore]; rfl
      · rw [core_modCore_other _ _ _ _ h]; rfl
theorem opened_rq (s : State) (c : Issue) (i : Instr) (n : Nat) : ((opened s c i).core n).rq = (s.core n).rq := by
  unfold opened takeSfu; split
  · rfl
  · dsimp only
    split
    · rfl
    · by_cases h : n = c.core
      · subst h; simp only [core_modCore]; rfl
      · rw [core_modCore_other _ _ _ _ h]; rfl

end Sys2Proof.Machine
end

