-- ==== Sys2Proof/Laws/Int.lean ====
section
/-!
SUPPORT. The integer operations' common steps in bit vectors: how operands are read (R176), and how results are wrapped, clamped and
extended.
-/
namespace Sys2Proof.Machine

theorem widthOf_pos (w : IntW) : 0 < widthOf w := by cases w <;> decide
theorem widthOf_le (w : IntW) : widthOf w ≤ 64 := by cases w <;> decide

theorem toSigned_eq (n x : Nat) (hn : 0 < n) : toSigned n x = (BitVec.ofNat n x).toInt := by
  obtain ⟨k, rfl⟩ : ∃ k, n = k + 1 := ⟨n - 1, by omega⟩
  simp only [toSigned, BitVec.toInt_eq_toNat_cond, BitVec.toNat_ofNat, Nat.add_sub_cancel, Nat.pow_succ]
  split <;> split <;> omega

theorem ofSigned_eq (n : Nat) (x : Int) : ofSigned n x = (BitVec.ofInt n x).toNat := by
  simp [ofSigned, BitVec.toNat_ofInt]

theorem readInt_signed (w : IntW) (x : Nat) : readInt (widthOf w) true x = (BitVec.ofNat (widthOf w) x).toInt :=
  toSigned_eq _ _ (widthOf_pos w)
theorem readInt_unsigned (n x : Nat) : readInt n false x = ((BitVec.ofNat n x).toNat : Int) := by
  simp [readInt]

theorem ofNat_toNat_self {n : Nat} (v : BitVec n) : BitVec.ofNat n v.toNat = v := by
  apply BitVec.eq_of_toNat_eq; rw [BitVec.toNat_ofNat, Nat.mod_eq_of_lt v.isLt]

theorem ofNat_setWidth (n : Nat) (x : Word) : BitVec.ofNat n x.toNat = x.setWidth n := by
  apply BitVec.eq_of_toNat_eq; simp

theorem ofNat_reg (c : Issue) (w : IntW) (r : BitVec 6) : BitVec.ofNat (widthOf w) (c.reg r.toNat).toNat = wordAt c w r :=
  ofNat_setWidth _ _
theorem ofNat_opb (s : State) (c : Issue) (w : IntW) (y : Opb) : BitVec.ofNat (widthOf w) (opb s c y).toNat = opbAt s c w y :=
  ofNat_setWidth _ _
theorem mod_reg (c : Issue) (w : IntW) (r : BitVec 6) : (c.reg r.toNat).toNat % 2 ^ widthOf w = (wordAt c w r).toNat := by
  simp [wordAt]
theorem mod_opb (s : State) (c : Issue) (w : IntW) (y : Opb) : (opb s c y).toNat % 2 ^ widthOf w = (opbAt s c w y).toNat := by
  simp [opbAt]

/-- The last steps of R176 without saturation. -/
theorem finishInt_wrap (w : IntW) (zx : Bool) (x : Int) :
    finishInt (widthOf w) zx false x = ext zx (BitVec.ofInt (widthOf w) x) := by
  cases zx with
  | true =>
    simp only [finishInt, ext, ofSigned_eq, Bool.false_eq_true, if_false, if_true]
    exact ofNat_setWidth_of _ _
  | false =>
    simp only [finishInt, ext, ofSigned_eq, Bool.false_eq_true, if_false]
    rw [toSigned_eq _ _ (widthOf_pos w)]
    apply BitVec.eq_of_toInt_eq
    have h : (BitVec.ofNat (widthOf w) (BitVec.ofInt (widthOf w) x).toNat) = BitVec.ofInt (widthOf w) x := ofNat_toNat_self _
    rw [h, BitVec.toInt_signExtend_of_le (widthOf_le w)]
    rw [show word (BitVec.ofInt 64 (BitVec.ofInt (widthOf w) x).toInt).toNat = BitVec.ofInt 64 (BitVec.ofInt (widthOf w) x).toInt from
      ofNat_toNat_self _]
    rw [BitVec.toInt_ofInt]
    have h1 := BitVec.toInt_lt (x := BitVec.ofInt (widthOf w) x)
    have h2 := BitVec.le_toInt (x := BitVec.ofInt (widthOf w) x)
    have h3 : (2 : Int) ^ (widthOf w - 1) ≤ 2 ^ 63 := by cases w <;> decide
    apply Int.bmod_eq_of_le <;> omega
where
  ofNat_setWidth_of (n : Nat) (v : BitVec n) : word v.toNat = v.setWidth 64 := by
    apply BitVec.eq_of_toNat_eq; simp

/-- With saturation. -/
theorem finishInt_clamp (w : IntW) (zx : Bool) (x : Int) : finishInt (widthOf w) zx true x = ext zx (clamp (widthOf w) zx x) := by
  have h : finishInt (widthOf w) zx true x = finishInt (widthOf w) zx false (satTo (widthOf w) (!zx) x) := rfl
  rw [h, finishInt_wrap]
  congr 1
  cases zx <;> cases w <;> simp only [clamp, satTo, widthOf] <;> norm_num <;> congr 1 <;>
    (try simp only [min_def, max_def]) <;> (repeat' split) <;> omega

end Sys2Proof.Machine
end

