-- ==== Sys2Proof/Laws/Memory.lean ====
section
/-!
SUPPORT. Memory: every memory operation keeps the canonical form, a read after a write gives the byte written, and a write leaves every
other byte alone.
-/
namespace Sys2Proof.Machine

theorem memWfFrom_mono {lo lo' : Nat} {m : Memory} (h : lo' ≤ lo) (hm : memWfFrom lo m = true) : memWfFrom lo' m = true := by
  cases m with
  | nil => rfl
  | cons x t =>
    obtain ⟨k, b⟩ := x
    simp only [memWfFrom, Bool.and_eq_true, decide_eq_true_eq] at hm ⊢
    exact ⟨⟨by omega, hm.1.2⟩, hm.2⟩

theorem wfFrom_cons {lo k : Nat} {c : Byte} {t : Memory} (h1 : lo ≤ k) (h2 : c ≠ 0) (h3 : memWfFrom (k + 1) t = true) :
    memWfFrom lo ((k, c) :: t) = true := by
  simp only [memWfFrom, Bool.and_eq_true, decide_eq_true_eq, bne_iff_ne, ne_eq]
  exact ⟨⟨h1, h2⟩, h3⟩

theorem wfFrom_of_cons {lo k : Nat} {c : Byte} {t : Memory} (h : memWfFrom lo ((k, c) :: t) = true) :
    lo ≤ k ∧ c ≠ 0 ∧ memWfFrom (k + 1) t = true := by
  simp only [memWfFrom, Bool.and_eq_true, decide_eq_true_eq, bne_iff_ne, ne_eq] at h
  exact ⟨h.1.1, h.1.2, h.2⟩

theorem memWrite_wfFrom (m : Memory) (a : Nat) (b : Byte) (lo : Nat) (hm : memWfFrom lo m = true) (ha : lo ≤ a) :
    memWfFrom lo (memWrite m a b) = true := by
  induction m generalizing lo with
  | nil =>
    simp only [memWrite]
    split
    · rfl
    · rename_i hb; exact wfFrom_cons ha hb rfl
  | cons x t ih =>
    obtain ⟨k, c⟩ := x
    obtain ⟨h1, h2, h3⟩ := wfFrom_of_cons hm
    simp only [memWrite]
    split
    · rename_i hlt
      split
      · exact hm
      · rename_i hb; exact wfFrom_cons ha hb (wfFrom_cons (by omega) h2 h3)
    · split
      · split
        · exact memWfFrom_mono (by omega) h3
        · rename_i hb; exact wfFrom_cons h1 hb h3
      · exact wfFrom_cons h1 h2 (ih (k + 1) h3 (by omega))

/-- Writing a byte keeps the canonical form. -/
theorem memWrite_wf (m : Memory) (a : Nat) (b : Byte) (h : Memory.wf m = true) : Memory.wf (memWrite m a b) = true :=
  memWrite_wfFrom m a b 0 h (Nat.zero_le _)

/-- So does storing a little-endian number. -/
theorem memPut_wf (n : Nat) (m : Memory) (a v : Nat) (h : Memory.wf m = true) : Memory.wf (memPut m a v n) = true := by
  induction n generalizing m a v with
  | zero => exact h
  | succ n ih => exact ih _ _ _ (memWrite_wf m a _ h)

/-- So does storing a list of bytes. -/
theorem memPutAll_wf (l : List (Nat × Byte)) (m : Memory) (h : Memory.wf m = true) : Memory.wf (memPutAll m l) = true := by
  induction l generalizing m with
  | nil => exact h
  | cons x t ih => exact ih _ (memWrite_wf m x.1 x.2 h)

theorem memRead_below (m : Memory) (a lo : Nat) (h : memWfFrom lo m = true) (ha : a < lo) : memRead m a = 0 := by
  cases m with
  | nil => rfl
  | cons x t =>
    obtain ⟨k, b⟩ := x
    simp only [memWfFrom, Bool.and_eq_true, decide_eq_true_eq] at h
    simp only [memRead]
    rw [if_neg (by omega), if_pos (by omega)]

theorem memRead_write_sameFrom (m : Memory) (a : Nat) (b : Byte) (lo : Nat) (h : memWfFrom lo m = true) :
    memRead (memWrite m a b) a = b := by
  induction m generalizing lo with
  | nil =>
    simp only [memWrite]
    split
    · rename_i hb; simp [memRead, hb]
    · simp [memRead]
  | cons x t ih =>
    obtain ⟨k, c⟩ := x
    simp only [memWfFrom, Bool.and_eq_true, decide_eq_true_eq] at h
    simp only [memWrite]
    split
    · rename_i hlt
      split
      · rename_i hb
        simp only [memRead]
        rw [if_neg (by omega), if_pos hlt, hb]
      · simp [memRead]
    · rename_i hge
      split
      · rename_i he
        split
        · rename_i hb
          rw [memRead_below t a (k + 1) h.2 (by omega), hb]
        · simp [memRead, he]
      · rename_i hne
        simp only [memRead]
        rw [if_neg (fun h => hne h.symm), if_neg hge]
        exact ih (k + 1) h.2

/-- A read after a write to the same byte gives the byte written. -/
theorem memRead_write_same (m : Memory) (a : Nat) (b : Byte) (h : Memory.wf m = true) : memRead (memWrite m a b) a = b :=
  memRead_write_sameFrom m a b 0 h

theorem memRead_write_otherFrom (m : Memory) (a a' : Nat) (b : Byte) (lo : Nat) (h : memWfFrom lo m = true) (hne : a' ≠ a) :
    memRead (memWrite m a b) a' = memRead m a' := by
  induction m generalizing lo with
  | nil =>
    simp only [memWrite]
    split
    · rfl
    · simp only [memRead]; rw [if_neg (fun h => hne h.symm)]; split <;> rfl
  | cons x t ih =>
    obtain ⟨k, c⟩ := x
    simp only [memWfFrom, Bool.and_eq_true, decide_eq_true_eq] at h
    simp only [memWrite]
    split
    · rename_i hlt
      split
      · rfl
      · simp only [memRead]
        rw [if_neg (fun h => hne h.symm)]
        split
        · rw [if_neg (by omega), if_pos (by omega)]
        · rfl
    · split
      · rename_i he
        split
        · simp only [memRead]
          have hk : k ≠ a' := fun e => hne (by omega)
          rw [if_neg hk]
          split
          · exact memRead_below t a' (k + 1) h.2 (by omega)
          · rfl
        · simp only [memRead]
          have hk : k ≠ a' := fun e => hne (by omega)
          rw [if_neg hk, if_neg hk]
      · simp only [memRead]
        rw [ih (k + 1) h.2]

/-- A write leaves every other byte alone. -/
theorem memRead_write_other (m : Memory) (a a' : Nat) (b : Byte) (h : Memory.wf m = true) (hne : a' ≠ a) :
    memRead (memWrite m a b) a' = memRead m a' := memRead_write_otherFrom m a a' b 0 h hne

/-- Storing a number leaves every byte outside its n bytes alone. -/
theorem memRead_put_other (n : Nat) (m : Memory) (a v a' : Nat) (h : Memory.wf m = true) (ha : a' < a ∨ a + n ≤ a') :
    memRead (memPut m a v n) a' = memRead m a' := by
  induction n generalizing m a v with
  | zero => rfl
  | succ n ih =>
    simp only [memPut]
    rw [ih _ _ _ (memWrite_wf m a _ h) (by omega)]
    exact memRead_write_other m a a' _ h (by omega)

/-- Storing a list of bytes leaves every byte that it does not name alone. -/
theorem memRead_putAll_other (l : List (Nat × Byte)) (m : Memory) (a' : Nat) (h : Memory.wf m = true) (ha : ∀ x ∈ l, x.1 ≠ a') :
    memRead (memPutAll m l) a' = memRead m a' := by
  induction l generalizing m with
  | nil => rfl
  | cons x t ih =>
    show memRead (memPutAll (memWrite m x.1 x.2) t) a' = _
    rw [ih _ (memWrite_wf m x.1 x.2 h) (fun y hy => ha y (List.mem_cons_of_mem _ hy))]
    exact memRead_write_other m x.1 a' x.2 h (fun e => ha x List.mem_cons_self e.symm)

/-- Reading back a number that was stored: its low n bytes. -/
theorem memGet_put (n : Nat) (m : Memory) (a v : Nat) (h : Memory.wf m = true) : memGet (memPut m a v n) a n = v % 256 ^ n := by
  induction n generalizing m a v with
  | zero => simp [memGet, Nat.mod_one]
  | succ n ih =>
    simp only [memGet, memPut]
    rw [ih _ _ _ (memWrite_wf m a _ h), memRead_put_other n _ (a + 1) (v / 256) a (memWrite_wf m a _ h) (by omega),
      memRead_write_same m a _ h, BitVec.toNat_ofNat]
    have h1 : 256 ^ (n + 1) = 256 * 256 ^ n := by rw [Nat.pow_succ, Nat.mul_comm]
    rw [h1, Nat.mod_mul]

theorem memFilter_wfFrom (f : Nat × Byte → Bool) (m : Memory) (lo : Nat) (h : memWfFrom lo m = true) : memWfFrom lo (m.filter f) = true := by
  induction m generalizing lo with
  | nil => rfl
  | cons x t ih =>
    obtain ⟨k, b⟩ := x
    obtain ⟨h1, h2, h3⟩ := wfFrom_of_cons h
    rw [List.filter_cons]
    split
    · exact wfFrom_cons h1 h2 (ih _ h3)
    · exact ih _ (memWfFrom_mono (Nat.le_succ_of_le h1) h3)

theorem memFilter_wf (f : Nat × Byte → Bool) (m : Memory) (h : Memory.wf m = true) : Memory.wf (m.filter f) = true := memFilter_wfFrom f m _ h

theorem putDws_wf (l : List Nat) (m : Memory) (a : Nat) (h : Memory.wf m = true) : Memory.wf (putDws m a l) = true := by
  induction l generalizing m a with
  | nil => exact h
  | cons d l ih => exact ih _ _ (memPut_wf 8 m a d h)

theorem memRead_putDws_other (l : List Nat) (m : Memory) (a b : Nat) (h : Memory.wf m = true) (hb : b < a ∨ a + 8 * l.length ≤ b) :
    memRead (putDws m a l) b = memRead m b := by
  induction l generalizing m a with
  | nil => rfl
  | cons d l ih =>
    simp only [List.length_cons] at hb
    rw [putDws, ih _ _ (memPut_wf 8 m a d h) (by omega), memRead_put_other 8 m a d b h (by omega)]

/-! ## Writes of the device itself -/

theorem emit_mem (s : State) (l : List Sent) : (emit s l).mem = s.mem := rfl

theorem askHost_mem (s : State) (line : Nat) : (askHost s line).mem = s.mem := by
  simp only [askHost]; split
  · split <;> rfl
  · rfl

/-- A line under other keys: its bytes alone can change. -/
theorem recrypt_wf (s : State) (line : Nat) (old new : Option (BitVec 512)) (h : Memory.wf s.mem = true) :
    Memory.wf (recrypt s line old new).mem = true := memPutAll_wf _ _ h

theorem retag_wf (s : State) (line tag : Nat) (h : Memory.wf s.mem = true) : Memory.wf (retag s line tag).mem = true := by
  simp only [retag]; split
  · exact h
  · exact recrypt_wf s line _ _ h

/-- A byte that arrives at its home is one byte of memory written, at its place or in the latent tile (R79). -/
theorem writeOne_mem (s : State) (k : Nat) (x : Nat × Byte) : (writeOne s k x).mem = memWrite s.mem (spadTarget s k x.1).1 x.2 := by
  unfold writeOne
  rcases spadTarget s k x.1 with ⟨a, lat⟩
  cases lat <;> cases pwinOf x.1 <;> first | rfl | (dsimp only; split <;> rfl)

theorem spadTarget_hbm (s : State) (k a : Nat) (h : pwinOf a = .hbm) : spadTarget s k a = (a, none) := by simp [spadTarget, h]

theorem writeOnes_wf (k : Nat) (l : List (Nat × Byte)) (s : State) (h : Memory.wf s.mem = true) :
    Memory.wf (l.foldl (fun s x => writeOne s k x) s).mem = true := by
  induction l generalizing s with
  | nil => exact h
  | cons x l ih => exact ih _ (by rw [writeOne_mem]; exact memWrite_wf _ _ _ h)

theorem memRead_writeOnes_other (k : Nat) (l : List (Nat × Byte)) (s : State) (b : Nat) (h : Memory.wf s.mem = true)
    (hl : ∀ x ∈ l, pwinOf x.1 = .hbm ∧ x.1 ≠ b) : memRead (l.foldl (fun s x => writeOne s k x) s).mem b = memRead s.mem b := by
  induction l generalizing s with
  | nil => rfl
  | cons x l ih =>
    have hx := hl x List.mem_cons_self
    have hm : (writeOne s k x).mem = memWrite s.mem x.1 x.2 := by rw [writeOne_mem, spadTarget_hbm s k x.1 hx.1]
    show memRead (l.foldl (fun s x => writeOne s k x) (writeOne s k x)).mem b = _
    rw [ih _ (by rw [hm]; exact memWrite_wf _ _ _ h) (fun y hy => hl y (List.mem_cons_of_mem _ hy)), hm]
    exact memRead_write_other _ _ _ _ h (Ne.symm hx.2)

theorem modReq_mem (s : State) (id : Nat) (f : Req → Req) : (s.modReq id f).mem = s.mem := by
  simp only [State.modReq]; split <;> rfl

theorem endWindow_mem (s : State) (line : Nat) : (endWindow s line).mem = s.mem := by
  unfold endWindow
  split
  · rfl
  · dsimp only
    split
    · rfl
    · rename_i w _
      generalize hs : ({ s with sliceTab := _ } : State) = s0
      have h0 : s0.mem = s.mem := by rw [← hs]
      rw [← h0]
      clear hs h0
      generalize memBytes s0.mem (64 * line) 64 = d
      induction w.reqs generalizing s0 with
      | nil => rfl
      | cons id l ih =>
        rw [List.foldl_cons, ih]
        split
        · rfl
        · exact modReq_mem s0 id _

theorem notePast_mem (s : State) (core line : Nat) : (notePast s core line).mem = s.mem := by
  simp only [notePast]; split <;> rfl

theorem soil_mem (s : State) (line : Nat) (old : List Byte) : (soil s line old).mem = s.mem := by
  simp only [soil]; split <;> rfl

/-- Bytes that perform at their home keep memory's canonical form. -/
theorem performBytes_wf (s : State) (core : Nat) (l : List (Nat × Byte)) (h : Memory.wf s.mem = true) :
    Memory.wf (performBytes s core l).mem = true := by
  unfold performBytes
  split
  · exact h
  · rw [soil_mem]
    exact writeOnes_wf _ _ _ (by rw [notePast_mem, endWindow_mem]; exact h)

/-- Bytes of HBM that perform at their home leave every other byte alone. -/
theorem memRead_performBytes_other (s : State) (core : Nat) (l : List (Nat × Byte)) (b : Nat) (h : Memory.wf s.mem = true)
    (hl : ∀ x ∈ l, pwinOf x.1 = .hbm ∧ x.1 ≠ b) : memRead (performBytes s core l).mem b = memRead s.mem b := by
  unfold performBytes
  split
  · rfl
  · rw [soil_mem]
    refine (memRead_writeOnes_other _ _ _ _ ?_ hl).trans ?_ <;> rw [notePast_mem, endWindow_mem]
    exact h

theorem devWriteLine_wf (s : State) (l : List (Nat × Byte)) (h : Memory.wf s.mem = true) : Memory.wf (devWriteLine s l).mem = true := by
  unfold devWriteLine
  split
  · exact h
  · refine performBytes_wf _ _ _ ?_
    split
    · exact retag_wf _ _ _ h
    · exact h

theorem devWrite_wf (s : State) (l : List (Nat × Byte)) (h : Memory.wf s.mem = true) : Memory.wf (devWrite s l).mem = true := by
  unfold devWrite
  split
  · exact h
  · split
    · exact devWriteLine_wf _ _ h
    · rw [askHost_mem]; exact h

/-- A write of the device itself keeps memory's canonical form, and so do those that waited. -/
theorem devicePut_wf (s : State) (a : Nat) (l : List Nat) (h : Memory.wf s.mem = true) : Memory.wf (devicePut s a l).mem = true := by
  unfold devicePut
  generalize byLine _ = g
  induction g generalizing s with
  | nil => exact h
  | cons x g ih => exact ih _ (devWrite_wf s x h)

theorem pumpDev_wf (n : Nat) (s : State) (h : Memory.wf s.mem = true) : Memory.wf (pumpDev n s).mem = true := by
  induction n generalizing s with
  | zero => exact h
  | succ n ih =>
    unfold pumpDev
    split
    · split
      · exact ih _ (devWriteLine_wf _ _ h)
      · rw [askHost_mem]; exact h
    · exact ih _ h
    · exact h

end Sys2Proof.Machine
end

