-- ==== Sys2Proof/Laws/PerInstr.lean ====
section
/-!
SUPPORT. The family `Encodes`: for each instruction that a bundle encodes, the decoder gives the instruction back from the fields that
the encoder wrote, whatever its operands (05 R140-R160). The steps of the hardware have no encoding.
-/
namespace Sys2Proof.Laws.Encodes

/-- A well-formed instruction with an encoding is what its own fields decode to. -/
def Statement (i : Instr) : Prop := wellFormed i = true → toRaw i ≠ .none → ofRaw (toRaw i) = .ok i

/-- A field of appended words, found from the right. -/
theorem fld {n k : Nat} {a : BitVec n} {b c : BitVec k} {j : Nat} (h : a.extractLsb' j k = b) (h' : b = c) : a.extractLsb' j k = c := h.trans h'

theorem nop : Statement (.nop) := by
  intro hw _
  exact checked_ok hw
theorem bc (sa : BitVec 6) (c : BCond) (imm : BitVec 32) : Statement (.bc sa c imm) := by
  intro hw _
  cases c <;> exact checked_ok hw
theorem jmp (imm : BitVec 32) : Statement (.jmp imm) := by
  intro hw _
  exact checked_ok hw
theorem jmpi (sa : BitVec 6) (b : BitVec 8) : Statement (.jmpi sa b) := by
  intro hw _
  exact checked_ok hw
theorem call (sd : BitVec 6) (imm : BitVec 32) : Statement (.call sd imm) := by
  intro hw _
  exact checked_ok hw
theorem calli (sd : BitVec 6) (sa : BitVec 6) (b : BitVec 8) : Statement (.calli sd sa b) := by
  intro hw _
  exact checked_ok hw
theorem ret (sa : BitVec 6) : Statement (.ret sa) := by
  intro hw _
  exact checked_ok hw
theorem trap (code : BitVec 16) : Statement (.trap code) := by
  intro hw _
  refine checked_eq hw (chk_eq (and_ok rfl (decide_eq_true ?_)) (congrArg Instr.trap (sw_sw code (by decide))))
  show (code.setWidth 32).toNat < 0x10000
  rw [sw_toNat code (by decide)]; exact code.isLt
theorem tret : Statement (.tret) := by
  intro hw _
  exact checked_ok hw
theorem brk : Statement (.brk) := by
  intro hw _
  exact checked_ok hw
theorem mfsr (sd : BitVec 6) (num : BitVec 16) : Statement (.mfsr sd num) := by
  intro hw _
  refine checked_eq hw (chk_eq (and_ok rfl (decide_eq_true ?_)) (congrArg (Instr.mfsr sd) (sw_sw num (by decide))))
  show (num.setWidth 32).toNat < 0x10000
  rw [sw_toNat num (by decide)]; exact num.isLt
theorem mtsr (sa : BitVec 6) (num : BitVec 16) : Statement (.mtsr sa num) := by
  intro hw _
  refine checked_eq hw (chk_eq (and_ok rfl (decide_eq_true ?_)) (congrArg (Instr.mtsr sa) (sw_sw num (by decide))))
  show (num.setWidth 32).toNat < 0x10000
  rw [sw_toNat num (by decide)]; exact num.isLt
theorem qwidth (sd : BitVec 6) (sa : BitVec 6) (b : BitVec 8) : Statement (.qwidth sd sa b) := by
  intro hw _
  exact checked_ok hw
theorem waitline (sd : BitVec 6) (sa : BitVec 6) (b : BitVec 8) : Statement (.waitline sd sa b) := by
  intro hw _
  exact checked_ok hw
theorem add (sd : BitVec 6) (sa : BitVec 6) (y : Opb) (zx : Bool) (sat : Bool) (w : IntW) : Statement (.add sd sa y zx sat w) := by
  intro hw _
  cases y <;> cases zx <;> cases sat <;> cases w <;> exact checked_ok hw
theorem sub (sd : BitVec 6) (sa : BitVec 6) (y : Opb) (zx : Bool) (sat : Bool) (w : IntW) : Statement (.sub sd sa y zx sat w) := by
  intro hw _
  cases y <;> cases zx <;> cases sat <;> cases w <;> exact checked_ok hw
theorem mul (sd : BitVec 6) (sa : BitVec 6) (y : Opb) (zx : Bool) (sat : Bool) (w : IntW) : Statement (.mul sd sa y zx sat w) := by
  intro hw _
  cases y <;> cases zx <;> cases sat <;> cases w <;> exact checked_ok hw
theorem mulh (sd : BitVec 6) (sa : BitVec 6) (y : Opb) (zx : Bool) (w : IntW) : Statement (.mulh sd sa y zx w) := by
  intro hw _
  cases y <;> cases zx <;> cases w <;> exact checked_ok hw
theorem mulhn (sd : BitVec 6) (sa : BitVec 6) (y : Opb) (zx : Bool) (w : IntW) : Statement (.mulhn sd sa y zx w) := by
  intro hw _
  cases y <;> cases zx <;> cases w <;> exact checked_ok hw
theorem div (sd : BitVec 6) (sa : BitVec 6) (y : Opb) (zx : Bool) (w : IntW) : Statement (.div sd sa y zx w) := by
  intro hw _
  cases y <;> cases zx <;> cases w <;> exact checked_ok hw
theorem divn (sd : BitVec 6) (sa : BitVec 6) (y : Opb) (zx : Bool) (w : IntW) : Statement (.divn sd sa y zx w) := by
  intro hw _
  cases y <;> cases zx <;> cases w <;> exact checked_ok hw
theorem rem (sd : BitVec 6) (sa : BitVec 6) (y : Opb) (zx : Bool) (w : IntW) : Statement (.rem sd sa y zx w) := by
  intro hw _
  cases y <;> cases zx <;> cases w <;> exact checked_ok hw
theorem remn (sd : BitVec 6) (sa : BitVec 6) (y : Opb) (zx : Bool) (w : IntW) : Statement (.remn sd sa y zx w) := by
  intro hw _
  cases y <;> cases zx <;> cases w <;> exact checked_ok hw
theorem and (sd : BitVec 6) (sa : BitVec 6) (y : Opb) (zx : Bool) (w : IntW) : Statement (.and sd sa y zx w) := by
  intro hw _
  cases y <;> cases zx <;> cases w <;> exact checked_ok hw
theorem or (sd : BitVec 6) (sa : BitVec 6) (y : Opb) (zx : Bool) (w : IntW) : Statement (.or sd sa y zx w) := by
  intro hw _
  cases y <;> cases zx <;> cases w <;> exact checked_ok hw
theorem xor (sd : BitVec 6) (sa : BitVec 6) (y : Opb) (zx : Bool) (w : IntW) : Statement (.xor sd sa y zx w) := by
  intro hw _
  cases y <;> cases zx <;> cases w <;> exact checked_ok hw
theorem andn (sd : BitVec 6) (sa : BitVec 6) (y : Opb) (zx : Bool) (w : IntW) : Statement (.andn sd sa y zx w) := by
  intro hw _
  cases y <;> cases zx <;> cases w <;> exact checked_ok hw
theorem shl (sd : BitVec 6) (sa : BitVec 6) (y : Opb) (zx : Bool) (w : IntW) : Statement (.shl sd sa y zx w) := by
  intro hw _
  cases y <;> cases zx <;> cases w <;> exact checked_ok hw
theorem shr (sd : BitVec 6) (sa : BitVec 6) (y : Opb) (zx : Bool) (w : IntW) : Statement (.shr sd sa y zx w) := by
  intro hw _
  cases y <;> cases zx <;> cases w <;> exact checked_ok hw
theorem sha (sd : BitVec 6) (sa : BitVec 6) (y : Opb) (zx : Bool) (w : IntW) : Statement (.sha sd sa y zx w) := by
  intro hw _
  cases y <;> cases zx <;> cases w <;> exact checked_ok hw
theorem rol (sd : BitVec 6) (sa : BitVec 6) (y : Opb) (zx : Bool) (w : IntW) : Statement (.rol sd sa y zx w) := by
  intro hw _
  cases y <;> cases zx <;> cases w <;> exact checked_ok hw
theorem min (sd : BitVec 6) (sa : BitVec 6) (y : Opb) (zx : Bool) (w : IntW) : Statement (.min sd sa y zx w) := by
  intro hw _
  cases y <;> cases zx <;> cases w <;> exact checked_ok hw
theorem max (sd : BitVec 6) (sa : BitVec 6) (y : Opb) (zx : Bool) (w : IntW) : Statement (.max sd sa y zx w) := by
  intro hw _
  cases y <;> cases zx <;> cases w <;> exact checked_ok hw
theorem minn (sd : BitVec 6) (sa : BitVec 6) (y : Opb) (zx : Bool) (w : IntW) : Statement (.minn sd sa y zx w) := by
  intro hw _
  cases y <;> cases zx <;> cases w <;> exact checked_ok hw
theorem maxn (sd : BitVec 6) (sa : BitVec 6) (y : Opb) (zx : Bool) (w : IntW) : Statement (.maxn sd sa y zx w) := by
  intro hw _
  cases y <;> cases zx <;> cases w <;> exact checked_ok hw
theorem abs (sd : BitVec 6) (sa : BitVec 6) (zx : Bool) (w : IntW) : Statement (.abs sd sa zx w) := by
  intro hw _
  cases zx <;> cases w <;> exact checked_ok hw
theorem clz (sd : BitVec 6) (sa : BitVec 6) (zx : Bool) (w : IntW) : Statement (.clz sd sa zx w) := by
  intro hw _
  cases zx <;> cases w <;> exact checked_ok hw
theorem ctz (sd : BitVec 6) (sa : BitVec 6) (zx : Bool) (w : IntW) : Statement (.ctz sd sa zx w) := by
  intro hw _
  cases zx <;> cases w <;> exact checked_ok hw
theorem popc (sd : BitVec 6) (sa : BitVec 6) (zx : Bool) (w : IntW) : Statement (.popc sd sa zx w) := by
  intro hw _
  cases zx <;> cases w <;> exact checked_ok hw
theorem brev (sd : BitVec 6) (sa : BitVec 6) (zx : Bool) (w : IntW) : Statement (.brev sd sa zx w) := by
  intro hw _
  cases zx <;> cases w <;> exact checked_ok hw
theorem sext (sd : BitVec 6) (sa : BitVec 6) (y : Opb) (zx : Bool) (w : IntW) : Statement (.sext sd sa y zx w) := by
  intro hw _
  cases y <;> cases zx <;> cases w <;> exact checked_ok hw
theorem bfx (sd : BitVec 6) (sa : BitVec 6) (y : Opb) (zx : Bool) (w : IntW) : Statement (.bfx sd sa y zx w) := by
  intro hw _
  cases y <;> cases zx <;> cases w <;> exact checked_ok hw
theorem bfi (sd : BitVec 6) (sa : BitVec 6) (y : Opb) (zx : Bool) (w : IntW) : Statement (.bfi sd sa y zx w) := by
  intro hw _
  cases y <;> cases zx <;> cases w <;> exact checked_ok hw
theorem seq (sd : BitVec 6) (sa : BitVec 6) (y : Opb) (w : IntW) : Statement (.seq sd sa y w) := by
  intro hw _
  cases y <;> cases w <;> exact checked_ok hw
theorem sne (sd : BitVec 6) (sa : BitVec 6) (y : Opb) (w : IntW) : Statement (.sne sd sa y w) := by
  intro hw _
  cases y <;> cases w <;> exact checked_ok hw
theorem slt (sd : BitVec 6) (sa : BitVec 6) (y : Opb) (w : IntW) : Statement (.slt sd sa y w) := by
  intro hw _
  cases y <;> cases w <;> exact checked_ok hw
theorem sltn (sd : BitVec 6) (sa : BitVec 6) (y : Opb) (w : IntW) : Statement (.sltn sd sa y w) := by
  intro hw _
  cases y <;> cases w <;> exact checked_ok hw
theorem sel (sd : BitVec 6) (sa : BitVec 6) (y : Opb) : Statement (.sel sd sa y) := by
  intro hw _
  cases y <;> exact checked_ok hw
theorem lea (sd : BitVec 6) (sa : BitVec 6) (y : Opb) (sh : BitVec 2) : Statement (.lea sd sa y sh) := by
  intro hw _
  have h : ∀ sh : BitVec 2, (sh.setWidth 4).setWidth 2 = sh ∧ (!zxOf (sh.setWidth 4) && !satOf (sh.setWidth 4)) = true := by decide
  cases y <;> exact checked_eq hw (orElse_ok (chk_eq (h sh).2 (congrArg (Instr.lea sd sa _) (h sh).1)))
theorem li (sd : BitVec 6) (imm : BitVec 32) : Statement (.li sd imm) := by
  intro hw _
  exact checked_ok hw
theorem lih (sd : BitVec 6) (imm : BitVec 32) : Statement (.lih sd imm) := by
  intro hw _
  exact checked_ok hw
theorem fadd (sd : BitVec 6) (sa : BitVec 6) (y : Opb) (t : FpT) : Statement (.fadd sd sa y t) := by
  intro hw _
  cases y <;> cases t <;> exact checked_ok hw
theorem fsub (sd : BitVec 6) (sa : BitVec 6) (y : Opb) (t : FpT) : Statement (.fsub sd sa y t) := by
  intro hw _
  cases y <;> cases t <;> exact checked_ok hw
theorem fmul (sd : BitVec 6) (sa : BitVec 6) (y : Opb) (t : FpT) : Statement (.fmul sd sa y t) := by
  intro hw _
  cases y <;> cases t <;> exact checked_ok hw
theorem ffma (sd : BitVec 6) (sa : BitVec 6) (y : Opb) (t : FpT) : Statement (.ffma sd sa y t) := by
  intro hw _
  cases y <;> cases t <;> exact checked_ok hw
theorem fdiv (sd : BitVec 6) (sa : BitVec 6) (y : Opb) (t : FpT) : Statement (.fdiv sd sa y t) := by
  intro hw _
  cases y <;> cases t <;> exact checked_ok hw
theorem fsqrt (sd : BitVec 6) (sa : BitVec 6) (t : FpT) : Statement (.fsqrt sd sa t) := by
  intro hw _
  cases t <;> exact checked_ok hw
theorem fmin (sd : BitVec 6) (sa : BitVec 6) (y : Opb) (t : FpT) : Statement (.fmin sd sa y t) := by
  intro hw _
  cases y <;> cases t <;> exact checked_ok hw
theorem fmax (sd : BitVec 6) (sa : BitVec 6) (y : Opb) (t : FpT) : Statement (.fmax sd sa y t) := by
  intro hw _
  cases y <;> cases t <;> exact checked_ok hw
theorem fset (sd : BitVec 6) (sa : BitVec 6) (y : Opb) (c : FCond) (t : FpT) : Statement (.fset sd sa y c t) := by
  intro hw _
  cases y <;> cases c <;> cases t <;> exact checked_ok hw
theorem fcvt (sd : BitVec 6) (sa : BitVec 6) (code : BitVec 4) : Statement (.fcvt sd sa code) := by
  intro hw _
  exact checked_ok hw
theorem fabs (sd : BitVec 6) (sa : BitVec 6) (t : FpT) : Statement (.fabs sd sa t) := by
  intro hw _
  cases t <;> exact checked_ok hw
theorem ldb (sd : BitVec 6) (sa : BitVec 6) (y : Opb) (lax : Bool) : Statement (.ldb sd sa y lax) := by
  intro hw _
  cases y <;> cases lax <;> exact checked_ok hw
theorem ldbn (sd : BitVec 6) (sa : BitVec 6) (y : Opb) (lax : Bool) : Statement (.ldbn sd sa y lax) := by
  intro hw _
  cases y <;> cases lax <;> exact checked_ok hw
theorem ldh (sd : BitVec 6) (sa : BitVec 6) (y : Opb) (lax : Bool) : Statement (.ldh sd sa y lax) := by
  intro hw _
  cases y <;> cases lax <;> exact checked_ok hw
theorem ldhn (sd : BitVec 6) (sa : BitVec 6) (y : Opb) (lax : Bool) : Statement (.ldhn sd sa y lax) := by
  intro hw _
  cases y <;> cases lax <;> exact checked_ok hw
theorem ldw (sd : BitVec 6) (sa : BitVec 6) (y : Opb) (lax : Bool) : Statement (.ldw sd sa y lax) := by
  intro hw _
  cases y <;> cases lax <;> exact checked_ok hw
theorem ldwn (sd : BitVec 6) (sa : BitVec 6) (y : Opb) (lax : Bool) : Statement (.ldwn sd sa y lax) := by
  intro hw _
  cases y <;> cases lax <;> exact checked_ok hw
theorem ldd (sd : BitVec 6) (sa : BitVec 6) (y : Opb) (lax : Bool) : Statement (.ldd sd sa y lax) := by
  intro hw _
  cases y <;> cases lax <;> exact checked_ok hw
theorem stb (sd : BitVec 6) (sa : BitVec 6) (y : Opb) : Statement (.stb sd sa y) := by
  intro hw _
  cases y <;> exact checked_ok hw
theorem sth (sd : BitVec 6) (sa : BitVec 6) (y : Opb) : Statement (.sth sd sa y) := by
  intro hw _
  cases y <;> exact checked_ok hw
theorem stw (sd : BitVec 6) (sa : BitVec 6) (y : Opb) : Statement (.stw sd sa y) := by
  intro hw _
  cases y <;> exact checked_ok hw
theorem std (sd : BitVec 6) (sa : BitVec 6) (y : Opb) : Statement (.std sd sa y) := by
  intro hw _
  cases y <;> exact checked_ok hw
theorem lda (sd : BitVec 6) (sa : BitVec 6) (y : Opb) (scope : BitVec 4) : Statement (.lda sd sa y scope) := by
  intro hw _
  cases y <;> exact checked_ok hw
theorem stl (sd : BitVec 6) (sa : BitVec 6) (y : Opb) (scope : BitVec 4) : Statement (.stl sd sa y scope) := by
  intro hw _
  cases y <;> exact checked_ok hw
theorem pref (sa : BitVec 6) (y : Opb) (lax : Bool) : Statement (.pref sa y lax) := by
  intro hw _
  cases y <;> cases lax <;> exact checked_ok hw
theorem amo (sd : BitVec 6) (sa : BitVec 6) (vb : BitVec 6) (k : AmoKind) (o : Ord) (scope : BitVec 4) : Statement (.amo sd sa vb k o scope) := by
  intro hw _
  refine checked_eq hw (chkB_eq (and_ok (and_ok rfl (beq_ok (cwTop_cword _ _ _ _ _))) (beq_ok (cwVC_cword _ _ _ _ _))) (withAmo_eq k (cwKind_cword _ _ _ _ _) ?_))
  show Instr.amo sd sa (cwVB _) k (cwOrd _) (cwScope _) = _
  rw [cwVB_cword, cwOrd_cword, cwScope_cword]
theorem amow (sd : BitVec 6) (sa : BitVec 6) (vb : BitVec 6) (k : AmoKind) (o : Ord) (scope : BitVec 4) : Statement (.amow sd sa vb k o scope) := by
  intro hw _
  refine checked_eq hw (chkB_eq (and_ok (and_ok rfl (beq_ok (cwTop_cword _ _ _ _ _))) (beq_ok (cwVC_cword _ _ _ _ _))) (withAmo_eq k (cwKind_cword _ _ _ _ _) ?_))
  show Instr.amow sd sa (cwVB _) k (cwOrd _) (cwScope _) = _
  rw [cwVB_cword, cwOrd_cword, cwScope_cword]
theorem cas (sd : BitVec 6) (sa : BitVec 6) (vb : BitVec 6) (vc : BitVec 6) (o : Ord) (scope : BitVec 4) : Statement (.cas sd sa vb vc o scope) := by
  intro hw _
  refine checked_eq hw (chk_eq (and_ok (and_ok rfl (beq_ok (cwTop_cword _ _ _ _ _))) (beq_ok (cwKind_cword _ _ _ _ _))) ?_)
  show Instr.cas sd sa (cwVB _) (cwVC _) (cwOrd _) (cwScope _) = _
  rw [cwVB_cword, cwVC_cword, cwOrd_cword, cwScope_cword]
theorem casw (sd : BitVec 6) (sa : BitVec 6) (vb : BitVec 6) (vc : BitVec 6) (o : Ord) (scope : BitVec 4) : Statement (.casw sd sa vb vc o scope) := by
  intro hw _
  refine checked_eq hw (chk_eq (and_ok (and_ok rfl (beq_ok (cwTop_cword _ _ _ _ _))) (beq_ok (cwKind_cword _ _ _ _ _))) ?_)
  show Instr.casw sd sa (cwVB _) (cwVC _) (cwOrd _) (cwScope _) = _
  rw [cwVB_cword, cwVC_cword, cwOrd_cword, cwScope_cword]
theorem amof (sd : BitVec 6) (sa : BitVec 6) (vb : BitVec 6) (k : AmofKind) (single : Bool) (o : Ord) (scope : BitVec 4) : Statement (.amof sd sa vb k single o scope) := by
  intro hw _
  refine checked_eq hw (chkB_eq (and_ok (and_ok (by cases single <;> rfl) (beq_ok (cwTop_cword _ _ _ _ _))) (beq_ok (cwVC_cword _ _ _ _ _))) (withAmof_eq k (cwKind_cword _ _ _ _ _) ?_))
  have hs : (modLax single == 1) = single := by cases single <;> rfl
  show Instr.amof sd sa (cwVB _) k (modLax single == 1) (cwOrd _) (cwScope _) = _
  rw [hs, cwVB_cword, cwOrd_cword, cwScope_cword]
theorem fence (o : Ord) (scope : BitVec 4) : Statement (.fence o scope) := by
  intro hw _
  refine checked_eq hw (chk_eq (and_ok (and_ok (and_ok (and_ok rfl (beq_ok (cwTop_cword _ _ _ _ _))) (beq_ok (cwKind_cword _ _ _ _ _))) (beq_ok (cwVC_cword _ _ _ _ _))) (beq_ok (cwVB_cword _ _ _ _ _))) ?_)
  show Instr.fence (cwOrd _) (cwScope _) = _
  rw [cwOrd_cword, cwScope_cword]
theorem barc : Statement (.barc) := by
  intro hw _
  exact checked_ok hw
theorem barg : Statement (.barg) := by
  intro hw _
  exact checked_ok hw
theorem develop : Statement (.develop) := by
  intro hw _
  exact checked_ok hw
theorem trim (sd : BitVec 6) (sa : BitVec 6) (b : BitVec 8) : Statement (.trim sd sa b) := by
  intro hw _
  exact checked_ok hw
theorem semw (sd : BitVec 6) (sa : BitVec 6) (sem : BitVec 8) (thr : BitVec 16) (scope : BitVec 4) : Statement (.semw sd sa sem thr scope) := by
  intro hw _
  exact checked_eq hw (chk_eq (beq_ok ((ext_hi _ _ _ (by decide)).trans ((ext_lo _ _ _ (by decide)).trans (ext_all _))))
    (congr (congr (congrArg (Instr.semw sd sa) (sw_append _ _)) ((ext_hi _ _ _ (by decide)).trans ((ext_hi _ _ _ (by decide)).trans (ext_all _)))) rfl))
theorem sems (sd : BitVec 6) (sa : BitVec 6) (sem : BitVec 8) (inc : BitVec 16) (scope : BitVec 4) : Statement (.sems sd sa sem inc scope) := by
  intro hw _
  exact checked_eq hw (chk_eq (beq_ok ((ext_hi _ _ _ (by decide)).trans ((ext_hi _ _ _ (by decide)).trans (ext_all _))))
    (congr (congr (congrArg (Instr.sems sd sa) (sw_append _ _)) ((ext_hi _ _ _ (by decide)).trans ((ext_lo _ _ _ (by decide)).trans (ext_all _)))) rfl))
theorem trav : Statement (.trav) := by
  intro hw _
  exact checked_ok hw
theorem travAcc : Statement (.travAcc) := by
  intro hw _
  exact checked_ok hw
theorem travEnd : Statement (.travEnd) := by
  intro hw _
  exact checked_ok hw
theorem travInst (b : BitVec 8) : Statement (.travInst b) := by
  intro hw _
  exact checked_eq hw (chkB_eq (Bool.or_true _) rfl)
theorem hop : Statement (.hop) := by
  intro hw _
  exact checked_ok hw
theorem go (sa : BitVec 6) (b : BitVec 8) : Statement (.go sa b) := by
  intro hw _
  exact checked_ok hw
theorem spawn (sd : BitVec 6) (imm : BitVec 32) : Statement (.spawn sd imm) := by
  intro hw _
  exact checked_ok hw
theorem fend : Statement (.fend) := by
  intro hw _
  exact checked_ok hw
theorem fyield : Statement (.fyield) := by
  intro hw _
  exact checked_ok hw
theorem hqpush (sa : BitVec 6) : Statement (.hqpush sa) := by
  intro hw _
  exact checked_ok hw
theorem rgen (sd : BitVec 6) (sa : BitVec 6) (b : BitVec 8) : Statement (.rgen sd sa b) := by
  intro hw _
  exact checked_ok hw
theorem vnop : Statement (.vnop) := by
  intro hw _
  exact checked_ok hw
theorem vadd (vd : BitVec 5) (va : BitVec 5) (y : VSrc) (ms : BitVec 6) (e : FpE) : Statement (.vadd vd va y ms e) := by
  intro hw _
  cases y <;> cases e <;> exact checked_ok hw
theorem vsub (vd : BitVec 5) (va : BitVec 5) (y : VSrc) (ms : BitVec 6) (e : FpE) : Statement (.vsub vd va y ms e) := by
  intro hw _
  cases y <;> cases e <;> exact checked_ok hw
theorem vmul (vd : BitVec 5) (va : BitVec 5) (y : VSrc) (ms : BitVec 6) (e : FpE) : Statement (.vmul vd va y ms e) := by
  intro hw _
  cases y <;> cases e <;> exact checked_ok hw
theorem vfma (vd : BitVec 5) (va : BitVec 5) (y : VSrc) (ms : BitVec 6) (e : FpE) : Statement (.vfma vd va y ms e) := by
  intro hw _
  cases y <;> cases e <;> exact checked_ok hw
theorem vfms (vd : BitVec 5) (va : BitVec 5) (y : VSrc) (ms : BitVec 6) (e : FpE) : Statement (.vfms vd va y ms e) := by
  intro hw _
  cases y <;> cases e <;> exact checked_ok hw
theorem vfnma (vd : BitVec 5) (va : BitVec 5) (y : VSrc) (ms : BitVec 6) (e : FpE) : Statement (.vfnma vd va y ms e) := by
  intro hw _
  cases y <;> cases e <;> exact checked_ok hw
theorem vmin (vd : BitVec 5) (va : BitVec 5) (y : VSrc) (ms : BitVec 6) (e : FpE) : Statement (.vmin vd va y ms e) := by
  intro hw _
  cases y <;> cases e <;> exact checked_ok hw
theorem vmax (vd : BitVec 5) (va : BitVec 5) (y : VSrc) (ms : BitVec 6) (e : FpE) : Statement (.vmax vd va y ms e) := by
  intro hw _
  cases y <;> cases e <;> exact checked_ok hw
theorem vminp (vd : BitVec 5) (va : BitVec 5) (y : VSrc) (ms : BitVec 6) (e : FpE) : Statement (.vminp vd va y ms e) := by
  intro hw _
  cases y <;> cases e <;> exact checked_ok hw
theorem vmaxp (vd : BitVec 5) (va : BitVec 5) (y : VSrc) (ms : BitVec 6) (e : FpE) : Statement (.vmaxp vd va y ms e) := by
  intro hw _
  cases y <;> cases e <;> exact checked_ok hw
theorem vabs (vd : BitVec 5) (va : BitVec 5) (ms : BitVec 6) (e : FpE) : Statement (.vabs vd va ms e) := by
  intro hw _
  cases e <;> exact checked_ok hw
theorem vneg (vd : BitVec 5) (va : BitVec 5) (ms : BitVec 6) (e : FpE) : Statement (.vneg vd va ms e) := by
  intro hw _
  cases e <;> exact checked_ok hw
theorem vcmp (vd : BitVec 5) (va : BitVec 5) (c : VCond) (y : VSrc) (ms : BitVec 6) (e : FpE) : Statement (.vcmp vd va c y ms e) := by
  intro hw _
  refine checked_eq hw (chkB_eq (cmpOk_cmpX c y) ((withE_code e _).trans ?_))
  show Except.ok (Instr.vcmp vd va (vcondOf (cmpX c y)) (cmpSrc (cmpX c y) (cmpImm y)) ms e) = _
  rw [vcondOf_cmpX, cmpSrc_cmpX]
theorem vclass (vd : BitVec 5) (va : BitVec 5) (ms : BitVec 6) (e : FpE) : Statement (.vclass vd va ms e) := by
  intro hw _
  cases e <;> exact checked_ok hw
theorem vround (vd : BitVec 5) (va : BitVec 5) (rm : BitVec 3) (ms : BitVec 6) (e : FpE) : Statement (.vround vd va rm ms e) := by
  intro hw _
  have h : ∀ rm : BitVec 3, (rm.setWidth 5).setWidth 3 = rm ∧ decide ((rm.setWidth 5).toNat < 8) = true := by decide
  exact checked_eq hw (chkB_eq (h rm).2 ((withE_code e _).trans (congrArg (fun r => Except.ok (Instr.vround vd va r ms e)) (h rm).1)))
theorem vfract (vd : BitVec 5) (va : BitVec 5) (ms : BitVec 6) (e : FpE) : Statement (.vfract vd va ms e) := by
  intro hw _
  cases e <;> exact checked_ok hw
theorem vcopysign (vd : BitVec 5) (va : BitVec 5) (y : VSrc) (ms : BitVec 6) (e : FpE) : Statement (.vcopysign vd va y ms e) := by
  intro hw _
  cases y <;> cases e <;> exact checked_ok hw
theorem vldexp (vd : BitVec 5) (va : BitVec 5) (y : VSrc) (ms : BitVec 6) (e : FpE) : Statement (.vldexp vd va y ms e) := by
  intro hw _
  cases y <;> cases e <;> exact checked_ok hw
theorem vfrexp (vd : BitVec 5) (va : BitVec 5) (ms : BitVec 6) (e : FpE) : Statement (.vfrexp vd va ms e) := by
  intro hw _
  cases e <;> exact checked_ok hw
theorem vdiv (vd : BitVec 5) (va : BitVec 5) (y : VSrc) (ms : BitVec 6) (e : FpE) : Statement (.vdiv vd va y ms e) := by
  intro hw _
  cases y <;> cases e <;> exact checked_ok hw
theorem vsqrt (vd : BitVec 5) (va : BitVec 5) (ms : BitVec 6) (e : FpE) : Statement (.vsqrt vd va ms e) := by
  intro hw _
  cases e <;> exact checked_ok hw
theorem vrcp (vd : BitVec 5) (va : BitVec 5) (ms : BitVec 6) (e : FpE) : Statement (.vrcp vd va ms e) := by
  intro hw _
  cases e <;> exact checked_ok hw
theorem vrsq (vd : BitVec 5) (va : BitVec 5) (ms : BitVec 6) (e : FpE) : Statement (.vrsq vd va ms e) := by
  intro hw _
  cases e <;> exact checked_ok hw
theorem vexp2 (vd : BitVec 5) (va : BitVec 5) (ms : BitVec 6) (e : FpE) : Statement (.vexp2 vd va ms e) := by
  intro hw _
  cases e <;> exact checked_ok hw
theorem vlog2 (vd : BitVec 5) (va : BitVec 5) (ms : BitVec 6) (e : FpE) : Statement (.vlog2 vd va ms e) := by
  intro hw _
  cases e <;> exact checked_ok hw
theorem vsin (vd : BitVec 5) (va : BitVec 5) (ms : BitVec 6) (e : FpE) : Statement (.vsin vd va ms e) := by
  intro hw _
  cases e <;> exact checked_ok hw
theorem vcos (vd : BitVec 5) (va : BitVec 5) (ms : BitVec 6) (e : FpE) : Statement (.vcos vd va ms e) := by
  intro hw _
  cases e <;> exact checked_ok hw
theorem vtanh (vd : BitVec 5) (va : BitVec 5) (ms : BitVec 6) (e : FpE) : Statement (.vtanh vd va ms e) := by
  intro hw _
  cases e <;> exact checked_ok hw
theorem viadd (vd : BitVec 5) (va : BitVec 5) (y : VSrc) (ms : BitVec 6) (et : BitVec 3) : Statement (.viadd vd va y ms et) := by
  intro hw _
  cases y <;> exact checked_ok hw
theorem visub (vd : BitVec 5) (va : BitVec 5) (y : VSrc) (ms : BitVec 6) (et : BitVec 3) : Statement (.visub vd va y ms et) := by
  intro hw _
  cases y <;> exact checked_ok hw
theorem vimul (vd : BitVec 5) (va : BitVec 5) (y : VSrc) (ms : BitVec 6) (et : BitVec 3) : Statement (.vimul vd va y ms et) := by
  intro hw _
  cases y <;> exact checked_ok hw
theorem vimulh (vd : BitVec 5) (va : BitVec 5) (y : VSrc) (ms : BitVec 6) (et : BitVec 3) : Statement (.vimulh vd va y ms et) := by
  intro hw _
  cases y <;> exact checked_ok hw
theorem vimad (vd : BitVec 5) (va : BitVec 5) (y : VSrc) (ms : BitVec 6) (et : BitVec 3) : Statement (.vimad vd va y ms et) := by
  intro hw _
  cases y <;> exact checked_ok hw
theorem vimin (vd : BitVec 5) (va : BitVec 5) (y : VSrc) (ms : BitVec 6) (et : BitVec 3) : Statement (.vimin vd va y ms et) := by
  intro hw _
  cases y <;> exact checked_ok hw
theorem vimax (vd : BitVec 5) (va : BitVec 5) (y : VSrc) (ms : BitVec 6) (et : BitVec 3) : Statement (.vimax vd va y ms et) := by
  intro hw _
  cases y <;> exact checked_ok hw
theorem viabs (vd : BitVec 5) (va : BitVec 5) (ms : BitVec 6) (et : BitVec 3) : Statement (.viabs vd va ms et) := by
  intro hw _
  exact checked_ok hw
theorem vand (vd : BitVec 5) (va : BitVec 5) (y : VSrc) (ms : BitVec 6) (et : BitVec 3) : Statement (.vand vd va y ms et) := by
  intro hw _
  cases y <;> exact checked_ok hw
theorem vor (vd : BitVec 5) (va : BitVec 5) (y : VSrc) (ms : BitVec 6) (et : BitVec 3) : Statement (.vor vd va y ms et) := by
  intro hw _
  cases y <;> exact checked_ok hw
theorem vxor (vd : BitVec 5) (va : BitVec 5) (y : VSrc) (ms : BitVec 6) (et : BitVec 3) : Statement (.vxor vd va y ms et) := by
  intro hw _
  cases y <;> exact checked_ok hw
theorem vandn (vd : BitVec 5) (va : BitVec 5) (y : VSrc) (ms : BitVec 6) (et : BitVec 3) : Statement (.vandn vd va y ms et) := by
  intro hw _
  cases y <;> exact checked_ok hw
theorem vshl (vd : BitVec 5) (va : BitVec 5) (y : VSrc) (ms : BitVec 6) (et : BitVec 3) : Statement (.vshl vd va y ms et) := by
  intro hw _
  cases y <;> exact checked_ok hw
theorem vshr (vd : BitVec 5) (va : BitVec 5) (y : VSrc) (ms : BitVec 6) (et : BitVec 3) : Statement (.vshr vd va y ms et) := by
  intro hw _
  cases y <;> exact checked_ok hw
theorem vsha (vd : BitVec 5) (va : BitVec 5) (y : VSrc) (ms : BitVec 6) (et : BitVec 3) : Statement (.vsha vd va y ms et) := by
  intro hw _
  cases y <;> exact checked_ok hw
theorem vicmp (vd : BitVec 5) (va : BitVec 5) (c : VCond) (y : VSrc) (ms : BitVec 6) (et : BitVec 3) : Statement (.vicmp vd va c y ms et) := by
  intro hw _
  refine checked_eq hw (chk_eq (cmpOk_cmpX c y) ?_)
  show Instr.vicmp vd va (vcondOf (cmpX c y)) (cmpSrc (cmpX c y) (cmpImm y)) ms et = _
  rw [vcondOf_cmpX, cmpSrc_cmpX]
theorem vpopc (vd : BitVec 5) (va : BitVec 5) (ms : BitVec 6) (et : BitVec 3) : Statement (.vpopc vd va ms et) := by
  intro hw _
  exact checked_ok hw
theorem vclz (vd : BitVec 5) (va : BitVec 5) (ms : BitVec 6) (et : BitVec 3) : Statement (.vclz vd va ms et) := by
  intro hw _
  exact checked_ok hw
theorem vsatadd (vd : BitVec 5) (va : BitVec 5) (y : VSrc) (ms : BitVec 6) (et : BitVec 3) : Statement (.vsatadd vd va y ms et) := by
  intro hw _
  cases y <;> exact checked_ok hw
theorem vsatsub (vd : BitVec 5) (va : BitVec 5) (y : VSrc) (ms : BitVec 6) (et : BitVec 3) : Statement (.vsatsub vd va y ms et) := by
  intro hw _
  cases y <;> exact checked_ok hw
theorem vidiv (vd : BitVec 5) (va : BitVec 5) (y : VSrc) (ms : BitVec 6) (et : BitVec 3) : Statement (.vidiv vd va y ms et) := by
  intro hw _
  cases y <;> exact checked_ok hw
theorem virem (vd : BitVec 5) (va : BitVec 5) (y : VSrc) (ms : BitVec 6) (et : BitVec 3) : Statement (.virem vd va y ms et) := by
  intro hw _
  cases y <;> exact checked_ok hw
theorem vbitsel (vd : BitVec 5) (va : BitVec 5) (vb : BitVec 5) (ms : BitVec 6) (et : BitVec 3) : Statement (.vbitsel vd va vb ms et) := by
  intro hw _
  exact checked_ok hw
theorem vbfx (vd : BitVec 5) (va : BitVec 5) (y : VSrc) (ms : BitVec 6) (et : BitVec 3) : Statement (.vbfx vd va y ms et) := by
  intro hw _
  cases y <;> exact checked_ok hw
theorem vbfi (vd : BitVec 5) (va : BitVec 5) (y : VSrc) (ms : BitVec 6) (et : BitVec 3) : Statement (.vbfi vd va y ms et) := by
  intro hw _
  cases y <;> exact checked_ok hw
theorem vwhile (vd : BitVec 5) (va : BitVec 5) (vb : BitVec 5) (ms : BitVec 6) (et : BitVec 3) : Statement (.vwhile vd va vb ms et) := by
  intro hw _
  exact checked_ok hw
theorem vmatch (vd : BitVec 5) (va : BitVec 5) (ms : BitVec 6) (et : BitVec 3) : Statement (.vmatch vd va ms et) := by
  intro hw _
  exact checked_ok hw
theorem vmov (vd : BitVec 5) (va : BitVec 5) (ms : BitVec 6) (et : BitVec 3) : Statement (.vmov vd va ms et) := by
  intro hw _
  exact checked_ok hw
theorem vsplat (vd : BitVec 5) (va : BitVec 5) (ms : BitVec 6) (et : BitVec 3) : Statement (.vsplat vd va ms et) := by
  intro hw _
  exact checked_ok hw
theorem vmovi (vd : BitVec 5) (imm : BitVec 16) (ms : BitVec 6) (et : BitVec 3) : Statement (.vmovi vd imm ms et) := by
  intro hw _
  exact checked_ok hw
theorem vext (vd : BitVec 5) (va : BitVec 5) (vb : BitVec 5) (ms : BitVec 6) (et : BitVec 3) : Statement (.vext vd va vb ms et) := by
  intro hw _
  exact checked_ok hw
theorem vins (vd : BitVec 5) (va : BitVec 5) (vb : BitVec 5) (ms : BitVec 6) (et : BitVec 3) : Statement (.vins vd va vb ms et) := by
  intro hw _
  exact checked_ok hw
theorem vperm (vd : BitVec 5) (va : BitVec 5) (vb : BitVec 5) (ms : BitVec 6) (et : BitVec 3) : Statement (.vperm vd va vb ms et) := by
  intro hw _
  exact checked_ok hw
theorem vrot (vd : BitVec 5) (va : BitVec 5) (y : VSrc) (ms : BitVec 6) (et : BitVec 3) : Statement (.vrot vd va y ms et) := by
  intro hw _
  cases y <;> exact checked_ok hw
theorem vslideup (vd : BitVec 5) (va : BitVec 5) (y : VSrc) (ms : BitVec 6) (et : BitVec 3) : Statement (.vslideup vd va y ms et) := by
  intro hw _
  cases y <;> exact checked_ok hw
theorem vslidedn (vd : BitVec 5) (va : BitVec 5) (y : VSrc) (ms : BitVec 6) (et : BitVec 3) : Statement (.vslidedn vd va y ms et) := by
  intro hw _
  cases y <;> exact checked_ok hw
theorem viota (vd : BitVec 5) (ms : BitVec 6) (et : BitVec 3) : Statement (.viota vd ms et) := by
  intro hw _
  exact checked_ok hw
theorem vsel (vd : BitVec 5) (va : BitVec 5) (vb : BitVec 5) (ms : BitVec 6) (et : BitVec 3) : Statement (.vsel vd va vb ms et) := by
  intro hw _
  exact checked_ok hw
theorem vcompress (vd : BitVec 5) (va : BitVec 5) (ms : BitVec 6) (et : BitVec 3) : Statement (.vcompress vd va ms et) := by
  intro hw _
  exact checked_ok hw
theorem vexpand (vd : BitVec 5) (va : BitVec 5) (ms : BitVec 6) (et : BitVec 3) : Statement (.vexpand vd va ms et) := by
  intro hw _
  exact checked_ok hw
theorem vshfl (vd : BitVec 5) (va : BitVec 5) (vb : BitVec 5) (ms : BitVec 6) (et : BitVec 3) : Statement (.vshfl vd va vb ms et) := by
  intro hw _
  exact checked_ok hw
theorem vredadd (vd : BitVec 5) (va : BitVec 5) (ms : BitVec 6) (et : BitVec 3) : Statement (.vredadd vd va ms et) := by
  intro hw _
  exact checked_ok hw
theorem vredmin (vd : BitVec 5) (va : BitVec 5) (ms : BitVec 6) (et : BitVec 3) : Statement (.vredmin vd va ms et) := by
  intro hw _
  exact checked_ok hw
theorem vredmax (vd : BitVec 5) (va : BitVec 5) (ms : BitVec 6) (et : BitVec 3) : Statement (.vredmax vd va ms et) := by
  intro hw _
  exact checked_ok hw
theorem vredand (vd : BitVec 5) (va : BitVec 5) (ms : BitVec 6) (et : BitVec 3) : Statement (.vredand vd va ms et) := by
  intro hw _
  exact checked_ok hw
theorem vredor (vd : BitVec 5) (va : BitVec 5) (ms : BitVec 6) (et : BitVec 3) : Statement (.vredor vd va ms et) := by
  intro hw _
  exact checked_ok hw
theorem vscanadd (vd : BitVec 5) (va : BitVec 5) (ms : BitVec 6) (et : BitVec 3) : Statement (.vscanadd vd va ms et) := by
  intro hw _
  exact checked_ok hw
theorem vscanmin (vd : BitVec 5) (va : BitVec 5) (ms : BitVec 6) (et : BitVec 3) : Statement (.vscanmin vd va ms et) := by
  intro hw _
  exact checked_ok hw
theorem vscanmax (vd : BitVec 5) (va : BitVec 5) (ms : BitVec 6) (et : BitVec 3) : Statement (.vscanmax vd va ms et) := by
  intro hw _
  exact checked_ok hw
theorem vcvt (vd : BitVec 5) (va : BitVec 5) (ty : BitVec 4) (sat : Bool) (ms : BitVec 6) (et : BitVec 3) : Statement (.vcvt vd va ty sat ms et) := by
  intro hw _
  show checked (Except.ok (Instr.vcvt vd va ((BitVec.ofBool sat ++ ty).setWidth 4) ((BitVec.ofBool sat ++ ty).getLsbD 4) ms et)) = _
  rw [sw_append, show (BitVec.ofBool sat ++ ty).getLsbD 4 = sat from (bit_hi _ _ _ (by decide)).trans (bit_one _)]
  exact checked_ok hw
theorem vcvti (vd : BitVec 5) (va : BitVec 5) (ty : BitVec 4) (sat : Bool) (ms : BitVec 6) (et : BitVec 3) : Statement (.vcvti vd va ty sat ms et) := by
  intro hw _
  show checked (Except.ok (Instr.vcvti vd va ((BitVec.ofBool sat ++ ty).setWidth 4) ((BitVec.ofBool sat ++ ty).getLsbD 4) ms et)) = _
  rw [sw_append, show (BitVec.ofBool sat ++ ty).getLsbD 4 = sat from (bit_hi _ _ _ (by decide)).trans (bit_one _)]
  exact checked_ok hw
theorem vnarrow (vd : BitVec 5) (va : BitVec 5) (ty : BitVec 4) (sat : Bool) (ms : BitVec 6) (et : BitVec 3) : Statement (.vnarrow vd va ty sat ms et) := by
  intro hw _
  show checked (Except.ok (Instr.vnarrow vd va ((BitVec.ofBool sat ++ ty).setWidth 4) ((BitVec.ofBool sat ++ ty).getLsbD 4) ms et)) = _
  rw [sw_append, show (BitVec.ofBool sat ++ ty).getLsbD 4 = sat from (bit_hi _ _ _ (by decide)).trans (bit_one _)]
  exact checked_ok hw
theorem vwiden (vd : BitVec 5) (va : BitVec 5) (ty : BitVec 4) (sat : Bool) (ms : BitVec 6) (et : BitVec 3) : Statement (.vwiden vd va ty sat ms et) := by
  intro hw _
  show checked (Except.ok (Instr.vwiden vd va ((BitVec.ofBool sat ++ ty).setWidth 4) ((BitVec.ofBool sat ++ ty).getLsbD 4) ms et)) = _
  rw [sw_append, show (BitVec.ofBool sat ++ ty).getLsbD 4 = sat from (bit_hi _ _ _ (by decide)).trans (bit_one _)]
  exact checked_ok hw
theorem vqmx (vd : BitVec 5) (va : BitVec 5) (ty : BitVec 4) (ms : BitVec 6) (et : BitVec 3) : Statement (.vqmx vd va ty ms et) := by
  intro hw _
  have h : ∀ ty : BitVec 4, (ty.setWidth 5).setWidth 4 = ty ∧ (!(ty.setWidth 5).getLsbD 4) = true := by decide
  exact checked_eq hw (chk_eq (h ty).2 (congrArg (Instr.vqmx vd va · ms et) (h ty).1))
theorem vdqmx (vd : BitVec 5) (va : BitVec 5) (ty : BitVec 4) (ms : BitVec 6) (et : BitVec 3) : Statement (.vdqmx vd va ty ms et) := by
  intro hw _
  have h : ∀ ty : BitVec 4, (ty.setWidth 5).setWidth 4 = ty ∧ (!(ty.setWidth 5).getLsbD 4) = true := by decide
  exact checked_eq hw (chk_eq (h ty).2 (congrArg (Instr.vdqmx vd va · ms et) (h ty).1))
theorem vld (vd : BitVec 5) (base : BitVec 6) (imm : BitVec 16) (lax : Bool) (ms : BitVec 6) (et : BitVec 3) : Statement (.vld vd base imm lax ms et) := by
  intro hw _
  refine checked_eq hw (chk_eq (and_ok rfl (beq_ok (low13_memX _ _))) ?_)
  show Instr.vld vd (xBase (memX base lax false 0 0 0 0)) imm (xLax (memX base lax false 0 0 0 0)) ms et = _
  rw [xBase_memX, xLax_memX]
theorem vst (vd : BitVec 5) (base : BitVec 6) (imm : BitVec 16) (ms : BitVec 6) (et : BitVec 3) : Statement (.vst vd base imm ms et) := by
  intro hw _
  refine checked_eq hw (chk_eq (and_ok rfl (beq_ok (low14_memX _))) ?_)
  show Instr.vst vd (xBase (memX base false false 0 0 0 0)) imm ms et = _
  rw [xBase_memX]
theorem vlds (vd : BitVec 5) (base : BitVec 6) (stride : BitVec 6) (imm : BitVec 16) (lax : Bool) (ms : BitVec 6) (et : BitVec 3) : Statement (.vlds vd base stride imm lax ms et) := by
  intro hw _
  refine checked_eq hw (chk_eq (and_ok (and_ok rfl (beq_ok (xMid_strideX _ _ _))) (beq_ok (low4_strideX _ _ _))) ?_)
  show Instr.vlds vd (xBase (strideX base lax stride)) (xStride (strideX base lax stride)) imm (xLax (strideX base lax stride)) ms et = _
  rw [xBase_strideX, xStride_strideX, xLax_strideX]
theorem vsts (vd : BitVec 5) (base : BitVec 6) (stride : BitVec 6) (imm : BitVec 16) (ms : BitVec 6) (et : BitVec 3) : Statement (.vsts vd base stride imm ms et) := by
  intro hw _
  refine checked_eq hw (chk_eq (and_ok (and_ok (and_ok rfl (beq_ok (xMid_strideX _ _ _))) (by rw [show xLax _ = _ from xLax_strideX _ _ _]; rfl)) (beq_ok (low4_strideX _ _ _))) ?_)
  show Instr.vsts vd (xBase (strideX base false stride)) (xStride (strideX base false stride)) imm ms et = _
  rw [xBase_strideX, xStride_strideX]
theorem vgath (vd : BitVec 5) (va : BitVec 5) (base : BitVec 6) (imm : BitVec 16) (zx : Bool) (sc : BitVec 2) (lax : Bool) (ms : BitVec 6) (et : BitVec 3) : Statement (.vgath vd va base imm zx sc lax ms et) := by
  intro hw _
  refine checked_eq hw (chk_eq (beq_ok (low10_memX _ _ _ _)) ?_)
  show Instr.vgath vd va (xBase (memX base lax zx sc 0 0 0)) imm (xZx (memX base lax zx sc 0 0 0)) (xSc (memX base lax zx sc 0 0 0)) (xLax (memX base lax zx sc 0 0 0)) ms et = _
  rw [xBase_memX, xZx_memX, xSc_memX, xLax_memX]
theorem vscat (vd : BitVec 5) (va : BitVec 5) (base : BitVec 6) (imm : BitVec 16) (zx : Bool) (sc : BitVec 2) (ms : BitVec 6) (et : BitVec 3) : Statement (.vscat vd va base imm zx sc ms et) := by
  intro hw _
  refine checked_eq hw (chk_eq (and_ok (beq_ok (low10_memX _ _ _ _)) (by rw [show xLax _ = _ from xLax_memX _ _ _ _ _ _ _]; rfl)) ?_)
  show Instr.vscat vd va (xBase (memX base false zx sc 0 0 0)) imm (xZx (memX base false zx sc 0 0 0)) (xSc (memX base false zx sc 0 0 0)) ms et = _
  rw [xBase_memX, xZx_memX, xSc_memX]
theorem vldb (vd : BitVec 5) (base : BitVec 6) (imm : BitVec 16) (lax : Bool) (ms : BitVec 6) (et : BitVec 3) : Statement (.vldb vd base imm lax ms et) := by
  intro hw _
  refine checked_eq hw (chk_eq (and_ok rfl (beq_ok (low13_memX _ _))) ?_)
  show Instr.vldb vd (xBase (memX base lax false 0 0 0 0)) imm (xLax (memX base lax false 0 0 0 0)) ms et = _
  rw [xBase_memX, xLax_memX]
theorem vamo (vd : BitVec 5) (va : BitVec 5) (base : BitVec 6) (imm : BitVec 16) (zx : Bool) (sc : BitVec 2) (k : AmoKind) (o : Ord) (scope : BitVec 4) (ms : BitVec 6) (et : BitVec 3) : Statement (.vamo vd va base imm zx sc k o scope ms et) := by
  intro hw _
  refine checked_eq hw (chkB_eq (by rw [show xLax _ = _ from xLax_memX _ _ _ _ _ _ _]; rfl) (withAmo_eq k (xKind_memX _ _ _ _ _ _ _) ?_))
  show Instr.vamo vd va (xBase (memX base false zx sc (amoCode k) (ordCode o) scope)) imm (xZx (memX base false zx sc (amoCode k) (ordCode o) scope)) (xSc (memX base false zx sc (amoCode k) (ordCode o) scope)) k (xOrd (memX base false zx sc (amoCode k) (ordCode o) scope)) ((memX base false zx sc (amoCode k) (ordCode o) scope).setWidth 4) ms et = _
  simp only [xBase_memX, xZx_memX, xSc_memX, xOrd_memX, low4_memX, ordOf_ordCode]
theorem vamof (vd : BitVec 5) (va : BitVec 5) (base : BitVec 6) (imm : BitVec 16) (zx : Bool) (sc : BitVec 2) (k : AmofKind) (o : Ord) (scope : BitVec 4) (ms : BitVec 6) (et : BitVec 3) : Statement (.vamof vd va base imm zx sc k o scope ms et) := by
  intro hw _
  refine checked_eq hw (chkB_eq (by rw [show xLax _ = _ from xLax_memX _ _ _ _ _ _ _]; rfl) (withAmof_eq k (xKind_memX _ _ _ _ _ _ _) ?_))
  show Instr.vamof vd va (xBase (memX base false zx sc (amofCode k) (ordCode o) scope)) imm (xZx (memX base false zx sc (amofCode k) (ordCode o) scope)) (xSc (memX base false zx sc (amofCode k) (ordCode o) scope)) k (xOrd (memX base false zx sc (amofCode k) (ordCode o) scope)) ((memX base false zx sc (amofCode k) (ordCode o) scope).setWidth 4) ms et = _
  simp only [xBase_memX, xZx_memX, xSc_memX, xOrd_memX, low4_memX, ordOf_ordCode]
theorem vhqpop (vd : BitVec 5) (vb : BitVec 5) (ms : BitVec 6) : Statement (.vhqpop vd vb ms) := by
  intro hw _
  exact checked_ok hw
theorem vraygen (vd : BitVec 5) (va : BitVec 5) (vb : BitVec 5) (ms : BitVec 6) : Statement (.vraygen vd va vb ms) := by
  intro hw _
  exact checked_ok hw
theorem vaccrd (vd : BitVec 5) (tile : BitVec 2) (ctx : Bool) (vb : BitVec 5) (ms : BitVec 6) (et : BitVec 3) : Statement (.vaccrd vd tile ctx vb ms et) := by
  intro hw _
  have h : ∀ (tile : BitVec 2) (ctx : Bool), ((0 : BitVec 2) ++ BitVec.ofBool ctx ++ tile).setWidth 2 = tile ∧
      ((0 : BitVec 2) ++ BitVec.ofBool ctx ++ tile).getLsbD 2 = ctx ∧ decide (((0 : BitVec 2) ++ BitVec.ofBool ctx ++ tile).toNat < 8) = true := by decide
  refine checked_eq hw (chk_eq (h tile ctx).2.2 ?_)
  exact congr (congr (congr (congr (congrArg (Instr.vaccrd vd) (h tile ctx).1) (h tile ctx).2.1) rfl) rfl) rfl
theorem vaccwr (vd : BitVec 5) (tile : BitVec 2) (ctx : Bool) (vb : BitVec 5) (ms : BitVec 6) (et : BitVec 3) : Statement (.vaccwr vd tile ctx vb ms et) := by
  intro hw _
  have h : ∀ (tile : BitVec 2) (ctx : Bool), ((0 : BitVec 2) ++ BitVec.ofBool ctx ++ tile).setWidth 2 = tile ∧
      ((0 : BitVec 2) ++ BitVec.ofBool ctx ++ tile).getLsbD 2 = ctx ∧ decide (((0 : BitVec 2) ++ BitVec.ofBool ctx ++ tile).toNat < 8) = true := by decide
  refine checked_eq hw (chk_eq (h tile ctx).2.2 ?_)
  exact congr (congr (congr (congr (congrArg (Instr.vaccwr vd) (h tile ctx).1) (h tile ctx).2.1) rfl) rfl) rfl
theorem vdot4 (vd : BitVec 5) (va : BitVec 5) (y : VSrc) (ms : BitVec 6) (et : BitVec 3) : Statement (.vdot4 vd va y ms et) := by
  intro hw _
  cases y <;> exact checked_ok hw
theorem vbfdot (vd : BitVec 5) (va : BitVec 5) (vb : BitVec 5) (ms : BitVec 6) : Statement (.vbfdot vd va vb ms) := by
  intro hw _
  exact checked_ok hw
theorem vhash (vd : BitVec 5) (va : BitVec 5) (vb : BitVec 5) (ms : BitVec 6) (et : BitVec 3) : Statement (.vhash vd va vb ms et) := by
  intro hw _
  exact checked_ok hw
theorem cpy (h : CmdHdr) (src : RegOp) (dst : RegOp) (len : BitVec 32) : Statement (.cpy h src dst len) := by
  intro hw _
  refine checked_eq hw (chk_eq (i := .cpy _ _ _ _) ?_ ?_)
  · repeat' first | refine and_ok ?_ ?_ | refine beq_ok ?_
    all_goals (repeat first | exact Eq.refl (0 : BitVec 64) | exact ext_all _ | exact bit_one _ | exact sw_lo _ | exact sw_hi _ _ | exact ext_zero _ | refine (ext_lo _ _ _).trans ?_ | refine (ext_hi _ _ _).trans ?_ | refine (bit_lo _ _ _).trans ?_ | refine (bit_hi _ _ _).trans ?_)
  · congr 1
    all_goals first | exact regOf_regW _ | (repeat first | exact Eq.refl (0 : BitVec 64) | exact ext_all _ | exact bit_one _ | exact sw_lo _ | exact sw_hi _ _ | exact ext_zero _ | refine (ext_lo _ _ _).trans ?_ | refine (ext_hi _ _ _).trans ?_ | refine (bit_lo _ _ _).trans ?_ | refine (bit_hi _ _ _).trans ?_)
theorem cpy2 (h : CmdHdr) (src : RegOp) (dst : RegOp) (rows : BitVec 16) (rowb : BitVec 16) (sstr : BitVec 16) (dstr : BitVec 16) : Statement (.cpy2 h src dst rows rowb sstr dstr) := by
  intro hw _
  refine checked_eq hw (congrArg Except.ok (?_ : Instr.cpy2 _ _ _ _ _ _ _ = _))
  congr 1
  all_goals first | exact regOf_regW _ | (repeat first | exact Eq.refl (0 : BitVec 64) | exact ext_all _ | exact bit_one _ | exact sw_lo _ | exact sw_hi _ _ | exact ext_zero _ | refine (ext_lo _ _ _).trans ?_ | refine (ext_hi _ _ _).trans ?_ | refine (bit_lo _ _ _).trans ?_ | refine (bit_hi _ _ _).trans ?_)
theorem cpyt (h : CmdHdr) (src : RegOp) (dst : RegOp) (rows : BitVec 12) (cols : BitVec 12) (sstr : BitVec 18) (dstr : BitVec 18) (esz : BitVec 2) : Statement (.cpyt h src dst rows cols sstr dstr esz) := by
  intro hw _
  refine checked_eq hw (chk_eq (i := .cpyt _ _ _ _ _ _ _ _) ?_ ?_)
  · repeat' first | refine and_ok ?_ ?_ | refine beq_ok ?_
    all_goals (repeat first | exact Eq.refl (0 : BitVec 64) | exact ext_all _ | exact bit_one _ | exact sw_lo _ | exact sw_hi _ _ | exact ext_zero _ | refine (ext_lo _ _ _).trans ?_ | refine (ext_hi _ _ _).trans ?_ | refine (bit_lo _ _ _).trans ?_ | refine (bit_hi _ _ _).trans ?_)
  · congr 1
    all_goals first | exact regOf_regW _ | (repeat first | exact Eq.refl (0 : BitVec 64) | exact ext_all _ | exact bit_one _ | exact sw_lo _ | exact sw_hi _ _ | exact ext_zero _ | refine (ext_lo _ _ _).trans ?_ | refine (ext_hi _ _ _).trans ?_ | refine (bit_lo _ _ _).trans ?_ | refine (bit_hi _ _ _).trans ?_)
theorem cpyb (h : CmdHdr) (src : RegOp) (dst : RegOp) (rows : BitVec 12) (cols : BitVec 12) (sstr : BitVec 18) (bsz : BitVec 2) (role : Bool) (tr : Bool) : Statement (.cpyb h src dst rows cols sstr bsz role tr) := by
  intro hw _
  refine checked_eq hw (chk_eq (i := .cpyb _ _ _ _ _ _ _ _ _) ?_ ?_)
  · repeat' first | refine and_ok ?_ ?_ | refine beq_ok ?_
    all_goals (repeat first | exact Eq.refl (0 : BitVec 64) | exact ext_all _ | exact bit_one _ | exact sw_lo _ | exact sw_hi _ _ | exact ext_zero _ | refine (ext_lo _ _ _).trans ?_ | refine (ext_hi _ _ _).trans ?_ | refine (bit_lo _ _ _).trans ?_ | refine (bit_hi _ _ _).trans ?_)
  · congr 1
    all_goals first | exact regOf_regW _ | (repeat first | exact Eq.refl (0 : BitVec 64) | exact ext_all _ | exact bit_one _ | exact sw_lo _ | exact sw_hi _ _ | exact ext_zero _ | refine (ext_lo _ _ _).trans ?_ | refine (ext_hi _ _ _).trans ?_ | refine (bit_lo _ _ _).trans ?_ | refine (bit_hi _ _ _).trans ?_)
theorem cpym (h : CmdHdr) (src : RegOp) (doff : BitVec 22) (die : BitVec 3) (len : BitVec 32) (cmask : BitVec 64) : Statement (.cpym h src doff die len cmask) := by
  intro hw _
  refine checked_eq hw (chk_eq (i := .cpym _ _ _ _ _ _) ?_ ?_)
  · repeat' first | refine and_ok ?_ ?_ | refine beq_ok ?_
    all_goals (repeat first | exact Eq.refl (0 : BitVec 64) | exact ext_all _ | exact bit_one _ | exact sw_lo _ | exact sw_hi _ _ | exact ext_zero _ | refine (ext_lo _ _ _).trans ?_ | refine (ext_hi _ _ _).trans ?_ | refine (bit_lo _ _ _).trans ?_ | refine (bit_hi _ _ _).trans ?_)
  · congr 1
    all_goals first | exact regOf_regW _ | (repeat first | exact Eq.refl (0 : BitVec 64) | exact ext_all _ | exact bit_one _ | exact sw_lo _ | exact sw_hi _ _ | exact ext_zero _ | refine (ext_lo _ _ _).trans ?_ | refine (ext_hi _ _ _).trans ?_ | refine (bit_lo _ _ _).trans ?_ | refine (bit_hi _ _ _).trans ?_)
theorem cpyr (h : CmdHdr) (src : RegOp) (dst : RegOp) (len : BitVec 32) (ty : BitVec 3) : Statement (.cpyr h src dst len ty) := by
  intro hw _
  refine checked_eq hw (chk_eq (i := .cpyr _ _ _ _ _) ?_ ?_)
  · repeat' first | refine and_ok ?_ ?_ | refine beq_ok ?_
    all_goals (repeat first | exact Eq.refl (0 : BitVec 64) | exact ext_all _ | exact bit_one _ | exact sw_lo _ | exact sw_hi _ _ | exact ext_zero _ | refine (ext_lo _ _ _).trans ?_ | refine (ext_hi _ _ _).trans ?_ | refine (bit_lo _ _ _).trans ?_ | refine (bit_hi _ _ _).trans ?_)
  · congr 1
    all_goals first | exact regOf_regW _ | (repeat first | exact Eq.refl (0 : BitVec 64) | exact ext_all _ | exact bit_one _ | exact sw_lo _ | exact sw_hi _ _ | exact ext_zero _ | refine (ext_lo _ _ _).trans ?_ | refine (ext_hi _ _ _).trans ?_ | refine (bit_lo _ _ _).trans ?_ | refine (bit_hi _ _ _).trans ?_)
theorem cpyg (h : CmdHdr) (src : RegOp) (dst : RegOp) (count : BitVec 32) (gsz : BitVec 3) : Statement (.cpyg h src dst count gsz) := by
  intro hw _
  refine checked_eq hw (chk_eq (i := .cpyg _ _ _ _ _) ?_ ?_)
  · repeat' first | refine and_ok ?_ ?_ | refine beq_ok ?_
    all_goals (repeat first | exact Eq.refl (0 : BitVec 64) | exact ext_all _ | exact bit_one _ | exact sw_lo _ | exact sw_hi _ _ | exact ext_zero _ | refine (ext_lo _ _ _).trans ?_ | refine (ext_hi _ _ _).trans ?_ | refine (bit_lo _ _ _).trans ?_ | refine (bit_hi _ _ _).trans ?_)
  · congr 1
    all_goals first | exact regOf_regW _ | (repeat first | exact Eq.refl (0 : BitVec 64) | exact ext_all _ | exact bit_one _ | exact sw_lo _ | exact sw_hi _ _ | exact ext_zero _ | refine (ext_lo _ _ _).trans ?_ | refine (ext_hi _ _ _).trans ?_ | refine (bit_lo _ _ _).trans ?_ | refine (bit_hi _ _ _).trans ?_)
theorem pref2 (h : CmdHdr) (addr : RegOp) (len : BitVec 32) : Statement (.pref2 h addr len) := by
  intro hw _
  refine checked_eq hw (chk_eq (i := .pref2 _ _ _) ?_ ?_)
  · repeat' first | refine and_ok ?_ ?_ | refine beq_ok ?_
    all_goals (repeat first | exact Eq.refl (0 : BitVec 64) | exact ext_all _ | exact bit_one _ | exact sw_lo _ | exact sw_hi _ _ | exact ext_zero _ | refine (ext_lo _ _ _).trans ?_ | refine (ext_hi _ _ _).trans ?_ | refine (bit_lo _ _ _).trans ?_ | refine (bit_hi _ _ _).trans ?_)
  · congr 1
    all_goals first | exact regOf_regW _ | (repeat first | exact Eq.refl (0 : BitVec 64) | exact ext_all _ | exact bit_one _ | exact sw_lo _ | exact sw_hi _ _ | exact ext_zero _ | refine (ext_lo _ _ _).trans ?_ | refine (ext_hi _ _ _).trans ?_ | refine (bit_lo _ _ _).trans ?_ | refine (bit_hi _ _ _).trans ?_)
theorem flush (h : CmdHdr) (addr : RegOp) (len : BitVec 32) : Statement (.flush h addr len) := by
  intro hw _
  refine checked_eq hw (chk_eq (i := .flush _ _ _) ?_ ?_)
  · repeat' first | refine and_ok ?_ ?_ | refine beq_ok ?_
    all_goals (repeat first | exact Eq.refl (0 : BitVec 64) | exact ext_all _ | exact bit_one _ | exact sw_lo _ | exact sw_hi _ _ | exact ext_zero _ | refine (ext_lo _ _ _).trans ?_ | refine (ext_hi _ _ _).trans ?_ | refine (bit_lo _ _ _).trans ?_ | refine (bit_hi _ _ _).trans ?_)
  · congr 1
    all_goals first | exact regOf_regW _ | (repeat first | exact Eq.refl (0 : BitVec 64) | exact ext_all _ | exact bit_one _ | exact sw_lo _ | exact sw_hi _ _ | exact ext_zero _ | refine (ext_lo _ _ _).trans ?_ | refine (ext_hi _ _ _).trans ?_ | refine (bit_lo _ _ _).trans ?_ | refine (bit_hi _ _ _).trans ?_)
theorem fillz (h : CmdHdr) (addr : RegOp) (len : BitVec 32) : Statement (.fillz h addr len) := by
  intro hw _
  refine checked_eq hw (chk_eq (i := .fillz _ _ _) ?_ ?_)
  · repeat' first | refine and_ok ?_ ?_ | refine beq_ok ?_
    all_goals (repeat first | exact Eq.refl (0 : BitVec 64) | exact ext_all _ | exact bit_one _ | exact sw_lo _ | exact sw_hi _ _ | exact ext_zero _ | refine (ext_lo _ _ _).trans ?_ | refine (ext_hi _ _ _).trans ?_ | refine (bit_lo _ _ _).trans ?_ | refine (bit_hi _ _ _).trans ?_)
  · congr 1
    all_goals first | exact regOf_regW _ | (repeat first | exact Eq.refl (0 : BitVec 64) | exact ext_all _ | exact bit_one _ | exact sw_lo _ | exact sw_hi _ _ | exact ext_zero _ | refine (ext_lo _ _ _).trans ?_ | refine (ext_hi _ _ _).trans ?_ | refine (bit_lo _ _ _).trans ?_ | refine (bit_hi _ _ _).trans ?_)
theorem mma (h : CmdHdr) (va : BitVec 5) (vb : BitVec 5) (tile : BitVec 2) (ctx : Bool) (ta : BitVec 4) (tb : BitVec 4) : Statement (.mma h va vb tile ctx ta tb) := by
  intro hw _
  refine checked_eq hw (chk_eq (and_ok (and_ok (and_ok (beq_ok ((ext_hi _ _ _ (by decide)).trans ((ext_hi _ _ _ (by decide)).trans ((ext_lo _ _ _ (by decide)).trans (ext_all _))))) (beq_ok ((ext_hi _ _ _ (by decide)).trans ((ext_hi _ _ _ (by decide)).trans ((ext_hi _ _ _ (by decide)).trans ((ext_hi _ _ _ (by decide)).trans ((ext_hi _ _ _ (by decide)).trans ((ext_hi _ _ _ (by decide)).trans ((ext_hi _ _ _ (by decide)).trans (ext_all _)))))))))) (beq_ok (Eq.refl (0 : BitVec 64)))) (beq_ok (Eq.refl (0 : BitVec 64)))) ?_)
  exact congr (congr (congr (congr (congr (congrArg (Instr.mma h) ((ext_lo _ _ _ (by decide)).trans (ext_all _))) ((ext_hi _ _ _ (by decide)).trans ((ext_lo _ _ _ (by decide)).trans (ext_all _)))) ((ext_hi _ _ _ (by decide)).trans ((ext_hi _ _ _ (by decide)).trans ((ext_hi _ _ _ (by decide)).trans ((ext_lo _ _ _ (by decide)).trans (ext_all _)))))) ((bit_hi _ _ _ (by decide)).trans ((bit_hi _ _ _ (by decide)).trans ((bit_hi _ _ _ (by decide)).trans ((bit_hi _ _ _ (by decide)).trans ((bit_lo _ _ _ (by decide)).trans (bit_one _))))))) ((ext_hi _ _ _ (by decide)).trans ((ext_hi _ _ _ (by decide)).trans ((ext_hi _ _ _ (by decide)).trans ((ext_hi _ _ _ (by decide)).trans ((ext_hi _ _ _ (by decide)).trans ((ext_lo _ _ _ (by decide)).trans (ext_all _)))))))) ((ext_hi _ _ _ (by decide)).trans ((ext_hi _ _ _ (by decide)).trans ((ext_hi _ _ _ (by decide)).trans ((ext_hi _ _ _ (by decide)).trans ((ext_hi _ _ _ (by decide)).trans ((ext_hi _ _ _ (by decide)).trans ((ext_lo _ _ _ (by decide)).trans (ext_all _))))))))
theorem mmax (h : CmdHdr) (va : BitVec 5) (vb : BitVec 5) (vs : BitVec 5) (tile : BitVec 2) (ctx : Bool) (ta : BitVec 4) (tb : BitVec 4) : Statement (.mmax h va vb vs tile ctx ta tb) := by
  intro hw _
  refine checked_eq hw (chk_eq (and_ok (and_ok (and_ok (beq_ok ((ext_hi _ _ _ (by decide)).trans ((ext_hi _ _ _ (by decide)).trans ((ext_lo _ _ _ (by decide)).trans (ext_all _))))) (beq_ok ((ext_hi _ _ _ (by decide)).trans ((ext_hi _ _ _ (by decide)).trans ((ext_hi _ _ _ (by decide)).trans ((ext_hi _ _ _ (by decide)).trans ((ext_hi _ _ _ (by decide)).trans ((ext_hi _ _ _ (by decide)).trans ((ext_hi _ _ _ (by decide)).trans ((ext_hi _ _ _ (by decide)).trans (ext_all _))))))))))) (beq_ok (Eq.refl (0 : BitVec 64)))) (beq_ok (Eq.refl (0 : BitVec 64)))) ?_)
  exact congr (congr (congr (congr (congr (congr (congrArg (Instr.mmax h) ((ext_lo _ _ _ (by decide)).trans (ext_all _))) ((ext_hi _ _ _ (by decide)).trans ((ext_lo _ _ _ (by decide)).trans (ext_all _)))) ((ext_hi _ _ _ (by decide)).trans ((ext_hi _ _ _ (by decide)).trans ((ext_hi _ _ _ (by decide)).trans ((ext_hi _ _ _ (by decide)).trans ((ext_hi _ _ _ (by decide)).trans ((ext_hi _ _ _ (by decide)).trans ((ext_hi _ _ _ (by decide)).trans ((ext_lo _ _ _ (by decide)).trans (ext_all _)))))))))) ((ext_hi _ _ _ (by decide)).trans ((ext_hi _ _ _ (by decide)).trans ((ext_hi _ _ _ (by decide)).trans ((ext_lo _ _ _ (by decide)).trans (ext_all _)))))) ((bit_hi _ _ _ (by decide)).trans ((bit_hi _ _ _ (by decide)).trans ((bit_hi _ _ _ (by decide)).trans ((bit_hi _ _ _ (by decide)).trans ((bit_lo _ _ _ (by decide)).trans (bit_one _))))))) ((ext_hi _ _ _ (by decide)).trans ((ext_hi _ _ _ (by decide)).trans ((ext_hi _ _ _ (by decide)).trans ((ext_hi _ _ _ (by decide)).trans ((ext_hi _ _ _ (by decide)).trans ((ext_lo _ _ _ (by decide)).trans (ext_all _)))))))) ((ext_hi _ _ _ (by decide)).trans ((ext_hi _ _ _ (by decide)).trans ((ext_hi _ _ _ (by decide)).trans ((ext_hi _ _ _ (by decide)).trans ((ext_hi _ _ _ (by decide)).trans ((ext_hi _ _ _ (by decide)).trans ((ext_lo _ _ _ (by decide)).trans (ext_all _))))))))
theorem mzero (h : CmdHdr) (tmask : BitVec 4) (ctx : Bool) : Statement (.mzero h tmask ctx) := by
  intro hw _
  refine checked_eq hw (chk_eq (i := .mzero _ _ _) ?_ ?_)
  · repeat' first | refine and_ok ?_ ?_ | refine beq_ok ?_
    all_goals (repeat first | exact Eq.refl (0 : BitVec 64) | exact ext_all _ | exact bit_one _ | exact sw_lo _ | exact sw_hi _ _ | exact ext_zero _ | refine (ext_lo _ _ _).trans ?_ | refine (ext_hi _ _ _).trans ?_ | refine (bit_lo _ _ _).trans ?_ | refine (bit_hi _ _ _).trans ?_)
  · congr 1
    all_goals first | exact regOf_regW _ | (repeat first | exact Eq.refl (0 : BitVec 64) | exact ext_all _ | exact bit_one _ | exact sw_lo _ | exact sw_hi _ _ | exact ext_zero _ | refine (ext_lo _ _ _).trans ?_ | refine (ext_hi _ _ _).trans ?_ | refine (bit_lo _ _ _).trans ?_ | refine (bit_hi _ _ _).trans ?_)
theorem mld (h : CmdHdr) (addr : RegOp) (tile : BitVec 2) (ctx : Bool) (stride : BitVec 32) : Statement (.mld h addr tile ctx stride) := by
  intro hw _
  refine checked_eq hw (chk_eq (i := .mld _ _ _ _ _) ?_ ?_)
  · repeat' first | refine and_ok ?_ ?_ | refine beq_ok ?_
    all_goals (repeat first | exact Eq.refl (0 : BitVec 64) | exact ext_all _ | exact bit_one _ | exact sw_lo _ | exact sw_hi _ _ | exact ext_zero _ | refine (ext_lo _ _ _).trans ?_ | refine (ext_hi _ _ _).trans ?_ | refine (bit_lo _ _ _).trans ?_ | refine (bit_hi _ _ _).trans ?_)
  · congr 1
    all_goals first | exact regOf_regW _ | (repeat first | exact Eq.refl (0 : BitVec 64) | exact ext_all _ | exact bit_one _ | exact sw_lo _ | exact sw_hi _ _ | exact ext_zero _ | refine (ext_lo _ _ _).trans ?_ | refine (ext_hi _ _ _).trans ?_ | refine (bit_lo _ _ _).trans ?_ | refine (bit_hi _ _ _).trans ?_)
theorem mst (h : CmdHdr) (addr : RegOp) (tile : BitVec 2) (ctx : Bool) (stride : BitVec 32) : Statement (.mst h addr tile ctx stride) := by
  intro hw _
  refine checked_eq hw (chk_eq (i := .mst _ _ _ _ _) ?_ ?_)
  · repeat' first | refine and_ok ?_ ?_ | refine beq_ok ?_
    all_goals (repeat first | exact Eq.refl (0 : BitVec 64) | exact ext_all _ | exact bit_one _ | exact sw_lo _ | exact sw_hi _ _ | exact ext_zero _ | refine (ext_lo _ _ _).trans ?_ | refine (ext_hi _ _ _).trans ?_ | refine (bit_lo _ _ _).trans ?_ | refine (bit_hi _ _ _).trans ?_)
  · congr 1
    all_goals first | exact regOf_regW _ | (repeat first | exact Eq.refl (0 : BitVec 64) | exact ext_all _ | exact bit_one _ | exact sw_lo _ | exact sw_hi _ _ | exact ext_zero _ | refine (ext_lo _ _ _).trans ?_ | refine (ext_hi _ _ _).trans ?_ | refine (bit_lo _ _ _).trans ?_ | refine (bit_hi _ _ _).trans ?_)
theorem rmmak (h : CmdHdr) (rseq : BitVec 32) (sreg : BitVec 6) (rig : BitVec 8) (kb : BitVec 6) (mx : Bool) (ta : BitVec 4) (tb : BitVec 4) (ctx : Bool) (tile : BitVec 2) (apanel : RegOp) (bpanel : RegOp) : Statement (.rmmak h rseq sreg rig kb mx ta tb ctx tile apanel bpanel) := by
  intro hw _
  refine checked_eq hw (congrArg Except.ok ?_)
  exact congr (congr (congr (congr (congr (congr (congr (congr (congr (congr (congrArg (Instr.rmmak h) ((ext_hi _ _ _ (by decide)).trans ((ext_hi _ _ _ (by decide)).trans ((ext_hi _ _ _ (by decide)).trans ((ext_hi _ _ _ (by decide)).trans ((ext_hi _ _ _ (by decide)).trans ((ext_hi _ _ _ (by decide)).trans ((ext_hi _ _ _ (by decide)).trans ((ext_hi _ _ _ (by decide)).trans (ext_all _)))))))))) ((ext_hi _ _ _ (by decide)).trans ((ext_hi _ _ _ (by decide)).trans ((ext_hi _ _ _ (by decide)).trans ((ext_hi _ _ _ (by decide)).trans ((ext_hi _ _ _ (by decide)).trans ((ext_hi _ _ _ (by decide)).trans ((ext_hi _ _ _ (by decide)).trans ((ext_lo _ _ _ (by decide)).trans (ext_all _)))))))))) ((ext_hi _ _ _ (by decide)).trans ((ext_hi _ _ _ (by decide)).trans ((ext_hi _ _ _ (by decide)).trans ((ext_hi _ _ _ (by decide)).trans ((ext_hi _ _ _ (by decide)).trans ((ext_hi _ _ _ (by decide)).trans ((ext_lo _ _ _ (by decide)).trans (ext_all _))))))))) ((ext_hi _ _ _ (by decide)).trans ((ext_hi _ _ _ (by decide)).trans ((ext_hi _ _ _ (by decide)).trans ((ext_hi _ _ _ (by decide)).trans ((ext_hi _ _ _ (by decide)).trans ((ext_lo _ _ _ (by decide)).trans (ext_all _)))))))) ((bit_hi _ _ _ (by decide)).trans ((bit_hi _ _ _ (by decide)).trans ((bit_hi _ _ _ (by decide)).trans ((bit_hi _ _ _ (by decide)).trans ((bit_lo _ _ _ (by decide)).trans (bit_one _))))))) ((ext_hi _ _ _ (by decide)).trans ((ext_hi _ _ _ (by decide)).trans ((ext_lo _ _ _ (by decide)).trans (ext_all _))))) ((ext_hi _ _ _ (by decide)).trans ((ext_hi _ _ _ (by decide)).trans ((ext_hi _ _ _ (by decide)).trans ((ext_lo _ _ _ (by decide)).trans (ext_all _)))))) ((bit_hi _ _ _ (by decide)).trans ((bit_lo _ _ _ (by decide)).trans (bit_one _)))) ((ext_lo _ _ _ (by decide)).trans (ext_all _))) (regOf_regW _)) (regOf_regW _)
theorem rmman (h : CmdHdr) (rseq : BitVec 32) (sreg : BitVec 6) (rig : BitVec 8) (kb : BitVec 6) (mx : Bool) (ta : BitVec 4) (tb : BitVec 4) (ctx : Bool) (tile : BitVec 2) (apanel : RegOp) (bpanel : RegOp) : Statement (.rmman h rseq sreg rig kb mx ta tb ctx tile apanel bpanel) := by
  intro hw _
  refine checked_eq hw (congrArg Except.ok ?_)
  exact congr (congr (congr (congr (congr (congr (congr (congr (congr (congr (congrArg (Instr.rmman h) ((ext_hi _ _ _ (by decide)).trans ((ext_hi _ _ _ (by decide)).trans ((ext_hi _ _ _ (by decide)).trans ((ext_hi _ _ _ (by decide)).trans ((ext_hi _ _ _ (by decide)).trans ((ext_hi _ _ _ (by decide)).trans ((ext_hi _ _ _ (by decide)).trans ((ext_hi _ _ _ (by decide)).trans (ext_all _)))))))))) ((ext_hi _ _ _ (by decide)).trans ((ext_hi _ _ _ (by decide)).trans ((ext_hi _ _ _ (by decide)).trans ((ext_hi _ _ _ (by decide)).trans ((ext_hi _ _ _ (by decide)).trans ((ext_hi _ _ _ (by decide)).trans ((ext_hi _ _ _ (by decide)).trans ((ext_lo _ _ _ (by decide)).trans (ext_all _)))))))))) ((ext_hi _ _ _ (by decide)).trans ((ext_hi _ _ _ (by decide)).trans ((ext_hi _ _ _ (by decide)).trans ((ext_hi _ _ _ (by decide)).trans ((ext_hi _ _ _ (by decide)).trans ((ext_hi _ _ _ (by decide)).trans ((ext_lo _ _ _ (by decide)).trans (ext_all _))))))))) ((ext_hi _ _ _ (by decide)).trans ((ext_hi _ _ _ (by decide)).trans ((ext_hi _ _ _ (by decide)).trans ((ext_hi _ _ _ (by decide)).trans ((ext_hi _ _ _ (by decide)).trans ((ext_lo _ _ _ (by decide)).trans (ext_all _)))))))) ((bit_hi _ _ _ (by decide)).trans ((bit_hi _ _ _ (by decide)).trans ((bit_hi _ _ _ (by decide)).trans ((bit_hi _ _ _ (by decide)).trans ((bit_lo _ _ _ (by decide)).trans (bit_one _))))))) ((ext_hi _ _ _ (by decide)).trans ((ext_hi _ _ _ (by decide)).trans ((ext_lo _ _ _ (by decide)).trans (ext_all _))))) ((ext_hi _ _ _ (by decide)).trans ((ext_hi _ _ _ (by decide)).trans ((ext_hi _ _ _ (by decide)).trans ((ext_lo _ _ _ (by decide)).trans (ext_all _)))))) ((bit_hi _ _ _ (by decide)).trans ((bit_lo _ _ _ (by decide)).trans (bit_one _)))) ((ext_lo _ _ _ (by decide)).trans (ext_all _))) (regOf_regW _)) (regOf_regW _)
theorem semop (h : CmdHdr) (core : BitVec 16) (sem : BitVec 8) (v : BitVec 16) : Statement (.semop h core sem v) := by
  intro hw _
  refine checked_eq hw (chk_eq (i := .semop _ _ _ _) ?_ ?_)
  · repeat' first | refine and_ok ?_ ?_ | refine beq_ok ?_
    all_goals (repeat first | exact Eq.refl (0 : BitVec 64) | exact ext_all _ | exact bit_one _ | exact sw_lo _ | exact sw_hi _ _ | exact ext_zero _ | refine (ext_lo _ _ _).trans ?_ | refine (ext_hi _ _ _).trans ?_ | refine (bit_lo _ _ _).trans ?_ | refine (bit_hi _ _ _).trans ?_)
  · congr 1
    all_goals first | exact regOf_regW _ | (repeat first | exact Eq.refl (0 : BitVec 64) | exact ext_all _ | exact bit_one _ | exact sw_lo _ | exact sw_hi _ _ | exact ext_zero _ | refine (ext_lo _ _ _).trans ?_ | refine (ext_hi _ _ _).trans ?_ | refine (bit_lo _ _ _).trans ?_ | refine (bit_hi _ _ _).trans ?_)
theorem semset (h : CmdHdr) (core : BitVec 16) (sem : BitVec 8) (v : BitVec 16) : Statement (.semset h core sem v) := by
  intro hw _
  refine checked_eq hw (chk_eq (i := .semset _ _ _ _) ?_ ?_)
  · repeat' first | refine and_ok ?_ ?_ | refine beq_ok ?_
    all_goals (repeat first | exact Eq.refl (0 : BitVec 64) | exact ext_all _ | exact bit_one _ | exact sw_lo _ | exact sw_hi _ _ | exact ext_zero _ | refine (ext_lo _ _ _).trans ?_ | refine (ext_hi _ _ _).trans ?_ | refine (bit_lo _ _ _).trans ?_ | refine (bit_hi _ _ _).trans ?_)
  · congr 1
    all_goals first | exact regOf_regW _ | (repeat first | exact Eq.refl (0 : BitVec 64) | exact ext_all _ | exact bit_one _ | exact sw_lo _ | exact sw_hi _ _ | exact ext_zero _ | refine (ext_lo _ _ _).trans ?_ | refine (ext_hi _ _ _).trans ?_ | refine (bit_lo _ _ _).trans ?_ | refine (bit_hi _ _ _).trans ?_)
theorem mcas (h : CmdHdr) (block : RegOp) (count : BitVec 4) (o : Ord) : Statement (.mcas h block count o) := by
  intro hw _
  refine checked_eq hw (chk_eq (and_ok (beq_ok ((ext_hi _ _ _ (by decide)).trans ((ext_hi _ _ _ (by decide)).trans (ext_all _)))) (beq_ok (Eq.refl (0 : BitVec 64)))) ?_)
  exact congr (congr (congrArg (Instr.mcas h) (regOf_regW _)) ((ext_lo _ _ _ (by decide)).trans (ext_all _))) ((congrArg ordOf ((ext_hi _ _ _ (by decide)).trans ((ext_lo _ _ _ (by decide)).trans (ext_all _)))).trans (ordOf_ordCode o))
theorem launch (h : CmdHdr) (hdr : RegOp) : Statement (.launch h hdr) := by
  intro hw _
  exact checked_eq hw (congrArg Except.ok (congrArg (Instr.launch h) (regOf_regW _)))
theorem spawnt (h : CmdHdr) (reg : BitVec 6) : Statement (.spawnt h reg) := by
  intro hw _
  refine checked_eq hw (chk_eq (i := .spawnt _ _) ?_ ?_)
  · repeat' first | refine and_ok ?_ ?_ | refine beq_ok ?_
    all_goals (repeat first | exact Eq.refl (0 : BitVec 64) | exact ext_all _ | exact bit_one _ | exact sw_lo _ | exact sw_hi _ _ | exact ext_zero _ | refine (ext_lo _ _ _).trans ?_ | refine (ext_hi _ _ _).trans ?_ | refine (bit_lo _ _ _).trans ?_ | refine (bit_hi _ _ _).trans ?_)
  · congr 1
    all_goals first | exact regOf_regW _ | (repeat first | exact Eq.refl (0 : BitVec 64) | exact ext_all _ | exact bit_one _ | exact sw_lo _ | exact sw_hi _ _ | exact ext_zero _ | refine (ext_lo _ _ _).trans ?_ | refine (ext_hi _ _ _).trans ?_ | refine (bit_lo _ _ _).trans ?_ | refine (bit_hi _ _ _).trans ?_)
theorem lstat (h : CmdHdr) (id : BitVec 32) : Statement (.lstat h id) := by
  intro hw _
  refine checked_eq hw (chk_eq (i := .lstat _ _) ?_ ?_)
  · repeat' first | refine and_ok ?_ ?_ | refine beq_ok ?_
    all_goals (repeat first | exact Eq.refl (0 : BitVec 64) | exact ext_all _ | exact bit_one _ | exact sw_lo _ | exact sw_hi _ _ | exact ext_zero _ | refine (ext_lo _ _ _).trans ?_ | refine (ext_hi _ _ _).trans ?_ | refine (bit_lo _ _ _).trans ?_ | refine (bit_hi _ _ _).trans ?_)
  · congr 1
    all_goals first | exact regOf_regW _ | (repeat first | exact Eq.refl (0 : BitVec 64) | exact ext_all _ | exact bit_one _ | exact sw_lo _ | exact sw_hi _ _ | exact ext_zero _ | refine (ext_lo _ _ _).trans ?_ | refine (ext_hi _ _ _).trans ?_ | refine (bit_lo _ _ _).trans ?_ | refine (bit_hi _ _ _).trans ?_)
theorem fpost (h : CmdHdr) (base : RegOp) (bytes : BitVec 32) (fnum : BitVec 32) (out : BitVec 4) : Statement (.fpost h base bytes fnum out) := by
  intro hw _
  refine checked_eq hw (chk_eq (i := .fpost _ _ _ _ _) ?_ ?_)
  · repeat' first | refine and_ok ?_ ?_ | refine beq_ok ?_
    all_goals (repeat first | exact Eq.refl (0 : BitVec 64) | exact ext_all _ | exact bit_one _ | exact sw_lo _ | exact sw_hi _ _ | exact ext_zero _ | refine (ext_lo _ _ _).trans ?_ | refine (ext_hi _ _ _).trans ?_ | refine (bit_lo _ _ _).trans ?_ | refine (bit_hi _ _ _).trans ?_)
  · congr 1
    all_goals first | exact regOf_regW _ | (repeat first | exact Eq.refl (0 : BitVec 64) | exact ext_all _ | exact bit_one _ | exact sw_lo _ | exact sw_hi _ _ | exact ext_zero _ | refine (ext_lo _ _ _).trans ?_ | refine (ext_hi _ _ _).trans ?_ | refine (bit_lo _ _ _).trans ?_ | refine (bit_hi _ _ _).trans ?_)
theorem fclk (h : CmdHdr) (t : RegOp) : Statement (.fclk h t) := by
  intro hw _
  exact checked_eq hw (congrArg Except.ok (congrArg (Instr.fclk h) (regOf_regW _)))
theorem sceneb (h : CmdHdr) (table : RegOp) : Statement (.sceneb h table) := by
  intro hw _
  exact checked_eq hw (congrArg Except.ok (congrArg (Instr.sceneb h) (regOf_regW _)))
theorem waycfg (h : CmdHdr) (slice : BitVec 9) (ways : BitVec 12) (mode : Bool) : Statement (.waycfg h slice ways mode) := by
  intro hw _
  refine checked_eq hw (chk_eq (i := .waycfg _ _ _ _) ?_ ?_)
  · repeat' first | refine and_ok ?_ ?_ | refine beq_ok ?_
    all_goals (repeat first | exact Eq.refl (0 : BitVec 64) | exact ext_all _ | exact bit_one _ | exact sw_lo _ | exact sw_hi _ _ | exact ext_zero _ | refine (ext_lo _ _ _).trans ?_ | refine (ext_hi _ _ _).trans ?_ | refine (bit_lo _ _ _).trans ?_ | refine (bit_hi _ _ _).trans ?_)
  · congr 1
    all_goals first | exact regOf_regW _ | (repeat first | exact Eq.refl (0 : BitVec 64) | exact ext_all _ | exact bit_one _ | exact sw_lo _ | exact sw_hi _ _ | exact ext_zero _ | refine (ext_lo _ _ _).trans ?_ | refine (ext_hi _ _ _).trans ?_ | refine (bit_lo _ _ _).trans ?_ | refine (bit_hi _ _ _).trans ?_)
theorem preempt (h : CmdHdr) (core : BitVec 13) (slots : BitVec 8) : Statement (.preempt h core slots) := by
  intro hw _
  refine checked_eq hw (chk_eq (i := .preempt _ _ _) ?_ ?_)
  · repeat' first | refine and_ok ?_ ?_ | refine beq_ok ?_
    all_goals (repeat first | exact Eq.refl (0 : BitVec 64) | exact ext_all _ | exact bit_one _ | exact sw_lo _ | exact sw_hi _ _ | exact ext_zero _ | refine (ext_lo _ _ _).trans ?_ | refine (ext_hi _ _ _).trans ?_ | refine (bit_lo _ _ _).trans ?_ | refine (bit_hi _ _ _).trans ?_)
  · congr 1
    all_goals first | exact regOf_regW _ | (repeat first | exact Eq.refl (0 : BitVec 64) | exact ext_all _ | exact bit_one _ | exact sw_lo _ | exact sw_hi _ _ | exact ext_zero _ | refine (ext_lo _ _ _).trans ?_ | refine (ext_hi _ _ _).trans ?_ | refine (bit_lo _ _ _).trans ?_ | refine (bit_hi _ _ _).trans ?_)
theorem issueTurn (core : Nat) : Statement (.issueTurn core) := fun _ h => absurd rfl h
theorem longAccessReply (t : Tid) : Statement (.longAccessReply t) := fun _ h => absurd rfl h
theorem fibreQuantumExpiry (core : Nat) (slot : Nat) : Statement (.fibreQuantumExpiry core slot) := fun _ h => absurd rfl h
theorem fibreArrival (core : Nat) : Statement (.fibreArrival core) := fun _ h => absurd rfl h
theorem refetchStart (core : Nat) : Statement (.refetchStart core) := fun _ h => absurd rfl h
theorem refetchComplete (core : Nat) : Statement (.refetchComplete core) := fun _ h => absurd rfl h
theorem taskTake (core : Nat) : Statement (.taskTake core) := fun _ h => absurd rfl h
theorem taskComplete (task : Nat) : Statement (.taskComplete task) := fun _ h => absurd rfl h
theorem stealRequest (core : Nat) : Statement (.stealRequest core) := fun _ h => absurd rfl h
theorem stealAnswer (core : Nat) : Statement (.stealAnswer core) := fun _ h => absurd rfl h
theorem stealReplyArrival (core : Nat) : Statement (.stealReplyArrival core) := fun _ h => absurd rfl h
theorem stealBackoffExpiry (core : Nat) : Statement (.stealBackoffExpiry core) := fun _ h => absurd rfl h
theorem gangStart (cluster : Nat) : Statement (.gangStart cluster) := fun _ h => absurd rfl h
theorem barrierArrivalCount (core : Nat) (slot : Nat) : Statement (.barrierArrivalCount core slot) := fun _ h => absurd rfl h
theorem semwSatisfied (t : Tid) : Statement (.semwSatisfied t) := fun _ h => absurd rfl h
theorem semaphoreUpdate (core : Nat) (sem : Nat) : Statement (.semaphoreUpdate core sem) := fun _ h => absurd rfl h
theorem semsReleaseDone (t : Tid) : Statement (.semsReleaseDone t) := fun _ h => absurd rfl h
theorem waitlineReload (t : Tid) : Statement (.waitlineReload t) := fun _ h => absurd rfl h
theorem storeBufferSend (core : Nat) : Statement (.storeBufferSend core) := fun _ h => absurd rfl h
theorem homeWritePerform (req : Nat) : Statement (.homeWritePerform req) := fun _ h => absurd rfl h
theorem homeRead (req : Nat) : Statement (.homeRead req) := fun _ h => absurd rfl h
theorem reservationRequest (req : Nat) : Statement (.reservationRequest req) := fun _ h => absurd rfl h
theorem reservationGrant (req : Nat) : Statement (.reservationGrant req) := fun _ h => absurd rfl h
theorem atomicRelease (req : Nat) : Statement (.atomicRelease req) := fun _ h => absurd rfl h
theorem commandStart (core : Nat) : Statement (.commandStart core) := fun _ h => absurd rfl h
theorem commandLineTake (core : Nat) (num : Nat) : Statement (.commandLineTake core num) := fun _ h => absurd rfl h
theorem commandComplete (core : Nat) (num : Nat) : Statement (.commandComplete core num) := fun _ h => absurd rfl h
theorem matrixTileStep (core : Nat) : Statement (.matrixTileStep core) := fun _ h => absurd rfl h
theorem matrixStepComplete (core : Nat) (ctx : Bool) : Statement (.matrixStepComplete core ctx) := fun _ h => absurd rfl h
theorem rigRun (part : Nat) (rig : Nat) : Statement (.rigRun part rig) := fun _ h => absurd rfl h
theorem rigComplete (part : Nat) (rig : Nat) : Statement (.rigComplete part rig) := fun _ h => absurd rfl h
theorem rigAbandon (part : Nat) (rig : Nat) : Statement (.rigAbandon part rig) := fun _ h => absurd rfl h
theorem rigPreemptTimeout (core : Nat) (slot : Nat) : Statement (.rigPreemptTimeout core slot) := fun _ h => absurd rfl h
theorem launchHeaderCheck (core : Nat) (num : Nat) : Statement (.launchHeaderCheck core num) := fun _ h => absurd rfl h
theorem launchDeferred (core : Nat) (num : Nat) : Statement (.launchDeferred core num) := fun _ h => absurd rfl h
theorem launchFill (core : Nat) (lid : Nat) : Statement (.launchFill core lid) := fun _ h => absurd rfl h
theorem distributorRecordWrite (die : Nat) : Statement (.distributorRecordWrite die) := fun _ h => absurd rfl h
theorem taskRecordArrival (msg : Nat) : Statement (.taskRecordArrival msg) := fun _ h => absurd rfl h
theorem launchComplete (lid : Nat) : Statement (.launchComplete lid) := fun _ h => absurd rfl h
theorem priorityAging (lid : Nat) : Statement (.priorityAging lid) := fun _ h => absurd rfl h
theorem slotRestore (core : Nat) (slot : Nat) : Statement (.slotRestore core slot) := fun _ h => absurd rfl h
theorem slotLend (core : Nat) (slot : Nat) : Statement (.slotLend core slot) := fun _ h => absurd rfl h
theorem clusterTlbFill (t : Tid) : Statement (.clusterTlbFill t) := fun _ h => absurd rfl h
theorem missEntryOpen (t : Tid) : Statement (.missEntryOpen t) := fun _ h => absurd rfl h
theorem pageWalk (cluster : Nat) (asid : Nat) (vpage : Nat) : Statement (.pageWalk cluster asid vpage) := fun _ h => absurd rfl h
theorem faultRecordWrite (cluster : Nat) : Statement (.faultRecordWrite cluster) := fun _ h => absurd rfl h
theorem wake (t : Tid) : Statement (.wake t) := fun _ h => absurd rfl h
theorem faultReplyRetry (die : Nat) : Statement (.faultReplyRetry die) := fun _ h => absurd rfl h
theorem faultReplyFail (die : Nat) : Statement (.faultReplyFail die) := fun _ h => absurd rfl h
theorem faultReplyInval (die : Nat) : Statement (.faultReplyInval die) := fun _ h => absurd rfl h
theorem faultReplyInvasid (die : Nat) : Statement (.faultReplyInvasid die) := fun _ h => absurd rfl h
theorem tlbInsert (t : Tid) : Statement (.tlbInsert t) := fun _ h => absurd rfl h
theorem tlbInvpage (t : Tid) : Statement (.tlbInvpage t) := fun _ h => absurd rfl h
theorem tlbInvasid (t : Tid) : Statement (.tlbInvasid t) := fun _ h => absurd rfl h
theorem tlbInvclu (t : Tid) : Statement (.tlbInvclu t) := fun _ h => absurd rfl h
theorem ctxsyncWriteback (cluster : Nat) : Statement (.ctxsyncWriteback cluster) := fun _ h => absurd rfl h
theorem ctxsyncDrop (cluster : Nat) : Statement (.ctxsyncDrop cluster) := fun _ h => absurd rfl h
theorem debugHaltreq (core : Nat) (slot : Nat) : Statement (.debugHaltreq core slot) := fun _ h => absurd rfl h
theorem debugResume (core : Nat) (slot : Nat) : Statement (.debugResume core slot) := fun _ h => absurd rfl h
theorem lsplitWrite (core : Nat) (v : Word) : Statement (.lsplitWrite core v) := fun _ h => absurd rfl h
theorem phasewinWrite (cluster : Nat) (v : Word) : Statement (.phasewinWrite cluster v) := fun _ h => absurd rfl h
theorem trimtabWrite (core : Nat) (hi : Bool) (v : Word) : Statement (.trimtabWrite core hi v) := fun _ h => absurd rfl h
theorem stealringLoad (t : Tid) : Statement (.stealringLoad t) := fun _ h => absurd rfl h
theorem scopeWrite (t : Tid) : Statement (.scopeWrite t) := fun _ h => absurd rfl h
theorem rigload (t : Tid) : Statement (.rigload t) := fun _ h => absurd rfl h
theorem snap (t : Tid) : Statement (.snap t) := fun _ h => absurd rfl h
theorem partcfgWrite (m : Master) (p : Nat) (v : Word) : Statement (.partcfgWrite m p v) := fun _ h => absurd rfl h
theorem slicecfgWrite (m : Master) (die : Nat) (v : Word) : Statement (.slicecfgWrite m die v) := fun _ h => absurd rfl h
theorem outcfgWrite (m : Master) (out : Nat) (w : Nat) (v : Word) : Statement (.outcfgWrite m out w v) := fun _ h => absurd rfl h
theorem configWrite (m : Master) (die : Option Nat) (offset : Nat) (v : Word) : Statement (.configWrite m die offset v) := fun _ h => absurd rfl h
theorem meshMessageDelivery (msg : Nat) : Statement (.meshMessageDelivery msg) := fun _ h => absurd rfl h
theorem sliceMissFill (slice : Nat) (line : Nat) : Statement (.sliceMissFill slice line) := fun _ h => absurd rfl h
theorem sliceWriteback (slice : Nat) : Statement (.sliceWriteback slice) := fun _ h => absurd rfl h
theorem multicastWindowExpiry (slice : Nat) (line : Nat) : Statement (.multicastWindowExpiry slice line) := fun _ h => absurd rfl h
theorem hbmRefresh (die : Nat) (split : Bool) : Statement (.hbmRefresh die split) := fun _ h => absurd rfl h
theorem directoryHop (slice : Nat) : Statement (.directoryHop slice) := fun _ h => absurd rfl h
theorem pagingComplete (core : Nat) : Statement (.pagingComplete core) := fun _ h => absurd rfl h
theorem evictionReport (slice : Nat) : Statement (.evictionReport slice) := fun _ h => absurd rfl h
theorem directoryWindowExpiry (slice : Nat) : Statement (.directoryWindowExpiry slice) := fun _ h => absurd rfl h
theorem travEventDelivery (core : Nat) (entry : Nat) : Statement (.travEventDelivery core entry) := fun _ h => absurd rfl h
theorem trayRecordArrival (core : Nat) : Statement (.trayRecordArrival core) := fun _ h => absurd rfl h
theorem hostMemRequest (q : HostReq) : Statement (.hostMemRequest q) := fun _ h => absurd rfl h
theorem hostBackInvalidateResponse (line : Nat) (data : Option (List Byte)) : Statement (.hostBackInvalidateResponse line data) := fun _ h => absurd rfl h
theorem hostWriteback (line : Nat) (data : List Byte) : Statement (.hostWriteback line data) := fun _ h => absurd rfl h
theorem hostCompletion (req : Nat) (data : Option (List Byte)) : Statement (.hostCompletion req data) := fun _ h => absurd rfl h
theorem hostSnoop (addr : Nat) : Statement (.hostSnoop addr) := fun _ h => absurd rfl h
theorem stayPacketReceive (p : StayPacket) : Statement (.stayPacketReceive p) := fun _ h => absurd rfl h
theorem stayAckReceive (ctx : Nat) (upto : Nat) : Statement (.stayAckReceive ctx upto) := fun _ h => absurd rfl h
theorem stayResendTimeout (ctx : Nat) : Statement (.stayResendTimeout ctx) := fun _ h => absurd rfl h
theorem stayContextIdle (ctx : Nat) : Statement (.stayContextIdle ctx) := fun _ h => absurd rfl h
theorem stayAckTimer (rctx : Nat) : Statement (.stayAckTimer rctx) := fun _ h => absurd rfl h
theorem stayPortStateChange (port : Nat) (st : Nat) (lanes : Nat) : Statement (.stayPortStateChange port st lanes) := fun _ h => absurd rfl h
theorem frameTimingSend : Statement (.frameTimingSend) := fun _ h => absurd rfl h
theorem frameTimingReceive (time : Nat) (tier : Nat) : Statement (.frameTimingReceive time tier) := fun _ h => absurd rfl h
theorem frameHoldoverTimeout : Statement (.frameHoldoverTimeout) := fun _ h => absurd rfl h
theorem presentInstant (out : Nat) : Statement (.presentInstant out) := fun _ h => absurd rfl h
theorem mgmtClaim (m : Master) : Statement (.mgmtClaim m) := fun _ h => absurd rfl h
theorem mgmtOffer (m : Master) (p : Nat) : Statement (.mgmtOffer m p) := fun _ h => absurd rfl h
theorem mgmtRelease (m : Master) : Statement (.mgmtRelease m) := fun _ h => absurd rfl h
theorem mgmtOfferExpiry : Statement (.mgmtOfferExpiry) := fun _ h => absurd rfl h
theorem mgmtOwnerPathDown (downFor : Nat) : Statement (.mgmtOwnerPathDown downFor) := fun _ h => absurd rfl h
theorem attestGo (m : Master) : Statement (.attestGo m) := fun _ h => absurd rfl h
theorem attestComplete : Statement (.attestComplete) := fun _ h => absurd rfl h
theorem keyLoad (m : Master) (slot : Nat) : Statement (.keyLoad m slot) := fun _ h => absurd rfl h
theorem keyErase (m : Master) (slot : Nat) : Statement (.keyErase m slot) := fun _ h => absurd rfl h
theorem storageError (e : StorageErr) : Statement (.storageError e) := fun _ h => absurd rfl h
theorem fenceGo (m : Master) (v : Word) : Statement (.fenceGo m v) := fun _ h => absurd rfl h
theorem drainSet (m : Master) : Statement (.drainSet m) := fun _ h => absurd rfl h
theorem drainClear (m : Master) : Statement (.drainClear m) := fun _ h => absurd rfl h
theorem drainComplete : Statement (.drainComplete) := fun _ h => absurd rfl h
theorem powerControlTick (die : Nat) (level : Nat) (junction : Nat) : Statement (.powerControlTick die level junction) := fun _ h => absurd rfl h
theorem thermalAlert (die : Nat) : Statement (.thermalAlert die) := fun _ h => absurd rfl h
theorem thermtrip (die : Nat) : Statement (.thermtrip die) := fun _ h => absurd rfl h
theorem reset : Statement (.reset) := fun _ h => absurd rfl h
theorem contextSaveComplete (core : Nat) (slot : Nat) : Statement (.contextSaveComplete core slot) := fun _ h => absurd rfl h

end Sys2Proof.Laws.Encodes
end

