-- ==== Sys2Proof/Laws/Starts.lean ====
section
/-!
SUPPORT. Every operation that a bundle encodes begins with `start`: its effect comes only once nothing stops the bundle.
-/
namespace Sys2Proof.Machine

/-- The meaning of i at s is `start` of i with some effect. -/
def StartsAt (i : Instr) (s : State) : Prop := ∃ k, exec i s = start i s k

theorem exec_starts (i : Instr) (s : State) (h : toRaw i ≠ .none) : StartsAt i s := by
  unfold StartsAt
  cases i
  case nop => rw [exec_nop]; unfold execNop; exact ⟨_, rfl⟩
  case bc => rw [exec_bc]; unfold execBc; exact ⟨_, rfl⟩
  case jmp => rw [exec_jmp]; unfold execJmp; exact ⟨_, rfl⟩
  case jmpi => rw [exec_jmpi]; unfold execJmpi; exact ⟨_, rfl⟩
  case call => rw [exec_call]; unfold execCall; exact ⟨_, rfl⟩
  case calli => rw [exec_calli]; unfold execCalli; exact ⟨_, rfl⟩
  case ret => rw [exec_ret]; unfold execRet; exact ⟨_, rfl⟩
  case trap => rw [exec_trap]; unfold execTrap; exact ⟨_, rfl⟩
  case tret => rw [exec_tret]; unfold execTret; exact ⟨_, rfl⟩
  case brk => rw [exec_brk]; unfold execBrk; exact ⟨_, rfl⟩
  case mfsr => rw [exec_mfsr]; unfold execMfsr scalarOp; exact ⟨_, rfl⟩
  case mtsr => rw [exec_mtsr]; unfold execMtsr; exact ⟨_, rfl⟩
  case qwidth => rw [exec_qwidth]; unfold execQwidth scalarOp; exact ⟨_, rfl⟩
  case waitline => rw [exec_waitline]; unfold execWaitline; exact ⟨_, rfl⟩
  case add => rw [exec_add]; unfold execAdd intOp scalarOp; exact ⟨_, rfl⟩
  case sub => rw [exec_sub]; unfold execSub intOp scalarOp; exact ⟨_, rfl⟩
  case mul => rw [exec_mul]; unfold execMul intOp scalarOp; exact ⟨_, rfl⟩
  case mulh => rw [exec_mulh]; unfold execMulh intOp scalarOp; exact ⟨_, rfl⟩
  case mulhn => rw [exec_mulhn]; unfold execMulhn intOp scalarOp; exact ⟨_, rfl⟩
  case div => rw [exec_div]; unfold execDiv intOp scalarOp; exact ⟨_, rfl⟩
  case divn => rw [exec_divn]; unfold execDivn intOp scalarOp; exact ⟨_, rfl⟩
  case rem => rw [exec_rem]; unfold execRem intOp scalarOp; exact ⟨_, rfl⟩
  case remn => rw [exec_remn]; unfold execRemn intOp scalarOp; exact ⟨_, rfl⟩
  case and => rw [exec_and]; unfold execAnd bitsOp scalarOp; exact ⟨_, rfl⟩
  case or => rw [exec_or]; unfold execOr bitsOp scalarOp; exact ⟨_, rfl⟩
  case xor => rw [exec_xor]; unfold execXor bitsOp scalarOp; exact ⟨_, rfl⟩
  case andn => rw [exec_andn]; unfold execAndn bitsOp scalarOp; exact ⟨_, rfl⟩
  case shl => rw [exec_shl]; unfold execShl bitsOp scalarOp; exact ⟨_, rfl⟩
  case shr => rw [exec_shr]; unfold execShr bitsOp scalarOp; exact ⟨_, rfl⟩
  case sha => rw [exec_sha]; unfold execSha bitsOp scalarOp; exact ⟨_, rfl⟩
  case rol => rw [exec_rol]; unfold execRol bitsOp scalarOp; exact ⟨_, rfl⟩
  case min => rw [exec_min]; unfold execMin intOp scalarOp; exact ⟨_, rfl⟩
  case max => rw [exec_max]; unfold execMax intOp scalarOp; exact ⟨_, rfl⟩
  case minn => rw [exec_minn]; unfold execMinn intOp scalarOp; exact ⟨_, rfl⟩
  case maxn => rw [exec_maxn]; unfold execMaxn intOp scalarOp; exact ⟨_, rfl⟩
  case abs => rw [exec_abs]; unfold execAbs unaryOp scalarOp; exact ⟨_, rfl⟩
  case clz => rw [exec_clz]; unfold execClz unaryOp scalarOp; exact ⟨_, rfl⟩
  case ctz => rw [exec_ctz]; unfold execCtz unaryOp scalarOp; exact ⟨_, rfl⟩
  case popc => rw [exec_popc]; unfold execPopc unaryOp scalarOp; exact ⟨_, rfl⟩
  case brev => rw [exec_brev]; unfold execBrev unaryOp scalarOp; exact ⟨_, rfl⟩
  case sext => rw [exec_sext]; unfold execSext fieldOp scalarOp; exact ⟨_, rfl⟩
  case bfx => rw [exec_bfx]; unfold execBfx fieldOp scalarOp; exact ⟨_, rfl⟩
  case bfi => rw [exec_bfi]; unfold execBfi fieldOp scalarOp; exact ⟨_, rfl⟩
  case seq => rw [exec_seq]; unfold execSeq setOp scalarOp; exact ⟨_, rfl⟩
  case sne => rw [exec_sne]; unfold execSne setOp scalarOp; exact ⟨_, rfl⟩
  case slt => rw [exec_slt]; unfold execSlt setOp scalarOp; exact ⟨_, rfl⟩
  case sltn => rw [exec_sltn]; unfold execSltn setOp scalarOp; exact ⟨_, rfl⟩
  case sel => rw [exec_sel]; unfold execSel scalarOp; exact ⟨_, rfl⟩
  case lea => rw [exec_lea]; unfold execLea scalarOp; exact ⟨_, rfl⟩
  case li => rw [exec_li]; unfold execLi scalarOp; exact ⟨_, rfl⟩
  case lih => rw [exec_lih]; unfold execLih scalarOp; exact ⟨_, rfl⟩
  case fadd => rw [exec_fadd]; unfold execFadd fpOp2 fpOp; exact ⟨_, rfl⟩
  case fsub => rw [exec_fsub]; unfold execFsub fpOp2 fpOp; exact ⟨_, rfl⟩
  case fmul => rw [exec_fmul]; unfold execFmul fpOp2 fpOp; exact ⟨_, rfl⟩
  case ffma => rw [exec_ffma]; unfold execFfma fpOp2 fpOp; exact ⟨_, rfl⟩
  case fdiv => rw [exec_fdiv]; unfold execFdiv fpOp2 fpOp; exact ⟨_, rfl⟩
  case fsqrt => rw [exec_fsqrt]; unfold execFsqrt fpOp; exact ⟨_, rfl⟩
  case fmin => rw [exec_fmin]; unfold execFmin fpOp2 fpOp; exact ⟨_, rfl⟩
  case fmax => rw [exec_fmax]; unfold execFmax fpOp2 fpOp; exact ⟨_, rfl⟩
  case fset => rw [exec_fset]; unfold execFset fpOp2 fpOp; exact ⟨_, rfl⟩
  case fcvt => rw [exec_fcvt]; unfold execFcvt; exact ⟨_, rfl⟩
  case fabs => rw [exec_fabs]; unfold execFabs fpOp; exact ⟨_, rfl⟩
  case ldb => rw [exec_ldb]; unfold execLdb scalarLoad; exact ⟨_, rfl⟩
  case ldbn => rw [exec_ldbn]; unfold execLdbn scalarLoad; exact ⟨_, rfl⟩
  case ldh => rw [exec_ldh]; unfold execLdh scalarLoad; exact ⟨_, rfl⟩
  case ldhn => rw [exec_ldhn]; unfold execLdhn scalarLoad; exact ⟨_, rfl⟩
  case ldw => rw [exec_ldw]; unfold execLdw scalarLoad; exact ⟨_, rfl⟩
  case ldwn => rw [exec_ldwn]; unfold execLdwn scalarLoad; exact ⟨_, rfl⟩
  case ldd => rw [exec_ldd]; unfold execLdd scalarLoad; exact ⟨_, rfl⟩
  case stb => rw [exec_stb]; unfold execStb scalarStore; exact ⟨_, rfl⟩
  case sth => rw [exec_sth]; unfold execSth scalarStore; exact ⟨_, rfl⟩
  case stw => rw [exec_stw]; unfold execStw scalarStore; exact ⟨_, rfl⟩
  case std => rw [exec_std]; unfold execStd scalarStore; exact ⟨_, rfl⟩
  case lda => rw [exec_lda]; unfold execLda scalarLoad; exact ⟨_, rfl⟩
  case stl => rw [exec_stl]; unfold execStl; exact ⟨_, rfl⟩
  case pref => rw [exec_pref]; unfold execPref; exact ⟨_, rfl⟩
  case amo => rw [exec_amo]; unfold execAmo scalarAtomic; exact ⟨_, rfl⟩
  case amow => rw [exec_amow]; unfold execAmow scalarAtomic; exact ⟨_, rfl⟩
  case cas => rw [exec_cas]; unfold execCas scalarAtomic; exact ⟨_, rfl⟩
  case casw => rw [exec_casw]; unfold execCasw scalarAtomic; exact ⟨_, rfl⟩
  case amof => rw [exec_amof]; unfold execAmof scalarAtomic; exact ⟨_, rfl⟩
  case fence => rw [exec_fence]; unfold execFence; exact ⟨_, rfl⟩
  case barc => rw [exec_barc]; unfold execBarc arrive; exact ⟨_, rfl⟩
  case barg => rw [exec_barg]; unfold execBarg arrive; exact ⟨_, rfl⟩
  case develop => rw [exec_develop]; unfold execDevelop arrive; exact ⟨_, rfl⟩
  case trim => rw [exec_trim]; unfold execTrim arrive; exact ⟨_, rfl⟩
  case semw => rw [exec_semw]; unfold execSemw; exact ⟨_, rfl⟩
  case sems => rw [exec_sems]; unfold execSems; exact ⟨_, rfl⟩
  case trav => rw [exec_trav]; unfold execTrav travPark; exact ⟨_, rfl⟩
  case travAcc => rw [exec_travAcc]; unfold execTravAcc travPark; exact ⟨_, rfl⟩
  case travEnd => rw [exec_travEnd]; unfold execTravEnd travPark; exact ⟨_, rfl⟩
  case travInst => rw [exec_travInst]; unfold execTravInst; exact ⟨_, rfl⟩
  case hop => rw [exec_hop]; unfold execHop; exact ⟨_, rfl⟩
  case go => rw [exec_go]; unfold execGo; exact ⟨_, rfl⟩
  case spawn => rw [exec_spawn]; unfold execSpawn createOne; exact ⟨_, rfl⟩
  case fend => rw [exec_fend]; unfold execFend; exact ⟨_, rfl⟩
  case fyield => rw [exec_fyield]; unfold execFyield; exact ⟨_, rfl⟩
  case hqpush => rw [exec_hqpush]; unfold execHqpush; exact ⟨_, rfl⟩
  case rgen => rw [exec_rgen]; unfold execRgen createOne; exact ⟨_, rfl⟩
  case vnop => rw [exec_vnop]; unfold execVnop; exact ⟨_, rfl⟩
  case vadd => rw [exec_vadd]; unfold execVadd fp2 vecFp; exact ⟨_, rfl⟩
  case vsub => rw [exec_vsub]; unfold execVsub fp2 vecFp; exact ⟨_, rfl⟩
  case vmul => rw [exec_vmul]; unfold execVmul fp2 vecFp; exact ⟨_, rfl⟩
  case vfma => rw [exec_vfma]; unfold execVfma fp2 vecFp; exact ⟨_, rfl⟩
  case vfms => rw [exec_vfms]; unfold execVfms fp2 vecFp; exact ⟨_, rfl⟩
  case vfnma => rw [exec_vfnma]; unfold execVfnma fp2 vecFp; exact ⟨_, rfl⟩
  case vmin => rw [exec_vmin]; unfold execVmin fp2 vecFp; exact ⟨_, rfl⟩
  case vmax => rw [exec_vmax]; unfold execVmax fp2 vecFp; exact ⟨_, rfl⟩
  case vminp => rw [exec_vminp]; unfold execVminp fp2 vecFp; exact ⟨_, rfl⟩
  case vmaxp => rw [exec_vmaxp]; unfold execVmaxp fp2 vecFp; exact ⟨_, rfl⟩
  case vabs => rw [exec_vabs]; unfold execVabs fp1 vecFp; exact ⟨_, rfl⟩
  case vneg => rw [exec_vneg]; unfold execVneg fp1 vecFp; exact ⟨_, rfl⟩
  case vcmp => rw [exec_vcmp]; unfold execVcmp; exact ⟨_, rfl⟩
  case vclass => rw [exec_vclass]; unfold execVclass fp1 vecFp; exact ⟨_, rfl⟩
  case vround => rw [exec_vround]; unfold execVround fp1 vecFp; exact ⟨_, rfl⟩
  case vfract => rw [exec_vfract]; unfold execVfract fp1 vecFp; exact ⟨_, rfl⟩
  case vcopysign => rw [exec_vcopysign]; unfold execVcopysign fp2 vecFp; exact ⟨_, rfl⟩
  case vldexp => rw [exec_vldexp]; unfold execVldexp fp2 vecFp; exact ⟨_, rfl⟩
  case vfrexp => rw [exec_vfrexp]; unfold execVfrexp fp1 vecFp; exact ⟨_, rfl⟩
  case vdiv => rw [exec_vdiv]; unfold execVdiv fp2 vecFp; exact ⟨_, rfl⟩
  case vsqrt => rw [exec_vsqrt]; unfold execVsqrt fp1 vecFp; exact ⟨_, rfl⟩
  case vrcp => rw [exec_vrcp]; unfold execVrcp fp1 vecFp; exact ⟨_, rfl⟩
  case vrsq => rw [exec_vrsq]; unfold execVrsq fp1 vecFp; exact ⟨_, rfl⟩
  case vexp2 => rw [exec_vexp2]; unfold execVexp2 fp1 vecFp; exact ⟨_, rfl⟩
  case vlog2 => rw [exec_vlog2]; unfold execVlog2 fp1 vecFp; exact ⟨_, rfl⟩
  case vsin => rw [exec_vsin]; unfold execVsin fp1 vecFp; exact ⟨_, rfl⟩
  case vcos => rw [exec_vcos]; unfold execVcos fp1 vecFp; exact ⟨_, rfl⟩
  case vtanh => rw [exec_vtanh]; unfold execVtanh fp1 vecFp; exact ⟨_, rfl⟩
  case viadd => rw [exec_viadd]; unfold execViadd int2 vecInt; exact ⟨_, rfl⟩
  case visub => rw [exec_visub]; unfold execVisub int2 vecInt; exact ⟨_, rfl⟩
  case vimul => rw [exec_vimul]; unfold execVimul int2 vecInt; exact ⟨_, rfl⟩
  case vimulh => rw [exec_vimulh]; unfold execVimulh int2 vecInt; exact ⟨_, rfl⟩
  case vimad => rw [exec_vimad]; unfold execVimad int2 vecInt; exact ⟨_, rfl⟩
  case vimin => rw [exec_vimin]; unfold execVimin int2 vecInt; exact ⟨_, rfl⟩
  case vimax => rw [exec_vimax]; unfold execVimax int2 vecInt; exact ⟨_, rfl⟩
  case viabs => rw [exec_viabs]; unfold execViabs vecInt; exact ⟨_, rfl⟩
  case vand => rw [exec_vand]; unfold execVand bits2 vecInt; exact ⟨_, rfl⟩
  case vor => rw [exec_vor]; unfold execVor bits2 vecInt; exact ⟨_, rfl⟩
  case vxor => rw [exec_vxor]; unfold execVxor bits2 vecInt; exact ⟨_, rfl⟩
  case vandn => rw [exec_vandn]; unfold execVandn bits2 vecInt; exact ⟨_, rfl⟩
  case vshl => rw [exec_vshl]; unfold execVshl bits2 vecInt; exact ⟨_, rfl⟩
  case vshr => rw [exec_vshr]; unfold execVshr bits2 vecInt; exact ⟨_, rfl⟩
  case vsha => rw [exec_vsha]; unfold execVsha bits2 vecInt; exact ⟨_, rfl⟩
  case vicmp => rw [exec_vicmp]; unfold execVicmp vecScalar; exact ⟨_, rfl⟩
  case vpopc => rw [exec_vpopc]; unfold execVpopc bits1 vecInt; exact ⟨_, rfl⟩
  case vclz => rw [exec_vclz]; unfold execVclz bits1 vecInt; exact ⟨_, rfl⟩
  case vsatadd => rw [exec_vsatadd]; unfold execVsatadd int2 vecInt; exact ⟨_, rfl⟩
  case vsatsub => rw [exec_vsatsub]; unfold execVsatsub int2 vecInt; exact ⟨_, rfl⟩
  case vidiv => rw [exec_vidiv]; unfold execVidiv int2 vecInt; exact ⟨_, rfl⟩
  case virem => rw [exec_virem]; unfold execVirem int2 vecInt; exact ⟨_, rfl⟩
  case vbitsel => rw [exec_vbitsel]; unfold execVbitsel move vecInt; exact ⟨_, rfl⟩
  case vbfx => rw [exec_vbfx]; unfold execVbfx vecInt; exact ⟨_, rfl⟩
  case vbfi => rw [exec_vbfi]; unfold execVbfi vecInt; exact ⟨_, rfl⟩
  case vwhile => rw [exec_vwhile]; unfold execVwhile vecScalar; exact ⟨_, rfl⟩
  case vmatch => rw [exec_vmatch]; unfold execVmatch vecScalar; exact ⟨_, rfl⟩
  case vmov => rw [exec_vmov]; unfold execVmov move vecInt; exact ⟨_, rfl⟩
  case vsplat => rw [exec_vsplat]; unfold execVsplat move vecInt; exact ⟨_, rfl⟩
  case vmovi => rw [exec_vmovi]; unfold execVmovi move vecInt; exact ⟨_, rfl⟩
  case vext => rw [exec_vext]; unfold execVext vecScalar; exact ⟨_, rfl⟩
  case vins => rw [exec_vins]; unfold execVins move vecInt; exact ⟨_, rfl⟩
  case vperm => rw [exec_vperm]; unfold execVperm move vecInt; exact ⟨_, rfl⟩
  case vrot => rw [exec_vrot]; unfold execVrot move vecInt; exact ⟨_, rfl⟩
  case vslideup => rw [exec_vslideup]; unfold execVslideup move vecInt; exact ⟨_, rfl⟩
  case vslidedn => rw [exec_vslidedn]; unfold execVslidedn move vecInt; exact ⟨_, rfl⟩
  case viota => rw [exec_viota]; unfold execViota move vecInt; exact ⟨_, rfl⟩
  case vsel => rw [exec_vsel]; unfold execVsel vecAll; exact ⟨_, rfl⟩
  case vcompress => rw [exec_vcompress]; unfold execVcompress vecAll; exact ⟨_, rfl⟩
  case vexpand => rw [exec_vexpand]; unfold execVexpand move vecInt; exact ⟨_, rfl⟩
  case vshfl => rw [exec_vshfl]; unfold execVshfl move vecInt; exact ⟨_, rfl⟩
  case vredadd => rw [exec_vredadd]; unfold execVredadd reduce; exact ⟨_, rfl⟩
  case vredmin => rw [exec_vredmin]; unfold execVredmin reduce; exact ⟨_, rfl⟩
  case vredmax => rw [exec_vredmax]; unfold execVredmax reduce; exact ⟨_, rfl⟩
  case vredand => rw [exec_vredand]; unfold execVredand reduce; exact ⟨_, rfl⟩
  case vredor => rw [exec_vredor]; unfold execVredor reduce; exact ⟨_, rfl⟩
  case vscanadd => rw [exec_vscanadd]; unfold execVscanadd scan; exact ⟨_, rfl⟩
  case vscanmin => rw [exec_vscanmin]; unfold execVscanmin scan; exact ⟨_, rfl⟩
  case vscanmax => rw [exec_vscanmax]; unfold execVscanmax scan; exact ⟨_, rfl⟩
  case vcvt => rw [exec_vcvt]; unfold execVcvt vecFp; exact ⟨_, rfl⟩
  case vcvti => rw [exec_vcvti]; unfold execVcvti vecFp; exact ⟨_, rfl⟩
  case vnarrow => rw [exec_vnarrow]; unfold execVnarrow; exact ⟨_, rfl⟩
  case vwiden => rw [exec_vwiden]; unfold execVwiden vecFp; exact ⟨_, rfl⟩
  case vqmx => rw [exec_vqmx]; unfold execVqmx; exact ⟨_, rfl⟩
  case vdqmx => rw [exec_vdqmx]; unfold execVdqmx vecFp; exact ⟨_, rfl⟩
  case vld => rw [exec_vld]; unfold execVld vecLoad; exact ⟨_, rfl⟩
  case vst => rw [exec_vst]; unfold execVst vecStore; exact ⟨_, rfl⟩
  case vlds => rw [exec_vlds]; unfold execVlds vecLoad; exact ⟨_, rfl⟩
  case vsts => rw [exec_vsts]; unfold execVsts vecStore; exact ⟨_, rfl⟩
  case vgath => rw [exec_vgath]; unfold execVgath vecLoad; exact ⟨_, rfl⟩
  case vscat => rw [exec_vscat]; unfold execVscat vecStore; exact ⟨_, rfl⟩
  case vldb => rw [exec_vldb]; unfold execVldb; exact ⟨_, rfl⟩
  case vamo => rw [exec_vamo]; unfold execVamo vecAtomic; exact ⟨_, rfl⟩
  case vamof => rw [exec_vamof]; unfold execVamof vecAtomic; exact ⟨_, rfl⟩
  case vhqpop => rw [exec_vhqpop]; unfold execVhqpop; exact ⟨_, rfl⟩
  case vraygen => rw [exec_vraygen]; unfold execVraygen; exact ⟨_, rfl⟩
  case vaccrd => rw [exec_vaccrd]; unfold execVaccrd; exact ⟨_, rfl⟩
  case vaccwr => rw [exec_vaccwr]; unfold execVaccwr; exact ⟨_, rfl⟩
  case vdot4 => rw [exec_vdot4]; unfold execVdot4 vecFp; exact ⟨_, rfl⟩
  case vbfdot => rw [exec_vbfdot]; unfold execVbfdot vecFp; exact ⟨_, rfl⟩
  case vhash => rw [exec_vhash]; unfold execVhash move vecInt; exact ⟨_, rfl⟩
  case cpy => rw [exec_cpy]; unfold execCpy issueCommand; exact ⟨_, rfl⟩
  case cpy2 => rw [exec_cpy2]; unfold execCpy2 issueCommand; exact ⟨_, rfl⟩
  case cpyt => rw [exec_cpyt]; unfold execCpyt issueCommand; exact ⟨_, rfl⟩
  case cpyb => rw [exec_cpyb]; unfold execCpyb issueCommand; exact ⟨_, rfl⟩
  case cpym => rw [exec_cpym]; unfold execCpym issueCommand; exact ⟨_, rfl⟩
  case cpyr => rw [exec_cpyr]; unfold execCpyr issueCommand; exact ⟨_, rfl⟩
  case cpyg => rw [exec_cpyg]; unfold execCpyg issueCommand; exact ⟨_, rfl⟩
  case pref2 => rw [exec_pref2]; unfold execPref2 issueCommand; exact ⟨_, rfl⟩
  case flush => rw [exec_flush]; unfold execFlush issueCommand; exact ⟨_, rfl⟩
  case fillz => rw [exec_fillz]; unfold execFillz issueCommand; exact ⟨_, rfl⟩
  case mma => rw [exec_mma]; unfold execMma issueCommand; exact ⟨_, rfl⟩
  case mmax => rw [exec_mmax]; unfold execMmax issueCommand; exact ⟨_, rfl⟩
  case mzero => rw [exec_mzero]; unfold execMzero issueCommand; exact ⟨_, rfl⟩
  case mld => rw [exec_mld]; unfold execMld issueCommand; exact ⟨_, rfl⟩
  case mst => rw [exec_mst]; unfold execMst issueCommand; exact ⟨_, rfl⟩
  case rmmak => rw [exec_rmmak]; unfold execRmmak issueRig; exact ⟨_, rfl⟩
  case rmman => rw [exec_rmman]; unfold execRmman issueRig; exact ⟨_, rfl⟩
  case semop => rw [exec_semop]; unfold execSemop issueCommand; exact ⟨_, rfl⟩
  case semset => rw [exec_semset]; unfold execSemset issueCommand; exact ⟨_, rfl⟩
  case mcas => rw [exec_mcas]; unfold execMcas issueMcas; exact ⟨_, rfl⟩
  case launch => rw [exec_launch]; unfold execLaunch issueCommand; exact ⟨_, rfl⟩
  case spawnt => rw [exec_spawnt]; unfold execSpawnt; exact ⟨_, rfl⟩
  case lstat => rw [exec_lstat]; unfold execLstat issueCommand; exact ⟨_, rfl⟩
  case fpost => rw [exec_fpost]; unfold execFpost issueCommand; exact ⟨_, rfl⟩
  case fclk => rw [exec_fclk]; unfold execFclk issueCommand; exact ⟨_, rfl⟩
  case sceneb => rw [exec_sceneb]; unfold execSceneb issueCommand; exact ⟨_, rfl⟩
  case waycfg => rw [exec_waycfg]; unfold execWaycfg issueCommand; exact ⟨_, rfl⟩
  case preempt => rw [exec_preempt]; unfold execPreempt issueCommand; exact ⟨_, rfl⟩
  all_goals exact absurd rfl h

end Sys2Proof.Machine
end

