-- ==== Sys2Proof/Laws/Thread.lean ====
section
/-!
SUPPORT. The operations that touch only the issuing thread, and what `retire` adds to them: registers written, the pc, FPFLAGS; nothing
of any other thread.
-/
namespace Sys2Proof.Machine

/-- t is s with the wave w of the issuing slot replaced by w'. -/
structure OnWave (s : State) (c : Issue) (w w' : Wave) (t : State) : Prop where
  out : outside t = outside s
  other : ∀ n, n ≠ c.core → t.core n = s.core n
  rest : coreRest (t.core c.core) = coreRest (s.core c.core)
  slots : ∀ n, n ≠ c.slot → (t.core c.core).slots.find n = (s.core c.core).slots.find n
  rq : (t.core c.core).rq = (s.core c.core).rq
  was : (s.core c.core).slots.find c.slot = some w
  is : (t.core c.core).slots.find c.slot = some w'

/-- t is s with the run-queue entry x of the issuing fibre replaced by x'. -/
structure OnEntry (s : State) (c : Issue) (e : Nat) (x x' : RqEntry) (t : State) : Prop where
  out : outside t = outside s
  other : ∀ n, n ≠ c.core → t.core n = s.core n
  rest : coreRest (t.core c.core) = coreRest (s.core c.core)
  slots : (t.core c.core).slots = (s.core c.core).slots
  rq : ∀ n, n ≠ e → (t.core c.core).rq.find n = (s.core c.core).rq.find n
  was : (s.core c.core).rq.find e = some x
  is : (t.core c.core).rq.find e = some x'

theorem OnWave.refl {s : State} {c : Issue} {w : Wave} (h : (s.core c.core).slots.find c.slot = some w) : OnWave s c w w s :=
  ⟨rfl, fun _ _ => rfl, rfl, fun _ _ => rfl, rfl, h, h⟩

theorem OnEntry.refl {s : State} {c : Issue} {e : Nat} {x : RqEntry} (h : (s.core c.core).rq.find e = some x) : OnEntry s c e x x s :=
  ⟨rfl, fun _ _ => rfl, rfl, rfl, fun _ _ => rfl, h, h⟩

/-- A change inside the core that keeps its threads and its rest keeps both relations. -/
theorem OnWave.modCore {s t : State} {c : Issue} {w w' : Wave} (h : OnWave s c w w' t) (f : Core → Core) (hs : ∀ k, (f k).slots = k.slots)
    (hq : ∀ k, (f k).rq = k.rq) (hr : ∀ k, coreRest (f k) = coreRest k) : OnWave s c w w' (t.modCore c.core f) := by
  refine ⟨h.out, fun n hn => ?_, ?_, fun n hn => ?_, ?_, h.was, ?_⟩
  · rw [core_modCore_other _ _ _ _ hn]; exact h.other n hn
  · rw [core_modCore, hr]; exact h.rest
  · rw [core_modCore, hs]; exact h.slots n hn
  · rw [core_modCore, hq]; exact h.rq
  · rw [core_modCore, hs]; exact h.is

theorem OnEntry.modCore {s t : State} {c : Issue} {e : Nat} {x x' : RqEntry} (h : OnEntry s c e x x' t) (f : Core → Core)
    (hs : ∀ k, (f k).slots = k.slots) (hq : ∀ k, (f k).rq = k.rq) (hr : ∀ k, coreRest (f k) = coreRest k) :
    OnEntry s c e x x' (t.modCore c.core f) := by
  refine ⟨h.out, fun n hn => ?_, ?_, ?_, fun n hn => ?_, h.was, ?_⟩
  · rw [core_modCore_other _ _ _ _ hn]; exact h.other n hn
  · rw [core_modCore, hr]; exact h.rest
  · rw [core_modCore, hs]; exact h.slots
  · rw [core_modCore, hq]; exact h.rq n hn
  · rw [core_modCore, hq]; exact h.is

/-- A change of the bundle in hand keeps them. -/
theorem OnWave.issue {s t : State} {c : Issue} {w w' : Wave} (h : OnWave s c w w' t) (o : Option Issue) (l : List Instr) :
    OnWave s c w w' { t with issue := o, todo := l } := ⟨h.out, h.other, h.rest, h.slots, h.rq, h.was, h.is⟩
theorem OnEntry.issue {s t : State} {c : Issue} {e : Nat} {x x' : RqEntry} (h : OnEntry s c e x x' t) (o : Option Issue) (l : List Instr) :
    OnEntry s c e x x' { t with issue := o, todo := l } := ⟨h.out, h.other, h.rest, h.slots, h.rq, h.was, h.is⟩

theorem OnWave.close {s t : State} {c : Issue} {w w' : Wave} (h : OnWave s c w w' t) : OnWave s c w w' t.closeIssue := h.issue _ _
theorem OnEntry.close {s t : State} {c : Issue} {e : Nat} {x x' : RqEntry} (h : OnEntry s c e x x' t) : OnEntry s c e x x' t.closeIssue :=
  h.issue _ _

/-- A change of the issuing wave. -/
theorem OnWave.wave {s t : State} {c d : Issue} {w w' : Wave} (h : OnWave s c w w' t) (f : Wave → Wave) (hc : d.core = c.core)
    (hs : d.slot = c.slot) : OnWave s c w (f w') (t.modIssWave d f) := by
  unfold State.modIssWave
  rw [hc, hs]
  refine ⟨h.out, fun n hn => ?_, ?_, fun n hn => ?_, ?_, h.was, ?_⟩
  · rw [core_modCore_other _ _ _ _ hn]; exact h.other n hn
  · rw [core_modCore, h.is]; exact h.rest
  · rw [core_modCore, h.is]; dsimp only; rw [Map.find_put_other _ _ _ _ hn]; exact h.slots n hn
  · rw [core_modCore, h.is]; exact h.rq
  · rw [core_modCore, h.is]; exact Map.find_put_same _ _ _

/-- A change of the issuing fibre's entry. -/
theorem OnEntry.entry {s t : State} {c d : Issue} {e : Nat} {x x' : RqEntry} (h : OnEntry s c e x x' t) (f : RqEntry → RqEntry)
    (hc : d.core = c.core) (he : d.entry = some e) : OnEntry s c e x (f x') (t.modIssEntry d f) := by
  unfold State.modIssEntry
  rw [he]
  dsimp only
  rw [hc]
  refine ⟨h.out, fun n hn => ?_, ?_, ?_, fun n hn => ?_, h.was, ?_⟩
  · rw [core_modCore_other _ _ _ _ hn]; exact h.other n hn
  · rw [core_modCore, h.is]; exact h.rest
  · rw [core_modCore, h.is]; exact h.slots
  · rw [core_modCore, h.is]; dsimp only; rw [Map.find_put_other _ _ _ _ hn]; exact h.rq n hn
  · rw [core_modCore, h.is]; exact Map.find_put_same _ _ _

theorem OnWave.trans {s t u : State} {c : Issue} {w w' w'' : Wave} (h : OnWave s c w w' t) (h' : OnWave t c w' w'' u) : OnWave s c w w'' u :=
  ⟨h'.out.trans h.out, fun n hn => (h'.other n hn).trans (h.other n hn), h'.rest.trans h.rest,
    fun n hn => (h'.slots n hn).trans (h.slots n hn), h'.rq.trans h.rq, h.was, h'.is⟩

/-- Opening the bundle touches no thread. -/
theorem OnWave.opened {s : State} {c : Issue} {w : Wave} (i : Instr) (h : (s.core c.core).slots.find c.slot = some w) :
    OnWave s c w w (Machine.opened s c i) := by
  unfold Machine.opened takeSfu
  split
  · exact OnWave.refl h
  · dsimp only
    split
    · exact (OnWave.refl h).issue _ _
    · exact ((OnWave.refl h).issue (some c.passed) s.todo).modCore _ (fun _ => rfl) (fun _ => rfl) (fun _ => rfl)

theorem OnEntry.opened {s : State} {c : Issue} {e : Nat} {x : RqEntry} (i : Instr) (h : (s.core c.core).rq.find e = some x) :
    OnEntry s c e x x (Machine.opened s c i) := by
  unfold Machine.opened takeSfu
  split
  · exact OnEntry.refl h
  · dsimp only
    split
    · exact (OnEntry.refl h).issue _ _
    · exact ((OnEntry.refl h).issue (some c.passed) s.todo).modCore _ (fun _ => rfl) (fun _ => rfl) (fun _ => rfl)

theorem OnWave.count {s t : State} {c : Issue} {w w' : Wave} (h : OnWave s c w w' t) (ev : Nat) :
    OnWave s c w w' (countEvent t c.core ev) := h.modCore _ (fun _ => rfl) (fun _ => rfl) (fun _ => rfl)
theorem OnEntry.count {s t : State} {c : Issue} {e : Nat} {x x' : RqEntry} (h : OnEntry s c e x x' t) (ev : Nat) :
    OnEntry s c e x x' (countEvent t c.core ev) := h.modCore _ (fun _ => rfl) (fun _ => rfl) (fun _ => rfl)

/-- The end of a wave's bundle when nothing enabled has been raised: the pc, FPFLAGS, and perhaps the halt of a single step. -/
theorem OnWave.retire {s t : State} {c d : Issue} {w w' : Wave} (h : OnWave s c w w' t) (hi : t.issue = some d) (hl : t.todo = [])
    (hc : d.core = c.core) (hs : d.slot = c.slot) (he : d.entry = none) (hq : (d.sflags ||| d.vflags) &&& bits d.fpmode 12 8 = 0) :
    ∃ sv, OnWave s c w { w' with pc := d.next, fpflags := w'.fpflags ||| d.sflags ||| d.vflags, saving := sv } (Machine.retire t) ∧
      (Machine.retire t).todo = [] ∧ (Machine.retire t).issue = none := by
  have h1 : OnWave s c w { w' with pc := d.next } (t.setPc d d.next) := by
    unfold State.setPc; rw [he]; exact h.wave (fun w => { w with pc := d.next }) hc hs
  have h2 : OnWave s c w { w' with pc := d.next, fpflags := w'.fpflags ||| d.sflags ||| d.vflags }
      (finishFlags (countEvent (t.setPc d d.next) d.core 1) d) := by
    unfold finishFlags
    rw [he]
    simp only [hq, if_true]
    rw [hc]
    exact ((h1.count 1).wave (d := d) (fun w => { w with fpflags := w.fpflags ||| d.sflags ||| d.vflags }) hc hs).close
  have h3 : (finishFlags (countEvent (t.setPc d d.next) d.core 1) d).issue = none ∧
      (finishFlags (countEvent (t.setPc d d.next) d.core 1) d).todo = [] := by
    unfold finishFlags
    rw [he]
    simp only [hq, if_true]
    exact ⟨rfl, rfl⟩
  unfold Machine.retire stepHalt
  rw [hi]
  simp only [hl, List.isEmpty_nil, if_true]
  split
  · exact ⟨4, h2.wave (fun w => { w with saving := 4 }) hc hs, h3.2, h3.1⟩
  · exact ⟨w'.saving, h2, h3.2, h3.1⟩

/-- The end of a fibre's bundle. -/
theorem OnEntry.retire {s t : State} {c d : Issue} {e : Nat} {x x' : RqEntry} (h : OnEntry s c e x x' t) (hi : t.issue = some d)
    (hl : t.todo = []) (hc : d.core = c.core) (he : d.entry = some e) :
    OnEntry s c e x { x' with fib := { x'.fib with pc := d.next } } (Machine.retire t) ∧
      (Machine.retire t).todo = [] ∧ (Machine.retire t).issue = none := by
  have h1 : OnEntry s c e x { x' with fib := { x'.fib with pc := d.next } } (t.setPc d d.next) := by
    unfold State.setPc; rw [he]; exact h.entry (fun x => { x with fib := { x.fib with pc := d.next } }) hc he
  unfold Machine.retire stepHalt finishFlags
  rw [hi]
  simp only [hl, List.isEmpty_nil, if_true]
  rw [he]
  simp only [Option.isNone_some, Bool.false_and, Bool.false_eq_true, if_false]
  rw [hc]
  exact ⟨(h1.count 1).close, rfl, rfl⟩

theorem retire_pending {t : State} {d : Issue} (hi : t.issue = some d) (hl : t.todo ≠ []) : retire t = t := by
  unfold retire
  rw [hi]
  have : t.todo.isEmpty = false := by cases h : t.todo with | nil => exact absurd h hl | cons => rfl
  simp [this]

/-! ## What a finished operation leaves -/

/-- The bundle after the operation: the same thread and the same end, with the flags fl raised. -/
structure Raised (c d : Issue) (fl : Nat) : Prop where
  core : d.core = c.core
  slot : d.slot = c.slot
  entry : d.entry = c.entry
  next : d.next = c.next
  mode : d.fpmode = c.fpmode
  same : d = { c with checked := true, sflags := d.sflags, vflags := d.vflags, lanes := d.lanes }
  flags : c.entry = none → d.sflags ||| d.vflags = flagsWith c fl

theorem Raised.handsOn {c d : Issue} {fl : Nat} (h : Raised c d fl) : handsOn c fl d :=
  ⟨h.same, fun he => by rw [h.flags he]; simp [flagsWith, he]⟩

theorem waveOf_eq (s : State) (c : Issue) : waveOf s c = (s.core c.core).slots.find c.slot := rfl

/-- A wave's operation that changes its wave by f, then retires. -/
theorem wave_done {s u : State} {c d : Issue} {i : Instr} {fl : Nat} {f : Wave → Wave} (h : runs s c i fl) (he : c.entry = none)
    (hu : ∀ w, waveOf s c = some w → OnWave s c w (f w) u) (hi : u.issue = some d) (hl : u.todo = s.todo) (hd : Raised c d fl)
    (hf : ∀ w, waveRest (f w) = waveRest w ∧ (f w).pc = w.pc ∧ (f w).fpflags = w.fpflags) :
    completed s c fl (retire u) ∧
      ∃ w w', waveOf s c = some w ∧ waveOf (retire u) c = some w' ∧ w'.s = (f w).s ∧ w'.v = (f w).v := by
  obtain ⟨-, ht, hq⟩ := h
  unfold threadHere at ht
  rw [he] at ht
  obtain ⟨w, hw⟩ := Option.isSome_iff_exists.mp ht
  have ho := hu w hw
  obtain ⟨hr, hp, hfl⟩ := hf w
  by_cases h0 : s.todo = []
  · have hq' : (d.sflags ||| d.vflags) &&& bits d.fpmode 12 8 = 0 := by rw [hd.flags he, hd.mode]; exact hq h0 he
    obtain ⟨sv, h1, h2, h3⟩ := ho.retire hi (hl.trans h0) hd.core hd.slot (hd.entry.trans he) hq'
    have hw' : waveOf (retire u) c = some _ := h1.is
    refine ⟨⟨⟨h1.out, h1.other, h1.rest, fun n hn => h1.slots n (by simpa [he] using hn), fun e _ => by rw [h1.rq], ?_, fun e h => by simp [he] at h⟩,
      h2.trans h0.symm, fun _ => ⟨?_, ?_, h3⟩, fun hn => absurd h0 hn⟩, w, _, hw, hw', rfl, rfl⟩
    · rw [hw', hw]; exact congrArg some hr
    · unfold pcAt; rw [he, hw']; exact hd.next
    · unfold flagsAt; rw [he, hw', hw]; dsimp only; rw [hfl, ← hd.flags he, Nat.or_assoc]
  · rw [retire_pending hi (hl ▸ h0)]
    have hw' : waveOf u c = some _ := ho.is
    refine ⟨⟨⟨ho.out, ho.other, ho.rest, fun n hn => ho.slots n (by simpa [he] using hn), fun e _ => by rw [ho.rq], ?_, fun e h => by simp [he] at h⟩,
      hl, fun hn => absurd hn h0, fun _ => ⟨?_, ?_, d, hi, hd.handsOn⟩⟩, w, _, hw, hw', rfl, rfl⟩
    · rw [hw', hw]; exact congrArg some hr
    · unfold pcAt; rw [he, hw', hw]; exact hp
    · unfold flagsAt; rw [he, hw', hw]; exact hfl

/-- A fibre's operation that changes its entry by f, then retires. -/
theorem fibre_done {s u : State} {c d : Issue} {i : Instr} {fl e : Nat} {f : RqEntry → RqEntry} (h : runs s c i fl) (he : c.entry = some e)
    (hu : ∀ x, (s.core c.core).rq.find e = some x → OnEntry s c e x (f x) u) (hi : u.issue = some d) (hl : u.todo = s.todo) (hd : Raised c d fl)
    (hf : ∀ x, entryRest (f x) = entryRest x ∧ (f x).fib.pc = x.fib.pc) :
    completed s c fl (retire u) ∧ (∀ n, vregAt (retire u) c n = vregAt s c n) ∧
      ∃ x x', (s.core c.core).rq.find e = some x ∧ ((retire u).core c.core).rq.find e = some x' ∧ x'.fib.f = (f x).fib.f := by
  obtain ⟨-, ht, -⟩ := h
  unfold threadHere at ht
  rw [he] at ht
  obtain ⟨x, hx⟩ := Option.isSome_iff_exists.mp ht
  have ho := hu x hx
  obtain ⟨hr, hp⟩ := hf x
  by_cases h0 : s.todo = []
  · obtain ⟨h1, h2, h3⟩ := ho.retire hi (hl.trans h0) hd.core (hd.entry.trans he)
    have hx' := h1.is
    refine ⟨⟨⟨h1.out, h1.other, h1.rest, fun n _ => by rw [h1.slots], fun n hn => h1.rq n (by rw [he] at hn; exact fun h => hn (by rw [h])), ?_,
      fun n hn => ?_⟩, h2.trans h0.symm, fun _ => ⟨?_, ?_, h3⟩, fun hn => absurd h0 hn⟩, fun n => ?_, x, _, hx, hx', rfl⟩
    · unfold waveOf; rw [h1.slots]
    · rw [he] at hn; cases hn; rw [hx', hx]; exact congrArg some hr
    · unfold pcAt; rw [he]; dsimp only; rw [hx']; exact hd.next
    · simp [flagsAt, flagsWith, he]
    · unfold vregAt waveOf; rw [h1.slots]
  · rw [retire_pending hi (hl ▸ h0)]
    have hx' := ho.is
    refine ⟨⟨⟨ho.out, ho.other, ho.rest, fun n _ => by rw [ho.slots], fun n hn => ho.rq n (by rw [he] at hn; exact fun h => hn (by rw [h])), ?_,
      fun n hn => ?_⟩, hl, fun hn => absurd hn h0, fun _ => ⟨?_, ?_, d, hi, hd.handsOn⟩⟩, fun n => ?_, x, _, hx, hx', rfl⟩
    · unfold waveOf; rw [ho.slots]
    · rw [he] at hn; cases hn; rw [hx', hx]; exact congrArg some hr
    · unfold pcAt; rw [he]; dsimp only; rw [hx', hx]; exact hp
    · unfold flagsAt; rw [he]
    · unfold vregAt waveOf; rw [ho.slots]

theorem Raised.passed (c : Issue) : Raised c c.passed 0 := ⟨rfl, rfl, rfl, rfl, rfl, rfl, fun h => by simp [flagsWith, h, Issue.passed]⟩

theorem Raised.scalar (c : Issue) (fl : Nat) :
    Raised c (if c.passed.entry.isSome then c.passed else { c.passed with sflags := c.passed.sflags ||| fl }) fl := by
  cases h : c.entry with
  | none =>
    simp only [passed_entry, h, Option.isSome_none, Bool.false_eq_true, if_false]
    exact ⟨rfl, rfl, h.symm, rfl, rfl, by simp only [h, Issue.passed], fun h => by
      simp only [flagsWith, h, Issue.passed, Option.isSome_none, Bool.false_eq_true, if_false]; ac_rfl⟩
  | some e =>
    simp only [passed_entry, h, Option.isSome_some, if_true]
    exact ⟨rfl, rfl, rfl, rfl, rfl, rfl, fun h' => by rw [h] at h'; cases h'⟩

theorem waveGet_set (w : Wave) (r x : Nat) (v : Word) (hx : 0 < x) (hx' : x < 64) :
    waveGet (waveSet w r v) x = if x = r then v else waveGet w x := by
  unfold waveSet waveGet
  by_cases hr : 0 < r ∧ r < 64
  · simp only [hr, and_self, dite_true, hx, hx']
    rw [Vector.getElem_set]
    by_cases h : x = r
    · simp [h]
    · have h' : r ≠ x := fun h' => h h'.symm
      simp [h, h']
  · have : x ≠ r := fun h => hr (h ▸ ⟨hx, hx'⟩)
    simp [hr, this]

theorem fibreGet_set (f : Fibre) (r x : Nat) (v : Word) (hx : 0 < x) (hx' : x < 9) :
    fibreGet (fibreSet f r v) x = if x = r then v else fibreGet f x := by
  unfold fibreSet fibreGet
  have hx1 : 1 ≤ x := hx
  by_cases hr : 1 ≤ r ∧ r < 9
  · simp only [hr, and_self, dite_true, hx1, hx']
    rw [Vector.getElem_set]
    by_cases h : x = r
    · simp [h]
    · have : r - 1 ≠ x - 1 := by omega
      simp [h, this]
  · have : x ≠ r := fun h => hr (h ▸ ⟨hx, hx'⟩)
    simp [hr, this]

theorem setReg_todo (s : State) (c : Issue) (r : Nat) (v : Word) : (s.setReg c r v).todo = s.todo := by
  unfold State.setReg State.modIssEntry State.modIssWave State.modCore State.setCore; cases c.entry <;> rfl
theorem setReg_issue (s : State) (c : Issue) (r : Nat) (v : Word) : (s.setReg c r v).issue = s.issue := by
  unfold State.setReg State.modIssEntry State.modIssWave State.modCore State.setCore; cases c.entry <;> rfl

theorem modIssue_some {s : State} {d : Issue} (g : Issue → Issue) (h : s.issue = some d) : s.modIssue g = { s with issue := some (g d), todo := s.todo } := by
  unfold State.modIssue; rw [h]

/-- An operation that writes a scalar register, and raises flags by g. -/
theorem reg_done {s : State} {c : Issue} {i : Instr} {fl : Nat} (h : runs s c i fl) (r : Nat) (v : Word) (g : Issue → Issue)
    (hg : Raised c (g c.passed) fl) :
    let t := retire (((opened s c i).setReg c.passed r v).modIssue g)
    wroteReg s c r v t ∧ completed s c fl t := by
  have hs : s.issue = some c := h.1.1
  have hi : ((opened s c i).setReg c.passed r v).issue = some c.passed := by rw [setReg_issue]; exact opened_issue s c i hs
  have hl : ((opened s c i).setReg c.passed r v).todo = s.todo := by rw [setReg_todo, opened_todo]
  intro t
  cases he : c.entry with
  | none =>
    have hu : ∀ w, waveOf s c = some w → OnWave s c w (waveSet w r v) (((opened s c i).setReg c.passed r v).modIssue g) := by
      intro w hw
      rw [modIssue_some g hi]
      refine OnWave.issue ?_ _ _
      unfold State.setReg
      rw [passed_entry, he]
      exact (OnWave.opened i hw).wave (fun w => waveSet w r v) rfl rfl
    obtain ⟨h1, w, w', hw, hw', hs', hv'⟩ := wave_done h he hu (by rw [modIssue_some g hi]) (by rw [modIssue_some g hi]; exact hl) hg
      (fun w => by unfold waveSet; split <;> exact ⟨rfl, rfl, rfl⟩)
    refine ⟨⟨fun x hx => ?_, fun x => ?_⟩, h1⟩
    · unfold hasReg at hx
      simp only [he, Option.isSome_none, Bool.false_eq_true, if_false] at hx
      unfold regAt
      rw [he, hw]
      dsimp only
      rw [show waveOf t c = some w' from hw']
      dsimp only
      have : waveGet w' x = waveGet (waveSet w r v) x := by unfold waveGet; rw [hs']
      rw [this]
      exact waveGet_set w r x v hx.1 hx.2
    · unfold vregAt
      rw [show waveOf t c = some w' from hw', hw]
      have : w'.v = w.v := by rw [hv']; unfold waveSet; split <;> rfl
      simp [this]
  | some e =>
    have hu : ∀ x, (s.core c.core).rq.find e = some x →
        OnEntry s c e x { x with fib := fibreSet x.fib r v } (((opened s c i).setReg c.passed r v).modIssue g) := by
      intro x hx
      rw [modIssue_some g hi]
      refine OnEntry.issue ?_ _ _
      unfold State.setReg
      rw [passed_entry, he]
      exact (OnEntry.opened i hx).entry (fun x => { x with fib := fibreSet x.fib r v }) rfl he
    obtain ⟨h1, hv, x, x', hx, hx', hf'⟩ := fibre_done h he hu (by rw [modIssue_some g hi]) (by rw [modIssue_some g hi]; exact hl) hg
      (fun x => by unfold fibreSet; split <;> exact ⟨rfl, rfl⟩)
    refine ⟨⟨fun y hy => ?_, hv⟩, h1⟩
    unfold hasReg at hy
    simp only [he, Option.isSome_some, if_true] at hy
    unfold regAt
    rw [he]
    dsimp only
    rw [show (t.core c.core).rq.find e = some x' from hx', hx]
    dsimp only
    have : fibreGet x'.fib y = fibreGet (fibreSet x.fib r v) y := by unfold fibreGet; rw [hf']
    rw [this]
    exact fibreGet_set x.fib r y v hy.1 hy.2

theorem modIssue_id {s : State} : s.modIssue (fun d => d) = s := by
  unfold State.modIssue; split
  · rename_i h; rw [← h]
  · rfl

/-- The same without flags. -/
theorem reg_done_plain {s : State} {c : Issue} {i : Instr} (h : runs s c i 0) (r : Nat) (v : Word) :
    let t := retire ((opened s c i).setReg c.passed r v)
    wroteReg s c r v t ∧ completed s c 0 t := by
  have := reg_done h r v (fun d => d) (Raised.passed c)
  rwa [modIssue_id] at this

/-- A wave's operation that writes a vector register, and raises flags by g. -/
theorem vreg_done {s : State} {c : Issue} {i : Instr} {fl : Nat} (h : runs s c i fl) (he : c.entry = none) (r : Nat) (v : VReg)
    (g : Issue → Issue) (hg : Raised c (g c.passed) fl) (hr : r < 32) :
    let t := retire (((opened s c i).setVReg c.passed r v).modIssue g)
    vregAt t c r = v ∧ onlyVReg s c r t ∧ completed s c fl t := by
  have hs : s.issue = some c := h.1.1
  have hi : ((opened s c i).setVReg c.passed r v).issue = some c.passed := opened_issue s c i hs
  have hl : ((opened s c i).setVReg c.passed r v).todo = s.todo := opened_todo s c i
  intro t
  have hu : ∀ w, waveOf s c = some w → OnWave s c w (waveSetV w r v) (((opened s c i).setVReg c.passed r v).modIssue g) := by
    intro w hw
    rw [modIssue_some g hi]
    exact OnWave.issue ((OnWave.opened i hw).wave (fun w => waveSetV w r v) rfl rfl) _ _
  obtain ⟨h1, w, w', hw, hw', hs', hv'⟩ := wave_done h he hu (by rw [modIssue_some g hi]) (by rw [modIssue_some g hi]; exact hl) hg
    (fun w => by unfold waveSetV; split <;> exact ⟨rfl, rfl, rfl⟩)
  have hv : w'.v = w.v.set r v hr := by rw [hv']; simp [waveSetV, hr]
  have ht : waveOf t c = some w' := hw'
  refine ⟨?_, ⟨fun x => ?_, fun x hx => ?_⟩, h1⟩
  · unfold vregAt; rw [ht]; simp [hr, hv]
  · unfold regAt; rw [he]; dsimp only; rw [ht, hw]; dsimp only
    have : w'.s = w.s := by rw [hs']; unfold waveSetV; split <;> rfl
    unfold waveGet; rw [this]
  · unfold vregAt; rw [ht, hw]; dsimp only
    rw [hv]
    by_cases h32 : x < 32
    · simp only [h32, dite_true]; rw [Vector.getElem_set]; have h' : r ≠ x := fun h => hx h.symm; simp [h']
    · simp [h32]

theorem vreg_done_plain {s : State} {c : Issue} {i : Instr} (h : runs s c i 0) (he : c.entry = none) (r : Nat) (v : VReg) (hr : r < 32) :
    let t := retire ((opened s c i).setVReg c.passed r v)
    vregAt t c r = v ∧ onlyVReg s c r t ∧ completed s c 0 t := by
  have := vreg_done h he r v (fun d => d) (Raised.passed c) hr
  rwa [modIssue_id] at this

/-- An operation that writes no register. -/
theorem none_done {s : State} {c : Issue} {i : Instr} (h : runs s c i 0) :
    noReg s c (retire (opened s c i)) ∧ completed s c 0 (retire (opened s c i)) := by
  have hi := opened_issue s c i h.1.1
  have hl := opened_todo s c i
  cases he : c.entry with
  | none =>
    obtain ⟨h1, w, w', hw, hw', hs', hv'⟩ := wave_done (f := fun w => w) h he (fun w hw => OnWave.opened i hw) hi hl (Raised.passed c)
      (fun w => ⟨rfl, rfl, rfl⟩)
    refine ⟨⟨fun x => ?_, fun x => ?_⟩, h1⟩
    · unfold regAt; rw [he]; dsimp only; rw [hw', hw]; dsimp only; unfold waveGet; rw [hs']
    · unfold vregAt; rw [hw', hw]; simp [hv']
  | some e =>
    obtain ⟨h1, hv, x, x', hx, hx', hf'⟩ := fibre_done (f := fun x => x) h he (fun x hx => OnEntry.opened i hx) hi hl (Raised.passed c)
      (fun x => ⟨rfl, rfl⟩)
    refine ⟨⟨fun y => ?_, hv⟩, h1⟩
    unfold regAt; rw [he]; dsimp only; rw [hx', hx]; dsimp only; unfold fibreGet; rw [hf']

end Sys2Proof.Machine
end

