-- ==== Sys2Proof/Laws/Units.lean ====
section
/-!
SUPPORT. The same for the updates of a slice and of the management block.
-/
namespace Sys2Proof.Machine

variable (s : State)

@[simp] theorem modSlice_clk (p : Nat) (f : Slice → Slice) : (s.modSlice p f).clk = s.clk := rfl
@[simp] theorem modSlice_resetClk (p : Nat) (f : Slice → Slice) : (s.modSlice p f).resetClk = s.resetClk := rfl
@[simp] theorem modSlice_mem (p : Nat) (f : Slice → Slice) : (s.modSlice p f).mem = s.mem := rfl
@[simp] theorem modSlice_cores (p : Nat) (f : Slice → Slice) : (s.modSlice p f).cores = s.cores := rfl
@[simp] theorem modSlice_clusters (p : Nat) (f : Slice → Slice) : (s.modSlice p f).clusters = s.clusters := rfl
@[simp] theorem modSlice_dieTab (p : Nat) (f : Slice → Slice) : (s.modSlice p f).dieTab = s.dieTab := rfl
@[simp] theorem modSlice_parts (p : Nat) (f : Slice → Slice) : (s.modSlice p f).parts = s.parts := rfl
@[simp] theorem modSlice_launches (p : Nat) (f : Slice → Slice) : (s.modSlice p f).launches = s.launches := rfl
@[simp] theorem modSlice_fabnum (p : Nat) (f : Slice → Slice) : (s.modSlice p f).fabnum = s.fabnum := rfl
@[simp] theorem modSlice_waysScratch (p : Nat) (f : Slice → Slice) : (s.modSlice p f).waysScratch = s.waysScratch := rfl
@[simp] theorem modSlice_waysDisabled (p : Nat) (f : Slice → Slice) : (s.modSlice p f).waysDisabled = s.waysDisabled := rfl
@[simp] theorem modSlice_waysChanging (p : Nat) (f : Slice → Slice) : (s.modSlice p f).waysChanging = s.waysChanging := rfl
@[simp] theorem modSlice_tasks (p : Nat) (f : Slice → Slice) : (s.modSlice p f).tasks = s.tasks := rfl
@[simp] theorem modSlice_frame (p : Nat) (f : Slice → Slice) : (s.modSlice p f).frame = s.frame := rfl
@[simp] theorem modSlice_mgmt (p : Nat) (f : Slice → Slice) : (s.modSlice p f).mgmt = s.mgmt := rfl
@[simp] theorem modSlice_stayCtx (p : Nat) (f : Slice → Slice) : (s.modSlice p f).stayCtx = s.stayCtx := rfl
@[simp] theorem modSlice_stayBurst (p : Nat) (f : Slice → Slice) : (s.modSlice p f).stayBurst = s.stayBurst := rfl
@[simp] theorem modSlice_stayRecv (p : Nat) (f : Slice → Slice) : (s.modSlice p f).stayRecv = s.stayRecv := rfl
@[simp] theorem modSlice_hostWait (p : Nat) (f : Slice → Slice) : (s.modSlice p f).hostWait = s.hostWait := rfl
@[simp] theorem modSlice_sent (p : Nat) (f : Slice → Slice) : (s.modSlice p f).sent = s.sent := rfl
@[simp] theorem modSlice_lineKeys (p : Nat) (f : Slice → Slice) : (s.modSlice p f).lineKeys = s.lineKeys := rfl
@[simp] theorem modSlice_rigs (p : Nat) (f : Slice → Slice) : (s.modSlice p f).rigs = s.rigs := rfl
@[simp] theorem modSlice_reqs (p : Nat) (f : Slice → Slice) : (s.modSlice p f).reqs = s.reqs := rfl
@[simp] theorem modSlice_msgs (p : Nat) (f : Slice → Slice) : (s.modSlice p f).msgs = s.msgs := rfl
@[simp] theorem modSlice_routes (p : Nat) (f : Slice → Slice) : (s.modSlice p f).routes = s.routes := rfl
@[simp] theorem modSlice_fifos (p : Nat) (f : Slice → Slice) : (s.modSlice p f).fifos = s.fifos := rfl
@[simp] theorem modSlice_watchers (p : Nat) (f : Slice → Slice) : (s.modSlice p f).watchers = s.watchers := rfl
@[simp] theorem modSlice_poison (p : Nat) (f : Slice → Slice) : (s.modSlice p f).poison = s.poison := rfl
@[simp] theorem modSlice_visitors (p : Nat) (f : Slice → Slice) : (s.modSlice p f).visitors = s.visitors := rfl
@[simp] theorem modSlice_dirty (p : Nat) (f : Slice → Slice) : (s.modSlice p f).dirty = s.dirty := rfl
@[simp] theorem modSlice_marks (p : Nat) (f : Slice → Slice) : (s.modSlice p f).marks = s.marks := rfl
@[simp] theorem modSlice_past (p : Nat) (f : Slice → Slice) : (s.modSlice p f).past = s.past := rfl
@[simp] theorem modSlice_issue (p : Nat) (f : Slice → Slice) : (s.modSlice p f).issue = s.issue := rfl
@[simp] theorem modSlice_todo (p : Nat) (f : Slice → Slice) : (s.modSlice p f).todo = s.todo := rfl
@[simp] theorem modSlice_agenda (p : Nat) (f : Slice → Slice) : (s.modSlice p f).agenda = s.agenda := rfl
@[simp] theorem modSlice_turns (p : Nat) (f : Slice → Slice) : (s.modSlice p f).turns = s.turns := rfl
@[simp] theorem modSlice_due (p : Nat) (f : Slice → Slice) : (s.modSlice p f).due = s.due := rfl
@[simp] theorem modSlice_closing (p : Nat) (f : Slice → Slice) : (s.modSlice p f).closing = s.closing := rfl
@[simp] theorem modSlice_fresh (p : Nat) (f : Slice → Slice) : (s.modSlice p f).fresh = s.fresh := rfl
@[simp] theorem modSlice_freeCtr (p : Nat) (f : Slice → Slice) : (s.modSlice p f).freeCtr = s.freeCtr := rfl

@[simp] theorem modMgmt_clk (f : Mgmt → Mgmt) : (s.modMgmt f).clk = s.clk := rfl
@[simp] theorem modMgmt_resetClk (f : Mgmt → Mgmt) : (s.modMgmt f).resetClk = s.resetClk := rfl
@[simp] theorem modMgmt_mem (f : Mgmt → Mgmt) : (s.modMgmt f).mem = s.mem := rfl
@[simp] theorem modMgmt_cores (f : Mgmt → Mgmt) : (s.modMgmt f).cores = s.cores := rfl
@[simp] theorem modMgmt_clusters (f : Mgmt → Mgmt) : (s.modMgmt f).clusters = s.clusters := rfl
@[simp] theorem modMgmt_dieTab (f : Mgmt → Mgmt) : (s.modMgmt f).dieTab = s.dieTab := rfl
@[simp] theorem modMgmt_parts (f : Mgmt → Mgmt) : (s.modMgmt f).parts = s.parts := rfl
@[simp] theorem modMgmt_launches (f : Mgmt → Mgmt) : (s.modMgmt f).launches = s.launches := rfl
@[simp] theorem modMgmt_fabnum (f : Mgmt → Mgmt) : (s.modMgmt f).fabnum = s.fabnum := rfl
@[simp] theorem modMgmt_waysScratch (f : Mgmt → Mgmt) : (s.modMgmt f).waysScratch = s.waysScratch := rfl
@[simp] theorem modMgmt_waysDisabled (f : Mgmt → Mgmt) : (s.modMgmt f).waysDisabled = s.waysDisabled := rfl
@[simp] theorem modMgmt_waysChanging (f : Mgmt → Mgmt) : (s.modMgmt f).waysChanging = s.waysChanging := rfl
@[simp] theorem modMgmt_sliceTab (f : Mgmt → Mgmt) : (s.modMgmt f).sliceTab = s.sliceTab := rfl
@[simp] theorem modMgmt_tasks (f : Mgmt → Mgmt) : (s.modMgmt f).tasks = s.tasks := rfl
@[simp] theorem modMgmt_frame (f : Mgmt → Mgmt) : (s.modMgmt f).frame = s.frame := rfl
@[simp] theorem modMgmt_stayCtx (f : Mgmt → Mgmt) : (s.modMgmt f).stayCtx = s.stayCtx := rfl
@[simp] theorem modMgmt_stayBurst (f : Mgmt → Mgmt) : (s.modMgmt f).stayBurst = s.stayBurst := rfl
@[simp] theorem modMgmt_stayRecv (f : Mgmt → Mgmt) : (s.modMgmt f).stayRecv = s.stayRecv := rfl
@[simp] theorem modMgmt_hostWait (f : Mgmt → Mgmt) : (s.modMgmt f).hostWait = s.hostWait := rfl
@[simp] theorem modMgmt_sent (f : Mgmt → Mgmt) : (s.modMgmt f).sent = s.sent := rfl
@[simp] theorem modMgmt_lineKeys (f : Mgmt → Mgmt) : (s.modMgmt f).lineKeys = s.lineKeys := rfl
@[simp] theorem modMgmt_rigs (f : Mgmt → Mgmt) : (s.modMgmt f).rigs = s.rigs := rfl
@[simp] theorem modMgmt_reqs (f : Mgmt → Mgmt) : (s.modMgmt f).reqs = s.reqs := rfl
@[simp] theorem modMgmt_msgs (f : Mgmt → Mgmt) : (s.modMgmt f).msgs = s.msgs := rfl
@[simp] theorem modMgmt_routes (f : Mgmt → Mgmt) : (s.modMgmt f).routes = s.routes := rfl
@[simp] theorem modMgmt_fifos (f : Mgmt → Mgmt) : (s.modMgmt f).fifos = s.fifos := rfl
@[simp] theorem modMgmt_watchers (f : Mgmt → Mgmt) : (s.modMgmt f).watchers = s.watchers := rfl
@[simp] theorem modMgmt_poison (f : Mgmt → Mgmt) : (s.modMgmt f).poison = s.poison := rfl
@[simp] theorem modMgmt_visitors (f : Mgmt → Mgmt) : (s.modMgmt f).visitors = s.visitors := rfl
@[simp] theorem modMgmt_dirty (f : Mgmt → Mgmt) : (s.modMgmt f).dirty = s.dirty := rfl
@[simp] theorem modMgmt_marks (f : Mgmt → Mgmt) : (s.modMgmt f).marks = s.marks := rfl
@[simp] theorem modMgmt_past (f : Mgmt → Mgmt) : (s.modMgmt f).past = s.past := rfl
@[simp] theorem modMgmt_issue (f : Mgmt → Mgmt) : (s.modMgmt f).issue = s.issue := rfl
@[simp] theorem modMgmt_todo (f : Mgmt → Mgmt) : (s.modMgmt f).todo = s.todo := rfl
@[simp] theorem modMgmt_agenda (f : Mgmt → Mgmt) : (s.modMgmt f).agenda = s.agenda := rfl
@[simp] theorem modMgmt_turns (f : Mgmt → Mgmt) : (s.modMgmt f).turns = s.turns := rfl
@[simp] theorem modMgmt_due (f : Mgmt → Mgmt) : (s.modMgmt f).due = s.due := rfl
@[simp] theorem modMgmt_closing (f : Mgmt → Mgmt) : (s.modMgmt f).closing = s.closing := rfl
@[simp] theorem modMgmt_fresh (f : Mgmt → Mgmt) : (s.modMgmt f).fresh = s.fresh := rfl
@[simp] theorem modMgmt_freeCtr (f : Mgmt → Mgmt) : (s.modMgmt f).freeCtr = s.freeCtr := rfl

@[simp] theorem setOutput_clk (o : Nat) (x : Output) : (s.setOutput o x).clk = s.clk := rfl
@[simp] theorem setOutput_resetClk (o : Nat) (x : Output) : (s.setOutput o x).resetClk = s.resetClk := rfl
@[simp] theorem setOutput_mem (o : Nat) (x : Output) : (s.setOutput o x).mem = s.mem := rfl
@[simp] theorem setOutput_cores (o : Nat) (x : Output) : (s.setOutput o x).cores = s.cores := rfl
@[simp] theorem setOutput_clusters (o : Nat) (x : Output) : (s.setOutput o x).clusters = s.clusters := rfl
@[simp] theorem setOutput_dieTab (o : Nat) (x : Output) : (s.setOutput o x).dieTab = s.dieTab := rfl
@[simp] theorem setOutput_parts (o : Nat) (x : Output) : (s.setOutput o x).parts = s.parts := rfl
@[simp] theorem setOutput_launches (o : Nat) (x : Output) : (s.setOutput o x).launches = s.launches := rfl
@[simp] theorem setOutput_fabnum (o : Nat) (x : Output) : (s.setOutput o x).fabnum = s.fabnum := rfl
@[simp] theorem setOutput_waysScratch (o : Nat) (x : Output) : (s.setOutput o x).waysScratch = s.waysScratch := rfl
@[simp] theorem setOutput_waysDisabled (o : Nat) (x : Output) : (s.setOutput o x).waysDisabled = s.waysDisabled := rfl
@[simp] theorem setOutput_waysChanging (o : Nat) (x : Output) : (s.setOutput o x).waysChanging = s.waysChanging := rfl
@[simp] theorem setOutput_sliceTab (o : Nat) (x : Output) : (s.setOutput o x).sliceTab = s.sliceTab := rfl
@[simp] theorem setOutput_tasks (o : Nat) (x : Output) : (s.setOutput o x).tasks = s.tasks := rfl
@[simp] theorem setOutput_frame (o : Nat) (x : Output) : (s.setOutput o x).frame = s.frame := rfl
@[simp] theorem setOutput_stayCtx (o : Nat) (x : Output) : (s.setOutput o x).stayCtx = s.stayCtx := rfl
@[simp] theorem setOutput_stayBurst (o : Nat) (x : Output) : (s.setOutput o x).stayBurst = s.stayBurst := rfl
@[simp] theorem setOutput_stayRecv (o : Nat) (x : Output) : (s.setOutput o x).stayRecv = s.stayRecv := rfl
@[simp] theorem setOutput_hostWait (o : Nat) (x : Output) : (s.setOutput o x).hostWait = s.hostWait := rfl
@[simp] theorem setOutput_sent (o : Nat) (x : Output) : (s.setOutput o x).sent = s.sent := rfl
@[simp] theorem setOutput_lineKeys (o : Nat) (x : Output) : (s.setOutput o x).lineKeys = s.lineKeys := rfl
@[simp] theorem setOutput_rigs (o : Nat) (x : Output) : (s.setOutput o x).rigs = s.rigs := rfl
@[simp] theorem setOutput_reqs (o : Nat) (x : Output) : (s.setOutput o x).reqs = s.reqs := rfl
@[simp] theorem setOutput_msgs (o : Nat) (x : Output) : (s.setOutput o x).msgs = s.msgs := rfl
@[simp] theorem setOutput_routes (o : Nat) (x : Output) : (s.setOutput o x).routes = s.routes := rfl
@[simp] theorem setOutput_fifos (o : Nat) (x : Output) : (s.setOutput o x).fifos = s.fifos := rfl
@[simp] theorem setOutput_watchers (o : Nat) (x : Output) : (s.setOutput o x).watchers = s.watchers := rfl
@[simp] theorem setOutput_poison (o : Nat) (x : Output) : (s.setOutput o x).poison = s.poison := rfl
@[simp] theorem setOutput_visitors (o : Nat) (x : Output) : (s.setOutput o x).visitors = s.visitors := rfl
@[simp] theorem setOutput_dirty (o : Nat) (x : Output) : (s.setOutput o x).dirty = s.dirty := rfl
@[simp] theorem setOutput_marks (o : Nat) (x : Output) : (s.setOutput o x).marks = s.marks := rfl
@[simp] theorem setOutput_past (o : Nat) (x : Output) : (s.setOutput o x).past = s.past := rfl
@[simp] theorem setOutput_issue (o : Nat) (x : Output) : (s.setOutput o x).issue = s.issue := rfl
@[simp] theorem setOutput_todo (o : Nat) (x : Output) : (s.setOutput o x).todo = s.todo := rfl
@[simp] theorem setOutput_agenda (o : Nat) (x : Output) : (s.setOutput o x).agenda = s.agenda := rfl
@[simp] theorem setOutput_turns (o : Nat) (x : Output) : (s.setOutput o x).turns = s.turns := rfl
@[simp] theorem setOutput_due (o : Nat) (x : Output) : (s.setOutput o x).due = s.due := rfl
@[simp] theorem setOutput_closing (o : Nat) (x : Output) : (s.setOutput o x).closing = s.closing := rfl
@[simp] theorem setOutput_fresh (o : Nat) (x : Output) : (s.setOutput o x).fresh = s.fresh := rfl
@[simp] theorem setOutput_freeCtr (o : Nat) (x : Output) : (s.setOutput o x).freeCtr = s.freeCtr := rfl

@[simp] theorem mgmt_modMgmt (f : Mgmt → Mgmt) : (s.modMgmt f).mgmt = f s.mgmt := rfl
@[simp] theorem slice_modSlice (p : Nat) (f : Slice → Slice) : (s.modSlice p f).slice p = f (s.slice p) := by simp [State.slice, State.modSlice]
theorem slice_modSlice_other (p q : Nat) (f : Slice → Slice) (h : q ≠ p) : (s.modSlice p f).slice q = s.slice q := by
  simp [State.slice, State.modSlice, Map.find_put_other _ _ _ _ h]
@[simp] theorem core_modSlice (p c : Nat) (f : Slice → Slice) : (s.modSlice p f).core c = s.core c := rfl
@[simp] theorem cluster_modSlice (p k : Nat) (f : Slice → Slice) : (s.modSlice p f).cluster k = s.cluster k := rfl
@[simp] theorem core_modMgmt (c : Nat) (f : Mgmt → Mgmt) : (s.modMgmt f).core c = s.core c := rfl
@[simp] theorem slice_modCore (c p : Nat) (f : Core → Core) : (s.modCore c f).slice p = s.slice p := rfl
@[simp] theorem output_setOutput (o : Nat) (x : Output) : (s.setOutput o x).output o = x := by simp [State.output, State.setOutput]

end Sys2Proof.Machine
end

