-- ==== Sys2Proof/Laws/Vec.lean ====
section
/-!
SUPPORT. Vector registers as lists of elements: element k of a register made from a list is the list's entry k, cut to the width.
-/
namespace Sys2Proof.Machine

theorem ofElems_lt (w : Nat) (l : List Nat) : ofElems w l < 2 ^ (w * l.length) := by
  induction l with
  | nil => simp [ofElems]
  | cons x t ih =>
    simp only [ofElems, List.length_cons, Nat.mul_add, Nat.mul_one, Nat.pow_add]
    have h1 : x % 2 ^ w < 2 ^ w := Nat.mod_lt _ (Nat.two_pow_pos w)
    have h2 : 2 ^ w * (ofElems w t + 1) ≤ 2 ^ w * 2 ^ (w * t.length) := Nat.mul_le_mul_left _ ih
    rw [Nat.mul_comm (2 ^ (w * t.length))]
    rw [Nat.mul_add, Nat.mul_one] at h2
    omega

theorem ofElems_get (w : Nat) (l : List Nat) (k : Nat) (hk : k < l.length) : ofElems w l / 2 ^ (w * k) % 2 ^ w = l.getD k 0 % 2 ^ w := by
  induction l generalizing k with
  | nil => simp at hk
  | cons x t ih =>
    cases k with
    | zero => simp [ofElems]
    | succ k =>
      simp only [List.length_cons] at hk
      simp only [ofElems, Nat.mul_add, Nat.mul_one, Nat.pow_add, List.getD_cons_succ]
      rw [Nat.mul_comm (2 ^ (w * k)), ← Nat.div_div_eq_div_mul, Nat.add_mul_div_left _ _ (Nat.two_pow_pos w),
        Nat.div_eq_of_lt (Nat.mod_lt _ (Nat.two_pow_pos w)), Nat.zero_add]
      exact ih k (by omega)

/-- Element k of a register made from a list. -/
theorem elem_vregOf (w : Nat) (l : List Nat) (k : Nat) (hk : k < l.length) (hl : w * l.length ≤ 2048) :
    elem w (vregOf w l) k = l.getD k 0 % 2 ^ w := by
  have h : ofElems w l < 2 ^ 2048 := Nat.lt_of_lt_of_le (ofElems_lt w l) (Nat.pow_le_pow_right (by decide) hl)
  unfold elem vregOf
  rw [BitVec.toNat_ofNat, Nat.mod_eq_of_lt h, Nat.shiftRight_eq_div_pow]
  exact ofElems_get w l k hk

/-- An element of a merged register (R231). -/
theorem elem_mergeElems (m : Word) (w : Nat) (old : VReg) (f : Nat → Nat) (k : Nat) (hw : w * numElems w ≤ 2048) (hk : k < numElems w) :
    elem w (mergeElems m w old f) k = if active m w k then f k % 2 ^ w else elem w old k := by
  unfold mergeElems
  rw [elem_vregOf _ _ _ (by simpa using hk) (by simpa using hw)]
  simp only [List.getD_eq_getElem?_getD, List.getElem?_map, List.getElem?_range hk, Option.map_some, Option.getD_some]
  split
  · rfl
  · exact Nat.mod_eq_of_lt (Nat.mod_lt _ (Nat.two_pow_pos w))

/-- An element after some were replaced (R231). -/
theorem elem_putElems (w : Nat) (old : VReg) (l : List (Nat × Nat)) (k : Nat) (hw : w * numElems w ≤ 2048) (hk : k < numElems w) :
    elem w (putElems w old l) k = match l.find? fun x => x.1 == k with | some x => x.2 % 2 ^ w | none => elem w old k := by
  unfold putElems
  rw [elem_vregOf _ _ _ (by simpa using hk) (by simpa using hw)]
  simp only [List.getD_eq_getElem?_getD, List.getElem?_map, List.getElem?_range hk, Option.map_some, Option.getD_some]
  cases l.find? (fun x => x.1 == k) with
  | some x => rfl
  | none => exact Nat.mod_eq_of_lt (Nat.mod_lt _ (Nat.two_pow_pos w))

theorem mul_numElems (w : Nat) : w * numElems w ≤ 2048 := Nat.mul_div_le 2048 w

end Sys2Proof.Machine
end

