-- ==== Sys2Proof/Tests/Slice0.lean ====
section
/-!
SUPPORT. Tests. Decoding is tried on words written out from the encodings of the spec, well-formedness on an ill-formed term for each of its
checks, and single operations on small states; the expected results come from the spec. For the hypotheses of each statement of
Certificates/Slice0/Obligations.lean a concrete state meets them.
-/
open Sys2Proof Sys2Proof.Machine

namespace Sys2Proof.Tests

set_option Elab.async false

/-! ## Small states -/

/-- A user wave of no launch, at the first code offset, with nothing in its registers. -/
def thr : Thr := { Thr.vacant with uid := 7 }
def wave : Wave := { Wave.vacant with t := thr, pc := 0xFFFFFFFF00000600 }

/-- One core with something on it. -/
def onCore (k : Core) : State := { State.reset with cores := [(0, k)], fresh := 100, mgmt := { State.reset.mgmt with booting := false } }
def withWave (w : Wave) : State := onCore { Core.reset with slots := [(0, w)] }

/-- The bundle of a wave, its checks passed. -/
def bundle : Issue :=
  { core := 0, slot := 0, entry := none, pc := 0xFFFFFFFF00000600, next := 0xFFFFFFFF00000608, s := Vector.replicate 64 0,
    v := Vector.replicate 32 0, mask := BitVec.allOnes 64, fpmode := 0, sup := false, sflags := 0, vflags := 0, lanes := 0, checked := true }
def fresh : Issue := { bundle with checked := false }
def inHand (s : State) (c : Issue) : State := { s with issue := some c }

/-- The wave with its bundle in hand. -/
def st : State := inHand (withWave wave) bundle

/-- A fibre in entry 3, running in slot 7. -/
def fib : Fibre := { pc := 0xFFFFFFFF00000600, f := Vector.replicate 8 0, tag := 5, prio := 0, sys := false, ray := false, pin := false, seq := 0,
                     launch := 0, origin := 0 }
def entry : RqEntry := { t := thr, fib := fib, st := .running, refetch := none }
def fibreCore (x : RqEntry) : Core := { Core.reset with rq := [(3, x)], held := some 3 }
def fbundle : Issue := { bundle with slot := 7, entry := some 3 }
def stf : State := inHand (onCore (fibreCore entry)) fbundle

theorem clear_wave (i : Instr) : clear st bundle i := ⟨⟨rfl, .inl rfl⟩, rfl, rfl, rfl⟩
theorem clear_fibre (i : Instr) : clear stf fbundle i := ⟨⟨rfl, .inl rfl⟩, rfl, rfl, rfl⟩
theorem runs_wave (i : Instr) (fl : Nat) : runs st bundle i fl :=
  ⟨⟨rfl, .inl rfl⟩, rfl, fun _ _ => by show (flagsWith bundle fl) &&& 0 = 0; exact Nat.and_zero _⟩
theorem runs_fibre (i : Instr) (fl : Nat) : runs stf fbundle i fl := ⟨⟨rfl, .inl rfl⟩, rfl, fun _ h => nomatch h⟩

/-- A wave that stands in a slot, on a core no wave of which owes a trap. -/
theorem isThread_of {s : State} {x : Tid} {core : Nat} {th : Thr} (h : threadsOf s x = [(core, th)]) (h' : s.thrOf core th.uid = some th)
    (hs : (slotOfUid (s.core core) th.uid).isSome = true) (ho : ∀ y ∈ (s.core core).slots, y.2.owed = none) : isThread s x core th :=
  ⟨h, h', .inr hs, fun n w _ hw => ho (n, w) (Map.mem_of_find hw)⟩

/-! ## Hypotheses are met: encoding and issue -/

theorem test_wit_encodeDecode : wellFormed (.add 3 4 (.sel 5) false true .w8) = true ∧ Instr.add 3 4 (.sel 5) false true .w8 ≠ .vnop := by decide +kernel

def addOp : Instr := .add 3 4 (.sel 5) false true .w8
def redOp : Instr := .vredadd 1 4 0 6
theorem test_wit_dualEncodeDecode : ∃ w wa wv, wellFormed addOp = true ∧ wellFormed redOp = true ∧ encode addOp = [wa] ∧ encode redOp = [wv] ∧
    wa.extractLsb' 62 2 = 0 ∧ wa.extractLsb' 0 31 = 0 ∧ wv.extractLsb' 31 33 = 0 ∧ (needsVnop addOp = true → redOp = .vnop) ∧
    (∀ r, scalarDest (toRaw addOp) = some r → vectorScalarDest (toRaw redOp) ≠ some r) ∧ encodeBundle (.dual addOp redOp) = [w] := by
  refine ⟨_, _, _, by decide +kernel, by decide +kernel, rfl, rfl, by decide +kernel, by decide +kernel, by decide +kernel, by decide +kernel, ?_, rfl⟩
  have h : vectorScalarDest (toRaw redOp) = none := by decide +kernel
  simp [h]

/-- Code at offset 0x600 of core 0: ADD and VREDADD in one bundle. -/
def codeState : State := { withWave wave with
  mem := memPut [] (tcmKey 0 0x600) 0x0806202BD8090006 8
  turns := [0] }
def codeNext : State := { codeState with turns := [] }
def codeTurn : State := codeNext.setCore 0 { codeNext.core 0 with lastRead := some 0, turns := [(0, 0)] }
theorem test_wit_stepRunsDecoded : nextEvent codeState = (some (.issueTurn 0), codeNext) ∧ heldOff codeNext (.issueTurn 0) = false ∧
    wellFormed (.issueTurn 0) = true ∧ exec (.issueTurn 0) codeNext = .next (fetchBundle codeTurn 0 0) ∧
    fetches codeTurn 0 0 fresh (.dual addOp redOp) ∧ bundleOps (.dual addOp redOp) = addOp :: [redOp] := by
  refine ⟨by decide +kernel, by decide +kernel, by decide +kernel, by rfl, ?_, rfl⟩
  exact ⟨0xFFFFFFFF00000600, by decide +kernel, by decide +kernel, fresh, by decide +kernel, by decide +kernel, by decide +kernel, by decide +kernel,
    by decide +kernel, by decide +kernel⟩
theorem test_wit_stepRunsBoth : st.todo = [] ∧ ∃ t, exec .nop { { st with todo := [.nop] } with todo := [] } = .next t := ⟨rfl, _, rfl⟩
theorem test_wit_noBundleBetweenSteps : atRest State.reset ∧ ∃ t, step State.reset = .next t := ⟨⟨rfl, rfl⟩, _, rfl⟩

/-- A load of a doubleword at address 1 meets ALIGN. -/
def stuck : Issue := { fresh with s := (Vector.replicate 64 0).set 4 1 }
def stuckState : State := inHand (withWave wave) stuck
def badLoad : Instr := .ldd 3 4 (.imm 0) false
theorem test_wit_trapBeforeEffect : toRaw badLoad ≠ .none ∧ stuckState.issue = some stuck ∧ stuck.checked = false ∧
    ∃ x, fate stuckState stuck (badLoad :: stuckState.todo) = .trap x := by
  refine ⟨by decide +kernel, rfl, rfl, ⟨3, 0xFFFFFFFF00000600, 0, 0, 0, true⟩, ?_⟩; decide +kernel
theorem test_wit_stoppedBundle : fate stuckState stuck (badLoad :: stuckState.todo) ≠ .go := by decide +kernel

/-! ## Decoding: words of the spec's worked encodings, and words written out from its tables -/

/-- Table 6.9 and R204: scalar operations. -/
theorem test_decode_scalar : decodeBundle 0x0806202B80000000 0 0 0 = .ok (.dual (.add 3 4 (.sel 5) false true .w8) .vnop) ∧
    decodeBundle 0x098A303880000000 0 0 0 = .ok (.dual (.mulh 5 6 (.sel 7) false .w32) .vnop) ∧
    decodeBundle 0x190E404980000000 0 0 0 = .ok (.dual (.lea 7 8 (.sel 9) 3) .vnop) ∧
    decodeBundle 0x2412521A80000000 0 0 0 = .ok (.dual (.fset 9 10 (.sel 0x43) .lt .f32) .vnop) ∧
    decodeBundle 0x598A000000010000 0 0 0 = .ok (.scalarWide (.li 5 0x10000)) ∧
    decodeBundle 0x4886180000000001 0 0 0 = .ok (.scalarWide (.sub 3 3 (.imm 1) false false .w64)) := by decide +kernel

/-- Control transfer and traps (05 R160's example, Table 6.9). -/
theorem test_decode_control : decodeBundle 0x40801801FFFFFFE8 0 0 0 = .ok (.scalarWide (.bc 3 .nz 0xFFFFFFE8)) ∧
    decodeBundle 0x02BE223800000000 0 0 0 = .ok (.dual (.calli 31 4 0x47) .vnop) ∧
    decodeBundle 0x423E000000000040 0 0 0 = .ok (.scalarWide (.call 31 0x40)) ∧
    decodeBundle 0x4380000000000007 0 0 0 = .ok (.scalarWide (.trap 7)) ∧ decodeBundle 0x0400000000000000 0 0 0 = .ok (.dual .tret .vnop) ∧
    decodeBundle 0x0480000000000000 0 0 0 = .ok (.dual .brk .vnop) := by decide +kernel

/-- Memory, atomics, barriers, semaphores (Table 7.7). -/
theorem test_decode_memory : decodeBundle 0x6B0A2001FFFFFFC0 0 0 0 = .ok (.scalarWide (.ldd 5 4 (.imm 0xFFFFFFC0) true)) ∧
    decodeBundle 0x2E0A203200000000 0 0 0 = .ok (.dual (.stl 5 4 (.sel 6) 4) .vnop) ∧
    decodeBundle 0x7006200000130005 0 0 0 = .ok (.scalarWide (.amo 3 4 5 .add .ar 4)) ∧
    decodeBundle 0x7280000000130000 0 0 0 = .ok (.scalarWide (.fence .ar 4)) := by decide +kernel
theorem test_decode_sync : decodeBundle 0x3480000000000000 0 0 0 = .ok (.dual .barg .vnop) ∧
    decodeBundle 0x3500000000000000 0 0 0 = .ok (.dual .develop .vnop) ∧ decodeBundle 0x358C282800000000 0 0 0 = .ok (.dual (.trim 6 5 5) .vnop) ∧
    decodeBundle 0x760E0002012C000C 0 0 0 = .ok (.scalarWide (.semw 7 0 12 300 2)) ∧
    decodeBundle 0x768000010000010C 0 0 0 = .ok (.scalarWide (.sems 0 0 12 1 1)) := by decide +kernel

/-- Vector operations (05 R160's example; chapter 08's worked words). -/
theorem test_decode_vector : decodeBundle 0x08060FA004214D46 0 0 0 =
      .ok (.dual (.add 3 1 (.sel 0xF4) false false .w64) (.vfma 4 5 (.reg 6) 40 .f32)) ∧
    decodeBundle 0x0000000058090006 0 0 0 = .ok (.dual .nop (.vredadd 1 4 0 6)) ∧
    decodeBundle 0x9BA4402280070000 0 0 0 = .ok (.vectorWide (.vicmp 9 2 .lt (.reg 7) 0 2)) := by decide +kernel
theorem test_decode_vectorMemory : decodeBundle 0xB410146140000040 0 0 0 = .ok (.vectorWide (.vld 4 5 0x40 false 40 6)) ∧
    decodeBundle 0xB618606158000000 0 0 0 = .ok (.vectorWide (.vgath 6 3 5 0 true 2 false 0 6)) ∧
    decodeBundle 0xB794542108340000 0 0 0 = .ok (.vectorWide (.vamo 5 2 4 0 false 2 .add .ar 4 40 2)) := by decide +kernel

/-- Fibres and rays (Table 9.15). -/
theorem test_decode_fibres : decodeBundle 0x3800000000000000 0 0 0 = .ok (.dual .trav .vnop) ∧ decodeBundle 0x3800000080000000 0 0 0 = .ok (.dual .travAcc .vnop) ∧
    decodeBundle 0x3800000100000000 0 0 0 = .ok (.dual .travEnd .vnop) ∧ decodeBundle 0x3800002980000000 0 0 0 = .ok (.dual (.travInst 5) .vnop) ∧
    decodeBundle 0x3880000000000000 0 0 0 = .ok (.dual .hop .vnop) ∧ decodeBundle 0x3900121800000000 0 0 0 = .ok (.dual (.go 2 0x43) .vnop) ∧
    decodeBundle 0x798A000000000040 0 0 0 = .ok (.scalarWide (.spawn 5 0x40)) ∧ decodeBundle 0x3A00000000000000 0 0 0 = .ok (.dual .fend .vnop) ∧
    decodeBundle 0x3A80000000000000 0 0 0 = .ok (.dual .fyield .vnop) ∧ decodeBundle 0x3B00380000000000 0 0 0 = .ok (.dual (.hqpush 7) .vnop) ∧
    decodeBundle 0x3B8A322000000000 0 0 0 = .ok (.dual (.rgen 5 6 0x44) .vnop) := by decide +kernel

/-- Commands: the worked words of chapters 05, 10 and 11; SEMOP, LAUNCH and RMMAK written out from Tables 5.5, 10.3 and 10.11. -/
def hdr0 : CmdHdr := { we := false, wsem := 0, wthr := 0, se := false, ssem := 0, sinc := 0, token := 0, scope := 0, x0 := false, x1 := false }
theorem test_decode_copy : decodeBundle 0xC082800141804900 0x1400000000000000 0x1800000000000008 64 = .ok (.command
    (.cpy { we := true, wsem := 5, wthr := 2, se := true, ssem := 6, sinc := 1, token := 9, scope := 0, x0 := false, x1 := false }
      { reg := 5, disp := 0 } { reg := 6, disp := 8 } 64)) := by decide +kernel
theorem test_decode_matrix : decodeBundle 0xD000000000000901 0x0000000002A90100 0 0 = .ok (.command (.mma { hdr0 with token := 9, scope := 1 } 0 8 1 false 5 5)) ∧
    decodeBundle 0xD200000000000000 1 0 0 = .ok (.command (.mzero hdr0 1 false)) ∧
    decodeBundle 0xD100000000000000 0x0000000087700100 0 0 = .ok (.command (.mmax hdr0 0 8 16 0 false 14 14)) ∧
    decodeBundle 0xD400000000000000 0x1800000000000000 0x0000010000000000 0 = .ok (.command (.mst hdr0 { reg := 6, disp := 0 } 0 false 256)) := by decide +kernel
theorem test_decode_work : decodeBundle 0xD800000000000000 0x0000000009050003 0 0 = .ok (.command (.semop hdr0 3 5 9)) ∧
    decodeBundle 0xE000000000000000 0x1000000000000000 0 0 = .ok (.command (.launch hdr0 { reg := 4, disp := 0 })) ∧
    decodeBundle 0xD500000000000000 0x00000006000842A9 0x1000000000000000 0x1000000000000100 =
      .ok (.command (.rmmak hdr0 6 0 2 4 false 5 5 false 1 { reg := 4, disp := 0 } { reg := 4, disp := 0x100 })) := by decide +kernel

/-- Reserved and unused encodings are refused: an unassigned opcode, a field that must be zero, a VNOP with fields, two writes of one register. -/
theorem test_decode_refuses : (∀ b, decodeBundle 0x3F80000000000000 0 0 0 ≠ .ok b) ∧ (∀ b, decodeBundle 0x0400000000000001 0 0 0 ≠ .ok b) ∧
    (∀ b, decodeBundle 0x0000000000000001 0 0 0 ≠ .ok b) ∧ ∀ b, decodeBundle 0x081200004B488A02 0 0 0 ≠ .ok b := by
  have no {x : Except Reject Bundle} {e : Reject} (h : x = .error e) : ∀ b, x ≠ .ok b := by
    intro b hb; rw [h] at hb; cases hb
  exact ⟨no (e := .unassigned) (by decide +kernel), no (e := .nonzero) (by decide +kernel), no (e := .nonzero) (by decide +kernel),
    no (e := .sameScalar) (by decide +kernel)⟩

/-! ## Well-formedness: an ill-formed term for each check is refused -/

theorem test_illFormed_scalar : ([.bc 3 .nz 4, .jmp 1, .call 31 2, .spawn 5 12, .fence .relaxed 4] : List Instr).any wellFormed = false := by decide +kernel
theorem test_illFormed_vectorImmediate : ([.viadd 1 2 (.imm 256) 0 0, .visub 1 2 (.imm 256) 0 4, .vimul 1 2 (.imm 256) 0 0, .vimulh 1 2 (.imm 256) 0 0,
    .vimad 1 2 (.imm 256) 0 0, .vimin 1 2 (.imm 256) 0 0, .vimax 1 2 (.imm 256) 0 0, .vand 1 2 (.imm 256) 0 0, .vor 1 2 (.imm 256) 0 0,
    .vxor 1 2 (.imm 256) 0 0, .vandn 1 2 (.imm 256) 0 0, .vshl 1 2 (.imm 256) 0 0, .vshr 1 2 (.imm 256) 0 0, .vsha 1 2 (.imm 256) 0 0,
    .vsatadd 1 2 (.imm 256) 0 0, .vsatsub 1 2 (.imm 256) 0 0, .vidiv 1 2 (.imm 256) 0 0, .virem 1 2 (.imm 256) 0 0,
    .vicmp 1 2 .eq (.imm 256) 0 0, .vmovi 1 256 0 0] : List Instr).any wellFormed = false := by decide +kernel
theorem test_illFormed_vectorType : ([.vround 1 2 5 0 .f32, .vexp2 1 2 0 .f64, .vlog2 1 2 0 .f64, .vsin 1 2 0 .f64, .vcos 1 2 0 .f64, .vtanh 1 2 0 .f64,
    .vicmp 1 2 .un (.reg 3) 0 2, .vicmp 1 2 .or (.reg 3) 0 2, .vwhile 1 2 3 0 1, .vmatch 1 2 0 0, .vhash 1 2 3 0 5, .vgath 1 2 3 0 false 0 false 0 4,
    .vscat 1 2 3 0 false 0 0 1, .vamo 1 2 3 0 false 0 .add .ar 4 0 0, .vamof 1 2 3 0 false 0 .add .ar 4 0 2, .vhqpop 17 1 0, .vraygen 1 17 2 0,
    .vaccrd 1 0 false 2 0 3, .vaccwr 1 0 false 2 0 0, .vdot4 1 2 (.reg 3) 0 3, .vdot4 1 2 (.reg 3) 0 6] : List Instr).any wellFormed = false := by
  decide +kernel
theorem test_illFormed_conversion : ([.vcvt 1 2 4 false 0 4, .vcvt 1 2 5 true 0 4, .vcvti 1 2 6 false 0 1, .vcvti 1 2 6 true 0 2,
    .vnarrow 1 2 6 false 0 4, .vnarrow 1 2 4 true 0 6, .vnarrow 1 2 2 false 0 1, .vwiden 1 2 6 false 0 4, .vwiden 1 2 4 true 0 6,
    .vqmx 1 2 4 0 6, .vqmx 1 2 12 0 4, .vdqmx 1 2 15 0 6, .vdqmx 1 2 14 0 7] : List Instr).any wellFormed = false := by decide +kernel

def r4 : RegOp := { reg := 4, disp := 0 }
/-- Fields of a disabled wait or signal that are not zero. -/
theorem test_illFormed_header : ([.cpy { hdr0 with wsem := 1 } r4 r4 64, .cpy { hdr0 with wthr := 1 } r4 r4 64, .cpy2 { hdr0 with ssem := 1 } r4 r4 1 1 1 1,
    .cpyt { hdr0 with sinc := 1 } r4 r4 1 1 0 0 0, .pref2 { hdr0 with x1 := true } r4 64, .mzero { hdr0 with x0 := true } 1 false,
    .semop { hdr0 with x1 := true } 0 0 1] : List Instr).any wellFormed = false := by decide +kernel
theorem test_illFormed_copy : ([.cpyb hdr0 r4 r4 1 1 0 3 false false, .cpym hdr0 r4 4 0 8 1, .cpym hdr0 r4 0 0 4 1, .cpym hdr0 r4 0x3FFFF8 0 16 1,
    .cpym hdr0 r4 0 6 8 1, .cpyr hdr0 r4 r4 8 6, .cpyg hdr0 r4 r4 0x1000001 0] : List Instr).any wellFormed = false := by decide +kernel
theorem test_illFormed_matrix : ([.mma hdr0 25 0 0 false 4 4, .mma hdr0 0 25 0 false 4 4, .mma hdr0 0 8 0 false 4 5, .mma { hdr0 with x0 := true } 0 8 0 false 0 8,
    .mmax hdr0 25 0 16 0 false 12 12, .mmax hdr0 0 25 16 0 false 12 12, .mmax hdr0 0 8 16 0 false 12 14, .mld hdr0 r4 0 false 288,
    .mst hdr0 r4 0 false 192, .rmmak hdr0 0 0 0 0 false 4 4 false 0 r4 r4, .rmman hdr0 0 0 0 1 false 4 5 false 0 r4 r4,
    .rmmak hdr0 0 0 0 1 true 14 14 false 0 r4 r4] : List Instr).any wellFormed = false := by
  decide +kernel
theorem test_illFormed_work : ([.mcas hdr0 r4 1 .ar, .mcas hdr0 r4 9 .ar, .fpost hdr0 r4 0 0 0, .fpost hdr0 r4 2048 0 0, .waycfg hdr0 288 0 false,
    .preempt hdr0 6144 1, .preempt hdr0 0 128] : List Instr).any wellFormed = false := by decide +kernel
theorem test_illFormed_agents : ([.issueTurn 6528, .commandComplete 6528 0, .lsplitWrite 6528 0, .fibreQuantumExpiry 0 8, .slotLend 6528 0,
    .wake (.wave 0 8), .wake (.fibre 0 256), .wake (.cmd 0 128), .gangStart 384, .pageWalk 384 0 0, .phasewinWrite 384 0,
    .semaphoreUpdate 0 256, .travEventDelivery 0 256] : List Instr).any wellFormed = false := by decide +kernel
theorem test_illFormed_units : ([.rigRun 6 0, .rigRun 0 256, .distributorRecordWrite 6, .partcfgWrite .host 6 0, .slicecfgWrite .host 6 0, .outcfgWrite .host 16 0 0,
    .outcfgWrite .host 0 3 0, .configWrite .host (some 6) 0 0, .sliceMissFill 288 0, .sliceWriteback 288, .directoryHop 288, .hbmRefresh 6 false,
    .stayPortStateChange 18 0 0, .stayPortStateChange 0 4 0, .stayPortStateChange 0 0 9, .presentInstant 16, .keyLoad .host 2048, .keyErase .host 2048,
    .powerControlTick 6 0 0, .powerControlTick 0 49 0, .powerControlTick 0 0 256, .thermalAlert 6, .thermtrip 6] : List Instr).any wellFormed = false := by
  decide +kernel
theorem test_illFormed_host : ([.hostWriteback 0 [0], .hostBackInvalidateResponse 0 (some [0]), .hostMemRequest ⟨0, 8, some [0], .none⟩] : List Instr).any
    wellFormed = false := by decide +kernel
theorem test_illFormed_storage : ([.hbm 0x300000000 true, .slice 288 0 0 true, .slice 0 12 0 true, .slice 0 0 0x300000000 true, .tcm 6144 0 true, .tcm 0 0x80000 true,
    .scratch 384 0 true, .scratch 0 0x400000 true, .cache 6144 0 true, .cache 0 0x300000000 true, .treelet 6144 0 true, .tlb 6144 0 true, .clusterTlb 384 0 true, .coreParity 6144,
    .clusterParity 384, .stayLink 18 true] : List StorageErr).any errOk = false := by decide +kernel

/-! ## Hypotheses are met: traps -/

/-- A wave whose handler is enabled at offset 0x800. -/
def waveH : Wave := { wave with utvec := 0xFFFFFFFF00000801 }
def stH : State := inHand (withWave waveH) bundle
def aTrap : Trap := ⟨6, 0xFFFFFFFF00000608, 0, 7, 0, false⟩
theorem test_wit_trapEntry : bundle.entry = none ∧ waveOf stH bundle = some waveH ∧ trapActive waveH = false ∧ waveH.utvec.getLsbD 0 = true ∧
    aTrap.cause < 256 ∧ aTrap.code < 2 ^ 16 ∧ aTrap.sflags < 32 := by decide +kernel

/-- The registers that R204's fragment finds after `trap #7`. -/
theorem test_trapEntryExample : (waveOf (takeTrap stH bundle aTrap) bundle).map (fun w => (w.trappc, w.trapcause, w.traplanes, w.pc)) =
    some (0xFFFFFFFF00000608, 0x8000000000070006, 0, 0xFFFFFFFF00000800) := by decide +kernel

theorem test_wit_trapAndBreakComplete : bundle.entry = none ∧ waveOf stH bundle = some waveH ∧ trapActive waveH = false ∧ waveH.utvec.getLsbD 0 = true ∧
    admits stH bundle (.trap 7) ∧ admits stH bundle .brk ∧ bitAt (stH.core bundle.core).dbgctl bundle.slot = false :=
  ⟨rfl, rfl, by decide +kernel, by decide +kernel, ⟨rfl, .inl rfl⟩, ⟨rfl, .inl rfl⟩, by decide +kernel⟩
def waveA : Wave := { waveH with trapcause := 0x8000000000070006, trappc := 0xFFFFFFFF00000628 }
def stA : State := inHand (withWave waveA) bundle
theorem test_wit_trapThatEnds : (waveOf stA bundle = some waveA ∧ trapActive waveA = true) ∧ aTrap.cause ≠ 7 ∧
    (⟨7, 0, 0, 0, 1, false⟩ : Trap).cause = 7 ∧ (waveOf st bundle = some wave ∧ trapActive wave = false ∧ wave.utvec.getLsbD 0 = false) ∧
    fbundle.entry = some 3 ∧ (stf.core fbundle.core).rq.find 3 = some entry := by decide +kernel
theorem test_wit_trapAndBreak : admits st bundle (.trap 7) ∧ admits st bundle .brk ∧ waveOf st bundle = some wave := ⟨⟨rfl, .inl rfl⟩, ⟨rfl, .inl rfl⟩, rfl⟩
theorem test_wit_breakHalts : let s := inHand (onCore { Core.reset with slots := [(0, wave)], dbgctl := 1 }) bundle
    admits s bundle .brk ∧ (bundle.entry = none ∧ bundle.sup = false ∧ bitAt (s.core bundle.core).dbgctl bundle.slot = true ∧
      hasImage s bundle.core bundle.slot = false) ∧ waveOf s bundle = some wave := ⟨⟨rfl, .inl rfl⟩, by decide +kernel, by decide +kernel⟩
theorem test_wit_trapReturn : admits stA bundle .tret ∧ lastOp stA ∧ bundle.entry = none ∧ waveOf stA bundle = some waveA ∧ waveA.trapcause < 2 ^ 64 :=
  ⟨⟨rfl, .inl rfl⟩, rfl, rfl, rfl, by decide⟩
def stN : State := inHand (withWave wave) fresh
theorem test_wit_trapReturnIllegal : (∀ w, waveOf stN fresh = some w → fresh.entry = none → trapActive w = false) ∧ (stN.issThr fresh).pend = [] ∧
    stN.issue = some fresh ∧ fresh.checked = false ∧ stN.todo = [] := by
  refine ⟨fun w h _ => ?_, by decide +kernel, rfl, rfl, rfl⟩
  cases (show some wave = some w from h); decide +kernel
theorem test_wit_trapReturnEncoding : (0x0400000000000001 : Word).extractLsb' 62 2 = 0 ∧ (0x0400000000000001 : Word).extractLsb' 55 7 = 8 := by decide
theorem test_wit_fetchChecks : slotPc codeTurn 0 0 = some 0xFFFFFFFF00000600 ∧ issueOf codeTurn 0 0 0xFFFFFFFF00000600 8 = some fresh := by decide +kernel
/-- Targets that fail ALIGN, ADDRESS (below the code, and at the end of the private memory) and the check of a command block. -/
def codeAt (pc : Word) (w : Nat) : State := { withWave { wave with pc := pc } with mem := memPut [] (tcmKey 0 0x600) w 8 }
theorem test_wit_fetchAlign : slotPc (codeAt 0xFFFFFFFF00000602 0) 0 0 = some 0xFFFFFFFF00000602 ∧
    (0xFFFFFFFF00000602 : Word).toNat % 8 ≠ 0 := by decide +kernel
theorem test_wit_fetchBelow : slotPc (codeAt 0xFFFFFFFF000005F8 0) 0 0 = some 0xFFFFFFFF000005F8 ∧
    (0xFFFFFFFF000005F8 : Word).toNat - 0xFFFFFFFF00000000 < 0x600 := by decide +kernel
theorem test_wit_fetchAbove : slotPc (codeAt 0xFFFFFFFF00020000 0) 0 0 = some 0xFFFFFFFF00020000 ∧
    privSize ((codeAt 0xFFFFFFFF00020000 0).core 0).lsplit ≤ (0xFFFFFFFF00020000 : Word).toNat - 0xFFFFFFFF00000000 := by decide +kernel
theorem test_wit_fetchBlock : (codeWord (codeAt 0xFFFFFFFF00000608 0xC000000000000000) 0 0xFFFFFFFF00000600).extractLsb' 62 2 = 3 := by decide +kernel

/-- The bundle has raised IV, which FPMODE enables. -/
def flagged : Issue := { bundle with sflags := 1, fpmode := 0x100 }
def stFlag : State := inHand (withWave waveH) flagged
theorem test_wit_flagTrap : stFlag.issue = some flagged ∧ stFlag.todo = [] ∧ flagged.entry = none ∧ waveOf stFlag flagged = some waveH ∧
    waveH.t.wait = .none ∧ (flagged.sflags ||| flagged.vflags) &&& bits flagged.fpmode 12 8 ≠ 0 ∧ flagged.sflags < 32 ∧
    trapActive waveH = false ∧ waveH.utvec.getLsbD 0 = true := by decide +kernel
/-- The slot of the wave is under single step. -/
theorem test_wit_singleStepHalts : let s := inHand (onCore { Core.reset with slots := [(0, waveH)], dbgctl := 0x100 }) bundle
    bundle.entry = none ∧ waveOf s bundle = some waveH ∧ trapActive waveH = false ∧ waveH.utvec.getLsbD 0 = true ∧
    (bitAt (s.core bundle.core).dbgctl (8 + bundle.slot) && !bundle.sup && !hasImage s bundle.core bundle.slot) = true := by decide +kernel
/-- The bundle's other operation waits; the trap that the wave then owes. -/
def owed0 : Trap := ⟨7, 0xFFFFFFFF00000608, 4, 0, 1, true⟩
def waveWait : Wave := { waveH with t := { thr with wait := .token 5 } }
def stOwes : State := inHand (withWave waveWait) flagged
theorem test_wit_owedFlagTrap : stOwes.issue = some flagged ∧ stOwes.todo = [] ∧ flagged.entry = none ∧ waveOf stOwes flagged = some waveWait ∧
    waveWait.t.wait ≠ .none ∧ (flagged.sflags ||| flagged.vflags) &&& bits flagged.fpmode 12 8 ≠ 0 := by decide +kernel
theorem test_wit_owedFlagTrap_goesOn : let w := { waveWait with owed := some owed0 }
    let s := withWave w
    entryOfUid (s.core 0) 7 = none ∧ slotOfUid (s.core 0) 7 = some 0 ∧ (s.core 0).slots.find 0 = some w ∧ w.t.uid = 7 ∧ w.owed = some owed0 ∧
    owed0.cause < 256 ∧ owed0.code < 2 ^ 16 ∧ owed0.sflags < 32 ∧ trapActive w = false ∧ w.utvec.getLsbD 0 = true := by decide +kernel

/-! ## Hypotheses are met: scalar operations -/

theorem test_wit_scalarInteger : runs st bundle (.add 1 2 (.sel 3) true false .w64) 0 ∧
    ∃ v, intResult st bundle (.add 1 2 (.sel 3) true false .w64) = some (1, v) := ⟨runs_wave _ _, _, rfl⟩
theorem test_wit_scalarInteger_zero : runs stf fbundle (.add 0 2 (.sel 3) true false .w64) 0 ∧
    ∃ v, intResult stf fbundle (.add 0 2 (.sel 3) true false .w64) = some (0, v) := ⟨runs_fibre _ _, _, rfl⟩
theorem test_wit_scalarFloat : ∃ v fl, fpResult st bundle (.fadd 1 2 (.sel 3) .f64) = some (1, v, fl) ∧ runs st bundle (.fadd 1 2 (.sel 3) .f64) fl :=
  ⟨_, _, rfl, runs_wave _ _⟩
theorem test_wit_nops : runs st bundle .nop 0 ∧ runs st bundle .vnop 0 := ⟨runs_wave _ _, runs_wave _ _⟩
theorem test_wit_transfers : runs st bundle (.call 31 0x40) 0 ∧ (∃ pc, transfer st bundle (.call 31 0x40) = some (pc, some 31)) ∧
    runs st bundle (.bc 1 .z 16) 0 ∧ ∃ pc, transfer st bundle (.bc 1 .z 16) = some (pc, none) := ⟨runs_wave _ _, ⟨_, rfl⟩, runs_wave _ _, _, rfl⟩
theorem test_wit_systemRegisters : runs st bundle (.mfsr 1 0) 0 ∧ runs st bundle (.mtsr 1 0) 0 ∧ isSlowReg 0 = false ∧ isSlowReg 0x18 = true ∧ lastOp st :=
  ⟨runs_wave _ _, runs_wave _ _, by decide, by decide, rfl⟩
/-- RIGLOAD with COUNT 0, and with COUNT 1. -/
theorem test_wit_systemRegisters_rigload : runs st bundle (.mtsr 1 0x51) 0 ∧ rigloadEntries (bundle.reg 1) = [] ∧ st.partOf bundle.core = some 0 ∧
    rigloadEntries 0x105 = [5] := ⟨runs_wave _ _, by decide +kernel, by decide +kernel, by decide +kernel⟩
theorem test_wit_readBack : threadHere st bundle ∧ plainMask 0 = some 0x1F03 ∧ st.partOf 0 = some 0 ∧ partMask 0x50 = some (2 ^ 47 - 2 ^ 15) :=
  ⟨rfl, rfl, by decide +kernel, rfl⟩
theorem test_wit_fibreRegisters : fbundle.entry = some 3 ∧ bundle.entry = none ∧ (stf.core fbundle.core).rq.find 3 = some entry := by decide +kernel
theorem test_wit_registerPrivilege : stN.issue = some fresh ∧ fresh.checked = false ∧ stN.todo = [] ∧ (stN.issThr fresh).pend = [] ∧
    mayRead fresh.sup 0xFFFF = false ∧ mayWrite fresh.sup 0x100 = false ∧ mayWrite false 0x10 = true := by decide +kernel
theorem test_wit_qwidth : runs st bundle (.qwidth 1 2 3) 0 := runs_wave _ _

/-! ## Hypotheses are met: vector operations -/

theorem test_wit_vectorInteger : ∃ f, bundle.entry = none ∧ runs st bundle (.viadd 1 2 (.reg 3) 4 6) 0 ∧
    vecIntResult bundle (.viadd 1 2 (.reg 3) 4 6) = some (1, 32, f) := ⟨_, rfl, runs_wave _ _, rfl⟩
theorem test_wit_vectorMoves : ∃ f, runs st bundle (.vmov 1 2 0 2) 0 ∧ vecMoveResult bundle (.vmov 1 2 0 2) = some (1, 32, f) := ⟨_, runs_wave _ _, rfl⟩
theorem test_wit_vectorHash : bundle.entry = none ∧ runs st bundle (.vhash 1 2 3 0 2) 0 ∧ runs st bundle (.vhash 1 2 3 0 7) 0 :=
  ⟨rfl, runs_wave _ _, runs_wave _ _⟩
theorem test_wit_vectorFloat : ∃ w f, bundle.entry = none ∧ vecFpResult bundle (.vadd 1 2 (.reg 3) 0 .f32) = some (1, w, f) ∧
    runs st bundle (.vadd 1 2 (.reg 3) 0 .f32) (flagsOf bundle w f) := ⟨_, _, rfl, rfl, runs_wave _ _⟩
def stTwo : State := { st with todo := [.nop] }
theorem test_wit_vectorFloatLanes : ∃ w f, vecFpResult bundle (.vadd 1 2 (.reg 3) 0 .f32) = some (1, w, f) ∧
    runs stTwo bundle (.vadd 1 2 (.reg 3) 0 .f32) (flagsOf bundle w f) ∧ ¬lastOp stTwo :=
  ⟨_, _, rfl, ⟨⟨rfl, .inl rfl⟩, rfl, fun h => nomatch h⟩, fun h => nomatch h⟩
theorem test_wit_vectorMasks : ∃ r w h, vecMaskResult bundle (.vicmp 1 2 .lt (.reg 3) 0 6) = some (r, w, h) ∧
    runs st bundle (.vicmp 1 2 .lt (.reg 3) 0 6) 0 := ⟨_, _, _, rfl, runs_wave _ _⟩
theorem test_wit_vectorMasks_fp : ∃ r w h fl, vecMaskResult bundle (.vcmp 1 2 .lt (.reg 3) 0 .f32) = some (r, w, h) ∧
    runs st bundle (.vcmp 1 2 .lt (.reg 3) 0 .f32) fl ∧ fl = flagsOf bundle w fun k =>
      (0, (vcondF .lt (fvOf .f32 (elem w (bundle.vreg 2) k)) (fvOf .f32 (srcF bundle .f32 (.reg 3) k))).2) := ⟨_, _, _, _, rfl, runs_wave _ _, rfl⟩
theorem test_wit_vectorWhole : ∃ w f, wellFormed (.vsel 1 2 3 4 2) = true ∧ vecWholeResult bundle (.vsel 1 2 3 4 2) = some (1, w, f) ∧
    runs st bundle (.vsel 1 2 3 4 2) 0 := ⟨_, _, by decide, rfl, runs_wave _ _⟩
theorem test_wit_vectorExtract : bundle.entry = none ∧ runs st bundle (.vext 9 2 5 0 2) 0 := ⟨rfl, runs_wave _ _⟩
theorem test_wit_vectorQuantise : wellFormed (.vqmx 1 2 12 0 6) = true ∧ ∀ fl, runs st bundle (.vqmx 1 2 12 0 6) fl := ⟨by decide, runs_wave _⟩
theorem test_wit_folds : foldOf (.vredadd 1 4 0 6) = some (false, 1, 4, .add, 6) ∧ foldOf (.vscanmin 1 4 0 6) = some (true, 1, 4, .min, 6) ∧
    (∀ fl, runs st bundle (.vredadd 1 4 0 6) fl) ∧ ∀ fl, runs st bundle (.vscanmin 1 4 0 6) fl := ⟨rfl, rfl, runs_wave _, runs_wave _⟩

/-! ## Hypotheses are met: memory -/

/-- A page that maps addresses to themselves, for reads and writes of a user. -/
def tlb : Tlb := { asid := 0, vbase := 0, size := 2 ^ 30, pbase := 0, perm := 3, age := 0 }
def memCore : Core := { Core.reset with slots := [(0, wave)], micro := [tlb] }
/-- s4 holds an address of the private memory, s5 one of HBM. -/
def memBundle : Issue := { bundle with s := ((Vector.replicate 64 0).set 4 0xFFFFFFFF00010000).set 5 0x100000 }
def stm : State := inHand (onCore memCore) memBundle
theorem clear_mem (i : Instr) : clear stm memBundle i := ⟨⟨rfl, .inl rfl⟩, rfl, rfl, rfl⟩
def tcmAcc (n : Nat) : Acc := ⟨0, 0xFFFFFFFF00010000, n⟩
def hbmAcc (n : Nat) : Acc := ⟨0, 0x100000, n⟩

theorem test_wit_checkOrder_address : badAddress stm (issWho stm memBundle) ⟨0, 0x800000000000, 8⟩ = true := by decide +kernel
theorem test_wit_checkOrder_align : badAddress stm (issWho stm memBundle) ⟨0, 0x100001, 8⟩ = false ∧ 0x100001 % 8 ≠ 0 := by decide +kernel
theorem test_wit_checkOrder_range : badAddress stm (issWho stm memBundle) ⟨0, 0xFFFFFFFF00000580, 8⟩ = false ∧
    badRangeV stm (issWho stm memBundle) .store ⟨0, 0xFFFFFFFF00000580, 8⟩ = true := by decide +kernel
theorem test_wit_checkOrder_miss : badAddress st (issWho st bundle) (hbmAcc 8) = false ∧ badRangeV st (issWho st bundle) .load (hbmAcc 8) = false ∧
    placeOf st (issWho st bundle) .load (hbmAcc 8) = none := by decide +kernel
theorem test_wit_checkOrder_ok : badAddress stm (issWho stm memBundle) (tcmAcc 8) = false ∧ badRangeV stm (issWho stm memBundle) .load (tcmAcc 8) = false ∧
    winOf 0xFFFFFFFF00010000 = .tcm 0x10000 := by decide +kernel

theorem test_wit_localLoads : ∃ f, loadForm (.ldh 1 4 (.imm 0) false) = some f ∧ f.scope = none ∧ clear stm memBundle (.ldh 1 4 (.imm 0) false) ∧
    checkAll stm (issWho stm memBundle) .load [f.acc stm memBundle] = .ok [(f.acc stm memBundle, .near (tcmKey 0 0x10000))] ∧
    nearLoadWaits stm 0 (stm.issThr memBundle).uid (f.acc stm memBundle).va (tcmKey 0 0x10000) f.n = false ∧
    poisoned stm (tcmKey 0 0x10000) f.n = false :=
  ⟨_, rfl, rfl, clear_mem _, by decide +kernel, by decide +kernel, by decide +kernel⟩
theorem test_wit_localAcquire : clear stm memBundle (.lda 1 4 (.imm 0) 3) ∧
    checkAll stm (issWho stm memBundle) .load [tcmAcc 8] = .ok [(tcmAcc 8, .near (tcmKey 0 0x10000))] ∧
    nearLoadWaits stm 0 (stm.issThr memBundle).uid 0xFFFFFFFF00010000 (tcmKey 0 0x10000) 8 = false ∧ poisoned stm (tcmKey 0 0x10000) 8 = false ∧
    marksAt stm (tcmKey 0 0x10000) 8 = [] ∧ (scopeLevel stm 0 3).2 = false ∧ (scopeLevel stm 0 3).1.isWide = true :=
  ⟨clear_mem _, by decide +kernel, by decide +kernel, by decide +kernel, by decide +kernel, by decide +kernel, by decide +kernel⟩
theorem test_wit_sharedLoads : ∃ f, loadForm (.ldw 1 5 (.imm 0) false) = some f ∧ clear stm memBundle (.ldw 1 5 (.imm 0) false) ∧
    checkAll stm (issWho stm memBundle) .load [f.acc stm memBundle] = .ok [(f.acc stm memBundle, .far 0x100000)] ∧ f.lax = false :=
  ⟨_, rfl, clear_mem _, by decide +kernel, rfl⟩
theorem test_wit_sharedLoads_lax : ∃ f, loadForm (.ldw 1 5 (.imm 0) true) = some f ∧ f.lax = true ∧ pwinOf 0x100000 = .hbm ∧
    (stm.core 0).cache.find? (fun x => x.line == lineOf 0x100000 && (stm.issThr memBundle).locFloor ≤ x.filled) = none :=
  ⟨_, rfl, rfl, by decide +kernel, by decide +kernel⟩
theorem test_wit_localStores : ∃ f, storeForm (.stw 1 4 (.imm 0)) = some f ∧ clear stm memBundle (.stw 1 4 (.imm 0)) ∧ Memory.wf stm.mem = true ∧
    checkAll stm (issWho stm memBundle) .store [f.acc stm memBundle] = .ok [(f.acc stm memBundle, .near (tcmKey 0 0x10000))] ∧
    nearStoreWaits stm 0 (stm.issThr memBundle).uid (f.acc stm memBundle).va (tcmKey 0 0x10000) f.n = false ∧ ¬tcmKey 0 0x10000 < 2 ^ 47 ∧
    f.scope = none := ⟨_, rfl, clear_mem _, by decide +kernel, by decide +kernel, by decide +kernel, by decide +kernel, rfl⟩
theorem test_wit_localStores_stl : ∃ f, storeForm (.stl 1 4 (.imm 0) 1) = some f ∧ f.scope = some 1 ∧ (scopeLevel stm 0 1).1.isWide = false :=
  ⟨_, rfl, rfl, by decide +kernel⟩
/-- A store of the thread is out. -/
def outReq : Req := Req.blank 0 7 [] 0x200000 0x200000 8 (.store (bytesOf 0x200000 1 8) none) .sent 50
def stOut : State := { stm with reqs := [(50, outReq)] }
theorem test_wit_localReleaseWaits : clear stOut memBundle (.stl 1 4 (.imm 0) 3) ∧
    checkAll stOut (issWho stOut memBundle) .store [tcmAcc 8] = .ok [(tcmAcc 8, .near (tcmKey 0 0x10000))] ∧
    nearStoreWaits stOut 0 (stOut.issThr memBundle).uid 0xFFFFFFFF00010000 (tcmKey 0 0x10000) 8 = false ∧ (scopeLevel stOut 0 3).1.isWide = true ∧
    writesOut stOut (stOut.issThr memBundle).uid = true :=
  ⟨⟨⟨rfl, .inl rfl⟩, rfl, rfl, rfl⟩, by decide +kernel, by decide +kernel, by decide +kernel, by decide +kernel⟩
theorem test_wit_sharedStores : ∃ f, storeForm (.stl 1 5 (.imm 0) 3) = some f ∧ clear stm memBundle (.stl 1 5 (.imm 0) 3) ∧
    checkAll stm (issWho stm memBundle) .store [f.acc stm memBundle] = .ok [(f.acc stm memBundle, .far 0x100000)] :=
  ⟨_, rfl, clear_mem _, by decide +kernel⟩
theorem test_wit_fences : clear stm memBundle (.fence .ar 3) ∧ writesOut stm (stm.issThr memBundle).uid = false ∧ ordRel .ar = true ∧
    (scopeLevel stOut 0 3).1.isWide = true ∧ writesOut stOut (stOut.issThr memBundle).uid = true :=
  ⟨clear_mem _, by decide +kernel, by decide +kernel, by decide +kernel, by decide +kernel⟩
theorem test_wit_prefetches : clear stm memBundle (.pref 5 (.imm 0) true) := clear_mem _
/-- The store buffer holds the doubleword at 0x100000. -/
def bufReq : Req := Req.blank 0 7 [] 0x100000 0x100000 8 (.store (bytesOf 0x100000 0x1122334455667788 8) none) .buffered 50
def stBuf : State := inHand { onCore { memCore with sbuf := [50] } with reqs := [(50, bufReq)] } memBundle
theorem test_wit_waitLines : clear stm memBundle (.waitline 1 5 0) ∧
    checkAll stm (issWho stm memBundle) .waitline [hbmAcc 8] = .ok [(hbmAcc 8, .far 0x100000)] :=
  ⟨clear_mem _, by decide +kernel⟩
/-- The reply of the WAITLINE has come. -/
def watched : Thr := { thr with wait := .waitline 1 0x100000 0x100000 0 (some 100) }
def stWatched : State := { withWave { wave with t := watched } with
  reqs := [(100, { Req.blank 0 7 [(0, 0x100000, 8)] 0x100000 0x100000 8 .watch .replied 100 with val := 5 })] }
theorem test_wit_waitLines_reply : isThread stWatched (.wave 0 0) 0 watched ∧ watched.uid = (stm.issThr memBundle).uid ∧
    (∃ r, stWatched.reqs.find 100 = some r ∧ r.stage = .replied ∧ r.poison = false ∧ r.parts = [(0, r.pa, 8)] ∧ r.n = 8 ∧ word (replyVal r) ≠ 0) ∧
    uidHasReg stWatched 0 7 1 :=
  ⟨isThread_of rfl rfl rfl (by decide +kernel), by decide +kernel, ⟨_, rfl, rfl, rfl, rfl, rfl, by decide +kernel⟩,
    ⟨by decide, by show (1 < 64); decide⟩⟩
theorem test_wit_scalarAtomics : ∃ fn, atomForm memBundle (.amo 1 5 6 .add .ar 3) = some (1, 5, 8, fn, .ar, 3) ∧ clear stm memBundle (.amo 1 5 6 .add .ar 3) ∧
    checkAll stm (issWho stm memBundle) .atomic [hbmAcc 8] = .ok [(hbmAcc 8, .far 0x100000)] ∧ writesOut stm (stm.issThr memBundle).uid = false :=
  ⟨_, rfl, clear_mem _, by decide +kernel, by decide +kernel⟩
/-- The atomic's value has been granted. -/
def grantThr : Thr := { thr with wait := .access [100] [] (.scalar 1 8 false) (some (acqOf stm 0 3)) [] }
def grantReq : Req := Req.blank 0 7 [(0, 0x100000, 8)] 0x100000 0x100000 8 (.atomic [.amo .add 0] (some (markOf stm 0 thr 3 false))) .replied 100
def stGrant : State := { withWave { wave with t := grantThr } with reqs := [(100, grantReq)] }
theorem test_wit_scalarAtomics_grant : isThread stGrant (.wave 0 0) 0 grantThr ∧ grantThr.uid = (stm.issThr memBundle).uid ∧
    stGrant.reqs.find 100 = some grantReq ∧ grantReq.core = 0 ∧ grantReq.uid = grantThr.uid ∧ grantReq.stage = .replied ∧ grantReq.poison = false ∧
    uidHasReg stGrant 0 7 1 :=
  ⟨isThread_of rfl rfl rfl (by decide +kernel), by decide +kernel, by decide +kernel, rfl, rfl, rfl, rfl, ⟨by decide, by show (1 < 64); decide⟩⟩
theorem test_wit_scalarAtomics_wait : checkAll stOut (issWho stOut memBundle) .atomic [hbmAcc 8] = .ok [(hbmAcc 8, .far 0x100000)] ∧
    (scopeLevel stOut 0 3).1.isWide = true ∧ writesOut stOut (stOut.issThr memBundle).uid = true := by decide +kernel
/-- FADD, FMIN and FMAX on 1.0 and 2.0 (Table 7.3). -/
theorem test_wit_atomicFunctions : 0 < 8 ∧ atomApply 4 (.amof .add 0x3F800000) 0x40000000 = some 0x40400000 ∧
    atomApply 4 (.amof .min 0x3F800000) 0x40000000 = some 0x3F800000 ∧ atomApply 4 (.amof .max 0x3F800000) 0x40000000 = some 0x40000000 := by decide +kernel

/-! ## Hypotheses are met: vector memory -/

/-- One lane active. -/
def oneLane : Issue := { memBundle with mask := 1 }
def stv : State := inHand (onCore memCore) oneLane
theorem clear_lane (i : Instr) : clear stv oneLane i := ⟨⟨rfl, .inl rfl⟩, rfl, rfl, rfl⟩
theorem first_lane : firstTurn stv oneLane := fun w h => by cases (show some wave = some w from h); exact ⟨rfl, rfl⟩
theorem test_wit_vectorLocalLoads : vecLoadForm (.vld 1 4 0 false 1 2) = some (1, 32) ∧ clear stv oneLane (.vld 1 4 0 false 1 2) ∧ firstTurn stv oneLane ∧
    placed stv oneLane (.vld 1 4 0 false 1 2) .load ([tcmKey 0 0x10000].map .near) ∧
    ∀ key ∈ [tcmKey 0 0x10000], 2 ^ 47 ≤ key ∧ isSpad key = false ∧ poisoned stv key (32 / 8) = false :=
  ⟨rfl, clear_lane _, first_lane, ⟨[⟨0, 0xFFFFFFFF00010000, 4⟩], by decide +kernel, rfl, by decide +kernel⟩, by decide +kernel⟩
theorem test_wit_vectorBroadcast : clear stv oneLane (.vldb 1 4 0 false 1 2) ∧
    placed stv oneLane (.vldb 1 4 0 false 1 2) .load ((activeElems oneLane.mask 32).map fun _ => .near (tcmKey 0 0x10000)) :=
  ⟨clear_lane _, ⟨[⟨0, 0xFFFFFFFF00010000, 4⟩], by decide +kernel, rfl, by decide +kernel⟩⟩
/-- A page of the scratchpad of cluster 1. -/
def spadTlb : Tlb := { asid := 0, vbase := 2 ^ 40, size := 2 ^ 12, pbase := spadKey 1 0, perm := 3, age := 0 }
def spadLane : Issue := { oneLane with s := (Vector.replicate 64 0).set 6 (2 ^ 40) }
def sts : State := inHand (onCore { memCore with micro := [spadTlb] }) spadLane
theorem test_wit_vectorSharedLoads : vecLoadForm (.vld 1 6 0 false 1 2) = some (1, 32) ∧ clear sts spadLane (.vld 1 6 0 false 1 2) ∧ firstTurn sts spadLane ∧
    placed sts spadLane (.vld 1 6 0 false 1 2) .load ([spadKey 1 0].map .far) ∧
    ∀ pa ∈ [spadKey 1 0], pwinOf pa ≠ .hbm :=
  ⟨rfl, ⟨⟨rfl, .inl rfl⟩, rfl, rfl, rfl⟩, fun w h => by cases (show some wave = some w from h); exact ⟨rfl, rfl⟩,
    ⟨[⟨0, 2 ^ 40, 4⟩], by decide +kernel, rfl, by decide +kernel⟩, by decide +kernel⟩
theorem test_wit_vectorLocalStores : vecStoreForm (.vst 1 4 0 1 2) = some (1, 32) ∧ clear stv oneLane (.vst 1 4 0 1 2) ∧ Memory.wf stv.mem = true ∧
    placed stv oneLane (.vst 1 4 0 1 2) .store ([tcmKey 0 0x10000].map .near) :=
  ⟨rfl, clear_lane _, by decide +kernel, ⟨[⟨0, 0xFFFFFFFF00010000, 4⟩], by decide +kernel, rfl, by decide +kernel⟩⟩
theorem test_wit_vectorSharedStores : vecStoreForm (.vst 1 5 0 1 2) = some (1, 32) ∧ clear stv oneLane (.vst 1 5 0 1 2) ∧
    placed stv oneLane (.vst 1 5 0 1 2) .store ([0x100000].map .far) ∧ runsOf ([0x100000].map some) ≤ 32 :=
  ⟨rfl, clear_lane _, ⟨[⟨0, 0x100000, 4⟩], by decide +kernel, rfl, by decide +kernel⟩, by decide +kernel⟩
def vamoOp : Instr := .vamo 1 2 5 0 true 0 .add .ar 3 1 2
theorem test_wit_vectorAtomics : ∃ fn, vecAtomForm vamoOp = some (1, 32, fn, .ar, 3) ∧ clear stv oneLane vamoOp ∧
    placed stv oneLane vamoOp .atomic ([0x100000].map .far) ∧ writesOut stv (stv.issThr oneLane).uid = false :=
  ⟨_, rfl, clear_lane _, ⟨[⟨0, 0x100000, 4⟩], by decide +kernel, rfl, by decide +kernel⟩, by decide +kernel⟩
def noLane : Issue := { memBundle with mask := 0 }
def stn : State := inHand (onCore memCore) noLane
theorem test_wit_vectorAtomics_none : clear stn noLane vamoOp ∧ placed stn noLane vamoOp .atomic (([] : List Nat).map .far) :=
  ⟨⟨⟨rfl, .inl rfl⟩, rfl, rfl, rfl⟩, ⟨[], by decide +kernel, rfl, by decide +kernel⟩⟩

/-! ## Hypotheses are met: barriers, semaphores, accumulators, fibres -/

theorem test_wit_barrierArrivals : clear st bundle .barc ∧ barForm st bundle .barc = some (.barc, [], 0) ∧ clear st bundle .develop ∧
    barForm st bundle .develop = some (.develop, [], 0) := ⟨clear_wave _, rfl, clear_wave _, rfl⟩
/-- A wave alone on its core, at its TRIM. -/
theorem test_wit_barriersComplete : clear st bundle (.trim 6 4 5) ∧ (∃ tab, barForm st bundle (.trim 6 4 5) = some (.trim, tab, 6)) ∧ lastOp st ∧
    waveOf st bundle = some wave ∧ wave.owed = none ∧ ordered (st.core 0).slots ∧ entryOfUid (st.core 0) 7 = none ∧ st.thrOf 0 7 = some wave.t ∧
    hasImage st 0 0 = false ∧ barMembers st 0 wave .trim = [(0, wave)] ∧ writesOut st 7 = false :=
  ⟨clear_wave _, ⟨_, rfl⟩, rfl, rfl, rfl, by show List.Pairwise _ _; decide +kernel, by decide +kernel, by decide +kernel, by decide +kernel, by decide +kernel,
    by decide +kernel⟩
/-- Two waves at one barrier: the first arrives, the second has arrived. -/
def member (k : BarKind) (uid : Nat) (counted : Bool) (tab : List Nat) : Wave := { wave with t := { thr with uid := uid, wait := .barrier k counted tab 6 } }
def stBars (k : BarKind) (tab : List Nat) : State := onCore { Core.reset with slots := [(0, member k 7 false tab), (1, member k 8 true tab)] } |> fun s => { s with clk := 5 }
def releases (k : BarKind) (tab : List Nat) : Prop :=
  let s := stBars k tab
  let w := member k 7 false tab
  let m := barMembers s 0 w k
  (s.core 0).slots.find 0 = some w ∧ hasImage s 0 0 = false ∧ w.t.wait = .barrier k false tab 6 ∧
  releaseDone s 0 w.t.uid (if k = .develop then 2 else 1) = true ∧ (0, w) ∈ m ∧ m.length = 2 ∧ (m.map fun x => (x.1, x.2.t.uid)).Nodup ∧
  (∀ x ∈ m, x = (0, w) ∨ arrivedAt k x.2 = true) ∧
  ∀ x ∈ m, x.2.owed = none ∧ s.thrOf x.1 x.2.t.uid = some x.2.t ∧ entryOfUid (s.core x.1) x.2.t.uid = none ∧
    (slotOfUid (s.core x.1) x.2.t.uid).bind (s.core x.1).slots.find = some x.2
theorem test_wit_barrierRelease (k : BarKind) (tab : List Nat) (h : (k, tab) ∈ [(.barc, []), (.barg, []), (.develop, []), (.trim, (List.range 32).map (· % 8))]) :
    releases k tab ∧ ordered ((stBars k tab).core 0).slots := by
  simp only [List.mem_cons, Prod.mk.injEq, List.not_mem_nil, or_false] at h
  rcases h with ⟨rfl, rfl⟩ | ⟨rfl, rfl⟩ | ⟨rfl, rfl⟩ | ⟨rfl, rfl⟩ <;>
    refine ⟨⟨by decide +kernel, by decide +kernel, rfl, by decide +kernel, by decide +kernel, by decide +kernel, by decide +kernel, by decide +kernel, ?_⟩,
      by show List.Pairwise _ _; decide +kernel⟩ <;> decide +kernel
theorem test_wit_barrierRelease_status : ((stBars .trim []).core 0).trimSet.1 ≠ (stBars .trim []).clk := by decide +kernel
/-- A latent byte of cluster 0 was written at clk 3; it is clk 5. -/
def stLatent : State := { withWave wave with clk := 5, clusters := [(0, { Cluster.reset with phasewin := 0x400, written := [(0x1000, 3)] })], mem := memPut [] (spadKey 0 0x1000) 9 1 }
theorem test_wit_developMerge : Memory.wf stLatent.mem = true ∧ ordered (stLatent.cluster 0).written ∧
    (∀ x ∈ (stLatent.cluster 0).written, pwCount (stLatent.cluster 0).phasewin * 4096 ≤ x.1) ∧ (stLatent.cluster 0).written.find 0x1000 = some 3 ∧
    (stLatent.cluster 0).shown.find 0 = none := ⟨by decide +kernel, by show List.Pairwise _ _; decide +kernel, by decide +kernel, by decide +kernel, by decide +kernel⟩
/-- The serial comparison at its ends: with the count 0, thresholds 0 and 0x8001 hold, 1 and 0x8000 do not. -/
theorem test_wit_semaphoreWait : (∀ thr, clear st bundle (.semw 1 2 3 thr 4)) ∧ semCount st 0 3 = 0 ∧
    (∀ x ∈ [0, 0x8001], ((0 : Int) - (x : Int)) % 2 ^ 16 < 2 ^ 15) ∧ ∀ x ∈ [1, 0x8000], ¬((0 : Int) - (x : Int)) % 2 ^ 16 < 2 ^ 15 :=
  ⟨fun _ => clear_wave _, by decide +kernel, by decide, by decide⟩
theorem test_wit_semaphoreSet : clear stOut memBundle (.sems 1 2 3 4 1) ∧ (scopeLevel stOut 0 1).1.isWide = false ∧ semsWaiting stOut 0 3 = false ∧
    (scopeLevel stOut 0 3).1.isWide = true ∧ writesOut stOut (stOut.issThr memBundle).uid = true ∧ writesOut stm (stm.issThr memBundle).uid = false :=
  ⟨⟨⟨rfl, .inl rfl⟩, rfl, rfl, rfl⟩, by decide +kernel, by decide +kernel, by decide +kernel, by decide +kernel, by decide +kernel⟩
def stSems : State := inHand (onCore { Core.reset with slots := [(0, wave), (1, { wave with t := { thr with uid := 8, wait := .semsReady 3 1 0 50 } })] }) bundle
theorem test_wit_semaphoreSet_waits : clear stSems bundle (.sems 1 2 3 4 1) ∧ semsWaiting stSems 0 3 = true := ⟨⟨⟨rfl, .inl rfl⟩, rfl, rfl, rfl⟩, by decide +kernel⟩
theorem test_wit_accumulators : bundle.entry = none ∧ clear st bundle (.vaccrd 1 0 false 2 0 6) ∧ clear st bundle (.vaccwr 1 3 true 2 0 6) :=
  ⟨rfl, clear_wave _, clear_wave _⟩
theorem test_wit_fibreCreation : fibreForm stf fbundle (.rgen 1 2 3) = some (1, fbundle.reg 2 + selVal stf fbundle 3, true) ∧ clear stf fbundle (.rgen 1 2 3) ∧
    lastOp stf ∧ (stf.issThr fbundle).uid ≠ 0 ∧ launchDead stf (stf.issThr fbundle) = false ∧ roomForOne stf fbundle :=
  ⟨rfl, clear_fibre _, rfl, by decide +kernel, by decide +kernel, by decide +kernel, .inr (by decide +kernel)⟩
/-- FADMIT 0 leaves no room in the run queue. -/
def stFull : State := inHand (onCore { Core.reset with slots := [(0, wave)], fadmit := 0 }) bundle
theorem test_wit_fibreCreation_spills : clear stFull bundle (.spawn 1 0x40) ∧ lastOp stFull ∧ ¬roomForOne stFull bundle ∧
    (stFull.core 0).spill.length < (stFull.core 0).spillSize := by
  refine ⟨⟨⟨rfl, .inl rfl⟩, rfl, rfl, rfl⟩, rfl, ?_, by decide +kernel⟩
  rintro ⟨-, h | h⟩
  · exact absurd h (by decide +kernel)
  · exact absurd h.2.2 (by decide +kernel)
theorem test_wit_rayCreation : clear stv oneLane (.vraygen 1 2 3 1) ∧ oneLane.entry = none ∧ lastOp stv ∧ (stv.issThr oneLane).uid ≠ 0 ∧
    launchDead stv (stv.issThr oneLane) = false ∧
    (stv.core 0).spill.length + (activeElems oneLane.mask 32).length ≤ (stv.core 0).spillSize :=
  ⟨clear_lane _, rfl, rfl, by decide +kernel, by decide +kernel, by decide +kernel⟩
theorem test_wit_fibreEnds : clear stf fbundle .fend ∧ lastOp stf ∧ writesOut stf (stf.issThr fbundle).uid = false ∧ fbundle.entry = some 3 ∧
    clear st bundle .fend ∧ writesOut st (st.issThr bundle).uid = false ∧ bundle.entry = none ∧ entryOfUid (st.core 0) (st.issThr bundle).uid = none ∧
    ordered (st.core 0).slots ∧ clear stOut memBundle .fend ∧ writesOut stOut (stOut.issThr memBundle).uid = true :=
  ⟨clear_fibre _, rfl, by decide +kernel, rfl, clear_wave _, by decide +kernel, rfl, by decide +kernel, by show List.Pairwise _ _; decide +kernel, ⟨⟨rfl, .inl rfl⟩, rfl, rfl, rfl⟩, by decide +kernel⟩
theorem test_wit_fibreYields : clear stf fbundle .fyield ∧ lastOp stf ∧ fbundle.entry = some 3 ∧ (stf.core 0).held = some 3 ∧ clear st bundle .fyield :=
  ⟨clear_fibre _, rfl, rfl, rfl, clear_wave _⟩

/-- A launch with a scene of two treelets whose TRAYMAP lies at the start of the cluster window. -/
def launch0 : Launch :=
  { started := 1, part := 0, die := 0, lseq := 1, id := 9, mode := 0, prio := 1, eff := 1, accepted := 0, widths := 0, slots := 1, ncon := 0, n := 0, code := 0,
    csize := 32, cload := 0x600, const := 0, place := 0, entry := 0, arg := 0, tasks := 1, written := 1, keep := false, gang := false,
    targets := [0], cores := [0], filled := [0], left := 1, entries := [], fills := [], words := [], dead := false, done := false, failed := false,
    byCore := 0, byCmd := 0, scene := some [0x1000, 2, 0, 0, 0xFFFFFFFF10000000, 1, 0, 0] }
def lthr : Thr := { thr with lid := some 1 }
def lentry (top : Nat) : RqEntry := { entry with t := lthr, fib := { fib with f := (Vector.replicate 8 0).set 6 (BitVec.ofNat 64 top) } }
def stl (top : Nat) : State := { inHand (onCore { fibreCore (lentry top) with micro := [tlb] }) fbundle with launches := [(1, launch0)] }
theorem clear_launch (top : Nat) (i : Instr) : clear (stl top) fbundle i := ⟨⟨rfl, .inl rfl⟩, rfl, rfl, rfl⟩
def goBundle : Issue := { fbundle with s := (Vector.replicate 64 0).set 5 0x100000 }
def stGo : State := inHand (stl 0) goBundle
def withOut (s : State) : State := { s with reqs := [(50, outReq)] }
theorem test_wit_fibreGo : clear stGo goBundle (.go 5 0) ∧ goBundle.entry = some 3 ∧ (stGo.core 0).rq.find 3 = some (lentry 0) ∧
    checkAll stGo (issWho stGo goBundle) .goTarget [⟨0, 0x100000, 1⟩] = .ok [(⟨0, 0x100000, 1⟩, .far 0x100000)] ∧ lastOp stGo ∧
    writesOut stGo (lentry 0).t.uid = false ∧ (goDest stGo 0 0x100000).isSome = true ∧ writesOut (withOut stGo) (lentry 0).t.uid = true :=
  ⟨⟨⟨rfl, .inl rfl⟩, rfl, rfl, rfl⟩, rfl, by decide +kernel, by decide +kernel, rfl, by decide +kernel, by decide +kernel, by decide +kernel⟩
theorem test_wit_fibreHop : clear (stl 1) fbundle .hop ∧ fbundle.entry = some 3 ∧ ((stl 1).core 0).rq.find 3 = some (lentry 1) ∧
    fibTop (lentry 1).fib < (sceneOf (stl 1) (lentry 1).t).getD 1 0 % 2 ^ 24 ∧ writesOut (stl 1) (lentry 1).t.uid = false ∧ lastOp (stl 1) ∧
    (stl 1).partOf 0 = some 0 ∧ tbaseOf (stl 1) (lentry 1).t = some 0x1000 ∧
    ((stl 1).core 0).locs.find? (fun y => y.1 == 0x1000 && y.2.1 == 1) = none ∧ writesOut (withOut (stl 1)) (lentry 1).t.uid = true :=
  ⟨clear_launch _ _, rfl, by decide +kernel, by decide +kernel, by decide +kernel, rfl, by decide +kernel, by decide +kernel, by decide +kernel, by decide +kernel⟩
/-- A location cache that names two owners. -/
def stLoc : State := { stl 1 with cores := [(0, { fibreCore (lentry 1) with locs := [(0x1000, 1, [4, 5])] })] }
theorem test_wit_fibreHop_cached : clear stLoc fbundle .hop ∧ (stLoc.core 0).locs.find? (fun y => y.1 == 0x1000 && y.2.1 == 1) = some (0x1000, 1, [4, 5]) ∧
    stLoc.partOf 0 = some 0 ∧ tbaseOf stLoc (lentry 1).t = some 0x1000 ∧ writesOut stLoc (lentry 1).t.uid = false :=
  ⟨⟨⟨rfl, .inl rfl⟩, rfl, rfl, rfl⟩, by decide +kernel, by decide +kernel, by decide +kernel, by decide +kernel⟩
/-- The last treelet of the scene is 1: 2 is outside it. -/
theorem test_wit_fibreHop_outside : clear (stl 2) fbundle .hop ∧ ((stl 2).core 0).rq.find 3 = some (lentry 2) ∧
    (sceneOf (stl 2) (lentry 2).t).getD 1 0 % 2 ^ 24 ≤ fibTop (lentry 2).fib := ⟨clear_launch _ _, by decide +kernel, by decide +kernel⟩
theorem test_wit_hitPush : clear (stl 0) fbundle (.hqpush 2) ∧ fbundle.entry = some 3 ∧ ((stl 0).core 0).rq.find 3 = some (lentry 0) ∧
    trayTarget (stl 0) 0 ((sceneOf (stl 0) (lentry 0).t).getD 4 0 + 2 * ((fbundle.reg 2).toNat % 2 ^ 32 % ((sceneOf (stl 0) (lentry 0).t).getD 5 1 % 2 ^ 13))) =
      .found 0 ∧ compCore (stl 0) 0 0 = true := ⟨clear_launch _ _, rfl, by decide +kernel, by decide +kernel, by decide +kernel⟩
def stTray (n : Nat) : State := { inHand (onCore { Core.reset with slots := [(0, wave)], tray := List.replicate n ([1, 2], 0) }) bundle with clk := 1 }
theorem test_wit_hitPop (n : Nat) : clear (stTray n) bundle (.vhqpop 1 3 0) ∧ bundle.entry = none ∧ firstTurn (stTray n) bundle ∧ (1 : BitVec 5).toNat ≤ 16 :=
  ⟨⟨⟨rfl, .inl rfl⟩, rfl, rfl, rfl⟩, rfl, fun w h => by cases (show some wave = some w from h); exact ⟨rfl, rfl⟩, by decide⟩
theorem test_wit_hitPop_counts : (∀ n ∈ [0, 16], min (activeElems bundle.mask 32).length (((stTray n).core 0).tray.filter fun x => x.2 < (stTray n).clk).length ≤ 16) ∧
    16 < min (activeElems bundle.mask 32).length (((stTray 17).core 0).tray.filter fun x => x.2 < (stTray 17).clk).length := by decide +kernel
theorem test_wit_traversalParks : clear stf fbundle .trav ∧ lastOp stf ∧ clear stf fbundle .travAcc := ⟨clear_fibre _, rfl, clear_fibre _⟩
theorem test_wit_traversalParks_done : (stf.core 0).rq.find 3 = some entry ∧ entryOfUid (stf.core 0) entry.t.uid = some 3 ∧ entry.fib.pin = false ∧
    entry.t.latch = [] ∧ fibDepth entry.fib = 0 := by decide +kernel
theorem test_wit_traversalInstance : clear (stl 0) fbundle (.travInst 2) ∧ fibDepth (lentry 0).fib < 2 ∧ fibDepth (lentry (2 ^ 48)).fib < 2 ∧
    ((stl 0).core 0).sbuf.length ≤ 64 ∧ fibDepth (lentry (255 * 2 ^ 48)).fib = 255 ∧ ((stl (255 * 2 ^ 48)).core 0).rq.find 3 = some (lentry (255 * 2 ^ 48)) :=
  ⟨clear_launch _ _, by decide +kernel, by decide +kernel, by decide +kernel, by decide +kernel, by decide +kernel⟩
/-- Ray stacks in the private memory, and in HBM; two entries are on the stack. -/
def stRay (base : Nat) : State := { stl (2 * 2 ^ 48) with launches := [(1, { launch0 with scene := some [0x1000, 2, base, 0, 0xFFFFFFFF10000000, 1, 0, 0] })] }
def rayWho (s : State) : Who := { core := fbundle.core, t := (lentry (2 * 2 ^ 48)).t, origin := some (lentry (2 * 2 ^ 48)).fib.origin }
theorem test_wit_traversalInstance_near : let s := stRay 0xFFFFFFFF00010000
    let a : Acc := ⟨0, rayVa (sceneOf s (lentry (2 * 2 ^ 48)).t) (lentry (2 * 2 ^ 48)).fib 0, 4⟩
    (s.core 0).rq.find 3 = some (lentry (2 * 2 ^ 48)) ∧ fibDepth (lentry (2 * 2 ^ 48)).fib = 2 ∧
    checkAll s (rayWho s) .store [a] = .ok [(a, .near (tcmKey 0 0x10000))] ∧ nearStoreWaits s 0 7 a.va (tcmKey 0 0x10000) 4 = false ∧
    Memory.wf s.mem = true ∧ ¬tcmKey 0 0x10000 < 2 ^ 47 := by decide +kernel
theorem test_wit_traversalInstance_far : let s := stRay 0x100000
    let a : Acc := ⟨0, rayVa (sceneOf s (lentry (2 * 2 ^ 48)).t) (lentry (2 * 2 ^ 48)).fib 0, 4⟩
    checkAll s (rayWho s) .store [a] = .ok [(a, .far 0x100000)] ∧ sbufUsed (s.core 0) < 32 := by decide +kernel

/-! ## Hypotheses are met: commands at issue, events of a core -/

def hdr : CmdHdr := { we := false, wsem := 0, wthr := 0, se := false, ssem := 0, sinc := 0, token := 5, scope := 0, x0 := false, x1 := false }
def op4 : RegOp := { reg := 4, disp := 0 }
theorem test_wit_commandIssue : hdrOf (.cpy hdr op4 op4 64) = some hdr ∧ cmdCtx (.cpy hdr op4 op4 64) = none ∧ clear st bundle (.cpy hdr op4 op4 64) ∧
    ∀ h b n o, Instr.cpy hdr op4 op4 64 = .mcas h b n o → (mcasEntries st bundle n.toNat (regOpVal bundle b).toNat).isSome = true :=
  ⟨rfl, rfl, clear_wave _, fun _ _ _ _ h => nomatch h⟩
def stLaunch : State := { inHand (withWave { wave with t := lthr }) bundle with launches := [(1, launch0)] }
theorem test_wit_spawnt : clear stLaunch bundle (.spawnt hdr 4) ∧ (stLaunch.issThr bundle).lid = some 1 ∧ stLaunch.launches.find 1 = some launch0 :=
  ⟨⟨⟨rfl, .inl rfl⟩, rfl, rfl, rfl⟩, by decide +kernel, by decide +kernel⟩
def mcasOp : Instr := .mcas hdr { reg := 5, disp := 0 } 2 .ar
theorem test_wit_mcas_reads : clear stm memBundle mcasOp ∧ mcasEntries stm memBundle 2 0x100000 = none ∧
    checkAll stm (issWho stm memBundle) .engRead ((List.range 6).map fun k => ⟨k, 0x100000 + 8 * k, 8⟩) =
      .ok (((List.range 6).map fun k => (⟨k, 0x100000 + 8 * k, 8⟩ : Acc)).zip ((List.range 6).map fun k => .far (0x100000 + 8 * k))) :=
  ⟨clear_mem _, by decide +kernel, by decide +kernel⟩
def mmaOp : Instr := .mma hdr 1 2 3 false 4 4
theorem test_wit_matrixIssue : hdrOf mmaOp = some hdr ∧ cmdCtx mmaOp = some false ∧ clear st bundle mmaOp ∧ isRig mmaOp = false := ⟨rfl, rfl, clear_wave _, rfl⟩
def rigOp0 : Instr := .rmmak hdr 6 0 2 4 false 4 4 false 1 op4 op4
def rig0 : Rig := { members := [0], seq := 0, shape := [], word1 := 0, arrived := [], running := false, abandon := false, waitedAt := none }
def stRig : State := { st with rigs := [(rigKey 0 2, rig0)] }
theorem test_wit_rigIssue : ∃ key seq shape, hdrOf rigOp0 = some hdr ∧ cmdCtx rigOp0 = some false ∧ clear stRig bundle rigOp0 ∧ isRig rigOp0 = true ∧
    rigIssue stRig bundle rigOp0 = some (key, seq, shape) ∧ stRig.rigs.find key = some rig0 ∧ rig0.arrived = [] :=
  ⟨rigKey 0 2, 6, [0, 4, 4, 0, 4, 0], rfl, rfl, ⟨⟨rfl, .inl rfl⟩, rfl, rfl, rfl⟩, rfl, by decide +kernel, by decide +kernel, rfl⟩

def turnCore (t : Nat) : Core := { Core.reset with slots := [(0, wave)], trim := List.replicate 32 8, turns := [(0, t)], lastRead := some 5 }
theorem test_wit_issueTurns : (onCore (turnCore 0)).clk ≠ 5 ∧ (turnCore 0).lastRead ≠ some (onCore (turnCore 0)).clk ∧ (turnCore 0).fenced = false ∧
    (turnCore 0).trimNew = none ∧ (turnCore 0).trim.getD (tablePtr (onCore (turnCore 0))) 8 = 8 := by decide +kernel
/-- The slot's last turn is eight clk past. -/
def stTurn : State := { onCore { turnCore 0 with trim := trimReset } with clk := 8 }
theorem test_wit_issueTurns_wave : let k := stTurn.core 0
    k.lastRead ≠ some stTurn.clk ∧ k.trim.getD (tablePtr stTurn) 8 = 0 ∧ 0 < 7 ∧ k.trimNew = none ∧ withheld stTurn 0 0 = false ∧
    k.count < 256 ∧ slotFibre stTurn 0 = none ∧ k.slots.find 0 = some wave ∧
    wave.t.wait = .none ∧ wave.t.since ≤ stTurn.clk ∧ wave.saving = 0 ∧ ∀ t, k.turns.find 0 = some t → t + 8 ≤ stTurn.clk := by
  refine ⟨by decide +kernel, by decide +kernel, by decide, rfl, by decide +kernel, by decide +kernel, by decide +kernel, by decide +kernel, rfl, by decide, rfl,
    fun t h => ?_⟩
  cases (show some 0 = some t from h); decide
/-- The entry at the table pointer names slot 7, which holds a fibre. -/
def stTurn7 : State := { onCore { Core.reset with rq := [(3, entry)], held := some 3, trim := List.replicate 32 7, turns := [(7, 0)] } with clk := 8 }
theorem test_wit_issueTurns_fibre : let k := stTurn7.core 0
    k.lastRead ≠ some stTurn7.clk ∧ k.fenced = false ∧ k.trimNew = none ∧ k.trim.getD (tablePtr stTurn7) 8 = 7 ∧ k.held = some 3 ∧ k.count < 256 ∧
    k.rq.find 3 = some entry ∧ launchDead stTurn7 entry.t = false ∧ ∀ t, k.turns.find 7 = some t → t + 8 ≤ stTurn7.clk := by
  refine ⟨by decide +kernel, by decide +kernel, by decide +kernel, by decide +kernel, by decide +kernel, by decide +kernel, by decide +kernel, by decide +kernel,
    fun t h => ?_⟩
  cases (show some 0 = some t from h); decide
theorem test_wit_issueTurns_none : (onCore { turnCore 0 with lastRead := some 0 } |>.core 0).lastRead = some (onCore (turnCore 0)).clk := by decide +kernel
def ready (e o : Nat) : Nat × RqEntry := (e, { entry with t := { thr with uid := 20 + e }, st := .ready o })
def stQuantum : State :=
  { onCore { Core.reset with rq := [(3, entry), ready 4 9], held := some 3, count := 256, turns := [(7, 0)] } with clk := 1 }
theorem test_wit_fibreQuantum : (stQuantum.core 0).held = some 3 ∧ (stQuantum.core 0).rq.find 3 = some entry ∧ 256 ≤ (stQuantum.core 0).count ∧
    (stQuantum.core 0).turns.find 7 = some 0 ∧ (9, 4) ∈ readyEntries stQuantum 0 ∧ 9 < 256 * (0 + 1) := by decide +kernel
def away : Away := { t := { thr with uid := 9 }, fib := fib }
def stMoves : State := onCore { Core.reset with arrivals := [away], spill := [away], trayIn := [[1]], rq := [(3, { entry with st := .parked, refetch := some 2 })] }
theorem test_wit_fibreMoves : (stMoves.core 0).arrivals = away :: [] ∧ (stMoves.core 0).lastArrival ≠ some stMoves.clk ∧ launchDead stMoves away.t = false ∧
    away.t.lid = none ∧ (stMoves.core 0).spill.length < (stMoves.core 0).spillSize ∧ (stMoves.core 0).spill = away :: [] ∧
    freeEntry (stMoves.core 0) = some 0 ∧ fib.tag < 2 ^ 24 ∧ fib.prio < 4 ∧ fib.seq < 2 ^ 32 ∧ fib.launch < 2 ^ 32 ∧ fib.origin < 2 ^ 16 ∧ devHeld stMoves (spillPlace (stMoves.core 0) 0) 96 = none ∧ (stMoves.core 0).rq.length + 32 < (stMoves.core 0).fadmit ∧
    oldestRefetch (stMoves.core 0) = some (3, { entry with st := .parked, refetch := some 2 }) ∧ launchDead stMoves entry.t = false ∧
    entry.t.wait ≠ .parked ∧ (stMoves.core 0).trayIn = [1] :: [] ∧
    512 ≤ ({ stMoves.core 0 with tray := List.replicate 512 ([1], 0) } : Core).tray.length := by decide +kernel

theorem test_wit_fibreMoves_image : devReads State.reset 0x1000 96 := ⟨rfl, fun _ _ => rfl⟩

/-- A wave of core 0 that waits on w. -/
def wthr (w : Wait) : Thr := { thr with wait := w }
def waiting (w : Wait) : State := withWave { wave with t := wthr w }
theorem isThread_waiting (w : Wait) : isThread (waiting w) (.wave 0 0) 0 (wthr w) :=
  isThread_of rfl rfl rfl fun y h => by cases List.mem_singleton.1 (show y ∈ [(0, { wave with t := wthr w })] from h); rfl
theorem hasReg_waiting (w : Wait) (r : Nat) (h : 0 < r) (h' : r < 64) : uidHasReg (waiting w) 0 7 r := ⟨h, h'⟩
def loadReq : Req := { Req.blank 0 7 [(0, 0x100000, 4)] 0x100000 0x100000 4 (.load false) .replied 50 with val := 0x80000000 }
def loadWait : Wait := .access [50] [] (.scalar 1 4 true) none []
def stLoad : State := { waiting loadWait with reqs := [(50, loadReq)] }
theorem test_wit_replies_missing : isThread (waiting loadWait) (.wave 0 0) 0 (wthr loadWait) ∧ [50].all (arrivedReq (waiting loadWait)) = false :=
  ⟨isThread_waiting _, by decide +kernel⟩
theorem test_wit_replies_load : isThread stLoad (.wave 0 0) 0 (wthr loadWait) ∧ stLoad.reqs.find 50 = some loadReq ∧ loadReq.stage = .replied ∧
    loadReq.poison = false ∧ loadReq.parts = [(0, loadReq.pa, 4)] ∧ loadReq.n = 4 ∧ uidHasReg stLoad 0 7 1 :=
  ⟨isThread_of rfl rfl rfl (by decide +kernel), by decide +kernel, rfl, rfl, rfl, rfl, ⟨by decide, by show (1 < 64); decide⟩⟩
def watchReq (v : Nat) : Req := { Req.blank 0 7 [(0, 0x100000, 8)] 0x100000 0x100000 8 .watch .replied 50 with val := v }
def watchWait (id : Option Nat) : Wait := .waitline 1 0x100000 0x100000 0 id
def stWatch (v : Nat) : State := { waiting (watchWait (some 50)) with reqs := [(50, watchReq v)] }
theorem test_wit_replies_watch : isThread (stWatch 0) (.wave 0 0) 0 (wthr (watchWait (some 50))) ∧ (stWatch 0).reqs.find 50 = some (watchReq 0) ∧
    (watchReq 0).parts = [(0, (watchReq 0).pa, 8)] ∧ word (replyVal (watchReq 0)) = 0 ∧ (stWatch 1).reqs.find 50 = some (watchReq 1) ∧
    word (replyVal (watchReq 1)) ≠ 0 := ⟨isThread_of rfl rfl rfl (by decide +kernel), by decide +kernel, rfl, by decide +kernel, by decide +kernel, by decide +kernel⟩
def mark0 : RelMark := { scope := 3, core := 0, set := (0, 0, none), floors := Floors.zero, fence := true }
theorem test_wit_replies_fence : isThread (withOut (waiting (.release (.fence mark0 true)))) (.wave 0 0) 0 (wthr (.release (.fence mark0 true))) ∧
    writesOut (withOut (waiting (.release (.fence mark0 true)))) 7 = true ∧ writesOut (waiting (.release (.fence mark0 true))) 7 = false :=
  ⟨isThread_of rfl rfl rfl (by decide +kernel), by decide +kernel, by decide +kernel⟩
/-- A WAITLINE that reads again, its page in the micro TLB of its core. -/
def stAgain : State := onCore { Core.reset with slots := [(0, { wave with t := wthr (watchWait none) })], micro := [tlb] }
theorem test_wit_replies_reload : isThread stAgain (.wave 0 0) 0 (wthr (watchWait none)) ∧ stAgain.watchers.find 7 = none ∧
    (prefLook stAgain (threadWho stAgain 0 (wthr (watchWait none))) .waitline 0x100000).1 = some 0x100000 ∧
    badRangeP (prefLook stAgain (threadWho stAgain 0 (wthr (watchWait none))) .waitline 0x100000).2 .waitline 0x100000 = false ∧ pwinOf 0x100000 ≠ .none :=
  ⟨isThread_of rfl rfl rfl fun y h => by cases List.mem_singleton.1 (show y ∈ [(0, { wave with t := wthr (watchWait none) })] from h); rfl, rfl,
    by decide +kernel, by decide +kernel, by decide +kernel⟩
theorem test_wit_replies_reload_miss : isThread (waiting (watchWait none)) (.wave 0 0) 0 (wthr (watchWait none)) ∧
    (waiting (watchWait none)).watchers.find 7 = none ∧
    (prefLook (waiting (watchWait none)) (threadWho (waiting (watchWait none)) 0 (wthr (watchWait none))) .waitline 0x100000).1 = none :=
  ⟨isThread_waiting _, rfl, by decide +kernel⟩
/-- The same store to a line whose home stands on another die. -/
def farReq : Req := { bufReq with pa := 0x200000, kind := .store (bytesOf 0x200000 0x1122334455667788 8) none }
def stSend : State := { onCore { Core.reset with sbuf := [50] } with reqs := [(50, bufReq)] }
theorem test_wit_storeBuffer : (stSend.core 0).sbuf = 50 :: [] ∧ stSend.reqs.find 50 = some bufReq ∧ mayLeave stSend 50 bufReq = true ∧
    looksInVisitor bufReq = false ∧ looksInVisitor farReq = true ∧ mayLeave { stSend with reqs := [(50, farReq)] } 50 farReq = true ∧
    ∀ w ∈ wavesOf stSend 0, ∀ d, w.t.wait ≠ .drain d :=
  ⟨by decide +kernel, by decide +kernel, by decide +kernel, by decide +kernel, by decide +kernel, by decide +kernel,
    fun w h => absurd h (by rw [show wavesOf stSend 0 = [] by decide +kernel]; simp)⟩
def atomReq (st : Stage) : Req := Req.blank 0 7 [(0, 0x100000, 8)] 0x100000 0x100000 8 (.atomic [.amo .add 1] none) st 50
def stAtom (st : Stage) : State := { State.reset with reqs := [(50, atomReq st)], fifos := [(lineOf 0x100000, [50])], fresh := 100 }
theorem test_wit_atomics : (stAtom .replied).reqs.find 50 = some (atomReq .replied) ∧ (atomReq .replied).kind = .atomic [.amo .add 1] none ∧
    (atomReq .replied).poison = false ∧ (stAtom .released).reqs.find 50 = some (atomReq .released) ∧ Memory.wf (stAtom .released).mem = true ∧
    ((stAtom .released).fifos.find (lineOf (atomReq .released).pa)).getD [] = [50] ∧ (atomReq .released).pa % (atomReq .released).n = 0 ∧ inSlice (atomReq .released).pa = true := by decide +kernel
theorem test_wit_atomics_unrecorded (p : Nat) : ((stAtom .released).part p).recLaunch = none := rfl

theorem test_wit_barrierEvents (k : BarKind) : let w := { wave with t := wthr (.barrier k false [] 0) }
    let s := withWave w
    (s.core 0).slots.find 0 = some w ∧ s.thrOf 0 w.t.uid = some w.t ∧ entryOfUid (s.core 0) w.t.uid = none ∧ hasImage s 0 0 = false ∧ w.owed = none :=
  ⟨rfl, rfl, rfl, rfl, rfl⟩
theorem test_wit_barrierEvents_last : let w := { wave with t := wthr (.barrier .barc false [] 0) }
    releaseDone (withWave w) 0 7 1 = true ∧ barMembers (withWave w) 0 w .barc = [(0, w)] ∧ (withWave w |>.core 0).slots.Pairwise (fun a b => a.1 < b.1) ∧
    releaseDone (withOut (withWave w)) 0 7 2 = false := by decide +kernel
def stBar : State := onCore { Core.reset with
  slots := [(0, { wave with t := wthr (.barrier .barc false [] 0) }), (1, { wave with t := { thr with uid := 8 } })] }
theorem test_wit_barrierEvents_more : ∃ m ∈ barMembers stBar 0 { wave with t := wthr (.barrier .barc false [] 0) } .barc, m.2.t.uid ≠ 7 ∧
    arrivedAt .barc m.2 = false := ⟨(0, { wave with t := { thr with uid := 8 } }), by decide +kernel, by decide, by decide⟩
/-- An acquire at scope 4. -/
def acq0 : Acq := acqOf State.reset 0 4
theorem test_wit_semaphoreEvents : isThread (waiting (.semw 3 0 1 acq0)) (.wave 0 0) 0 (wthr (.semw 3 0 1 acq0)) ∧ uidHasReg (waiting (.semw 3 0 1 acq0)) 0 7 1 ∧
    semHolds (semCount (waiting (.semw 3 0 1 acq0)) 0 3) 0 = true ∧ semHolds (semCount (waiting (.semw 3 1 1 acq0)) 0 3) 1 = false ∧
    isThread (waiting (.release (.sems 3 1 0 50))) (.wave 0 0) 0 (wthr (.release (.sems 3 1 0 50))) ∧
    writesOut (waiting (.release (.sems 3 1 0 50))) 7 = false :=
  ⟨isThread_waiting _, hasReg_waiting _ _ (by decide) (by decide), by decide +kernel, by decide +kernel, isThread_waiting _, by decide +kernel⟩
def stSemIn : State := onCore { Core.reset with semIn := [(3, true, 9, 0, 0, Floors.zero), (3, false, 1, 0, 0, Floors.zero), (4, false, 2, 0, 0, Floors.zero)] }
theorem test_wit_semaphoreUpdate : readySems stSemIn 0 3 = [] ∧ semCount stSemIn 0 3 < 2 ^ 16 ∧
    (((stSemIn.core 0).semIn.filter fun x => x.1 == 3).filter fun x => x.2.1).length = 1 ∧
    (((stSemIn.core 0).semIn.filter fun x => x.1 == 4).filter fun x => x.2.1) = [] ∧
    readySems (waiting (.semsReady 3 1 2 50)) 0 3 = [(50, 7, 1, 2)] ∧ (waiting (.semsReady 3 1 2 50) |>.core 0).semIn.length = 0 ∧
    (waiting (.semsReady 3 1 2 50) |>.core 0).semClk.find 3 ≠ some (waiting (.semsReady 3 1 2 50)).clk ∧
    semCount (waiting (.semsReady 3 1 2 50)) 0 3 < 2 ^ 16 := by decide +kernel

/-- Partition 0 records, its undo log at 0x80000. -/
def recPart : Part := { Part.reset 0 with recstat := 1, undobase := 0x80000, undosize := 4 }
def stRec (l : List Nat) : State := { State.reset with parts := [(0, { recPart with marked := l })] }
theorem devFree_of {s : State} {a n : Nat} (h : s.devWait = []) (hl : s.lineKeys = []) (hp : ∀ i ∈ List.range n, pwinOf (a + i) = .hbm)
    (hm : ∀ i ∈ List.range n, devMayWrite s (lineOf (a + i)) = true) : devFree s a n :=
  ⟨h, fun i hi => ⟨hp i (List.mem_range.2 hi), hm i (List.mem_range.2 hi), by rw [hl]; rfl⟩⟩
theorem devReads_of {s : State} {a n : Nat} (h : s.devWait = []) (hl : s.lineKeys = []) : devReads s a n := ⟨h, fun _ _ => by rw [hl]; rfl⟩
theorem test_wit_undoLog : ((stRec [9]).part 0).marked.contains 9 = true ∧ ((stRec []).part 0).marked.contains 9 = false ∧ recPhase ((stRec []).part 0) = 1 ∧
    undoUsed ((stRec []).part 0) < ((stRec []).part 0).undosize ∧ undoUsed ((stRec []).part 0) + 1 < 2 ^ 27 ∧ Memory.wf (stRec []).mem = true := by
  decide +kernel
theorem test_wit_undoLog_free : ((stRec []).part 0).undobase.toNat + 128 * undoUsed ((stRec []).part 0) = 0x80000 ∧ devFree (stRec []) 0x80000 128 :=
  ⟨by decide +kernel, devFree_of rfl rfl (by decide +kernel) (by decide +kernel)⟩
/-- The host holds line 64. -/
def stHeld : State := { State.reset with sliceTab := [(sliceOf 0x1000, { Slice.reset with filter := [{ line := 64, owned := true, rank := 0, asked := false }] })] }
theorem test_wit_deviceAccesses : devFree State.reset 0x1000 (8 * [1, 2].length) ∧ devReads State.reset 0x1000 8 ∧ 0x1000 % 8 = 0 ∧
    devMayWrite stHeld (lineOf 0x1000) = false :=
  ⟨devFree_of rfl rfl (by decide +kernel) (by decide +kernel), devReads_of rfl rfl, by decide, by decide +kernel⟩

/-! ## Hypotheses are met: work distribution and paging -/

def task0 : Task := { base := 0, kind := 0, prio := 1, keep := false, lid := 1, ins := [1], outs := [2] }
/-- A core of a launch with one record in its deque; tile buffer 1 is FULL. -/
def stTake : State := { onCore { Core.reset with deque := [task0] } with launches := [(1, launch0)], clusters := [(0, { Cluster.reset with tiles := [(1, 1)] })] }
theorem test_wit_taskTake : (stTake.core 0).deque = [task0] ∧ stTake.launches.find task0.lid = some launch0 ∧ launch0.dead = false ∧ launch0.mode ≠ 1 ∧
    idleBarred stTake 0 = false ∧ (stTake.core 0).lastTake ≠ some stTake.clk ∧ eligible (applyTiles stTake 0) (clusterOf 0) task0 = true ∧
    slotsFor stTake 0 task0 (freeSlots stTake 0 task0.prio) = some [0] := by decide +kernel
def runTask : RunTask := { lid := 1, core := 0, ins := [1], outs := [2] }
def stTaskEnd : State := { stTake with tasks := [(6, runTask)] }
theorem test_wit_taskComplete : stTaskEnd.tasks.find 6 = some runTask ∧ stTaskEnd.launches.find runTask.lid = some launch0 ∧
    ∀ c ∈ coresOfCluster (clusterOf runTask.core), ∀ w ∈ wavesOf stTaskEnd c, w.task ≠ 6 := by decide +kernel
def gtask : Task := { task0 with kind := 1, ins := [], outs := [] }
def stGang : State := { State.reset with launches := [(1, { launch0 with gang := true })], clusters := [(0, { Cluster.reset with gangq := [gtask] })], fresh := 100 }
theorem test_wit_gangStart : (stGang.cluster 0).gangq = [gtask] ∧ stGang.launches.find gtask.lid = some { launch0 with gang := true } ∧
    placeGroups stGang gtask ((coresOfCluster 0).filter fun c => !idleBarred stGang c) (2 ^ widthField launch0.widths 2) [] = some [(0, [0])] := by
  decide +kernel
def stAge : State := { State.reset with launches := [(1, { launch0 with written := 0 })], dieTab := [(0, { Die.reset 0 with agecfg := 1 })] }
theorem test_wit_priorityAging : stAge.launches.find 1 = some { launch0 with written := 0 } ∧ 0 < launch0.tasks ∧
    bits (stAge.die launch0.die).agecfg 15 0 ≠ 0 := by decide +kernel

def stSteal : State := onCore { Core.reset with ring := some [1] }
theorem test_wit_stealRequest : 0 < 6144 ∧ idleBarred stSteal 0 = false ∧ (stSteal.core 0).stealHeld = none ∧ (stSteal.core 0).backoff = none ∧
    (List.range 7).filter (vacantSlot stSteal 0) ≠ [] ∧ startable stSteal 0 = [] ∧ (ringOf stSteal 0).drop (stSteal.core 0).ringPos = 1 :: [] ∧
    badVictim stSteal 0 1 = false := by decide +kernel
def stask : Task := { task0 with ins := [], outs := [] }
def stAnswer (l : List Task) : State := { onCore { Core.reset with stealIn := [(1, 3, 0)], deque := l } with launches := [(1, { launch0 with filled := [0, 1] })] }
theorem test_wit_stealAnswer : ((stAnswer [stask]).core 0).stealIn = [(1, 3, 0)] ∧ ((stAnswer [stask]).core 0).stealAns ≠ some (stAnswer [stask]).clk ∧
    stealPick (stAnswer []) 0 1 3 = none ∧ idleBarred (stAnswer [stask]) 0 = false ∧ stealPick (stAnswer [stask]) 0 1 3 = some stask := by decide +kernel
def stStolen (r : Option Task) : State := { onCore { Core.reset with stolen := some r, stealHeld := some 3, ring := some [1], backoff := some 0 } with launches := [(1, launch0)] }
theorem test_wit_stolen : ((stStolen none).core 0).stolen = some none ∧ ((stStolen (some stask)).core 0).stolen = some (some stask) ∧
    ((stStolen (some stask)).core 0).stealHeld = some 3 ∧ ((stStolen (some stask)).core 0).hold = false ∧ (stStolen (some stask)).launches.find stask.lid = some launch0 ∧ launch0.mode ≠ 1 ∧
    slotsFor (stStolen (some stask)) 0 stask (slotsOfMask 3) = some [0] ∧ ((stStolen none).core 0).backoff = some 0 := by decide +kernel
def stRecord : State := { onCore { Core.reset with banks := [(0, 1)] } with launches := [(1, { launch0 with written := 0 })] }
theorem test_wit_recordWrite : (stRecord.die 0).lastRecord ≠ some stRecord.clk ∧
    (stRecord.launches.filter fun x => x.2.die == 0 && !x.2.dead && !x.2.done && x.2.written < x.2.tasks && isBound stRecord x.1 x.2) =
      [(1, { launch0 with written := 0 })] ∧ hasPlace stRecord { launch0 with written := 0 } (nextRecord stRecord { launch0 with written := 0 } 1).2 = true := by
  decide +kernel
def taskMsg : Msg := { vc := .system, src := .die 0, dst := .core 0, sent := 0, gate := 0, body := .task (some 0) 0 task0 }
def stMsg (m : Msg) : State := { onCore Core.reset with msgs := [(60, m)], clk := 1000 }
theorem test_wit_recordArrival : (stMsg taskMsg).msgs.find 60 = some taskMsg ∧ taskMsg.body = .task (some 0) 0 task0 ∧
    msgReady (stMsg taskMsg) 60 taskMsg = true := by decide +kernel

def missWait : Wait := .miss [5] 0
def stMiss : State := { waiting missWait with clusters := [(0, { Cluster.reset with tlb := [tlb] })] }
theorem test_wit_clusterFill : isThread stMiss (.wave 0 0) 0 (wthr missWait) ∧
    clusterLook stMiss 0 (5 * 4096) (accessWrites 0) (!(wthr missWait).sup) = some tlb ∧ hasJoined (stMiss.cluster 0) 0 7 none 5 = false :=
  ⟨isThread_of rfl rfl rfl (by decide +kernel), by decide +kernel, by decide +kernel⟩
theorem test_wit_missOpen : isThread (waiting missWait) (.wave 0 0) 0 (wthr missWait) ∧ (waiting missWait).asidOf 0 = some 0 ∧
    clusterLook (waiting missWait) 0 (5 * 4096) (accessWrites 0) (!(wthr missWait).sup) = none ∧
    hasJoined ((waiting missWait).cluster 0) 0 7 none 5 = false ∧ inMissQ ((waiting missWait).cluster 0) 0 7 none 5 = false ∧ ((waiting missWait).cluster 0).misses = [] :=
  ⟨isThread_waiting _, by decide +kernel, by decide +kernel, by decide +kernel, by decide +kernel, by decide +kernel⟩
def stWake : State := { waiting missWait with clusters := [(0, { Cluster.reset with wakes := [(0, 7, 0, 5)] })] }
theorem test_wit_wake : isThread stWake (.wave 0 0) 0 (wthr missWait) ∧ (∀ c n, Tid.wave 0 0 ≠ .cmd c n) ∧
    (stWake.cluster (clusterOf 0)).wakes.find? (fun w => w.1 == 0) = some (0, 7, 0, 5) ∧
    (wthr missWait).uid ≠ 0 ∧ (stWake.core 0).lastWake ≠ some stWake.clk := ⟨isThread_of rfl rfl rfl (by decide +kernel), (by intro _ _ h; cases h), by decide +kernel, by decide, by decide +kernel⟩
def waiter : Waiter := { core := 0, uid := 7, cmd := none, tid := 0, access := 0, user := true }
def miss0 : Miss := { asid := 0, page := 5, st := .walk, waiters := [waiter], cause := 0, detail := 0 }
/-- Page tables at 0x10000 whose first entries are a table and e. -/
def stWalk (e : Nat) : State := { waiting missWait with
  clusters := [(0, { Cluster.reset with misses := [miss0] })]
  mem := memPut (memPut [] 0x10000 0x11001 8) 0x11000 e 8
  parts := [(0, { Part.reset 0 with ptroot := 0x10001 })] }
theorem test_wit_pageWalk : partOfAsid (stWalk 0xF) 0 = some 0 ∧ ((stWalk 0xF).part 0).ptroot.getLsbD 0 = true ∧
    (((stWalk 0xF).cluster 0).misses.find? fun x => x.asid == 0 && x.page == 5 && x.st == .walk) = some miss0 := by decide +kernel
theorem test_wit_pageWalk_leaf : walkFrom (stWalk 0xF) ((stWalk 0xF).part 0).cfg (5 * 4096) 4 0x10000 = .leaf 2 0xF 0x11000 ∧
    (∀ x ∈ miss0.waiters, lacks (leafEntry (stWalk 0xF) 0 (5 * 4096) 2 0xF 0x11000) x = 0) ∧ ((stWalk 0xF).cluster 0).missQ = [] := by decide +kernel
theorem test_wit_pageWalk_causes : walkFrom (stWalk (2 ^ 62 + 1)) ((stWalk 0xF).part 0).cfg (5 * 4096) 4 0x10000 = .badpte 2 (2 ^ 62 + 1) ∧
    walkFrom (stWalk (2 ^ 59 + 2047 * 2 ^ 48 + 0xF)) (BitVec.ofNat 64 (2 ^ 63 + 256 * 2 ^ 48 + 2 ^ 35 + 0x3F)) (5 * 4096) 4 0x10000 = .keyrange 2047 := by decide +kernel
theorem test_wit_pageWalk_miss : walkFrom (stWalk 0) ((stWalk 0).part 0).cfg (5 * 4096) 4 0x10000 = .pagemiss 2 ∧ miss0.waiters ≠ [] ∧
    trapOcc (stWalk 0) 0 < 4032 ∧ ((stWalk 0).cluster 0).held = [] := by decide +kernel
def stUnrec : State := { waiting missWait with clusters := [(0, { Cluster.reset with misses := [{ miss0 with st := .unrecorded }] })] }
theorem test_wit_faultRecord : (stUnrec.cluster 0).held = [] ∧ { miss0 with st := .unrecorded }.waiters = waiter :: [] ∧
    (stUnrec.cluster 0).misses.find? (fun m => m.st == .unrecorded) = some { miss0 with st := .unrecorded } ∧ trapOcc stUnrec 0 < 4032 ∧
    devHeld stUnrec ((stUnrec.die 0).trapqBase.toNat + 8) 8 = none := by decide +kernel

/-- A supervisor wave that has written TLBWRITE. -/
def tthr (op : Nat) (hi lo : Word) (l : List Nat := []) : Thr := { thr with latch := l, sup := true, wait := .sysop 0x102 (BitVec.ofNat 64 op), tlbHi := hi, tlbLo := lo }
def stTlb (op : Nat) (hi lo : Word) (l : List Nat := []) : State := withWave { wave with t := tthr op hi lo l }
theorem test_wit_tlbEvents (op : Nat) (hi lo : Word) (l : List Nat) : isThread (stTlb op hi lo l) (.wave 0 0) 0 (tthr op hi lo l) :=
  isThread_of rfl rfl rfl fun y h => by cases List.mem_singleton.1 (show y ∈ [(0, { wave with t := tthr op hi lo l })] from h); rfl
theorem test_wit_tlbEvents_ops : pendingTlb (stTlb 0 0 0) (.wave 0 0) 0 = some (0, tthr 0 0 0, 0) ∧
    entryOf (stTlb 0 0 0) 0 0 = none ∧ (entryOf (stTlb 0 0x8000000000000005 0x500C) 0x8000000000000005 0x500C).isSome = true ∧
    pendingTlb (stTlb 1 0 0) (.wave 0 0) 1 = some (0, tthr 1 0 0, 1) ∧ (tthr 1 0 0).latch = [] ∧
    accessesOut (stTlb 1 0 0) (asidClusters (stTlb 1 0 0) 0) (some 0) (stTlb 1 0 0).fresh (accessUids (stTlb 1 0 0) (asidClusters (stTlb 1 0 0) 0) (some 0)) = false ∧
    (tthr 1 0 0 [4]).latch = 4 :: [] ∧
    pendingTlb (stTlb 1 0 0 [4]) (.wave 0 0) 1 = some (0, tthr 1 0 0 [4], 1) ∧
    accessesOut (stTlb 1 0 0 [4]) (asidClusters (stTlb 1 0 0) 0) (some 0) 4 [] = false ∧
    pendingTlb (stTlb 2 0 0) (.wave 0 0) 2 = some (0, tthr 2 0 0, 2) ∧ pendingTlb (stTlb 3 0 0) (.wave 0 0) 3 = some (0, tthr 3 0 0, 3) ∧
    accessesOut (stTlb 3 0 0) (fun k => k == clusterOf 0) none (stTlb 3 0 0).fresh (accessUids (stTlb 3 0 0) (fun k => k == clusterOf 0) none) = false := by
  exact ⟨by decide +kernel, by decide +kernel, by decide +kernel, by decide +kernel, rfl, by decide +kernel, rfl, by decide +kernel, by decide +kernel,
    by decide +kernel, by decide +kernel, by decide +kernel⟩
/-- A reply at the head of the ring of die 0: operation, reserved bits, page 5. -/
def stReply (x : Nat) : State := { waiting missWait with
  clusters := [(0, { Cluster.reset with misses := [{ miss0 with st := .recorded }] })]
  mem := memPut (memPut (memPut [] 0x20000 1 8) 0x20040 x 8) 0x20048 0x1FF0000 8
  dieTab := [(0, { Die.reset 0 with freplyBase := 0x20000 })] }
def reply0 (op : Nat) : Reply := { op := op, page := 5, asid := 0, cluster := 0x1FF, ok := true }
def stReplyBusy (l : List Nat) : State := { stReply 0x5000 with dieTab := [(0, { Die.reset 0 with freplyBase := 0x20000, replyBusy := some l })] }
theorem test_wit_faultReplies : (∀ op, op < 4 → replyAt (stReply (0x5000 + op)) 0 = some (reply0 op)) ∧
    replyAt (stReply 0x5004) 0 = some { reply0 0 with ok := false } ∧ ((stReply 0x5000).die 0).replyBusy = none ∧
    (replyClusters (stReply 0x5000) 0 (reply0 0)).filter (fun k => hasMiss (stReply 0x5000) k (reply0 0) .recorded) = [0] ∧
    (((stReply 0x5001).cluster 0).misses.find? fun m => m.asid == 0 && m.page == 5) = some { miss0 with st := .recorded } ∧
    accessesOut (stReply 0x5002) (asidClusters (stReply 0x5002) 0) none (stReply 0x5002).fresh [] = false ∧
    accessesOut (stReply 0x5002) (asidClusters (stReply 0x5002) 0) (some 5) (stReply 0x5002).fresh [] = false ∧
    devHeld (stReply 0x5002) ((stReply 0x5002).die 0).freplyBase.toNat 16 = none ∧ devGet (stReply 0x5002) (0x20000 + 8) 8 = 0 ∧
    devHeld (stReply 0x5002) (((stReply 0x5002).die 0).freplyBase.toNat + 64) 16 = none := by decide +kernel
theorem test_wit_faultReplies_later : ((stReplyBusy []).die 0).replyBusy = some [] ∧ replyAt (stReplyBusy []) 0 = some (reply0 0) ∧
    ((stReplyBusy [4]).die 0).replyBusy = some (4 :: []) ∧ accessesOut (stReplyBusy [4]) (asidClusters (stReplyBusy [4]) 0) none 4 [] = false := by decide +kernel

/-! ## Hypotheses are met: settings, contexts, commands -/

/-- Private units at the ends of their range: 4 and 24 are taken, 3 and 25 refused. -/
theorem test_wit_lsplit : ¬(privUnits 0x0004 < 4 ∨ 24 < privUnits 0x0004) ∧ ¬(privUnits 0x0018 < 4 ∨ 24 < privUnits 0x0018) ∧ privUnits 0x0003 < 4 ∧
    24 < privUnits 0x0019 ∧ Memory.wf st.mem = true := by decide +kernel
theorem test_wit_slowWrites (n : Nat) (v : Word) : isThread (waiting (.sysop n v)) (.wave 0 0) 0 (wthr (.sysop n v)) ∧ (wthr (.sysop n v)).wait = .sysop n v :=
  ⟨isThread_waiting _, rfl⟩
def loadThr : Thr := { wthr (.sysop 0x51 0x102) with latch := [0, 2] }
theorem test_wit_slowWrites_rig : isThread (withWave { wave with t := loadThr }) (.wave 0 0) 0 loadThr ∧ loadThr.wait = .sysop 0x51 0x102 ∧
    loadThr.latch = [0, 2] ∧ rigIdle (withWave { wave with t := loadThr }) (rigKey 0 2) = true ∧
    rigIdle { withWave { wave with t := loadThr } with rigs := [(rigKey 0 2, { rig0 with arrived := [(0, 7, 40)] })] } (rigKey 0 2) = false :=
  ⟨isThread_of rfl rfl rfl (by decide +kernel), rfl, rfl, by decide +kernel, by decide +kernel⟩
theorem test_wit_slowWrites_home : devHeld (waiting (.sysop 0x18 0x1000)) 0x1000 (2 + 2 * (devGet (waiting (.sysop 0x18 0x1000)) 0x1000 2 % 256)) = none ∧
    devHeld stHeld 0x1000 (2 + 2 * (devGet stHeld 0x1000 2 % 256)) = some 64 ∧
    devHeld (withWave { wave with t := loadThr }) (rigImage (withWave { wave with t := loadThr }) 0 2) 128 = none := by decide +kernel
theorem test_wit_slowWrites_part : (waiting (.sysop 0x36 0)).partOf 0 = some 0 ∧ bits (0x102 : Word).toNat 16 8 = 1 ∧ rigIdle (waiting (.sysop 0x51 0x102)) (rigKey 0 2) = true := by decide +kernel

def waveS : Wave := { wave with saving := 1 }
theorem test_wit_contextSaves : ((withWave waveS).core 0).slots.find 0 = some waveS ∧ (waveS.saving = 1 ∨ waveS.saving = 2) ∧ (∀ n, waveS.t.wait ≠ .matrix n) ∧
    (((withWave waveS).cluster (clusterOf 0)).saved.filter fun x => x.onChip).length < 56 :=
  ⟨rfl, .inl rfl, (by intro _ h; cases h), by decide +kernel⟩
theorem test_wit_contextSaves_halt : ∀ n ∈ [3, 4], ((withWave { wave with saving := n }).core 0).slots.find 0 = some { wave with saving := n } ∧
    (({ wave with saving := n } : Wave).saving = 3 ∨ ({ wave with saving := n } : Wave).saving = 4 ∧ wave.t.wait = .none) := by decide +kernel
def saved0 (r : Nat) : Saved := { core := 0, slot := 0, wave := wave, reason := r, onChip := true, reissue := false, bar := 0 }
def stSaved (r : Nat) : State := { onCore Core.reset with clusters := [(0, { Cluster.reset with saved := [saved0 r] })] }
theorem test_wit_slotRestore : (((stSaved 1).cluster (clusterOf 0)).saved.find? fun x => x.core == 0 && x.slot == 0) = some (saved0 1) ∧
    ((stSaved 1).core 0).slots.find 0 = none ∧ ((stSaved 1).core 0).stealHeld = none ∧ ((stSaved 1).core 0).hold = false ∧
    restorable (stSaved 1) (saved0 1) = true ∧ (saved0 1).onChip = true ∧ devHeld (stSaved 1) (imageAddr (stSaved 1) 0 0) 0x2400 = none ∧ startable (stSaved 1) 0 = [] ∧ (resumed (stSaved 1) (saved0 1)).owed = none := by
  decide +kernel
/-- The slot's fault has been recorded, and FAULTCFG lends such slots. -/
def stLend : State := { waiting missWait with clusters := [(0, { Cluster.reset with misses := [{ miss0 with st := .recorded }], faultcfg := 1 })] }
theorem test_wit_contextRequests : (stLend.core 0).slots.find 0 = some { wave with t := wthr missWait } ∧ (wthr missWait).wait = .miss [5] 0 ∧
    bitAt (stLend.cluster (clusterOf 0)).faultcfg 0 = true ∧ hasImage stLend 0 0 = false ∧ [5].any (faulted stLend 0) = true ∧
    [5].any (faulted (waiting missWait) 0) = false ∧
    (((stSaved 3).cluster (clusterOf 0)).saved.find? fun x => x.core == 0 && x.slot == 0 && savedReason (stSaved 3) x == 3) = some (saved0 3) ∧
    (saved0 3).onChip = true := by decide +kernel
def stHalt : State := onCore { Core.reset with slots := [(7, wave)], haltReq := 0x80 }
theorem test_wit_haltreq : 7 < 8 ∧ (stHalt.core 0).haltReq < 256 ∧ bitAt (stHalt.core 0).haltReq 7 = true ∧ (stHalt.core 0).slots.find 7 = some wave ∧
    wave.t.sup = false ∧ wave.saving = 0 ∧ hasImage stHalt 0 7 = false := by decide +kernel
theorem test_wit_ctxsync : isThread (waiting (.sysop 0x110 3)) (.wave 0 0) 0 (wthr (.sysop 0x110 3)) ∧ syncers (waiting (.sysop 0x110 3)) 0 = [(0, 7, 3)] ∧
    isThread (waiting (.sysop 0x110 4)) (.wave 0 0) 0 (wthr (.sysop 0x110 4)) ∧ syncers (waiting (.sysop 0x110 4)) 0 = [(0, 7, 4)] ∧ clusterOf 0 = 0 :=
  ⟨isThread_waiting _, by decide +kernel, isThread_waiting _, by decide +kernel, by decide⟩

def cmd (i : Instr) (phase : Nat) : Cmd :=
  { num := 40, clk := 0, idx := 0, uid := 7, lid := some 1, sup := false, origin := none, set := (0, 0, none), floors := Floors.zero, instr := i, ops := [], vecs := [], running := true, started := 1, waited := true,
    xlat := [], reads := [], out := [], got := [], dsts := [], takes := [], wrote := [], phase := phase, token := 0, acc := [], miss := none, tiles := [], marks := [], wid := 0, recIdx := 0 }
def stCmd (q : Cmd) : State := { onCore { Core.reset with running := [q], slots := [(0, { wave with t := lthr })] } with launches := [(1, launch0)] }
def semOp : Instr := .semop hdr 0xFFFF 3 1
def stQueue (i : Instr) : State := onCore { Core.reset with cmdq := [{ cmd i 0 with running := false }] }
theorem test_wit_commandStart : (∀ i ∈ [semOp, .semset hdr 0xFFFF 3 1, .cpy hdr op4 op4 64],
    ((stQueue i).core 0).cmdq.filter (mayStart (stQueue i) 0) = [{ cmd i 0 with running := false }]) ∧ freeNum ((stQueue semOp).core 0) = some 0 := by
  decide +kernel
theorem test_wit_commandLineTake (i : Instr) (p : Nat) : cmdAt (stCmd (cmd i p)) 0 0 = some (cmd i p) ∧ (cmd i p).miss = none ∧
    (cmd i p).lid = some 1 := ⟨rfl, rfl, rfl⟩
theorem test_wit_commandLineTake_forms : (stCmd (cmd semOp 0)).partOf 0 = some 0 ∧
    (stCmd (cmd (.fclk hdr op4) 0)).nanos < opAt { cmd (.fclk hdr op4) 0 with ops := [1] }.ops 0 ∧
    ((stCmd (cmd (.spawnt hdr 4) 0)).core 0).deque.length + ((stCmd (cmd (.spawnt hdr 4) 0)).core 0).reserved < 64 ∧
    isHelm (stCmd (cmd (.spawnt hdr 4) 0)) 0 = false := by decide +kernel
def mcasCmd : Cmd := { cmd mcasOp 1 with takes := [(50, 1)], acc := [0x100000, 0, 5, 0x100000, 0x100008, 0, 6, 0x100008] }
def takeReq : Req := { Req.blank 0 7 [] 0x100000 0x100000 64 (.take 40 true) .replied 50 with data := List.replicate 64 0 }
def stMcas : State := { stCmd mcasCmd with reqs := [(50, takeReq)] }
theorem test_wit_mcasCommit : cmdAt stMcas 0 0 = some mcasCmd ∧ mcasCmd.acc.length = 4 * (2 : BitVec 4).toNat ∧ mcasCmd.instr = .mcas hdr { reg := 5, disp := 0 } 2 .ar ∧ mcasCmd.miss = none ∧ mcasCmd.phase = 1 ∧
    mcasCmd.dsts = [] ∧ (∀ p, (stMcas.slice p).windows = []) ∧ mcasCmd.takes = [(50, 1)] ∧ stMcas.reqs.find 50 = some takeReq ∧
    takeReq.stage = .replied ∧ takeReq.poison = false := ⟨rfl, rfl, rfl, rfl, rfl, rfl, fun _ => rfl, rfl, rfl, rfl, rfl⟩
def endCmd0 : Cmd := { cmd semOp 2 with token := 9 }
/-- A frame-clock wait whose time is now. -/
def stClock : State := stCmd (cmd (.fclk hdr op4) 1)
theorem test_wit_commandEnd_fclk : cmdAt stClock 0 0 = some (cmd (.fclk hdr op4) 1) ∧ opAt (cmd (.fclk hdr op4) 1).ops 0 ≤ stClock.nanos ∧
    isThread stClock (.wave 0 0) 0 lthr := ⟨rfl, by decide +kernel, isThread_of rfl rfl rfl (by decide +kernel)⟩
def stEnd : State := { onCore { Core.reset with running := [endCmd0], slots := [(0, { wave with t := { wthr (.token 5) with pend := [(5, 40)] } })] } with clk := 1 }
theorem test_wit_commandEnd : cmdAt stEnd 0 0 = some endCmd0 ∧ ((∀ h r, endCmd0.instr ≠ .fclk h r) ∧ workDone stEnd endCmd0 = true ∧ 9 = endCmd0.token) ∧ cmdCtx endCmd0.instr = none ∧
    isThread stEnd (.wave 0 0) 0 { wthr (.token 5) with pend := [(5, 40)] } ∧ uidHasReg stEnd 0 endCmd0.uid endCmd0.hdr.token.toNat ∧
    ∀ n, (Wait.token 5) ≠ .matrix n := ⟨rfl, ⟨(by intro _ _ h; cases h), by decide +kernel, rfl⟩, rfl, isThread_of rfl rfl rfl (by decide +kernel), ⟨by decide, by show (5 < 64); decide⟩, fun _ h => nomatch h⟩

def stMat (x : Bool) (last : Bool) : State := onCore (if x then { Core.reset with mat1 := { MatCtx.empty with queue := [cmd mmaOp 0] }, matLast := last }
  else { Core.reset with mat0 := { MatCtx.empty with queue := [cmd mmaOp 0] }, matLast := last })
theorem test_wit_matrixStart : matRunning ((stMat false true).core 0) = none ∧ freeNum ((stMat false true).core 0) = some 0 ∧ isRig mmaOp = false ∧
    readyHead (stMat false true) 0 (!((stMat false true).core 0).matLast) = some (cmd mmaOp 0) ∧
    readyHead (stMat false false) 0 (!((stMat false false).core 0).matLast) = none ∧
    readyHead (stMat false false) 0 ((stMat false false).core 0).matLast = some (cmd mmaOp 0) := by decide +kernel
def matOps : List Instr := [mmaOp, .mmax hdr 1 2 3 0 false 12 12, .mzero hdr 0xF false, .mld hdr op4 0 false 256, .mst hdr op4 3 false 256]
def stStep (i : Instr) : State := { onCore { Core.reset with
  running := [{ cmd i 2 with acc := [0] }], mat0 := { MatCtx.empty with queue := [cmd i 1] } } with clk := 256 }
theorem test_wit_matrixResults : ∀ i ∈ matOps, matRunning ((stStep i).core 0) = some { cmd i 2 with acc := [0] } ∧ cmdCtx i = some false ∧
    stepDone (stStep i) { cmd i 2 with acc := [0] } = true := by decide +kernel

def rigRun (running abandon : Bool) : Rig := { rig0 with arrived := [(0, 7, 40)], running := running, abandon := abandon, waitedAt := some 0 }
def stRigQ : State := { onCore { Core.reset with mat0 := { MatCtx.empty with queue := [cmd rigOp0 0] } } with rigs := [(rigKey 0 2, rigRun false false)] }
theorem test_wit_rigRun : stRigQ.rigs.find (rigKey 0 2) = some (rigRun false false) ∧
    rigHeads stRigQ (rigRun false false) = some [(0, false, cmd rigOp0 0, 0)] ∧ (rigRun false false).members.Nodup ∧ yieldsTurn stRigQ 0 false = false := by
  decide +kernel
/-- The operands of the head lie on a page that it has translated. -/
def rigHead : Cmd := { cmd rigOp0 0 with ops := [0x100000, 0x100800], xlat := (List.range 16).map fun n => (0x200 + 2 * n, 0x100000 + 4096 * n) }
def stRigT : State := { stRigQ with cores := [(0, { Core.reset with mat0 := { MatCtx.empty with queue := [rigHead] } })] }
theorem test_wit_rigRun_pages : rigHeads stRigT (rigRun false false) = some [(0, false, rigHead, 0)] ∧ rigHead.out = [] ∧ rigHead.dsts = [] ∧
    rigHead.takes = [] ∧ ∀ p ∈ memberReads rigHead 0, winOf p.1 = .shared ∧ (rigHead.xlat.find (2 * (p.1 / 4096))).isSome = true := by decide +kernel
def rigOp1 : Instr := .rmman hdr 6 0 2 4 false 4 4 false 1 op4 op4
def stRigR (i : Instr) : State := { stCmd (cmd i 2) with rigs := [(rigKey 0 2, rigRun true false)] }
theorem test_wit_rigComplete : ∀ x ∈ [(rigOp0, true), (rigOp1, false)], (rigRun true false).members.Nodup ∧
    (runningMembers (stRigR x.1) (rigRun true false)).length = (rigRun true false).members.length ∧
    (∀ m ∈ runningMembers (stRigR x.1) (rigRun true false), m.2.1.phase = 2 ∧ m.2.2.split = x.2) ∧
    (runningMembers (stRigR x.1) (rigRun true false)).getLast?.isSome = true ∧ (runningMembers (stRigR x.1) (rigRun true false)).head?.isSome = true := by
  decide +kernel
theorem test_wit_rigComplete_owes (i : Instr) : owesNothing (stRigR i) 0 7 := fun n w _ hw => by
  cases List.mem_singleton.1 (show (n, w) ∈ [(0, { wave with t := lthr })] from Map.mem_of_find hw); rfl
def stRigA : State := { stCmd (cmd rigOp0 2) with rigs := [(rigKey 0 2, rigRun false true)], clk := 65536 }
theorem test_wit_rigAbandon : stRigA.rigs.find (rigKey 0 2) = some (rigRun false true) ∧ (rigRun false true).abandon = true ∧
    (stRigA.core 0).slots.find 0 = some { wave with t := lthr } ∧ rigOfUid stRigA 0 7 = some (rigKey 0 2, rigRun false true) ∧
    (rigRun false true).waitedAt = some 0 ∧ 0 + 65536 ≤ stRigA.clk ∧ (stRigR rigOp0).clk < 0 + 65536 := by decide +kernel

def launchOp : Instr := .launch hdr op4
def deferred : Cmd := { cmd launchOp 6 with acc := List.replicate 9 0 }
theorem test_wit_launchChecks : cmdAt (stCmd (cmd launchOp 3)) 0 0 = some (cmd launchOp 3) ∧ (stCmd (cmd launchOp 3)).partOf 0 = some 0 ∧
    (cmd launchOp 3).out = [] ∧ launchStage (cmd launchOp 3) = 0 ∧ launchRoom (stCmd (cmd launchOp 3)) 0 0 = true ∧
    headerCode (fun i => (dwsAt (cmd launchOp 3) (opAt (cmd launchOp 3).ops 0) 8).getD i 0) ≠ 0 ∧ headerCode (hdrDw deferred) ≠ 0 ∧
    cmdAt (stCmd deferred) 0 0 = some deferred ∧ launchRoom (stCmd deferred) 0 0 = true ∧ earlierDeferred (stCmd deferred) 0 deferred = false ∧
    launchStage { cmd launchOp 3 with acc := [3] } = 3 ∧
    earlierDeferred (stCmd (cmd launchOp 3)) 0 (cmd launchOp 3) = false ∧ earlierDeferred (stCmd { cmd launchOp 3 with acc := [3] }) 0 { cmd launchOp 3 with acc := [3] } = false ∧
    earlierCheck (stCmd { cmd launchOp 3 with acc := [3] }) 0 { cmd launchOp 3 with acc := [3] } = false := by decide +kernel
/-- A fibre launch of one treelet-free fibre: CLOAD 0x600, CSIZE 0x100. -/
def goodDws : List Nat := [0, 1, 0, 0, 0x60000000100, 0, 0, 0]
def goodRead : Cmd := { cmd launchOp 3 with got := [(0, (goodDws.flatMap fun d => (bytesOf 0 d 8).map (·.2)))] }
theorem test_wit_launchChecks_good : headerCode (fun i => (dwsAt goodRead (opAt goodRead.ops 0) 8).getD i 0) = 0 ∧
    headerCode (hdrDw { deferred with acc := 0 :: goodDws }) = 0 ∧ launchRoom (stCmd goodRead) 0 0 = true := by decide +kernel
theorem test_wit_launchChecks_cores : partCores (stCmd goodRead) 0 ≠ [] := by
  have h : (partCores (stCmd goodRead) 0).head? = some 0 := by decide +kernel
  intro e; rw [e] at h; cases h
theorem test_wit_launchChecks_size (x : Nat) : bits (goodDws.getD 4 0) 63 32 + bits (goodDws.getD 4 0) 31 0 ≤ launchPriv (stCmd goodRead) x := by
  have h : ((stCmd goodRead).core x).lsplit = 0x10808 := by
    by_cases e : x = 0
    · subst e; rfl
    · simp [stCmd, onCore, State.core, Map.find, Ne.symm e, Core.reset]
  unfold launchPriv; rw [h]; decide +kernel
/-- A draining package has no room for a launch. -/
theorem test_wit_launchChecks_full : launchRoom { stCmd (cmd launchOp 3) with mgmt := { Mgmt.reset with draining := true } } 0 0 = false ∧
    cmdAt { stCmd deferred with mgmt := { Mgmt.reset with draining := true } } 0 0 = some deferred := by decide +kernel
def fillReq : Req := { Req.blank 0 0 [] 0 0x100000 32 (.fill 1) .replied 50 with marked := true }
def fillLaunch : Launch := { launch0 with filled := [], fills := [(0, [50])] }
def stFill : State := { onCore { Core.reset with banks := [(0, 1)] } with launches := [(1, fillLaunch)], reqs := [(50, fillReq)] }
theorem test_wit_launchFill : stFill.launches.find 1 = some fillLaunch ∧ fillLaunch.dead = false ∧ fillLaunch.done = false ∧ fillLaunch.filled.contains 0 = false ∧
    fillLaunch.cores.contains 0 = true ∧ (fillLaunch.fills.find? fun x => x.1 == 0) = some (0, [50]) ∧
    (stFill.reqs.find 50 = some fillReq ∧ fillReq.stage = .replied ∧ fillReq.poison = false) ∧ 0 < 4 ∧ 0 < 2 ^ 13 ∧
    ((stFill.core 0).banks.find? fun x => x.2 == 1) = some (0, 1) ∧ fillReq.marked = true ∧ fillReq.va + fillReq.n ≤ fillLaunch.code.toNat + fillLaunch.csize ∧
    fillLaunch.cload + fillLaunch.csize < 2 ^ 19 ∧ Memory.wf stFill.mem = true := by decide +kernel
theorem test_wit_launchFill_one : ∀ id ∈ [50], ∀ id' ∈ [50], id = id' := by decide
def stOver : State := { onCore { Core.reset with banks := [(0, 1)] } with launches := [(1, { launch0 with left := 0 })] }
theorem test_wit_launchComplete : stOver.launches.find 1 = some { launch0 with left := 0 } ∧ launch0.done = false ∧ launch0.tasks ≤ launch0.written ∧
    fibresLeft stOver 1 = false := by decide +kernel

/-- A CPY all of whose source has been read, with its one destination line granted. -/
def cpyCmd (i : Instr) : Cmd := { cmd i 1 with
  ops := [0x100000, 0x200000], got := [(0x100000, List.replicate 64 7)], takes := [(50, 0x200000)], acc := [0x100000] }
def lineTake (st : Stage) : Req :=
  { Req.blank 0 7 [] 0x200000 0x200000 64 (.take 40 false) st 50 with data := List.replicate 64 1, fwd := [(0x200000, 7), (0x200001, 8)] }
def stCpy (i : Instr) : State := { stCmd (cpyCmd i) with reqs := [(50, lineTake .replied)] }
theorem test_wit_commandData : ∀ i ∈ [.cpy hdr op4 op4 64, .fillz hdr op4 64, .cpyg hdr op4 op4 1 3, .cpyr hdr op4 op4 64 0, .cpym hdr op4 0 0 64 1,
      .cpy2 hdr op4 op4 1 64 8 8, .cpyt hdr op4 op4 1 8 1 1 3],
    cmdAt (stCpy i) 0 0 = some (cpyCmd i) ∧ (cpyCmd i).miss = none ∧ (cpyCmd i).phase = 1 ∧ (cpyCmd i).reads = [] ∧ (cpyCmd i).out = [] ∧
    (cpyCmd i).dsts = [] ∧ (cpyCmd i).takes = [(50, 0x200000)] ∧ (stCpy i).reqs.find 50 = some (lineTake .replied) ∧ (lineTake .replied).poison = false ∧
    beyond (lineTake .replied).pa = false ∧ (lineTake .replied).data ≠ [] ∧
    ∀ p ∈ srcSegs (cpyCmd i), ∀ j, j < p.2 → (gotByte (cpyCmd i) (p.1 + j)).isSome = true := by decide +kernel
def stTook : State := { State.reset with reqs := [(50, lineTake .released)], fifos := [(lineOf 0x200000, [50])], fresh := 100 }
theorem test_wit_commandData_write : stTook.reqs.find 50 = some (lineTake .released) ∧ (lineTake .released).kind = .take 40 false ∧
    pwinOf (lineTake .released).pa = .hbm ∧ (∀ x ∈ (lineTake .released).fwd, pwinOf x.1 = .hbm) ∧ ((lineTake .released).fwd.map fun x => x.1).Nodup ∧
    stTook.fifos.find (lineOf (lineTake .released).pa) = some [50] ∧ Memory.wf stTook.mem = true := by decide +kernel
/-- A command whose one line, at 0x100000, is translated to itself. -/
def lineCmd (i : Instr) (p : Nat) : Cmd := { cmd i p with ops := [0x100000], xlat := [(0x200, 0x100000)] }
theorem test_wit_commandEffects : (∀ x ∈ segPieces [(0x100000, 64)], winOf x.1 = .shared ∧
      ((lineCmd (.flush { hdr with x0 := true } op4 64) 0).xlat.find (2 * (x.1 / 4096))).isSome = true ∧
      pwinOf (cmdPa 0 (lineCmd (.flush { hdr with x0 := true } op4 64) 0) false x.1).1 = .hbm) ∧
    newerFrame none 3 = true ∧ newerFrame (some 3) 3 = false ∧
    sceneOk [0, 2, 0, 0, 0, 1, 0, 0] = true ∧ sceneOk [1, 2, 0, 0, 0, 1, 0, 0] = false ∧ launch0.scene.isSome = true := by decide +kernel
def wayCmd (w : Nat) : Cmd := { cmd (.waycfg hdr 3 4 true) 0 with acc := [4, w] }
def stWay (w : Nat) : State := stCmd (wayCmd w)
theorem test_wit_commandEffects_ways : cmdAt (stWay 2) 0 0 = some (wayCmd 2) ∧ bitAt 4 2 = true ∧ bitAt (sliceDisabled (stWay 2) 3) 2 = false ∧
    ((stWay 2).slice 3).home = [] ∧ (stWay 2).fifos = [] ∧ cmdAt (stWay 12) 0 0 = some (wayCmd 12) := by decide +kernel
def preCmd (k uid m : Nat) : Cmd := { cmd (.preempt hdr 0 1) 0 with acc := [0, 0, k, uid, m] }
def stPre (uid m : Nat) (w : Wave) : State := onCore { Core.reset with running := [preCmd 0 uid m], slots := [(0, w)] }
theorem test_wit_commandEffects_preempt : cmdAt (stPre 0 0 wave) 0 0 = some (preCmd 0 0 0) ∧ ((stPre 0 0 wave).core 0).slots.find 0 = some wave ∧
    wave.t.sup = false ∧ wave.saving = 0 ∧ hasImage (stPre 0 0 wave) 0 0 = false ∧ bitAt (1 : BitVec 8).toNat 0 = true ∧ bitAt 0 0 = false ∧
    bitAt 1 0 = true ∧ cmdAt (stPre 9 0 wave) 0 0 = some (preCmd 0 9 0) ∧ slotOfUid ((stPre 9 0 wave).core 0) 9 = none ∧
    (cmd (.preempt hdr 0 1) 0).acc = [] ∧ bitAt (1 : BitVec 8).toNat 1 = false := by decide +kernel
/-- A PREEMPT that waits for the wave in slot 0 of its core, which is asked to be saved. -/
def stTold : State := onCore { Core.reset with running := [preCmd 0 7 0], slots := [(0, waveS)] }
theorem test_wit_contextSaves_preempt : (stTold.core 0).slots.find 0 = some waveS ∧ cmdAt stTold 0 0 = some (preCmd 0 7 0) ∧
    (preemptOf 0 (preCmd 0 7 0)).isSome = true ∧ (preCmd 0 7 0).acc = [0, 0, 0, waveS.t.uid, 0] := by decide +kernel

/-! ## Hypotheses are met: homes, mesh, directory, host, stay fabric -/

def homeReq (k : ReqKind) : Req := Req.blank 0 7 [(0, spadKey 1 0, 8)] (spadKey 1 0) (spadKey 1 0) 8 k .atHome 50
def stHome (k : ReqKind) : State := { State.reset with reqs := [(50, homeReq k)], fresh := 100, clk := 100 }
def homeStore : ReqKind := .store (bytesOf (spadKey 1 0) 5 8) none
theorem test_wit_homeEvents : ∀ k ∈ [.load false, homeStore, .atomic [.amo .add 1] none], (stHome k).reqs.find 50 = some (homeReq k) ∧ (homeReq k).marked = false ∧
    homeReady (stHome k) 50 (homeReq k) = true ∧ pwinOf (homeReq k).pa = .spad 1 ∧ (homeReq k).remote = none ∧
    (stHome k).fifos.find (lineOf (homeReq k).pa) = none ∧ reservationsOf (stHome k) (sliceOf (homeReq k).pa) < 512 ∧ Memory.wf (stHome k).mem = true := by
  decide +kernel
theorem test_wit_homeStore : homeStore = .store (bytesOf (homeReq homeStore).pa 5 8) none ∧
    ∀ i, i < 8 → (spadTarget (stHome homeStore) (clusterOf 0) ((homeReq homeStore).pa + i)).1 = (homeReq homeStore).pa + i := by decide +kernel
/-- On clk 100 the router port ranks last (R18): an access of core 16 + 5, which has reached bank 0, holds a request from cluster 0, and
one that has reached bank 1 does not. -/
theorem test_router_port_conflict :
    let at_ := fun b : Nat => (stHome (.load false)).modCluster 1 fun q => { q with bankClk := 100, banks := [(b, threadPos (stHome (.load false)) 21)] }
    homeReady (at_ 0) 50 (homeReq (.load false)) = false ∧ homeReady (at_ 1) 50 (homeReq (.load false)) = true := by decide +kernel

def line0 : Nat := 0x4000
def stSlice (q : Slice) : State := { State.reset with sliceTab := [(sliceOf (64 * line0), q)], fresh := 100, clk := 100 }
def missLine : MissLine := { line := line0, reqs := [], demand := true }
def window0 : Window := { line := line0, ends := 100, reqs := [] }
theorem test_wit_sliceEvents : ((stSlice { Slice.reset with misses := [missLine] }).slice (sliceOf (64 * line0))).misses.find? (fun x => x.line == line0) = some missLine ∧
    ((stSlice { Slice.reset with wb := [(line0, false, [1])] }).slice (sliceOf (64 * line0))).wb = (line0, false, [1]) :: [] ∧
    ((stSlice { Slice.reset with wb := [(line0, true, [1])] }).slice (sliceOf (64 * line0))).wb = (line0, true, [1]) :: [] ∧ pwinOf (64 * line0) = .hbm ∧
    (stSlice Slice.reset).lineKeys.find line0 = none ∧
    ((stSlice { Slice.reset with windows := [window0] }).slice (sliceOf (64 * line0))).windows.find? (fun w => w.line == line0) = some window0 ∧
    window0.ends ≤ (stSlice Slice.reset).clk ∧ State.reset.clk < window0.ends ∧
    heldByMcas (stSlice { Slice.reset with windows := [window0] }) (64 * line0) = false ∧ Memory.wf (stSlice Slice.reset).mem = true := by decide +kernel

def msgOf (b : Body) : Msg := { vc := .fibre, src := .core 1, dst := .core 0, sent := 0, gate := 0, body := b }
def stMsgs (b : Body) (k : Req) : State := { onCore { Core.reset with slots := [(0, wave)] } with msgs := [(60, msgOf b)], reqs := [(50, k)], clk := 1000 }
theorem test_wit_meshDelivery : (stMsgs (.fibre away) loadReq).msgs.find 60 = some (msgOf (.fibre away)) ∧ 60 < (stMsgs (.fibre away) loadReq).fresh ∧
    msgReady (stMsgs (.fibre away) loadReq) 60 (msgOf (.fibre away)) = true ∧ staysOut (stMsgs (.fibre away) loadReq) (msgOf (.fibre away)) = false ∧
    ((stMsgs (.fibre away) loadReq).core 0).fenced = false ∧
    msgReady { stMsgs (.fibre away) loadReq with clk := 0 } 60 (msgOf (.fibre away)) = false ∧
    (∀ b ∈ [Body.req 50, .reply 50, .grant 50], msgReady (stMsgs b loadReq) 60 (msgOf b) = true ∧ staysOut (stMsgs b loadReq) (msgOf b) = false) ∧
    (stMsgs (.reply 50) loadReq).reqs.find 50 = some loadReq ∧ replyWanted (stMsgs (.reply 50) loadReq) loadReq 50 = true := by decide +kernel
/-- A request on its way to the visitor ways of its own die. -/
def visReq (k : ReqKind) : Req := Req.blank 0 7 [] 0x200000 0x200000 8 k .sentVis 50
theorem test_wit_meshRequest : (stMsgs (.req 50) loadReq).reqs.find 50 = some loadReq ∧ beyond loadReq.pa = false ∧ loadReq.stage ≠ .sentVis ∧
    (∀ k ∈ [ReqKind.load true, .store [] none], (stMsgs (.req 50) (visReq k)).reqs.find 50 = some (visReq k) ∧ (visReq k).stage = .sentVis ∧ beyond (visReq k).pa = false) ∧
    needsWrite (.store [] none) = true ∧ needsWrite (.load true) = false := by decide +kernel
def engReq : Req := Req.blank 0 7 [] 0x100000 0x100000 64 (.eng 40) .atHome 50
def stEng : State := { State.reset with reqs := [(50, engReq)] }
theorem test_wit_refresh : (50, engReq) ∈ stEng.reqs ∧ pwinOf engReq.pa = .hbm ∧ ∃ d, sliceOf engReq.pa / 48 = d ∧ engReq.kind = .eng 40 :=
  ⟨List.mem_singleton.2 rfl, by decide +kernel, _, rfl, rfl⟩

def laway : Away := { t := lthr, fib := (lentry 1).fib }
def hop0 : HopMsg := { a := laway, part := 0, tbase := 0x1000, id := 1, src := 3, evict := none }
def dir0 : DirEntry := { part := 0, tbase := 0x1000, id := 1, owners := [4, 5], paging := none, evicting := [], losing := none, asked := none, hops := 0, last := 0 }
def stDir (dead : Bool) : State := { State.reset with sliceTab := [(dirSlice 1, { Slice.reset with dir := [dir0], hops := [hop0] })], fresh := 100,
                                                      launches := [(1, { launch0 with dead := dead })] }
theorem test_wit_directoryHop : ((stDir false).slice (dirSlice 1)).hops = [hop0] ∧ launchDead (stDir false) hop0.a.t = false ∧
    dirEntry (stDir false) hop0.part hop0.tbase hop0.id = some dir0 ∧ dir0.owners = 4 :: [5] ∧ launchDead (stDir true) hop0.a.t = true ∧
    ((stDir true).slice (dirSlice 1)).hops = [hop0] ∧ hop0.id = fibTop hop0.a.fib := by decide +kernel
def tree0 : Treelet := { part := 0, tbase := 0x1000, id := 1, units := [0], image := [], used := 0, ready := false, reqs := [50, 51] }
def pagReq (v : Nat) : Req := { Req.blank 0 0 [] 0x9000 0x9000 64 (.paging 1) .replied 50 with val := v }
def stPage : State := { onCore { Core.reset with treelets := [tree0] } with reqs := [(50, pagReq (1 + 2 * 2 ^ 24)), (51, pagReq 0)] }
theorem test_wit_pagingComplete : (stPage.core 0).treelets = [tree0] ∧ tree0.ready = false ∧
    (∀ i ∈ tree0.reqs, ∃ r, stPage.reqs.find i = some r ∧ r.stage = .replied ∧ r.noFill = false ∧ r.poison = false) ∧
    headerOk tree0.id (tree0.reqs.flatMap fun i => ((stPage.reqs.find i).map fun r => (bytesOf 0 r.val 64).map (·.2)).getD []) = true := by
  refine ⟨by decide +kernel, rfl, ?_, by decide +kernel⟩
  intro i h
  rcases List.mem_cons.1 h with rfl | h
  · exact ⟨_, rfl, rfl, rfl, rfl⟩
  · rcases List.mem_cons.1 h with rfl | h
    · exact ⟨_, rfl, rfl, rfl, rfl⟩
    · cases h
def evMsg : Msg := { vc := .system, src := .core 4, dst := .slice (dirSlice 1), sent := 0, gate := 0, body := .evicted 0 0x1000 1 4 }
def stEv : State := { stDir false with msgs := [(60, evMsg)], clk := 10000 }
theorem test_wit_evictionReport : evMsg.body = .evicted 0 0x1000 1 4 ∧
    stEv.msgs.find? (fun m => m.2.dst == .slice (dirSlice 1) && msgReady stEv m.1 m.2 && isReport m.2.body) = some (60, evMsg) := by decide +kernel
theorem test_wit_directoryWindow : (∀ e ∈ ((stDir false).slice (dirSlice 1)).dir, e.losing = none ∧ e.asked = none) ∧
    (stDir false).clk < ((stDir false).slice (dirSlice 1)).dirStart + 256 * bits ((stDir false).die (dirSlice 1 / 48)).dirpol 31 16 ∧
    ((stDir false).slice (dirSlice 1)).dirStart + 256 * bits ((stDir false).die (dirSlice 1 / 48)).dirpol 31 16 ≤ 65536 := by decide +kernel
def walkEntry (f7 : Nat) : RqEntry := { lentry f7 with t := { lthr with wait := .walk 0 [] none }, st := .parked }
def stTrav (f7 : Nat) : State := { onCore { Core.reset with rq := [(3, walkEntry f7)] } with launches := [(1, launch0)] }
theorem test_wit_traversalDelivers : (∀ f7 ∈ [0, 2 ^ 48, 2 ^ 48 + 2 ^ 56], ((stTrav f7).core 0).rq.find 3 = some (walkEntry f7) ∧
      entryOfUid ((stTrav f7).core 0) (walkEntry f7).t.uid = some 3 ∧
      (walkEntry f7).t.wait = .walk 0 [] none ∧ (walkEntry f7).t.walkSaw = [] ∧ (walkEntry f7).fib.pin = false) ∧
    fibDepth (walkEntry 0).fib = 0 ∧ fibDepth (walkEntry (2 ^ 48)).fib ≠ 0 ∧ bits (fibreGet (walkEntry (2 ^ 48 + 2 ^ 56)).fib 7).toNat 57 56 = 1 ∧
    bits (fibreGet (walkEntry (2 ^ 48)).fib 7).toNat 57 56 = 0 ∧
    fibTop (walkEntry (2 ^ 48)).fib < (sceneOf (stTrav (2 ^ 48)) (walkEntry (2 ^ 48)).t).getD 1 0 % 2 ^ 24 ∧
    ((treeletAt (stTrav (2 ^ 48)) 0 (walkEntry (2 ^ 48)).t (fibTop (walkEntry (2 ^ 48)).fib)).bind fun t => if t.ready then some t.image else none) = none := by
  decide +kernel

def hostReq (a n : Nat) : HostReq := { addr := a, n := n, data := none, hold := .shared }
theorem test_wit_hostEvents : pwinOf (hostReq (spadKey 0 0) 8).addr ≠ .hbm ∧ pwinOf 0x100000 = .hbm ∧ lineOf 0x100038 = lineOf (0x100038 + 8 - 1) ∧
    lineOf 0x10003C ≠ lineOf (0x10003C + 8 - 1) ∧ State.reset.hostWait = [] ∧ hostRoom State.reset (hostReq 0x100038 8) = true := by decide +kernel
/-- Lines of the host's memory, the oldest access of them a load, or a store. -/
def memReq (k : ReqKind) : Req := Req.blank 0 7 [] 0x100000000000 0x100000000000 8 k .atHome 50
def stHostMem (k : ReqKind) : State := { onCore Core.reset with reqs := [(50, memReq k)] }
theorem test_wit_hostEvents_completion : ∀ k ∈ [ReqKind.load false, .store [] none], (stHostMem k).reqs.find 50 = some (memReq k) ∧
    firstAtHost (stHostMem k) 50 (memReq k) = true := by decide +kernel
theorem test_wit_hostEvents_completion_kind : (∀ n m, (memReq (.load false)).kind ≠ .take n m) ∧ ∀ n m, (memReq (.store [] none)).kind ≠ .take n m :=
  ⟨(by intro _ _ h; cases h), by intro _ _ h; cases h⟩
theorem test_wit_hostWriteback : resident (stSlice Slice.reset) line0 = false ∧ resident (stSlice { Slice.reset with home := [line0] }) line0 = true ∧
    ((stSlice { Slice.reset with wb := List.replicate 16 (line0, false, [1]) }).slice (sliceOf (64 * line0))).wb.length = 16 := by decide +kernel
def hostLine : HostLine := { line := line0, owned := true, rank := 0, asked := true }
def stHostLine : State := stSlice { Slice.reset with filter := [hostLine] }
theorem test_wit_hostLine : hostEntry stHostLine line0 = some hostLine ∧ hostLine.asked = true ∧ stHostLine.hostWait = [] ∧ stHostLine.devWait = [] ∧ stHostLine.lineKeys.find line0 = none ∧
    pwinOf (64 * line0) = .hbm ∧ (stHostLine.slice (sliceOf (64 * line0))).windows = [] ∧ (stHostLine.slice (sliceOf (64 * line0))).wb.length < 16 ∧
    Memory.wf stHostLine.mem = true := by decide +kernel
def recv0 : StayRecv := { src := 2, reply := false, lane := 0, burst := 6, seq := some 10, count := 1, since := 0 }
def stStay : State := { State.reset with stayRecv := [(70, recv0)], fresh := 100 }
def pkt (seq burst : Nat) : StayPacket := { src := 2, lane := 0, burst := burst, seq := seq, start := false, body := .read 1 0x100000 8 }
theorem test_wit_stayPackets : recvOf stStay 2 (isReplyBody (pkt 11 6).body) 0 = some (70, recv0) ∧ recv0.burst ≠ (pkt 11 7).burst ∧
    ((pkt 11 6).seq + 2 ^ 16 - recv0.seq.getD 0) % 2 ^ 16 = 1 ∧ recv0.count + 1 < 16 ∧ ((pkt 10 6).seq + 2 ^ 16 - recv0.seq.getD 0) % 2 ^ 16 = 0 ∧
    2 ^ 15 ≤ ((pkt 9 6).seq + 2 ^ 16 - recv0.seq.getD 0) % 2 ^ 16 ∧ ((pkt 12 6).seq + 2 ^ 16 - recv0.seq.getD 0) % 2 ^ 16 = 2 ∧
    pwinOf 0x100000 = .hbm := by decide +kernel
def un0 : Unacked := { pkt := pkt 1 6, sent := 0, resends := 0, req := none }
def ctx0 (l : List Unacked) : StayCtx :=
  { dst := 2, reply := false, lane := 0, port := 1, tried := [], burst := 6, next := 2, open_ := true, unacked := l, queue := [], active := 0 }
def stCtx (l : List Unacked) (clk : Nat) : State := { State.reset with stayCtx := [(71, ctx0 l)], clk := clk, fresh := 100 }
theorem test_wit_stayContexts : (stCtx [un0] 6000).stayCtx.find 71 = some (ctx0 [un0]) ∧ (ctx0 [un0]).queue = [] ∧
    (∀ u ∈ (ctx0 [un0]).unacked, (stCtx [un0] 5999).clk < u.sent + 6000) ∧ (∃ u ∈ (ctx0 [un0]).unacked, u.sent + 6000 ≤ (stCtx [un0] 6000).clk) ∧
    (∀ u ∈ (ctx0 [un0]).unacked, u.resends < 4) ∧ (ctx0 []).open_ = true ∧ (∀ y ∈ (stCtx [] 12000).stayCtx, y.2.queue = []) ∧
    (ctx0 []).active + 12000 ≤ (stCtx [] 12000).clk ∧ stStay.stayRecv.find 70 = some recv0 ∧ 0 < recv0.count := by decide +kernel

/-! ## Hypotheses are met: frame clock, errors, management -/

def stFrame (f : FrameClock) (clk : Nat) : State := { State.reset with frame := f, clk := clk }
theorem test_wit_frameEvents : (stFrame { FrameClock.reset with master := true, lastSend := some 0 } 3000).frame.master = true ∧ 0 + 3000 ≤ 3000 ∧
    (stFrame FrameClock.reset 0).frame.locked = false ∧
    (stFrame { FrameClock.reset with lock := true } 300000).frame.lastMsg + 300000 ≤ (stFrame { FrameClock.reset with lock := true } 300000).clk := by
  decide +kernel
def frame0 : Frame := { fnum := 1, base := 0x1000, bytes := 64, time := 0, rank := 1 }
def out0 : Output := { Output.reset with w0 := 2 ^ 63 + 2 ^ 62 + 16666667, latest := some frame0 }
def stOut0 : State := { State.reset with mgmt := { Mgmt.reset with outputs := [(0, out0)] } }
theorem test_wit_presentInstant : stOut0.output 0 = out0 ∧ bitAt out0.w0 63 = true ∧ presentAt out0 out0.k ≤ stOut0.nanos ∧ out0.latest = some frame0 ∧
    out0.shown = none ∧ out0.frozen = none ∧ frame0.time + 1000 * bits out0.w0 47 32 ≤ presentAt out0 out0.k := by decide +kernel
theorem test_wit_framePosts : bitAt out0.w0 63 = true ∧ State.reset.partOf 0 = some (bits out0.w0 50 48) := by decide +kernel
theorem test_wit_storageErrors : (st.core 0).fenced = false ∧ st.poison = [] ∧ st.mgmt.rasbase < 2 ^ 47 := ⟨rfl, rfl, by decide⟩
def stOwn (o f : Nat) : State := { State.reset with mgmt := { Mgmt.reset with owner := o, offer := f } }
theorem test_wit_ownership : (stOwn 0 0).mgmt.owner = 0 ∧ (stOwn 1 2).mgmt.offer = masterCode .board ∧ (stOwn 1 2).mgmt.owner = masterCode .host ∧
    (stOwn 1 2).mgmt.owner ≠ masterCode .fabric ∧ (stOwn 1 2).mgmt.offer ≠ masterCode .fabric ∧ (stOwn 1 2).mgmt.offer ≠ 0 ∧
    (stOwn 1 2).clk < (stOwn 1 2).mgmt.offerAt + 300000000 ∧ (stOwn 1 2).mgmt.claims = none ∧ Master.board ≠ .host ∧
    { stOwn 1 2 with clk := 300000000 }.mgmt.offerAt + 300000000 ≤ { stOwn 1 2 with clk := 300000000 }.clk := by decide +kernel
theorem test_wit_ownerAlone : (stOwn 1 0).mgmt.owner ≠ masterCode .board ∧ 0x18 % 8 = 0 ∧ 0x18 ≠ 0x10 ∧ (0x20 : Word).getLsbD 4 = false := by decide +kernel
/-- Below the reserved range of HBM and above it. -/
theorem test_wit_ownerWrites : (stOwn 1 0).mgmt.owner = masterCode .host ∧ (stOwn 1 0).mgmt.attBusy = false ∧ (stOwn 1 0).mgmt.attdest < Config.hbmBytes ∧
    (stOwn 1 0).mgmt.attdest < Config.firmwareLo ∧ 0 < 6144 ∧ ((stOwn 1 0).core 0).fenced = false ∧ (stOwn 1 0).mgmt.draining = false ∧
    (stOwn 1 0).mgmt.drained = false := by decide +kernel
def stAttest (l : List (List (Nat × Byte))) : State := { State.reset with mgmt := { Mgmt.reset with attBusy := true, attdest := 0x100000 }, devWait := l }
theorem devMayWrite_reset (l : List (List (Nat × Byte))) (line : Nat) : devMayWrite (stAttest l) line = true := rfl
theorem test_wit_attestComplete : (stAttest []).mgmt.attBusy = true ∧ (stAttest []).devWait = [] ∧
    (∀ x ∈ (report (stAttest [])).zipIdx, devMayWrite (stAttest []) (lineOf ((stAttest []).mgmt.attdest + x.2)) = true) ∧
    (stAttest [[(0, 0)]]).mgmt.attBusy = true ∧ (stAttest [[(0, 0)]]).devWait ≠ [] := ⟨rfl, rfl, fun _ _ => devMayWrite_reset _ _, rfl, by decide⟩
def stDrain (b : Option Nat) : State := { State.reset with mgmt := { Mgmt.reset with draining := true, idleSince := b }, clk := 12000 }
theorem test_wit_drain : (stDrain none).mgmt.draining = true ∧ (stDrain none).mgmt.drained = false ∧ packageIdle (stDrain none) = true ∧
    (stDrain none).mgmt.idleSince = none ∧ (stDrain (some 0)).mgmt.idleSince = some 0 ∧ 0 + 12000 ≤ (stDrain (some 0)).clk ∧
    packageIdle { stDrain none with launches := [(1, launch0)] } = false ∧ { Mgmt.reset with attBusy := true }.attBusy = true := by decide +kernel
theorem test_wit_partcfg : let new := partcfgReset 0 &&& 0x81FF7FFFFFFFFF3F
    partsOk (fun q => if q == 0 then new else ((stOwn 1 0).part q).cfg) = true ∧
    (∀ d, d < 6 → bitAt (partMembers ((stOwn 1 0).part 0).cfg ^^^ partMembers new) d = true → dieEmpty (stOwn 1 0) d = true) ∧
    partsOk (fun q => if q == 0 then 2 ^ 63 else ((stOwn 1 0).part q).cfg) = false := by decide +kernel
theorem test_wit_snap : isThread (waiting (.sysop 0x211 1)) (.wave 0 0) 0 (wthr (.sysop 0x211 1)) ∧ (wthr (.sysop 0x211 1)).wait = .sysop 0x211 1 ∧
    (waiting (.sysop 0x211 1)).devWait = [] ∧ ∀ i, i < 1024 → devMayWrite (waiting (.sysop 0x211 1)) (lineOf (keep 1 46 12 + 64 * i)) = true :=
  ⟨isThread_waiting _, rfl, rfl, fun _ _ => rfl⟩
theorem test_wit_powerTick : (∀ b, (State.reset.die 0).lastTick = some b → b + 30000 ≤ State.reset.clk) ∧ (State.reset.die 0).junction < 95 ∧
    95 ≤ ({ State.reset with dieTab := [(0, { Die.reset 0 with junction := 95 })] } |>.die 0).junction := ⟨fun _ h => (nomatch h), by decide, by decide⟩
theorem test_wit_configReads : (stOwn 1 0).mgmt.owner = masterCode .host ∧ 0 < 16 ∧ (stOwn 1 0).mgmt.denied < 2 ^ 16 ∧ (stOwn 1 0).mgmt.draining = false ∧
    (stOwn 1 0).mgmt.bootstat < 2 ^ 8 ∧ 0 < 18 ∧ 2 < 4 ∧ 8 < 16 ∧ 0 < 6 ∧ 47 < 48 ∧ 11 < 12 ∧ 4 % 8 ≠ 0 := by decide +kernel
/-- Bring-up at each of its steps. Whether an image verifies and whether a self-test passes is the environment's (notes/assumptions/5.md): those
values are not the model's, and at each step the clauses cover both. -/
def stBoot (n : Nat) (halted : Bool) : State := { State.reset with mgmt := { Mgmt.reset with booting := true, bootstat := n, halted := halted } }
theorem test_wit_resetEvents : (∀ n, (stBoot n false).mgmt.booting = true ∧ (stBoot n false).mgmt.halted = false ∧ (stBoot n false).mgmt.bootstat = n) ∧
    (stBoot 1 true).mgmt.halted = true ∧ ((stBoot 6 false).core 6144).fenced = false := ⟨fun _ => ⟨rfl, rfl, rfl⟩, rfl, rfl⟩
theorem test_wit_resetEvents_images : (imageRuns 0 = false ∨ imageRuns 0 = true) ∧ (Config.stepPasses 3 = false ∨ Config.stepPasses 3 = true) ∧
    (slicesShort (selfTest (stBoot 4 false)) = true ∨ slicesShort (selfTest (stBoot 4 false)) = false) ∧
    ((imageRuns 1 = false ∨ imageRuns 2 = false) ∨ imageRuns 1 = true ∧ imageRuns 2 = true) := by
  refine ⟨?_, ?_, ?_, ?_⟩
  · cases imageRuns 0 <;> simp
  · cases Config.stepPasses 3 <;> simp
  · cases slicesShort (selfTest (stBoot 4 false)) <;> simp
  · cases imageRuns 1 <;> cases imageRuns 2 <;> simp
/-- Die 0 with core 1023 fenced: its helm core is core 1022. -/
theorem test_wit_resetEvents_helm : chooseHelm (stBoot 6 false) 0 = some 1023 ∧
    chooseHelm { stBoot 6 false with cores := [(1023, { Core.reset with fenced := true })] } 0 = some 1022 := by decide +kernel


/-! ## Worked examples of the spec -/

/-- Register r of the wave after one operation, from a bundle with the given scalar registers. -/
def regAfter (regs : List (Nat × Nat)) (i : Instr) (r : Nat) : Option Nat :=
  let b := { bundle with s := regs.foldl (fun v p => v.setIfInBounds p.1 (word p.2)) bundle.s }
  match exec i (inHand (withWave wave) b) with
  | .next t => (waveOf t b).map fun w => (w.s.toList.getD r 0).toNat
  | _ => none

/-- R177's table, s5 = 100. -/
theorem test_exampleAddWraps : regAfter [(4, 100), (5, 100)] (.add 3 4 (.sel 5) false false .w8) 3 = some 0xFFFFFFFFFFFFFFC8 := by decide +kernel
theorem test_exampleAddSaturates : regAfter [(4, 100), (5, 100)] (.add 3 4 (.sel 5) false true .w8) 3 = some 0x7F := by decide +kernel
theorem test_exampleAddUnsigned : regAfter [(4, 0xC8), (5, 100)] (.add 3 4 (.sel 5) true false .w8) 3 = some 0x2C := by decide +kernel
theorem test_exampleAddUnsignedSaturates : regAfter [(4, 0xC8), (5, 100)] (.add 3 4 (.sel 5) true true .w8) 3 = some 0xFF := by decide +kernel
theorem test_exampleSubSaturates : regAfter [(4, 0xFFFFFFFFFFFFFF9C), (5, 100)] (.sub 3 4 (.sel 5) false true .w8) 3 = some 0xFFFFFFFFFFFFFF80 := by
  decide +kernel
/-- R178: bits 31..16. -/
theorem test_exampleBfx : regAfter [(24, 0x89ABCDEF01234567)] (.bfx 24 24 (.imm 0x410) true .w64) 24 = some 0x0123 := by decide +kernel
/-- R131: 2^24, 1, 1, -2^24 in lanes 0 to 3 sum to 1.0 in the tree's order. -/
def foldBundle : Issue :=
  { bundle with mask := 15, v := bundle.v.setIfInBounds 4 (0x4B800000 + 0x3F800000 * 2 ^ 32 + 0x3F800000 * 2 ^ 64 + 0xCB800000 * 2 ^ 96) }
theorem test_exampleFold : (match exec (.vredadd 1 4 0 6) (inHand (withWave wave) foldBundle) with
    | .next t => (waveOf t foldBundle).map fun w => (w.v.toList.getD 1 0).toNat
    | _ => none) = some 0x3F800000 := by decide +kernel
/-- R227: q12 holds 0xFFF0; the wait for 0x0010 goes on until it reaches 0x0010. -/
theorem test_exampleSemaphore : semHolds 0xFFF0 0x0010 = false ∧ semHolds 0x000F 0x0010 = false ∧ semHolds 0x0010 0x0010 = true := by decide +kernel
/-- R136's MMAX element: scales 2^-12, 1.0·1.0 + 0.5·0.5, added to 1.0 with one rounding. -/
def mmaxOp : MatOp :=
  { ta := 14, tb := 14, sat := false, k := 32
    a := fun _ k => if k = 0 then 2 else if k = 1 then 1 else 0
    b := fun _ k => if k = 0 then 2 else if k = 1 then 1 else 0
    scales := some (fun _ _ => 0x73, fun _ _ => 0x73) }
theorem test_exampleMmax : mmaxOp.elem 0 0 0x3F800000 = (0x3F800001, 0) := by decide +kernel

/-- R414: the address worked under R67 lies in channel 36, on stack 1 of die 1. -/
theorem test_exampleChannel : channelOf 0x23456789C0 = 36 ∧ stackOf 0x23456789C0 = 1 ∧ sliceOf 0x23456789C0 / 48 = 1 := by decide +kernel

end Sys2Proof.Tests
end

section
/-!
PROOFS. O16, system registers (R10, R189, R190, R348). Two of its three parts hold: what is plainly stored reads back under its mask, and a
number that the privilege may not reach traps. Of the part on fibres, the reads hold, and the writes change no core whose table of slots is
in ascending order; but the statement is about every table, and `sysWrite` stores the untouched wave anew, which lists a slot a second time
in a table that is out of order. No rule of the spec speaks of such a table: the refutation is about how the model holds its slots.
-/
namespace Sys2Proof.Machine

/-! ## Fields as masks -/

/-- The bits [hi:lo] of a word. -/
def fieldMask (hi lo : Nat) : Nat := (2 ^ (hi + 1 - lo) - 1) <<< lo

theorem keep_eq_and (v : Word) (hi lo : Nat) : keep v hi lo = v.toNat &&& fieldMask hi lo := by
  apply Nat.eq_of_testBit_eq
  intro i
  simp only [keep, bits, fieldMask, Nat.testBit_and, Nat.testBit_shiftLeft, Nat.testBit_mod_two_pow, Nat.testBit_shiftRight,
    Nat.testBit_two_pow_sub_one]
  by_cases h : lo ≤ i
  · simp [h, Bool.and_comm]
  · simp [h]

/-- A field adds its mask to one that lies below it. -/
theorem keep_add_and (v : Word) (hi lo m : Nat) (hm : m < 2 ^ lo) :
    keep v hi lo + (v.toNat &&& m) = v.toNat &&& (fieldMask hi lo ||| m) := by
  have hlt : v.toNat &&& m < 2 ^ lo := Nat.lt_of_le_of_lt Nat.and_le_right hm
  calc keep v hi lo + (v.toNat &&& m) = keep v hi lo ||| (v.toNat &&& m) := Nat.shiftLeft_add_eq_or_of_lt hlt _
    _ = v.toNat &&& (fieldMask hi lo ||| m) := by rw [keep_eq_and, Nat.and_or_distrib_left]

theorem keep_add_keep (v : Word) (hi lo hi' lo' : Nat) (h : fieldMask hi' lo' < 2 ^ lo) :
    keep v hi lo + keep v hi' lo' = v.toNat &&& (fieldMask hi lo ||| fieldMask hi' lo') := by
  rw [keep_eq_and v hi' lo', keep_add_and v hi lo _ h]

/-- The fields of TRAPCAUSE (Table 6.7). -/
theorem trapcause_fields (v : Word) :
    keep v 63 63 + keep v 36 32 + keep v 31 15 + keep v 7 0 = v.toNat &&& (2 ^ 63 + 0x1FFFFF80FF) := by
  rw [Nat.add_assoc, Nat.add_assoc, keep_add_keep v 31 15 7 0 (by decide), keep_add_and v 36 32 _ (by decide),
    keep_add_and v 63 63 _ (by decide)]
  rfl

theorem tlbHiFields_eq_and (v : Word) : tlbHiFields v = v.toNat &&& (2 ^ 63 + 2 ^ 53 - 1) := by
  rw [tlbHiFields, Nat.add_assoc, keep_add_keep v 52 35 34 0 (by decide), keep_add_and v 63 63 _ (by decide)]
  rfl

theorem tlbLoFields_eq_and (v : Word) : tlbLoFields v = v.toNat &&& (2 ^ 60 - 2 ^ 48 + 2 ^ 47 - 2 ^ 12 + 12) := by
  rw [tlbLoFields, Nat.add_assoc, keep_add_keep v 46 12 3 2 (by decide), keep_add_and v 59 48 _ (by decide)]
  rfl

/-- Bits of a word fit in a word. -/
theorem toNat_word_and (v : Word) (m : Nat) : (word (v.toNat &&& m)).toNat = v.toNat &&& m :=
  (BitVec.toNat_ofNat _ _).trans (Nat.mod_eq_of_lt (Nat.lt_of_le_of_lt Nat.and_le_left v.isLt))

theorem toNat_word_keep (v : Word) (hi lo : Nat) : (word (keep v hi lo)).toNat = v.toNat &&& fieldMask hi lo := by
  rw [keep_eq_and, toNat_word_and]

theorem toNat_word_keep_add_keep (v : Word) (hi lo hi' lo' : Nat) (h : fieldMask hi' lo' < 2 ^ lo) :
    (word (keep v hi lo + keep v hi' lo')).toNat = v.toNat &&& (fieldMask hi lo ||| fieldMask hi' lo') := by
  rw [keep_add_keep v hi lo hi' lo' h, toNat_word_and]

theorem toNat_eq_and_ones (v : Word) : v.toNat = v.toNat &&& (2 ^ 64 - 1) :=
  (Nat.and_two_pow_sub_one_of_lt_two_pow v.isLt).symm

/-! ## What the updates behind the writes give, and what they leave alone -/

theorem issThr_modIssThr {s : State} {c : Issue} (f : Thr → Thr) (h : threadHere s c) : (s.modIssThr c f).issThr c = f (s.issThr c) := by
  unfold threadHere waveOf at h
  unfold State.modIssThr State.issThr
  cases he : c.entry with
  | some e =>
    rw [he] at h
    obtain ⟨x, hx⟩ := Option.isSome_iff_exists.mp h
    simp [hx]
  | none =>
    rw [he] at h
    obtain ⟨w, hw⟩ := Option.isSome_iff_exists.mp h
    simp [hw]

theorem part_modPart_other (s : State) (p q : Nat) (f : Part → Part) (h : q ≠ p) : (s.modPart p f).part q = s.part q := by
  simp [State.part, State.modPart, State.setPart, Map.find_put_other _ _ _ _ h]

/-- A change of a partition that keeps its PARTCFG keeps the partition of every core (R349). -/
theorem partOf_modPart (s : State) (p core : Nat) (f : Part → Part) (hf : ∀ x, (f x).cfg = x.cfg) :
    (s.modPart p f).partOf core = s.partOf core := by
  have hcfg (q : Nat) : ((s.modPart p f).part q).cfg = (s.part q).cfg := by
    by_cases hq : q = p
    · rw [hq, part_modPart, hf]
    · rw [part_modPart_other s p q f hq]
  simp only [State.partOf, State.partOfDie, hcfg]

theorem die_foldl_modCluster (l : List Nat) (g : Nat → Nat) (f : Cluster → Cluster) (s : State) (d : Nat) :
    (l.foldl (fun s k => s.modCluster (g k) f) s).die d = s.die d := by
  induction l generalizing s with
  | nil => rfl
  | cons k l ih => exact ih _

theorem die_writeTrapqbase (s : State) (d : Nat) (v : Word) :
    (writeTrapqbase s d v).die d = { s.die d with trapqBase := word (keep v 46 12), trapTail := 0 } := by
  rw [writeTrapqbase, die_foldl_modCluster, die_modDie]

theorem die_writeAgecfg (s : State) (d v : Nat) : (writeAgecfg s d v).die d = { s.die d with agecfg := v } := by
  rw [writeAgecfg, die_modDie]
  rfl

/-! ## A read of a register after a write of it, by where the register is held -/

/-- What an MFSR of register n returns after an MTSR of it. -/
def readAfterWrite (s : State) (c : Issue) (n : Nat) (v : Word) : Nat := sysRead (sysWrite s c n v) c n

/-- FPMODE to UTVEC, in the issuing wave. -/
theorem readAfterWrite_wave {s : State} {c : Issue} {w : Wave} (v : Word) (he : c.entry = none) (hw : waveOf s c = some w) :
    readAfterWrite s c 0 v = keep v 12 8 + keep v 1 0 ∧ readAfterWrite s c 1 v = keep v 4 0 ∧ readAfterWrite s c 2 v = v.toNat ∧
    readAfterWrite s c 3 v = keep v 63 63 + keep v 36 32 + keep v 31 15 + keep v 7 0 ∧ readAfterWrite s c 4 v = v.toNat ∧
    readAfterWrite s c 5 v = (v &&& ~~~6#64).toNat := by
  unfold waveOf at hw
  refine ⟨?_, ?_, ?_, ?_, ?_, ?_⟩ <;> simp [readAfterWrite, sysRead, sysWrite, State.modIssWave, he, hw]

/-- TLBENTHI and TLBENTLO, in the issuing thread. -/
theorem readAfterWrite_thread {s : State} {c : Issue} (v : Word) (h : threadHere s c) :
    readAfterWrite s c 0x100 v = tlbHiFields v ∧ readAfterWrite s c 0x101 v = tlbLoFields v := by
  refine ⟨?_, ?_⟩ <;> simp [readAfterWrite, sysRead, sysWrite, isRange, issThr_modIssThr, h]

/-- The registers of a core. -/
theorem readAfterWrite_core (s : State) (c : Issue) (v : Word) :
    readAfterWrite s c 0x10 v = keep v 3 0 ∧ readAfterWrite s c 0x15 v = (word (keep v 46 12)).toNat ∧
    readAfterWrite s c 0x16 v = keep v 23 0 ∧ readAfterWrite s c 0x200 v = keep v 47 0 ∧ readAfterWrite s c 0x201 v = keep v 31 0 := by
  refine ⟨?_, ?_, ?_, ?_, ?_⟩ <;> simp [readAfterWrite, sysRead, sysWrite, isRange, -BitVec.toNat_ofNat]

/-- The event counters of a core. -/
theorem readAfterWrite_counter (s : State) (c : Issue) (n : Nat) (v : Word) (hn : 0x202 ≤ n ∧ n ≤ 0x205) :
    readAfterWrite s c n v = keep v 47 0 := by
  obtain ⟨hlo, hhi⟩ := hn
  interval_cases n <;> simp [readAfterWrite, sysRead, sysWrite, isRange]

/-- The registers of a cluster. -/
theorem readAfterWrite_cluster (s : State) (c : Issue) (v : Word) :
    readAfterWrite s c 0x21 v = (word (keep v 46 12)).toNat ∧ readAfterWrite s c 0x104 v = keep v 0 0 := by
  refine ⟨?_, ?_⟩ <;> simp [readAfterWrite, sysRead, sysWrite, isRange, -BitVec.toNat_ofNat]

/-- The registers of a die. -/
theorem readAfterWrite_die (s : State) (c : Issue) (v : Word) :
    readAfterWrite s c 0x60 v = keep v 15 0 ∧ readAfterWrite s c 0x62 v = (word (keep v 47 12 + keep v 6 0)).toNat ∧
    readAfterWrite s c 0x108 v = (word (keep v 46 12)).toNat ∧ readAfterWrite s c 0x109 v = (word (keep v 46 12)).toNat ∧
    readAfterWrite s c 0x210 v = keep v 47 0 := by
  refine ⟨?_, ?_, ?_, ?_, ?_⟩ <;>
    simp [readAfterWrite, sysRead, sysWrite, isRange, die_writeAgecfg, die_writeTrapqbase, -BitVec.toNat_ofNat]

/-- The registers of the partition that owns the core. -/
theorem readAfterWrite_part {s : State} {c : Issue} {p : Nat} (v : Word) (hp : s.partOf c.core = some p) :
    readAfterWrite s c 0x50 v = (word (keep v 46 15)).toNat ∧ readAfterWrite s c 0x103 v = (word (keep v 46 12 + keep v 0 0)).toNat ∧
    readAfterWrite s c 0x118 v = (word (keep v 63 32 + keep v 1 0)).toNat ∧ readAfterWrite s c 0x119 v = (word (keep v 46 12)).toNat ∧
    readAfterWrite s c 0x11A v = keep v 31 0 ∧ readAfterWrite s c 0x11B v = (word (keep v 46 12)).toNat ∧
    readAfterWrite s c 0x11C v = keep v 31 0 := by
  refine ⟨?_, ?_, ?_, ?_, ?_, ?_, ?_⟩ <;>
    simp [readAfterWrite, sysRead, sysWrite, isRange, hp, partOf_modPart, -BitVec.toNat_ofNat]

/-- The tables of masks and of access rights are chains of conditions; what one answers comes from its head or from its rest. -/
theorem some_of_ite {α : Type} {p : Prop} [Decidable p] {a b : α} {x : Option α} (h : (if p then some a else x) = some b) :
    (p ∧ a = b) ∨ x = some b := by
  split at h
  · next hp => exact .inl ⟨hp, Option.some.inj h⟩
  · exact .inr h

/-- FPMODE to UTVEC of a wave read back under their masks. -/
theorem readAfterWrite_waveMask {s : State} {c : Issue} {n m : Nat} (v : Word) (hs : threadHere s c) (he : c.entry = none) (hn : n ≤ 5)
    (hm : plainMask n = some m) : readAfterWrite s c n v = v.toNat &&& m := by
  obtain ⟨w, hw⟩ : ∃ w, waveOf s c = some w := by
    unfold threadHere at hs
    rw [he] at hs
    exact Option.isSome_iff_exists.mp hs
  obtain ⟨hmode, hflags, hpc, hcause, hlanes, hutvec⟩ := readAfterWrite_wave v he hw
  interval_cases n <;> obtain rfl := Option.some.inj hm
  · exact hmode.trans (keep_add_keep v 12 8 1 0 (by decide))
  · exact hflags.trans (keep_eq_and v 4 0)
  · exact hpc.trans (toNat_eq_and_ones v)
  · exact hcause.trans (trapcause_fields v)
  · exact hlanes.trans (toNat_eq_and_ones v)
  · exact hutvec.trans (BitVec.toNat_and v _)

/-- Every register that is plainly stored reads back under its mask. -/
theorem readAfterWrite_plainMask {s : State} {c : Issue} {n m : Nat} (v : Word) (hs : threadHere s c) (he : n ≤ 5 → c.entry = none)
    (hm : plainMask n = some m) : readAfterWrite s c n v = v.toNat &&& m := by
  by_cases hn : n ≤ 5
  · exact readAfterWrite_waveMask v hs (he hn) hn hm
  obtain ⟨hmstat, hspill, hspillSize, hmiss, hcntcfg⟩ := readAfterWrite_core s c v
  obtain ⟨hctx, hfault⟩ := readAfterWrite_cluster s c v
  obtain ⟨hage, hreq, htrapq, hfreply, hrefsplit⟩ := readAfterWrite_die s c v
  obtain ⟨htlbHi, htlbLo⟩ := readAfterWrite_thread v hs
  have hwave : n ≠ 0 ∧ n ≠ 1 ∧ ¬(n = 2 ∨ n = 4) ∧ n ≠ 3 ∧ n ≠ 5 := by omega
  simp only [plainMask, hwave, if_false] at hm
  obtain ⟨rfl, rfl⟩ | hm := some_of_ite hm
  · exact hmstat.trans (keep_eq_and v 3 0)
  obtain ⟨rfl | rfl | rfl | rfl, rfl⟩ | hm := some_of_ite hm
  · exact hspill.trans (toNat_word_keep v 46 12)
  · exact hctx.trans (toNat_word_keep v 46 12)
  · exact htrapq.trans (toNat_word_keep v 46 12)
  · exact hfreply.trans (toNat_word_keep v 46 12)
  obtain ⟨rfl, rfl⟩ | hm := some_of_ite hm
  · exact hspillSize.trans (keep_eq_and v 23 0)
  obtain ⟨rfl, rfl⟩ | hm := some_of_ite hm
  · exact hage.trans (keep_eq_and v 15 0)
  obtain ⟨rfl, rfl⟩ | hm := some_of_ite hm
  · exact hreq.trans (toNat_word_keep_add_keep v 47 12 6 0 (by decide))
  obtain ⟨rfl, rfl⟩ | hm := some_of_ite hm
  · exact htlbHi.trans (tlbHiFields_eq_and v)
  obtain ⟨rfl, rfl⟩ | hm := some_of_ite hm
  · exact htlbLo.trans (tlbLoFields_eq_and v)
  obtain ⟨rfl, rfl⟩ | hm := some_of_ite hm
  · exact hfault.trans (keep_eq_and v 0 0)
  obtain ⟨rfl | rfl | hcnt, rfl⟩ | hm := some_of_ite hm
  · exact hmiss.trans (keep_eq_and v 47 0)
  · exact hrefsplit.trans (keep_eq_and v 47 0)
  · exact (readAfterWrite_counter s c n v hcnt).trans (keep_eq_and v 47 0)
  obtain ⟨rfl, rfl⟩ | hm := some_of_ite hm
  · exact hcntcfg.trans (keep_eq_and v 31 0)
  cases hm

/-- The partition's registers read back under their masks, on a core that a partition owns. -/
theorem readAfterWrite_partMask {s : State} {c : Issue} {n m p : Nat} (v : Word) (hp : s.partOf c.core = some p)
    (hm : partMask n = some m) : readAfterWrite s c n v = v.toNat &&& m := by
  obtain ⟨hrig, hpt, hrec, hrecbase, hrecsize, hundobase, hundosize⟩ := readAfterWrite_part v hp
  unfold partMask at hm
  obtain ⟨rfl, rfl⟩ | hm := some_of_ite hm
  · exact hrig.trans (toNat_word_keep v 46 15)
  obtain ⟨rfl, rfl⟩ | hm := some_of_ite hm
  · exact hpt.trans (toNat_word_keep_add_keep v 46 12 0 0 (by decide))
  obtain ⟨rfl, rfl⟩ | hm := some_of_ite hm
  · exact hrec.trans (toNat_word_keep_add_keep v 63 32 1 0 (by decide))
  obtain ⟨rfl | rfl, rfl⟩ | hm := some_of_ite hm
  · exact hrecbase.trans (toNat_word_keep v 46 12)
  · exact hundobase.trans (toNat_word_keep v 46 12)
  obtain ⟨rfl | rfl, rfl⟩ | hm := some_of_ite hm
  · exact hrecsize.trans (keep_eq_and v 31 0)
  · exact hundosize.trans (keep_eq_and v 31 0)
  cases hm

/-- The first part of O16 holds. -/
theorem systemRegisterReadBack : Claims.SystemRegisterReadBack := fun _ _ _ _ v hs he =>
  ⟨readAfterWrite_plainMask v hs he, fun _ => readAfterWrite_partMask v⟩

/-! ## Privilege -/

/-- An operation that is ILLEGAL traps when nothing holds its bundle back (R199). -/
theorem fate_of_illegalNow {s : State} {c : Issue} {i : Instr} (hp : (s.issThr c).pend = []) (hi : illegalNow s c i = true) :
    fate s c [i] = .trap ⟨1, c.pc, 0, 0, 0, false⟩ := by
  have hfree : (([i].flatMap regUse).find? fun r => (s.issThr c).pend.any fun p => p.1 == r) = none := by simp [hp]
  unfold fate
  simp only [hfree]
  simp [hi, Trap.simple]

theorem start_of_illegalNow {s : State} {c : Issue} {i : Instr} (k : Issue → State → State) (hc : s.issue = some c)
    (hn : c.checked = false) (ht : s.todo = []) (hp : (s.issThr c).pend = []) (hr : rigIssue s c i = none)
    (hi : illegalNow s c i = true) : start i s k = .next (takeTrap s c ⟨1, c.pc, 0, 0, 0, false⟩) := by
  have hf : fate s c (i :: s.todo) = .trap ⟨1, c.pc, 0, 0, 0, false⟩ := by rw [ht]; exact fate_of_illegalNow hp hi
  have hcond : condemnAt s c (i :: s.todo) = s := by simp [condemnAt, ht, hr]
  rw [start_trap k hc hn hf, hcond]

theorem illegalNow_mfsr (s : State) (c : Issue) (sd : BitVec 6) (num : BitVec 16) (h : mayRead c.sup num.toNat = false) :
    illegalNow s c (.mfsr sd num) = true := by
  have hbarred : (!mayRead c.sup num.toNat) = true := by rw [h]; rfl
  exact Bool.or_eq_true_iff.mpr (.inr hbarred)

theorem illegalNow_mtsr (s : State) (c : Issue) (sa : BitVec 6) (num : BitVec 16) (h : mayWrite c.sup num.toNat = false) :
    illegalNow s c (.mtsr sa num) = true := by
  have hbarred : (!mayWrite c.sup num.toNat) = true := by rw [h]; rfl
  exact Bool.or_eq_true_iff.mpr (.inr hbarred)

/-- A row of the access table that user threads may not write is not the one sought. -/
theorem rest_of_ite_not_userWrite {p : Prop} [Decidable p] {r w : Bool} {x : Option SysAccess} {a : SysAccess}
    (h : (if p then some ⟨r, false, w⟩ else x) = some a) (hw : a.userWrite = true) : x = some a := by
  obtain ⟨-, rfl⟩ | hx := some_of_ite h
  · cases hw
  · exact hx

theorem sysAccess_userWrite {n : Nat} {a : SysAccess} (ha : sysAccess n = some a) (hw : a.userWrite = true) : n ≤ 5 ∨ n = 0x10 := by
  by_contra hn
  obtain ⟨h5, h16⟩ := not_or.mp hn
  simp only [sysAccess, h5, h16, if_false] at ha
  repeat replace ha := rest_of_ite_not_userWrite ha hw
  cases ha

/-- A user thread may write FPMODE to UTVEC and MSTAT alone (R189). -/
theorem mayWrite_user {n : Nat} (h : mayWrite false n = true) : n ≤ 5 ∨ n = 0x10 := by
  unfold mayWrite at h
  split at h
  · next a ha => exact sysAccess_userWrite ha h
  · cases h

/-- The third part of O16 holds. -/
theorem systemRegisterPrivilege : Claims.SystemRegisterPrivilege := by
  refine ⟨fun s c sd num hc hn ht hp hr => ?_, fun s c sa num hc hn ht hp hw => ?_, fun n => mayWrite_user⟩
  · rw [exec_mfsr, execMfsr, scalarOp]
    exact start_of_illegalNow _ hc hn ht hp rfl (illegalNow_mfsr s c sd num hr)
  · rw [exec_mtsr, execMtsr]
    exact start_of_illegalNow _ hc hn ht hp rfl (illegalNow_mtsr s c sa num hw)

/-! ## Fibres -/

/-- In fibre mode FPMODE to UTVEC read zero. -/
theorem sysRead_fibre {s : State} {c : Issue} {e n : Nat} (he : c.entry = some e) (hn : n ≤ 5) : sysRead s c n = 0 := by
  interval_cases n <;> simp [sysRead, he, Wave.vacant]

/-- A wave's FTAG reads zero. -/
theorem sysRead_ftag_wave {s : State} {c : Issue} (he : c.entry = none) : sysRead s c 6 = 0 := by
  simp [sysRead, he]

theorem sysRead_ftag_fibre {s : State} {c : Issue} {e : Nat} {x : RqEntry} (he : c.entry = some e)
    (hx : (s.core c.core).rq.find e = some x) : sysRead s c 6 = x.fib.tag % 2 ^ 24 := by
  simp [sysRead, he, hx]

/-- A fibre's write of FPMODE to UTVEC puts the wave that its slot holds back as it was. -/
theorem sysWrite_fibre {s : State} {c : Issue} {e n : Nat} (v : Word) (he : c.entry = some e) (hn : n ≤ 5) :
    sysWrite s c n v = s.modIssWave c id := by
  simp only [sysWrite, hn, if_true, he]
  rfl

/-- Keys in ascending order. -/
def Ascending {α : Type} (m : Map α) : Prop := m.Pairwise fun x y => x.1 < y.1

/-- In a table in ascending order, what a key already holds can be put there again. -/
theorem put_find_of_ascending {α : Type} {m : Map α} {n : Nat} {a : α} (hm : Ascending m) (h : m.find n = some a) : m.put n a = m := by
  induction m with
  | nil => cases h
  | cons x t ih =>
    obtain ⟨k, b⟩ := x
    obtain ⟨hk, ht⟩ := List.pairwise_cons.mp hm
    by_cases hkn : k = n
    · subst hkn
      simp_all [Map.find, Map.put]
    · have ht' : Map.find t n = some a := by simpa [Map.find, hkn] using h
      have hlt : k < n := hk _ (Map.mem_of_find ht')
      simp [Map.put, Nat.not_lt_of_lt hlt, Ne.symm hkn, ih ht ht']

/-- The clause of R190 on writes, of a core that lists its slots in ascending order. -/
theorem sysWrite_fibre_keeps_core {s : State} {c : Issue} {e n : Nat} (v : Word) (he : c.entry = some e) (hn : n ≤ 5)
    (hslots : Ascending (s.core c.core).slots) (k : Nat) : (sysWrite s c n v).core k = s.core k := by
  rw [sysWrite_fibre v he hn, State.modIssWave]
  by_cases hk : k = c.core
  · subst hk
    rw [core_modCore]
    split
    · next w hw => rw [id, put_find_of_ascending hslots hw]
    · rfl
  · exact core_modCore_other _ _ _ _ hk

/-- `Claims.FibreSystemRegisters` of cores that list their slots in ascending order. -/
theorem fibreSystemRegisters_of_ascending :
    (∀ (s : State) (c : Issue) (e n : Nat) (v : Word), c.entry = some e → n ≤ 5 → Ascending (s.core c.core).slots →
      sysRead s c n = 0 ∧ ∀ k, (sysWrite s c n v).core k = s.core k) ∧
    (∀ (s : State) (c : Issue), c.entry = none → sysRead s c 6 = 0) ∧
    ∀ (s : State) (c : Issue) (e : Nat) (x : RqEntry), c.entry = some e → (s.core c.core).rq.find e = some x →
      sysRead s c 6 = x.fib.tag % 2 ^ 24 :=
  ⟨fun _ _ _ _ v he hn hslots => ⟨sysRead_fibre he hn, sysWrite_fibre_keeps_core v he hn hslots⟩, fun _ _ => sysRead_ftag_wave,
    fun _ _ _ _ => sysRead_ftag_fibre⟩

/-- The package at reset, but for core 0, which lists these slots with nothing on them. -/
def slotsListed (l : List Nat) : State := State.reset.setCore 0 { Core.reset with slots := l.map fun n => (n, Wave.vacant) }

/-- A bundle of the fibre in entry 0 of core 0, issued from slot 3. -/
def fibreBundle : Issue :=
  { core := 0, slot := 3, entry := some 0, pc := 0, next := 8, s := Vector.replicate 64 0, v := Vector.replicate 32 0, mask := 0,
    fpmode := 0, sup := false, sflags := 0, vflags := 0, lanes := 0, checked := false }

/-- With slot 3 listed before slot 5, a fibre's write of FPMODE changes no core. -/
theorem sysWrite_slotsListed_ascending (v : Word) (k : Nat) :
    (sysWrite (slotsListed [3, 5]) fibreBundle 0 v).core k = (slotsListed [3, 5]).core k :=
  sysWrite_fibre_keeps_core v rfl (Nat.zero_le 5) (by simp [slotsListed, fibreBundle, Ascending]) k

/-- With slot 5 listed before slot 3, the write lists slot 3 twice. -/
theorem sysWrite_slotsListed_descending (v : Word) :
    ((sysWrite (slotsListed [5, 3]) fibreBundle 0 v).core 0).slots.map (·.1) = [3, 5, 3] := by
  rw [sysWrite_fibre v rfl (Nat.zero_le 5)]
  simp [State.modIssWave, slotsListed, fibreBundle, Map.find, Map.put]

/-- Refutes O16 by its clause that a fibre's writes of FPMODE to UTVEC change no core (R190), at a state that no rule of the spec
describes: core 0 lists slot 5 before slot 3, and the write of FPMODE lists slot 3 again before both. -/
theorem not_systemRegisterRules : ¬ Obligations.SystemRegisterRules := by
  rintro ⟨-, ⟨hfibre, -⟩, -⟩
  have hkept : (sysWrite (slotsListed [5, 3]) fibreBundle 0 0).core 0 = (slotsListed [5, 3]).core 0 :=
    (hfibre _ fibreBundle 0 0 0 rfl (Nat.zero_le 5)).2 0
  have hslots : [3, 5, 3] = [5, 3] :=
    calc [3, 5, 3] = ((sysWrite (slotsListed [5, 3]) fibreBundle 0 0).core 0).slots.map (·.1) := (sysWrite_slotsListed_descending 0).symm
      _ = [5, 3] := by rw [hkept]; simp [slotsListed]
  exact absurd hslots (by decide)

end Sys2Proof.Machine
end

section
/-!
PROOFS. O6 and O4: what a bundle's operations meet at their start, and the step that fetches and runs a bundle (R16, R19, R199).
-/
namespace Sys2Proof.Machine

/-! ## A bundle that something stops -/

/-- While something stops the bundle, what the operation would have done does not matter. -/
theorem start_stopped {i : Instr} {s : State} {c : Issue} (k k' : Issue → State → State) (hc : s.issue = some c)
    (hn : c.checked = false) (hf : fate s c (i :: s.todo) ≠ .go) : start i s k = start i s k' := by
  unfold start
  rw [hc]
  cases h : fate s c (i :: s.todo) <;> simp_all

theorem stoppedBundleHasNoEffect : Claims.StoppedBundleHasNoEffect := by
  intro i s c hi hc hn hf
  obtain ⟨k, hk⟩ := exec_starts i s hi
  rw [hk]
  exact ⟨start_stopped k _ hc hn hf, start_goes k hc⟩

theorem trapBeforeEffect : Claims.TrapBeforeEffect := by
  intro i s c x hi hc hn hf
  obtain ⟨k, hk⟩ := exec_starts i s hi
  rw [hk]
  exact start_trap k hc hn hf

/-- Settles O6. -/
theorem bundleIssuesWhole : Obligations.BundleIssuesWhole := ⟨stoppedBundleHasNoEffect, trapBeforeEffect⟩

/-! ## A step of a bundle -/

theorem poisoned_bundle (u : State) (o : Option Issue) (l : List Instr) (key n : Nat) :
    poisoned { u with issue := o, todo := l } key n = poisoned u key n := rfl

theorem issThr_bundle (u : State) (o : Option Issue) (l : List Instr) (c : Issue) :
    State.issThr { u with issue := o, todo := l } c = u.issThr c := rfl

theorem codeWord_bundle (u : State) (o : Option Issue) (l : List Instr) (core va : Nat) :
    codeWord { u with issue := o, todo := l } core va = codeWord u core va := rfl

theorem fetchCause_bundle (u : State) (o : Option Issue) (l : List Instr) (core : Nat) (pc : Word) :
    fetchCause { u with issue := o, todo := l } core pc = fetchCause u core pc := rfl

/-- A turn that fetches a bundle leaves its operations to do. -/
theorem fetchBundle_of_fetches {u : State} {core slot : Nat} {c : Issue} {b : Bundle} (h : fetches u core slot c b) :
    fetchBundle u core slot = { u with issue := some c, todo := bundleOps b } := by
  obtain ⟨pc, hpc, hcause, c0, hc0, rfl, hpoison, hpend, hmask, hdec⟩ := h
  simp only [Nat.add_zero] at hc0 hpoison hpend hmask hdec ⊢
  have htoken : ((u.issThr c0).pend.any fun p => p.1 == (bundleMask (codeWord u core pc.toNat)).toNat &&
      bundleMask (codeWord u core pc.toNat) != 0) = false := by
    rw [List.any_eq_false]
    intro p hp
    obtain h0 | h0 := hpend p hp <;> simp [h0]
  have hskip : (bundleMask (codeWord u core pc.toNat) != 0 && c0.entry.isNone &&
      c0.reg (bundleMask (codeWord u core pc.toNat)).toNat == 0) = false := by
    obtain h0 | h0 | h0 := hmask
    · simp [h0]
    · simp [Option.isNone_eq_false_iff.mpr h0]
    · simp only [beq_eq_false_iff_ne.mpr h0, Bool.and_false]
  simp only [fetchBundle, hpc, hc0]
  rw [fetchCause_bundle, hcause]
  dsimp only
  rw [poisoned_bundle, hpoison]
  simp only [issThr_bundle, codeWord_bundle, htoken, hskip, hdec, Bool.false_eq_true, if_false]

theorem stepRunsDecoded : Claims.StepRunsDecoded := by
  intro s s1 u core slot c b i l hnext hheld hwf hexec hfetch hops
  rw [step, hnext]
  simp only [hheld, hwf, hexec, fetchBundle_of_fetches hfetch, hops, Bool.false_eq_true, if_false, if_true]
  rfl

theorem stepRunsBoth : Claims.StepRunsBoth := by
  refine ⟨fun s h => by simp only [drain, h], fun s t i h hi => ?_⟩
  simp only [drain, h, hi]

/-- Settles O4. -/
theorem stepRunsBundle : Obligations.StepRunsBundle := ⟨stepRunsDecoded, stepRunsBoth⟩

end Sys2Proof.Machine
end

section
/-!
PROOFS. What happens without a bundle leaves the bundle in hand, and BOOTSTAT, as they stand: device writes, recording, the stay fabric, fencing,
and the self test and area allocation of bring-up (Table 16.3).
-/
namespace Sys2Proof.Machine

/-- A view of the state that every step of a fold keeps, the fold keeps. -/
theorem foldl_keeps {α β γ : Type} (view : α → γ) (f : α → β → α) (h : ∀ s x, view (f s x) = view s) (l : List β) (s : α) :
    view (l.foldl f s) = view s := by
  induction l generalizing s with
  | nil => rfl
  | cons x l ih => rw [List.foldl_cons, ih, h]

/-- The bundle in hand, and where bring-up stands. -/
def standing (s : State) : Option Issue × List Instr × Nat × Bool := (s.issue, s.todo, s.mgmt.bootstat, s.mgmt.halted)

variable (s : State)

theorem standing_modCore (c : Nat) (f : Core → Core) : standing (s.modCore c f) = standing s := rfl
theorem standing_sendMsg (vc : VC) (src dst : Node) (gate : Nat) (b : Body) : standing (sendMsg s vc src dst gate b) = standing s := rfl

theorem standing_modReq (id : Nat) (f : Req → Req) : standing (s.modReq id f) = standing s := by
  unfold State.modReq; split <;> rfl

theorem standing_askHost (line : Nat) : standing (askHost s line) = standing s := by
  unfold askHost
  split
  · split <;> rfl
  · rfl

theorem standing_retag (line tag : Nat) : standing (retag s line tag) = standing s := by
  unfold retag; dsimp only; split <;> rfl

theorem standing_endWindow (line : Nat) : standing (endWindow s line) = standing s := by
  unfold endWindow
  split
  · rfl
  · dsimp only
    split
    · rfl
    · refine foldl_keeps standing _ (fun s id => ?_) _ _
      split
      · rfl
      · exact (standing_sendMsg _ _ _ _ _ _).trans (standing_modReq _ _ _)

theorem standing_notePast (core line : Nat) : standing (notePast s core line) = standing s := by
  unfold notePast; dsimp only; split <;> rfl

theorem standing_writeOne (k : Nat) (x : Nat × Byte) : standing (writeOne s k x) = standing s := by
  unfold writeOne
  rcases spadTarget s k x.1 with ⟨a, lat⟩
  cases lat with
  | some lat => cases pwinOf x.1 <;> rfl
  | none =>
    cases pwinOf x.1 with
    | spad q =>
      dsimp only
      split <;> rfl
    | _ => rfl

theorem standing_soil (line : Nat) (old : List Byte) : standing (soil s line old) = standing s := by
  unfold soil; split <;> rfl

theorem standing_performBytes (core : Nat) (l : List (Nat × Byte)) : standing (performBytes s core l) = standing s := by
  unfold performBytes
  split
  · rfl
  · next x l =>
    rw [standing_soil]
    calc _ = standing (notePast (endWindow s (lineOf x.1)) core (lineOf x.1)) :=
          foldl_keeps standing _ (fun s y => standing_writeOne s _ y) (x :: l) _
      _ = standing s := by rw [standing_notePast, standing_endWindow]

theorem standing_devWriteLine (l : List (Nat × Byte)) : standing (devWriteLine s l) = standing s := by
  unfold devWriteLine
  split
  · rfl
  · rw [standing_performBytes]
    split
    · exact standing_retag _ _ _
    · rfl

theorem standing_devWrite (l : List (Nat × Byte)) : standing (devWrite s l) = standing s := by
  unfold devWrite
  split
  · rfl
  · split
    · exact standing_devWriteLine _ _
    · exact standing_askHost _ _

theorem standing_devicePut (a : Nat) (l : List Nat) : standing (devicePut s a l) = standing s :=
  foldl_keeps standing devWrite standing_devWrite _ _

theorem standing_pumpDev (n : Nat) : standing (pumpDev n s) = standing s := by
  induction n generalizing s with
  | zero => rfl
  | succ n ih =>
    unfold pumpDev
    split
    · split
      · rw [ih, standing_devWriteLine]; rfl
      · exact standing_askHost _ _
    · rw [ih]; rfl
    · rfl

/-! ### Recording, the stay fabric, the line FIFOs -/

theorem standing_setPart (p : Nat) (x : Part) : standing (s.setPart p x) = standing s := rfl

theorem standing_appendUndo (p line : Nat) : standing (appendUndo s p line) = standing s := by
  unfold appendUndo
  dsimp only
  split
  · rfl
  · split
    · rfl
    · rw [standing_setPart, standing_devicePut]

theorem standing_appendOrder (p kind line actor index : Nat) : standing (appendOrder s p kind line actor index) = standing s := by
  unfold appendOrder
  dsimp only
  split
  · rfl
  · split
    · rfl
    · rw [standing_setPart, standing_devicePut]

theorem standing_replayStep (p kind line actor index : Nat) : standing (replayStep s p kind line actor index) = standing s := by
  unfold replayStep
  dsimp only
  split
  · rfl
  · split <;> rfl

theorem standing_recordAccess (lid : Option Nat) (kind line actor index : Nat) (write : Bool) :
    standing (recordAccess s lid kind line actor index write) = standing s := by
  refine foldl_keeps standing _ (fun s p => ?_) _ _
  dsimp only
  have happend (t : State) (h : standing t = standing s) (b : Bool) :
      standing (if b then appendOrder t p kind line actor index else t) = standing s := by
    split
    · rw [standing_appendOrder, h]
    · exact h
  have hundo : standing (if write = true then appendUndo s p line else s) = standing s := by
    split
    · exact standing_appendUndo _ _ _
    · rfl
  split
  · rfl
  · split
    · refine happend _ ?_ _
      split
      · rw [standing_replayStep, hundo]
      · exact hundo
    · split
      · exact standing_appendOrder _ _ _ _ _ _
      · rfl

theorem standing_recordReq (r : Req) (write : Bool) : standing (recordReq s r write) = standing s := by
  unfold recordReq
  split
  · exact standing_recordAccess _ _ _ _ _ _ _
  · rfl

theorem standing_modCtx (id : Nat) (f : StayCtx → StayCtx) : standing (s.modCtx id f) = standing s := by
  unfold State.modCtx; split <;> rfl

theorem standing_pump (n id : Nat) : standing (pump n s id) = standing s := by
  induction n generalizing s id with
  | zero => rw [pump]
  | succ n ih =>
    have hsend (t : State) (c : StayCtx) (burst seq : Nat) (first : Bool) (b : StayBody) (req : Option Nat)
        (rest : List (StayBody × Option Nat)) : standing (pump.sendOne t id c burst seq first b req rest n) = standing t := by
      unfold pump.sendOne
      rw [ih]
      exact standing_modCtx _ _ _
    unfold pump
    split
    · rfl
    · split
      · rfl
      · split
        · split
          · rfl
          · rw [hsend]
            exact standing_modCtx _ _ _
        · split
          · rfl
          · exact hsend _ _ _ _ _ _ _ _

theorem standing_staySend (dst : Nat) (reply : Bool) (pa : Nat) (b : StayBody) (req : Option Nat) :
    standing (staySend s dst reply pa b req) = standing s := by
  unfold staySend
  dsimp only
  rw [standing_pump, standing_modCtx]
  split <;> rfl

theorem standing_answerRemote (r : Req) (data : List Byte) : standing (answerRemote s r data) = standing s := by
  unfold answerRemote
  split
  · rfl
  · split
    · rfl
    · exact standing_staySend _ _ _ _ _ _

theorem standing_putMarks (core : Nat) (l : List (Nat × Byte)) (ms : List RelMark) : standing (putMarks s core l ms) = standing s := by
  unfold putMarks; split <;> rfl

theorem standing_performStore (r : Req) (l : List (Nat × Byte)) (rel : Option RelMark) :
    standing (performStore s r l rel) = standing s := by
  rw [performStore, standing_putMarks, standing_performBytes, standing_recordReq]

theorem standing_performAtomic (r : Req) (f : List AtomFn) (rel : Option RelMark) :
    standing (performAtomic s r f rel) = standing s := by
  unfold performAtomic
  dsimp only
  split
  · rw [standing_putMarks, standing_performBytes, standing_recordReq]
  · exact standing_recordReq _ _ _

theorem standing_atomicRemote (id : Nat) (r : Req) (f : List AtomFn) : standing (atomicRemote s id r f) = standing s := by
  unfold atomicRemote
  dsimp only
  rw [standing_answerRemote]
  split
  · rfl
  · exact standing_performAtomic _ _ _ _

theorem standing_advanceFifo (n line : Nat) : standing (advanceFifo n s line) = standing s := by
  induction n generalizing s with
  | zero => rfl
  | succ n ih =>
    unfold advanceFifo
    split
    · rfl
    · rfl
    · dsimp only
      split
      · rw [ih]; rfl
      · split
        · rw [ih]
          exact (standing_answerRemote _ _ _).trans (standing_performStore _ _ _ _)
        · split
          · rw [ih]
            exact standing_atomicRemote _ _ _ _
          · split
            · exact (standing_sendMsg _ _ _ _ _ _).trans (standing_modReq _ _ _)
            · rfl
        · split
          · exact (standing_sendMsg _ _ _ _ _ _).trans (standing_modReq _ _ _)
          · rfl
        · rw [ih]; rfl

theorem standing_endHold (line : Nat) : standing (endHold s line) = standing s := by
  unfold endHold; split <;> rfl

theorem standing_leaveFifo (id pa : Nat) : standing (leaveFifo s id pa) = standing s := by
  rw [leaveFifo, standing_endHold, standing_advanceFifo]; rfl

/-! ### The end of a launch, fencing -/

theorem standing_modSaved (core uid : Nat) (f : Wave → Wave) : standing (modSaved s core uid f) = standing s := by
  unfold modSaved
  split
  · rfl
  · dsimp only
    split
    · rfl
    · exact standing_devicePut _ _ _

theorem standing_modWaveUid (core uid : Nat) (f : Wave → Wave) : standing (s.modWaveUid core uid f) = standing s := by
  unfold State.modWaveUid
  split
  · rfl
  · exact standing_modSaved _ _ _ _

theorem standing_abandonRig (key : Nat) : standing (abandonRig s key) = standing s := by
  unfold abandonRig
  split
  · rfl
  · refine (foldl_keeps standing _ (fun s x => ?_) _ _).trans rfl
    exact (standing_modWaveUid _ _ _ _).trans rfl

theorem standing_abandonOf (l : Nat) : standing (abandonOf s l) = standing s :=
  foldl_keeps standing _ (fun s _ => standing_abandonRig s _) _ _

theorem standing_modLaunch (l : Nat) (f : Launch → Launch) : standing (s.modLaunch l f) = standing s := by
  unfold State.modLaunch; split <;> rfl

theorem standing_killLaunch (l : Nat) : standing (killLaunch s l) = standing s :=
  (standing_modLaunch (abandonOf s l) l _).trans (standing_abandonOf s l)

theorem standing_dropRequests (core : Nat) : standing (dropRequests s core) = standing s := by
  refine foldl_keeps standing _ (fun s r => ?_) _ _
  dsimp only
  split
  · exact standing_leaveFifo _ _ _
  · rfl

theorem standing_setRigs (m : Map Rig) : standing { s with rigs := m } = standing s := rfl

theorem standing_dropRigs (core : Nat) : standing (dropRigs s core) = standing s := by
  refine foldl_keeps standing _ (fun s r => ?_) _ _
  exact (standing_setRigs _ _).trans (standing_abandonRig s r.1)

theorem standing_setCore (c : Nat) (k : Core) : standing (s.setCore c k) = standing s := rfl
theorem standing_modCluster (k : Nat) (f : Cluster → Cluster) : standing (s.modCluster k f) = standing s := rfl
theorem standing_modDie (d : Nat) (f : Die → Die) : standing (s.modDie d f) = standing s := rfl
theorem standing_leaveDirectory (core : Nat) : standing (leaveDirectory s core) = standing s := rfl
theorem standing_leavePlacement (core : Nat) : standing (leavePlacement s core) = standing s := rfl

theorem standing_fenceCore (core : Nat) : standing (fenceCore s core) = standing s := by
  unfold fenceCore
  split
  · rfl
  · dsimp only
    rw [standing_leavePlacement, foldl_keeps standing _ fun s t => standing_sendMsg s _ _ _ _ _, standing_modCluster, standing_setCore,
      standing_leaveDirectory, standing_dropRigs, standing_dropRequests, foldl_keeps standing _ standing_killLaunch]

theorem standing_fenceCluster (k : Nat) : standing (fenceCluster s k) = standing s := by
  unfold fenceCluster
  dsimp only
  rw [foldl_keeps standing _ standing_fenceCore, standing_modCluster, foldl_keeps standing _ standing_killLaunch]

theorem standing_freezeOutputs (p : Nat) : standing (freezeOutputs s p) = standing s := by
  refine foldl_keeps standing _ (fun s o => ?_) _ _
  dsimp only
  split <;> rfl

theorem standing_freezeFenced (d : Nat) : standing (freezeFenced s d) = standing s := by
  unfold freezeFenced
  dsimp only
  split
  · split
    · exact standing_freezeOutputs _ _
    · rfl
  · rfl

theorem standing_emit (l : List Sent) : standing (emit s l) = standing s := rfl
theorem standing_setReplace (b : Bool) : standing { s with mgmt := { s.mgmt with replace := b } } = standing s := rfl

theorem standing_fence (cluster : Bool) (n : Nat) : standing (fence s cluster n) = standing s := by
  unfold fence
  dsimp only
  rw [standing_emit, standing_setReplace, standing_freezeFenced]
  split
  · exact standing_fenceCluster _ _
  · exact standing_fenceCore _ _

theorem standing_setDirty (m : Map (List Byte)) : standing { s with dirty := m } = standing s := rfl
theorem standing_modSlice (p : Nat) (f : Slice → Slice) : standing (s.modSlice p f) = standing s := rfl

theorem standing_dropDirty (l : List Nat) : standing (l.foldl (fun s l => { s with dirty := s.dirty.del l }) s) = standing s :=
  foldl_keeps standing _ (fun s _ => standing_setDirty s _) _ _

theorem standing_setVisitors (l : List (Nat × Copy)) : standing { s with visitors := l } = standing s := rfl

theorem standing_changeWay (p w : Nat) (scratch : Bool) : standing (changeWay s p w scratch) = standing s := by
  unfold changeWay
  dsimp only
  rw [standing_setVisitors, standing_modSlice, standing_dropDirty]
  rfl

theorem standing_disableWay (p w : Nat) : standing (disableWay s p w) = standing s := by
  unfold disableWay
  change standing (List.foldl (fun (s : State) (l : Nat) => { s with dirty := s.dirty.del l }) _ _) = _
  rw [standing_dropDirty]
  change standing (if bitAt (sliceScratch s p) w = true then changeWay s p w false else s) = _
  split
  · exact standing_changeWay _ _ _ _
  · rfl

/-! ### Bring-up -/

theorem standing_selfTest : standing (selfTest s) = standing s := by
  unfold selfTest
  dsimp only
  rw [foldl_keeps standing _ (fun s (x : Nat × Nat) => standing_disableWay s x.1 x.2), foldl_keeps standing _ fun s c => standing_fence s false c,
    foldl_keeps standing _ fun s k => standing_fence s true k]

theorem standing_allocate : standing (allocate s) = standing s := by
  unfold allocate
  dsimp only
  rw [foldl_keeps standing _ fun s d => standing_modDie s d _, foldl_keeps standing _ fun s k => standing_modCluster s k _,
    foldl_keeps standing _ fun s c => standing_modCore s c _]

/-- What a supervisor's start does, but for the memory that the firmware fills. -/
theorem startSupervisor_eq (core : Nat) : ∃ m : Memory, startSupervisor s core =
    ({ s with fresh := s.fresh + 1, mem := m }.modCore core fun k =>
      { k with slots := k.slots.put 0 { supWave s.fresh with pc := Config.firmwareEntry core } }) := by
  unfold startSupervisor
  exact ⟨_, rfl⟩

theorem standing_startSupervisor (core : Nat) : standing (startSupervisor s core) = standing s := by
  obtain ⟨m, hm⟩ := startSupervisor_eq s core
  rw [hm]
  rfl

theorem standing_startBoot : standing (startBoot s) = standing s := by
  unfold startBoot
  refine (foldl_keeps standing _ (fun s d => ?_) _ _).trans (foldl_keeps standing _ (fun s k => standing_startSupervisor s (6144 + k)) _ _)
  split
  · rfl
  · rw [standing_startSupervisor, standing_modDie]

end Sys2Proof.Machine
end

section
/-!
PROOFS. O5, O7: no step leaves a bundle half done; what reset leaves.
-/
namespace Sys2Proof.Machine

/-! ## Between steps -/

theorem atRest_iff_standing (s : State) : atRest s ↔ (standing s).1 = none ∧ (standing s).2.1 = [] := Iff.rfl

theorem atRest_of_standing {s t : State} (h : standing t = standing s) (hs : atRest s) : atRest t := by
  rw [atRest_iff_standing, h]
  exact hs

theorem atRest_modMgmt {s : State} (f : Mgmt → Mgmt) (h : atRest s) : atRest (s.modMgmt f) := h

theorem atRest_bootStep {s : State} (h : atRest s) : atRest (bootStep s) := by
  have htest : atRest (selfTest s) := atRest_of_standing (standing_selfTest s) h
  have halloc : atRest (allocate s) := atRest_of_standing (standing_allocate s) h
  have hboot : atRest (startBoot s) := atRest_of_standing (standing_startBoot s) h
  unfold bootStep startImages bringUpFails
  dsimp only
  split
  · exact h
  · split
    · exact atRest_modMgmt _ h
    · split <;> exact atRest_modMgmt _ h
    · split <;> exact atRest_modMgmt _ h
    · split <;> exact atRest_modMgmt _ htest
    · exact atRest_modMgmt _ halloc
    · split
      · exact atRest_modMgmt _ hboot
      · exact atRest_modMgmt _ h
    · exact h

theorem atRest_nextDue {s : State} (h : atRest s) : atRest (nextEvent.nextDue s).2 := by
  unfold nextEvent.nextDue
  split
  · exact h
  · exact h
  · split
    · exact h
    · exact atRest_bootStep (atRest_of_standing (standing_pumpDev _ _) h)

theorem atRest_nextEvent {s : State} (h : atRest s) : atRest (nextEvent s).2 := by
  unfold nextEvent
  split
  · split
    · exact h
    · exact atRest_nextDue h
  · exact atRest_nextDue h

/-- However many operations are left, the bundle is over after them. -/
theorem atRest_of_drain {n : Nat} {s t : State} (h : drain n s = .next t) : atRest t := by
  induction n generalizing s with
  | zero =>
    cases h
    exact ⟨rfl, rfl⟩
  | succ n ih =>
    unfold drain at h
    split at h
    · next htodo =>
      cases h
      exact ⟨rfl, htodo⟩
    · split at h
      · exact ih h
      · cases h
      · cases h

/-- Settles O5: the step either runs no bundle, or drains the one that it runs. -/
theorem noBundleBetweenSteps : Obligations.NoBundleBetweenSteps := by
  intro s t hs h
  have hnext : atRest (nextEvent s).2 := atRest_nextEvent hs
  unfold step at h
  split at h
  · next heq =>
    cases h
    rw [heq] at hnext
    exact hnext
  · next heq =>
    rw [heq] at hnext
    split at h
    · cases h
      exact hnext
    · split at h
      · split at h
        · exact atRest_of_drain h
        · cases h
        · cases h
      · cases h

/-! ## Reset -/

theorem resetIsAtRest : Claims.ResetIsAtRest := ⟨⟨rfl, rfl⟩, rfl⟩

theorem helmcore_reset (d : Nat) : bits (Die.reset d).helmcore 12 0 = (d * 1024 + 1023) % 8192 := by
  show (((0x1C0 <<< 32) + (0x140 <<< 16) + (d * 1024 + 1023)) >>> 0) % 2 ^ 13 = _
  simp only [Nat.shiftRight_zero]
  norm_num
  omega

theorem partEn_reset (p : Nat) (h : p ≠ 0) : partEn (Part.reset p).cfg = false := by
  simp [Part.reset, partcfgReset, h, partEn]

theorem outcfg_reset (o : Nat) :
    outcfg State.reset o 0 = 2 ^ 62 + 16666667 ∧ outcfg State.reset o 1 = 0 ∧ outcfg State.reset o 2 = 4 := by
  have hout : State.reset.output o = Output.reset := rfl
  simp [outcfg, hout, Output.reset, bit]

theorem resetValues : Claims.ResetValues :=
  ⟨fun _ => ⟨rfl, rfl, rfl, rfl, rfl, rfl, rfl, rfl, rfl⟩, fun d => ⟨rfl, rfl, rfl, helmcore_reset d⟩, by decide, by decide, partEn_reset,
    by decide, by decide, outcfg_reset, rfl, rfl, rfl, fun _ => rfl, rfl, rfl, rfl⟩

/-- Settles O7. -/
theorem resetState : Obligations.ResetState := ⟨resetValues, resetIsAtRest⟩

end Sys2Proof.Machine
end

section
/-!
PROOFS. O60: RESET, the steps of bring-up, THERMTRIP.
-/
namespace Sys2Proof.Machine

/-! ## RESET, bring-up and THERMTRIP -/

theorem die_modDie_other (s : State) (d n : Nat) (f : Die → Die) (h : n ≠ d) : (s.modDie d f).die n = s.die n := by
  simp [State.die, State.modDie, State.setDie, Map.find_put_other _ _ _ _ h]

theorem die_modMgmt (s : State) (f : Mgmt → Mgmt) (d : Nat) : (s.modMgmt f).die d = s.die d := rfl

/-- A supervisor wave stands in slot 0 of the core, at the entry that its firmware has. -/
def bootsOn (t : State) (core : Nat) : Prop :=
  ∃ w, (t.core core).slots.find 0 = some w ∧ w.t.sup = true ∧ w.t.lid = none ∧ w.t.wait = .none ∧ w.pc = Config.firmwareEntry core

theorem bootsOn_startSupervisor (s : State) (core : Nat) : bootsOn (startSupervisor s core) core := by
  obtain ⟨m, hm⟩ := startSupervisor_eq s core
  rw [hm]
  exact ⟨{ supWave s.fresh with pc := Config.firmwareEntry core }, by simp, rfl, rfl, rfl, rfl⟩

theorem core_startSupervisor_other (s : State) (core n : Nat) (h : n ≠ core) : (startSupervisor s core).core n = s.core n := by
  obtain ⟨m, hm⟩ := startSupervisor_eq s core
  rw [hm, core_modCore_other _ _ _ _ h]
  rfl

theorem bootsOn_startSupervisor_of {s : State} {n : Nat} (core : Nat) (h : bootsOn s n) : bootsOn (startSupervisor s core) n := by
  by_cases hn : n = core
  · exact hn ▸ bootsOn_startSupervisor s n
  · unfold bootsOn
    rw [core_startSupervisor_other s core n hn]
    exact h

theorem fenced_startSupervisor (s : State) (core n : Nat) : ((startSupervisor s core).core n).fenced = (s.core n).fenced := by
  by_cases hn : n = core
  · subst hn
    obtain ⟨m, hm⟩ := startSupervisor_eq s n
    rw [hm, core_modCore]
    rfl
  · rw [core_startSupervisor_other s core n hn]

theorem die_startSupervisor (s : State) (core d : Nat) : (startSupervisor s core).die d = s.die d := by
  obtain ⟨m, hm⟩ := startSupervisor_eq s core
  rw [hm]
  rfl

/-- What is true once of a fold's state, and stays true, is true at its end. -/
theorem foldl_stays {α β : Type} {p : α → Prop} {f : α → β → α} (h : ∀ s x, p s → p (f s x)) (l : List β) (s : α) (hs : p s) :
    p (l.foldl f s) := by
  induction l generalizing s with
  | nil => exact hs
  | cons x l ih => exact ih _ (h s x hs)

/-- What a step of a fold makes true of its state, and the others keep, is true at its end. -/
theorem foldl_reaches {α β : Type} {p q : α → Prop} {f : α → β → α} {a : β} (hq : ∀ s x, q s → q (f s x)) (ha : ∀ s, q s → p (f s a))
    (h : ∀ s x, q s → p s → p (f s x)) (l : List β) (hl : a ∈ l) (s : α) (hs : q s) : p (l.foldl f s) := by
  induction l generalizing s with
  | nil => cases hl
  | cons x l ih =>
    obtain rfl | hl := List.mem_cons.mp hl
    · exact (foldl_stays (p := fun s => q s ∧ p s) (fun s x hs => ⟨hq s x hs.1, h s x hs.1 hs.2⟩) l _ ⟨hq s a hs, ha s hs⟩).2
    · exact ih hl _ (hq s x hs)

/-- Table 16.3, step 6, of one die: its helm core is chosen and started. -/
def startHelm (s : State) (d : Nat) : State :=
  (chooseHelm s d).elim s fun c => startSupervisor (s.modDie d fun x => { x with helmcore := x.helmcore / 2 ^ 13 * 2 ^ 13 + c }) c

theorem startHelm_some {s : State} {d c : Nat} (h : chooseHelm s d = some c) :
    startHelm s d = startSupervisor (s.modDie d fun x => { x with helmcore := x.helmcore / 2 ^ 13 * 2 ^ 13 + c }) c := by
  unfold startHelm
  rw [h, Option.elim_some]

theorem startHelm_none {s : State} {d : Nat} (h : chooseHelm s d = none) : startHelm s d = s := by
  unfold startHelm
  rw [h, Option.elim_none]

/-- The service cores that start: those that are not fenced. -/
def startServices (s : State) : State :=
  ((List.range 384).filter fun k => !(s.core (6144 + k)).fenced).foldl (fun s k => startSupervisor s (6144 + k)) s

theorem startBoot_eq (s : State) : startBoot s = (List.range 6).foldl startHelm (startServices s) := by
  unfold startBoot
  refine congrFun (congrFun (congrArg List.foldl (funext fun t => funext fun d => ?_)) _) _
  unfold startHelm
  generalize chooseHelm t d = y
  cases y <;> rfl

theorem chooseHelm_congr {s t : State} (h : ∀ n, (t.core n).fenced = (s.core n).fenced) (d : Nat) : chooseHelm t d = chooseHelm s d := by
  unfold chooseHelm
  simp only [h]

theorem chooseHelm_lt {s : State} {d c : Nat} (hd : d < 6) (h : chooseHelm s d = some c) : c < 8192 := by
  obtain ⟨i, -, rfl⟩ := List.mem_map.mp (List.mem_of_find?_eq_some h)
  omega

theorem fenced_startHelm (s : State) (d n : Nat) : ((startHelm s d).core n).fenced = (s.core n).fenced := by
  cases h : chooseHelm s d with
  | none => rw [startHelm_none h]
  | some c => rw [startHelm_some h, fenced_startSupervisor, core_modDie]

theorem fenced_startServices (s : State) (n : Nat) : ((startServices s).core n).fenced = (s.core n).fenced := by
  unfold startServices
  exact foldl_keeps (fun s => (s.core n).fenced) _ (fun s k => fenced_startSupervisor s (6144 + k) n) _ _

theorem bootsOn_startHelm_of {s : State} {n : Nat} (d : Nat) (hs : bootsOn s n) : bootsOn (startHelm s d) n := by
  cases h : chooseHelm s d with
  | none =>
    rw [startHelm_none h]
    exact hs
  | some c =>
    rw [startHelm_some h]
    exact bootsOn_startSupervisor_of _ hs

/-- Core c is started as the helm core of die d, which HELMCORE names. -/
def helmStarted (d c : Nat) (t : State) : Prop := bootsOn t c ∧ bits (t.die d).helmcore 12 0 = c

theorem helmStarted_startHelm {s : State} {d c : Nat} (hd : d < 6) (h : chooseHelm s d = some c) : helmStarted d c (startHelm s d) := by
  have hc : c < 8192 := chooseHelm_lt hd h
  rw [startHelm_some h]
  refine ⟨bootsOn_startSupervisor _ _, ?_⟩
  rw [die_startSupervisor, die_modDie]
  show (((s.die d).helmcore / 2 ^ 13 * 2 ^ 13 + c) >>> 0) % 2 ^ 13 = c
  rw [Nat.shiftRight_zero]
  omega

theorem helmStarted_startHelm_of {s : State} {d c : Nat} (hd : d < 6) (h : chooseHelm s d = some c) (n : Nat) (hs : helmStarted d c s) :
    helmStarted d c (startHelm s n) := by
  by_cases hn : d = n
  · exact hn ▸ helmStarted_startHelm hd h
  · refine ⟨bootsOn_startHelm_of n hs.1, ?_⟩
    cases hn' : chooseHelm s n with
    | none =>
      rw [startHelm_none hn']
      exact hs.2
    | some c' =>
      rw [startHelm_some hn', die_startSupervisor, die_modDie_other _ _ _ _ hn]
      exact hs.2

/-- Of cores that start one after the other, each has started at the end. -/
theorem bootsOn_foldl (g : Nat → Nat) (l : List Nat) {k : Nat} (hk : k ∈ l) (s : State) :
    bootsOn (l.foldl (fun s k => startSupervisor s (g k)) s) (g k) := by
  induction l generalizing s with
  | nil => cases hk
  | cons j l ih =>
    rw [List.foldl_cons]
    obtain rfl | hk := List.mem_cons.mp hk
    · exact foldl_stays (p := fun s => bootsOn s (g k)) (fun s j h => bootsOn_startSupervisor_of (g j) h) l _ (bootsOn_startSupervisor s (g k))
    · exact ih hk _

/-- Each service core that is not fenced starts. -/
theorem startBoot_services (s : State) (k : Nat) (hk : k < 384) (hf : (s.core (6144 + k)).fenced = false) : bootsOn (startBoot s) (6144 + k) := by
  rw [startBoot_eq]
  refine foldl_stays (p := fun s => bootsOn s (6144 + k)) (fun s d h => bootsOn_startHelm_of d h) _ _ ?_
  unfold startServices
  exact bootsOn_foldl (fun k => 6144 + k) _ (List.mem_filter.mpr ⟨List.mem_range.mpr hk, by rw [hf]; rfl⟩) s

/-- Each die's helm core starts. -/
theorem startBoot_helms (s : State) (d c : Nat) (hd : d < 6) (hc : chooseHelm s d = some c) : helmStarted d c (startBoot s) := by
  rw [startBoot_eq]
  refine foldl_reaches (q := fun t => chooseHelm t d = some c) (fun t n h => ?_) (fun t h => helmStarted_startHelm hd h)
    (fun t n h ht => helmStarted_startHelm_of hd h n ht) (List.range 6) (List.mem_range.mpr hd) _ ?_
  · rw [chooseHelm_congr (fenced_startHelm t n), h]
  · rw [chooseHelm_congr (fenced_startServices s), hc]

/-! ### The steps of Table 16.3 -/

/-- Where bring-up stands: BOOTSTAT, and whether the package is halted. -/
theorem bootstat_of_standing {s t : State} (h : standing t = standing s) : t.mgmt.bootstat = s.mgmt.bootstat ∧ t.mgmt.halted = s.mgmt.halted := by
  simp only [standing, Prod.mk.injEq] at h
  exact ⟨h.2.2.1, h.2.2.2⟩

theorem bootStep_live {s : State} (hb : s.mgmt.booting = true) (hh : s.mgmt.halted = false) : bootStep s =
    match s.mgmt.bootstat with
    | 1 => s.modMgmt fun m => { m with bootstat := m.bootstat + 1 }
    | 2 => if imageRuns 0 then s.modMgmt fun m => { m with bootstat := m.bootstat + 1 } else bringUpFails s 0x12
    | 3 => if Config.stepPasses 3 then s.modMgmt fun m => { m with bootstat := m.bootstat + 1 } else bringUpFails s 0x13
    | 4 => if slicesShort (selfTest s) then bringUpFails (selfTest s) 0x14
      else (selfTest s).modMgmt fun m => { m with bootstat := m.bootstat + 1 }
    | 5 => (allocate s).modMgmt fun m => { m with bootstat := m.bootstat + 1 }
    | 6 => startImages s
    | _ => s := by
  simp only [bootStep, hb, hh, Bool.not_true, Bool.or_self, Bool.false_eq_true, if_false] <;> rfl

theorem firmwareArea_in_region (kind unit : Nat) :
    Config.firmwareLo ≤ (firmwareArea kind unit).toNat ∧ (firmwareArea kind unit).toNat ≤ Config.firmwareHi := by
  have hpage := Nat.mod_lt (Config.firmwarePage kind unit) (show 0 < 524288 - 255 by decide)
  unfold firmwareArea word Config.firmwareLo Config.firmwareHi
  rw [BitVec.toNat_ofNat, Nat.mod_eq_of_lt (by omega)]
  omega

/-- Step 5 gives every core its spill area. -/
theorem spillBase_allocate (s : State) (c : Nat) (hc : c < 6528) : ((allocate s).core c).spillBase = firmwareArea 0 c := by
  unfold allocate
  dsimp only
  rw [foldl_keeps (fun s => (s.core c).spillBase) _ fun s d => congrArg Core.spillBase (core_modDie s c d _),
    foldl_keeps (fun s => (s.core c).spillBase) _ fun s k => congrArg Core.spillBase (core_modCluster s c k _)]
  refine foldl_reaches (p := fun s => (s.core c).spillBase = firmwareArea 0 c) (q := fun _ => True) (fun _ _ h => h) (fun s _ => ?_) (fun s n _ h => ?_) _
    (List.mem_range.mpr hc) s trivial
  · rw [core_modCore]
  · by_cases hn : c = n
    · subst hn
      rw [core_modCore]
    · rw [core_modCore_other _ _ _ _ hn]
      exact h

/-- What a step of Table 16.3 leaves of BOOTSTAT. -/
theorem bootStep_bootstat (s : State) (hb : s.mgmt.booting = true) (hh : s.mgmt.halted = false) :
    let b := (bootStep s).mgmt
    let fails := fun code : Nat => b.bootstat = code ∧ b.halted = true ∧ b.ready = s.mgmt.ready
    let goesOn := b.bootstat = s.mgmt.bootstat + 1 ∧ b.halted = false
    (s.mgmt.bootstat = 1 → goesOn) ∧
    (s.mgmt.bootstat = 2 → (imageRuns 0 = false → fails 0x12) ∧ (imageRuns 0 = true → goesOn)) ∧
    (s.mgmt.bootstat = 3 → (Config.stepPasses 3 = false → fails 0x13) ∧ (Config.stepPasses 3 = true → goesOn)) ∧
    (s.mgmt.bootstat = 4 → (slicesShort (selfTest s) = true → b.bootstat = 0x14 ∧ b.halted = true) ∧
      (slicesShort (selfTest s) = false → goesOn)) ∧
    (s.mgmt.bootstat = 5 → goesOn ∧ ∀ c, c < 6528 → Config.firmwareLo ≤ ((bootStep s).core c).spillBase.toNat ∧
      ((bootStep s).core c).spillBase.toNat ≤ Config.firmwareHi) ∧
    (s.mgmt.bootstat = 6 → imageRuns 1 = false ∨ imageRuns 2 = false → fails 0x16) := by
  obtain ⟨htest, htestHalted⟩ := bootstat_of_standing (standing_selfTest s)
  obtain ⟨halloc, hallocHalted⟩ := bootstat_of_standing (standing_allocate s)
  rw [bootStep_live hb hh]
  refine ⟨fun h => ?_, fun h => ⟨fun hi => ?_, fun hi => ?_⟩, fun h => ⟨fun hi => ?_, fun hi => ?_⟩, fun h => ⟨fun hi => ?_, fun hi => ?_⟩,
    fun h => ⟨?_, fun c hc => ?_⟩, fun h hi => ?_⟩
  · simp [h, hh]
  · simp [h, hi, bringUpFails]
  · simp [h, hi, hh]
  · simp [h, hi, bringUpFails]
  · simp [h, hi, hh]
  · simp [h, hi, bringUpFails]
  · simp [h, hi, htest, htestHalted, hh]
  · simp [h, halloc, hallocHalted, hh]
  · simp only [h]
    rw [core_modMgmt, spillBase_allocate s c hc]
    exact firmwareArea_in_region 0 c
  · obtain hi | hi := hi <;> simp [h, startImages, hi, bringUpFails]

theorem bootStep_rests (s : State) (h : s.mgmt.booting = false ∨ s.mgmt.halted = true) : bootStep s = s := by
  obtain h | h := h <;> simp [bootStep, h]

/-- Settles O60. -/
theorem resetEvents : Obligations.ResetEvents := by
  refine ⟨fun s => ?_, bootStep_bootstat, fun s hb hh h6 h1 h2 => ?_, bootStep_rests, fun s d => ?_⟩
  · rw [exec_reset]
    refine ⟨_, rfl, ?_⟩
    dsimp only
    split
    · next h => exact ⟨rfl, rfl, rfl, rfl, rfl, rfl, ⟨rfl, rfl⟩, rfl, rfl, rfl, rfl, rfl, rfl, h.symm⟩
    · next h => exact ⟨rfl, rfl, rfl, rfl, rfl, rfl, ⟨rfl, rfl⟩, rfl, rfl, rfl, rfl, rfl, rfl, (Bool.eq_false_iff.mpr h).symm⟩
  · have hstep : bootStep s = (startBoot s).modMgmt fun m => { m with bootstat := 7, ready := true, booting := false } := by
      rw [bootStep_live hb hh]
      simp only [h6, startImages, h1, h2, Bool.and_self, if_true]
    dsimp only
    rw [hstep]
    refine ⟨rfl, rfl, rfl, fun k hk hf => ?_, fun d c hd hc => ?_⟩
    · have hboots := startBoot_services s k hk hf
      unfold bootsOn at hboots
      rw [core_modMgmt]
      exact hboots
    · obtain ⟨hboots, hnames⟩ := startBoot_helms s d c hd hc
      unfold bootsOn at hboots
      rw [core_modMgmt, die_modMgmt]
      exact ⟨hboots, hnames⟩
  · exact ⟨_, rfl, rfl, rfl, rfl, rfl, by rw [trip, die_modDie]⟩

end Sys2Proof.Machine
end

section
/-!
PROOFS. O43: an issue turn reads its table entry and fetches the bundle of the slot that it names (R14, R16, R17).
-/
namespace Sys2Proof.Machine

/-! ## The state with a core put twice -/

theorem Map.put_put_same {α : Type} (m : Map α) (n : Nat) (a b : α) : (m.put n a).put n b = m.put n b := by
  induction m with
  | nil => simp [Map.put]
  | cons x m ih =>
    obtain ⟨k, v⟩ := x
    by_cases hlt : n < k
    · simp [Map.put, hlt]
    · by_cases heq : n = k
      · simp [Map.put, heq]
      · simp [Map.put, hlt, heq, ih]

theorem setCore_setCore (s : State) (c : Nat) (k k' : Core) : (s.setCore c k).setCore c k' = s.setCore c k' := by
  simp only [State.setCore, Map.put_put_same]

theorem modCore_of_fixed {s : State} {c : Nat} {f : Core → Core} (h : f (s.core c) = s.core c) : s.modCore c f = s.setCore c (s.core c) := by
  unfold State.modCore
  rw [h]

/-! ## The table entry of a turn -/

/-- The state of a turn that has read its table entry. -/
def turnRead (s : State) (core : Nat) : State := s.setCore core { s.core core with lastRead := some s.clk }

theorem core_turnRead (s : State) (core : Nat) : (turnRead s core).core core = { s.core core with lastRead := some s.clk } := core_setCore _ _ _

/-- Without a table to install, a turn reads the entry of the clk and notes that it has. -/
theorem readTable_inForce {s : State} {core : Nat} (h : (s.core core).trimNew = none) :
    readTable s core = ((s.core core).trim.getD (tablePtr s) 8, turnRead s core) := by
  unfold readTable
  rw [modCore_of_fixed (by rw [h])]
  dsimp only
  rw [core_setCore, setCore_setCore]
  rfl

theorem quantumExpire_early {s : State} {core : Nat} (h : (s.core core).count < 256) : quantumExpire s core = s := by
  simp [quantumExpire, Nat.not_le.mpr h]

/-- No fibre is discarded while the one that slot 7 holds, or would take, lives. -/
theorem discardDead_alive {s : State} {core : Nat} (n : Nat)
    (h : ∀ e x, slotFibre s core = some e → (s.core core).rq.find e = some x → launchDead s x.t = false) : discardDead n s core = s := by
  cases n with
  | zero => rfl
  | succ n =>
    unfold discardDead
    cases hf : slotFibre s core with
    | none => rfl
    | some e =>
      cases hx : (s.core core).rq.find e with
      | none => simp [hx]
      | some x => simp [hx, h e x hf hx]

theorem pickSlot_named {s : State} {core n : Nat} (hn : n < 8) (h : issuable s core n = true) : pickSlot s core n = some n := by
  simp [pickSlot, List.range_succ_eq_map, Nat.mod_eq_of_lt hn, h]

/-- A wave slot in the rotation whose last turn is eight clk past is issuable. -/
theorem issuable_wave {s : State} {core n : Nat} {w : Wave} (hn : n < 7) (hw : (s.core core).slots.find n = some w)
    (hwait : w.t.wait = .none) (hsince : w.t.since ≤ s.clk) (hsaving : w.saving = 0)
    (hturn : ∀ t, (s.core core).turns.find n = some t → t + 8 ≤ s.clk) : issuable s core n = true := by
  have hn7 : n ≠ 7 := by omega
  cases ht : (s.core core).turns.find n with
  | none => simp [issuable, hn7, hw, ht, waveIssuable, hwait, hsaving, hsince]
  | some t => simp [issuable, hn7, hw, ht, waveIssuable, hwait, hsaving, hsince, hturn t ht]

/-- Slot 7 is issuable with the fibre that it holds. -/
theorem issuable_held {s : State} {core e : Nat} (he : (s.core core).held = some e)
    (hturn : ∀ t, (s.core core).turns.find 7 = some t → t + 8 ≤ s.clk) : issuable s core 7 = true := by
  cases ht : (s.core core).turns.find 7 with
  | none => simp [issuable, he, ht]
  | some t => simp [issuable, he, ht, hturn t ht]

theorem takeFibre_held {s : State} {core e : Nat} (he : (s.core core).held = some e) : takeFibre s core = s := by
  unfold takeFibre
  rw [he]

theorem slotFibre_held {s : State} {core e : Nat} (he : (s.core core).held = some e) : slotFibre s core = some e := by
  unfold slotFibre
  rw [he]

/-- Reading the table changes nothing that slot 7 looks at. -/
theorem slotFibre_turnRead (s : State) (core : Nat) : slotFibre (turnRead s core) core = slotFibre s core := by
  simp only [slotFibre, oldestReady, readyEntries, core_turnRead]
  rfl

theorem useTurn_turnRead (s : State) (core n : Nat) : useTurn (turnRead s core) core n = s.setCore core
    { s.core core with lastRead := some s.clk, turns := (s.core core).turns.put n s.clk,
                       count := if n = 7 then (s.core core).count + 1 else (s.core core).count } := by
  unfold useTurn State.modCore
  rw [core_turnRead]
  exact setCore_setCore _ _ _ _

/-- A turn whose entry names an issuable slot: nothing of slot 7 expires or is discarded, and the slot's bundle is fetched. -/
theorem execIssueTurn_entry {s : State} {core n : Nat} (hread : (s.core core).lastRead ≠ some s.clk) (hfenced : (s.core core).fenced = false)
    (htrim : (s.core core).trimNew = none) (hentry : (s.core core).trim.getD (tablePtr s) 8 = n) (hn : n < 8)
    (hwithheld : withheld s core n = false) (hcount : (s.core core).count < 256)
    (halive : ∀ e x, slotFibre s core = some e → (s.core core).rq.find e = some x → launchDead s x.t = false)
    (hissuable : issuable (turnRead s core) core n = true) : execIssueTurn core s =
      .next (fetchBundle (useTurn (if n = 7 then takeFibre (turnRead s core) core else turnRead s core) core n) core n) := by
  have hn8 : n ≠ 8 := by omega
  have hpower : withheld (turnRead s core) core n = false := hwithheld
  have hexpire : quantumExpire (turnRead s core) core = turnRead s core := quantumExpire_early (by rwa [core_turnRead])
  have hkept (m : Nat) : discardDead m (turnRead s core) core = turnRead s core :=
    discardDead_alive m (by rw [slotFibre_turnRead, core_turnRead]; exact halive)
  simp only [execIssueTurn, beq_eq_false_iff_ne.mpr hread, hfenced, Bool.or_self, Bool.false_eq_true, if_false, readTable_inForce htrim, hentry,
    hn8, hpower, hexpire, hkept, pickSlot_named hn hissuable]

/-- Settles O43. -/
theorem issueTurns : Obligations.IssueTurns := by
  intro s core
  dsimp only
  rw [exec_issueTurn]
  refine ⟨fun h => ?_, fun hread hfenced htrim => ⟨fun h8 => ?_, ?_⟩, ?_⟩
  · obtain h | h := h <;> simp [execIssueTurn, h]
  · simp only [execIssueTurn, beq_eq_false_iff_ne.mpr hread, hfenced, Bool.or_self, Bool.false_eq_true, if_false, readTable_inForce htrim, h8,
      if_true, turnRead]
  · intro n w hentry hn hwithheld hcount halive hw hwait hsince hsaving hturn
    have hn7 : n ≠ 7 := by omega
    have hissuable : issuable (turnRead s core) core n = true :=
      issuable_wave hn (by rwa [core_turnRead]) hwait hsince hsaving (by rwa [core_turnRead])
    rw [execIssueTurn_entry hread hfenced htrim hentry (by omega) hwithheld hcount halive hissuable, if_neg hn7, useTurn_turnRead, if_neg hn7]
  · intro e x hread hfenced htrim hentry hheld hcount hx halive hturn
    have hlives : ∀ f y, slotFibre s core = some f → (s.core core).rq.find f = some y → launchDead s y.t = false := by
      intro f y hf hy
      cases (slotFibre_held hheld).symm.trans hf
      cases hx.symm.trans hy
      exact halive
    have hissuable : issuable (turnRead s core) core 7 = true := issuable_held (by rwa [core_turnRead]) (by rwa [core_turnRead])
    rw [execIssueTurn_entry hread hfenced htrim hentry (by omega) rfl hcount hlives hissuable, if_pos rfl,
      takeFibre_held (by rwa [core_turnRead]), useTurn_turnRead, if_pos rfl]

end Sys2Proof.Machine
end

section
/-!
PROOFS. The device's own writes: they leave the cores and the launches as they are, and depend on memory and on what decides how a write performs.
-/
namespace Sys2Proof.Machine

/-! ## Device writes and the cores -/

/-- The cores and the launches. -/
def residents (s : State) : Map Core × Map Launch := (s.cores, s.launches)

section
variable (s : State)

theorem residents_sendMsg (vc : VC) (src dst : Node) (gate : Nat) (b : Body) : residents (sendMsg s vc src dst gate b) = residents s := rfl

theorem residents_modReq (id : Nat) (f : Req → Req) : residents (s.modReq id f) = residents s := by
  unfold State.modReq; split <;> rfl

theorem residents_askHost (line : Nat) : residents (askHost s line) = residents s := by
  unfold askHost
  split
  · split <;> rfl
  · rfl

theorem residents_retag (line tag : Nat) : residents (retag s line tag) = residents s := by
  unfold retag; dsimp only; split <;> rfl

theorem residents_endWindow (line : Nat) : residents (endWindow s line) = residents s := by
  unfold endWindow
  split
  · rfl
  · dsimp only
    split
    · rfl
    · refine foldl_keeps residents _ (fun s id => ?_) _ _
      split
      · rfl
      · exact (residents_sendMsg _ _ _ _ _ _).trans (residents_modReq _ _ _)

theorem residents_writeOne (k : Nat) (x : Nat × Byte) : residents (writeOne s k x) = residents s := by
  unfold writeOne
  rcases spadTarget s k x.1 with ⟨a, lat⟩
  cases lat with
  | some lat => cases pwinOf x.1 <;> rfl
  | none =>
    cases pwinOf x.1 with
    | spad q =>
      dsimp only
      split <;> rfl
    | _ => rfl

theorem residents_soil (line : Nat) (old : List Byte) : residents (soil s line old) = residents s := by
  unfold soil; split <;> rfl

/-- A device's writes are no core's. -/
theorem notePast_noCore (line : Nat) : residents (notePast s noCore line) = residents s := rfl

theorem residents_performBytes (l : List (Nat × Byte)) : residents (performBytes s noCore l) = residents s := by
  unfold performBytes
  split
  · rfl
  · next x l =>
    rw [residents_soil]
    calc _ = residents (notePast (endWindow s (lineOf x.1)) noCore (lineOf x.1)) :=
          foldl_keeps residents _ (fun s y => residents_writeOne s _ y) (x :: l) _
      _ = residents s := by rw [notePast_noCore, residents_endWindow]

theorem residents_devWriteLine (l : List (Nat × Byte)) : residents (devWriteLine s l) = residents s := by
  unfold devWriteLine
  split
  · rfl
  · rw [residents_performBytes]
    split
    · exact residents_retag _ _ _
    · rfl

theorem residents_devWrite (l : List (Nat × Byte)) : residents (devWrite s l) = residents s := by
  unfold devWrite
  split
  · rfl
  · split
    · exact residents_devWriteLine _ _
    · exact residents_askHost _ _

theorem residents_devicePut (a : Nat) (l : List Nat) : residents (devicePut s a l) = residents s :=
  foldl_keeps residents devWrite residents_devWrite _ _

theorem core_devicePut (a : Nat) (l : List Nat) (c : Nat) : (devicePut s a l).core c = s.core c := by
  unfold State.core
  rw [show (devicePut s a l).cores = s.cores from congrArg Prod.fst (residents_devicePut s a l)]

theorem launches_devicePut (a : Nat) (l : List Nat) : (devicePut s a l).launches = s.launches := congrArg Prod.snd (residents_devicePut s a l)

end

/-! ## What device writes look at -/

/-- Memory, and what decides how a write of the device performs: the lines that the host holds, the waiting writes, the queues at the lines,
the keys of the lines, the windows of the tiles. -/
structure DevView where
  mem : Memory
  holds : Nat → Bool → Bool
  devWait : List (List (Nat × Byte))
  fifos : Map (List Nat)
  lineKeys : Map Nat
  lineOrigin : Map (Option (BitVec 512) × List Byte)
  keys : Map (BitVec 512)
  phase : Nat → Nat → Bool
  window : Nat → Nat

def devView (s : State) : DevView :=
  { mem := s.mem, holds := hostHolds s, devWait := s.devWait, fifos := s.fifos, lineKeys := s.lineKeys, lineOrigin := s.lineOrigin,
    keys := s.mgmt.keys, phase := isPhase s, window := fun q => pwCount (s.cluster q).phasewin }

section
variable (s : State)

theorem devView_sendMsg (vc : VC) (src dst : Node) (gate : Nat) (b : Body) : devView (sendMsg s vc src dst gate b) = devView s := rfl

theorem devView_modReq (id : Nat) (f : Req → Req) : devView (s.modReq id f) = devView s := by
  unfold State.modReq; split <;> rfl

/-- A change of a slice that leaves what the host holds. -/
theorem devView_modSlice (p : Nat) (f : Slice → Slice) (h : ∀ line w, hostHolds (s.modSlice p f) line w = hostHolds s line w) :
    devView (s.modSlice p f) = devView s := by
  unfold devView
  rw [funext fun line => funext (h line)]
  rfl

theorem hostHolds_eq (line : Nat) (w : Bool) : hostHolds s line w =
    ((s.slice (sliceOf (64 * line))).filter.find? fun x => x.line == line).elim false fun x => w || x.owned := by
  unfold hostHolds hostEntry
  generalize List.find? _ _ = o
  cases o <;> rfl

/-- The lines that the host holds are those of its filter that it holds. -/
theorem hostHolds_modSlice (p : Nat) (f : Slice → Slice) (line : Nat) (w : Bool)
    (h : ((f (s.slice p)).filter.find? fun x => x.line == line).elim false (fun x => w || x.owned) =
      ((s.slice p).filter.find? fun x => x.line == line).elim false fun x => w || x.owned) :
    hostHolds (s.modSlice p f) line w = hostHolds s line w := by
  rw [hostHolds_eq, hostHolds_eq]
  by_cases hp : sliceOf (64 * line) = p
  · rw [hp, slice_modSlice, h]
  · rw [slice_modSlice_other _ _ _ _ hp]

theorem devView_modSlice_filter (p : Nat) (f : Slice → Slice) (h : (f (s.slice p)).filter = (s.slice p).filter) :
    devView (s.modSlice p f) = devView s :=
  devView_modSlice s p f fun line w => hostHolds_modSlice s p f line w (by rw [h])

/-- The host is asked to give a line up. -/
def askLine (line : Nat) (y : HostLine) : HostLine := if y.line == line then { y with asked := true } else y

theorem askLine_line (line : Nat) (y : HostLine) : (askLine line y).line = y.line := by unfold askLine; split <;> rfl
theorem askLine_owned (line : Nat) (y : HostLine) : (askLine line y).owned = y.owned := by unfold askLine; split <;> rfl

theorem devView_emit (l : List Sent) : devView (emit s l) = devView s := rfl

/-- Asking the host for a line takes none from it. -/
theorem devView_askHost (line : Nat) : devView (askHost s line) = devView s := by
  unfold askHost
  split
  · split
    · rfl
    · dsimp only
      rw [devView_emit]
      refine devView_modSlice s _ _ fun n w => hostHolds_modSlice s _ _ n w ?_
      change ((List.map (askLine line) _).find? _).elim _ _ = _
      rw [List.find?_map]
      have hline : (fun x : HostLine => x.line == n) ∘ askLine line = fun x => x.line == n := funext fun y => by
        rw [Function.comp_apply, askLine_line]
      rw [hline]
      cases List.find? (fun x : HostLine => x.line == n) (s.slice (sliceOf (64 * line))).filter with
      | none => rfl
      | some y =>
        simp only [Option.map_some, Option.elim_some, askLine_owned]
  · rfl

theorem devView_endWindow (line : Nat) : devView (endWindow s line) = devView s := by
  unfold endWindow
  split
  · rfl
  · dsimp only
    split
    · rfl
    · refine (foldl_keeps devView _ (fun s id => ?_) _ _).trans (devView_modSlice_filter s _ (fun q => { q with windows := _ }) rfl)
      split
      · rfl
      · exact (devView_sendMsg _ _ _ _ _ _).trans (devView_modReq _ _ _)

theorem devView_notePast (line : Nat) : devView (notePast s noCore line) = devView s := rfl

theorem phasewin_modCluster (q n : Nat) (f : Cluster → Cluster) (h : (f (s.cluster q)).phasewin = (s.cluster q).phasewin) :
    ((s.modCluster q f).cluster n).phasewin = (s.cluster n).phasewin := by
  by_cases hn : n = q
  · subst hn
    rw [cluster_modCluster, h]
  · rw [cluster_modCluster_other _ _ _ _ hn]

theorem devView_modCluster (q : Nat) (f : Cluster → Cluster) (h : (f (s.cluster q)).phasewin = (s.cluster q).phasewin) :
    devView (s.modCluster q f) = devView s := by
  have hwin (n : Nat) := phasewin_modCluster s q n f h
  have hphase : isPhase (s.modCluster q f) = isPhase s := funext fun n => funext fun off => by
    unfold isPhase
    rw [hwin]
  unfold devView
  rw [hphase, funext fun n => congrArg pwCount (hwin n)]
  rfl

theorem devView_writeOne (k : Nat) (x : Nat × Byte) :
    devView (writeOne s k x) = { devView s with mem := memWrite s.mem (spadTarget s k x.1).1 x.2 } := by
  unfold writeOne
  rcases spadTarget s k x.1 with ⟨a, lat⟩
  cases lat with
  | some lat =>
    cases pwinOf x.1 with
    | spad q => exact devView_modCluster _ _ _ rfl
    | _ => rfl
  | none =>
    cases pwinOf x.1 with
    | spad q =>
      dsimp only
      split
      · exact devView_modCluster _ _ _ rfl
      · rfl
    | _ => rfl

/-- What a write drops besides: marks, watchers, copies. -/
theorem devView_swept (marks : Map (Nat × List RelMark)) (watchers : Map Nat) (die line : Nat) :
    devView (dropVisitors { s with marks := marks, watchers := watchers } die line) = devView s := rfl

theorem devView_soil (line : Nat) (old : List Byte) : devView (soil s line old) =
    if pwinOf (64 * line) = .hbm then { devView s with lineOrigin := s.lineOrigin.del line } else devView s := by
  unfold soil
  cases pwinOf (64 * line) <;> rfl

end

section
variable {s t : State}

theorem spadTarget_congr (h : devView s = devView t) (k a : Nat) : spadTarget s k a = spadTarget t k a := by
  have hphase : isPhase s = isPhase t := congrArg DevView.phase h
  have hwin (q : Nat) : pwCount (s.cluster q).phasewin = pwCount (t.cluster q).phasewin := congrFun (congrArg DevView.window h) q
  unfold spadTarget
  simp only [hphase, hwin]

theorem devView_writeOne_congr (h : devView s = devView t) (k : Nat) (x : Nat × Byte) :
    devView (writeOne s k x) = devView (writeOne t k x) := by
  rw [devView_writeOne, devView_writeOne, h, spadTarget_congr h, show s.mem = t.mem from congrArg DevView.mem h]

/-- Steps that depend on a view alone. -/
theorem foldl_view_congr {α β γ : Type} {view : α → γ} {f : α → β → α} (hf : ∀ s t x, view s = view t → view (f s x) = view (f t x))
    (l : List β) {s t : α} (h : view s = view t) : view (l.foldl f s) = view (l.foldl f t) := by
  induction l generalizing s t with
  | nil => exact h
  | cons x l ih => exact ih (hf _ _ x h)

theorem devView_soil_congr (h : devView s = devView t) (line : Nat) (old old' : List Byte) :
    devView (soil s line old) = devView (soil t line old') := by
  rw [devView_soil, devView_soil, h, show s.lineOrigin = t.lineOrigin from congrArg DevView.lineOrigin h]

theorem devView_performBytes_congr (h : devView s = devView t) (l : List (Nat × Byte)) :
    devView (performBytes s noCore l) = devView (performBytes t noCore l) := by
  unfold performBytes
  split
  · exact h
  · next x l =>
    have hpast : devView (notePast (endWindow s (lineOf x.1)) noCore (lineOf x.1)) = devView (notePast (endWindow t (lineOf x.1)) noCore (lineOf x.1)) := by
      rw [devView_notePast, devView_notePast, devView_endWindow, devView_endWindow, h]
    have hfold := foldl_view_congr (view := devView) (fun s t y h => devView_writeOne_congr h (clusterOf noCore) y) (x :: l) hpast
    refine devView_soil_congr ?_ _ _ _
    rw [devView_swept, devView_swept]
    exact hfold

theorem devView_setLine_congr (h : devView s = devView t) (mem : Memory) (origin : Map (Option (BitVec 512) × List Byte)) (keys : Map Nat)
    (past past' : List PastLine) (dirty dirty' : Map (List Byte)) :
    devView { s with mem := mem, lineOrigin := origin, lineKeys := keys, past := past, dirty := dirty } =
      devView { t with mem := mem, lineOrigin := origin, lineKeys := keys, past := past', dirty := dirty' } :=
  congrArg (fun v : DevView => { v with mem := mem, lineOrigin := origin, lineKeys := keys }) h

theorem devView_retag_congr (h : devView s = devView t) (line tag : Nat) : devView (retag s line tag) = devView (retag t line tag) := by
  have hmem : s.mem = t.mem := congrArg DevView.mem h
  have hkeys : s.lineKeys = t.lineKeys := congrArg DevView.lineKeys h
  have horigin : s.lineOrigin = t.lineOrigin := congrArg DevView.lineOrigin h
  have htag (tag : Nat) : keyOfTag s tag = keyOfTag t tag := by
    unfold keyOfTag
    rw [show s.mgmt.keys = t.mgmt.keys from congrArg DevView.keys h]
  unfold retag recrypt
  simp only [hmem, hkeys, horigin, htag]
  split
  · exact h
  · exact devView_setLine_congr h _ _ _ _ _ _ _

theorem devView_devWriteLine_congr (h : devView s = devView t) (l : List (Nat × Byte)) : devView (devWriteLine s l) = devView (devWriteLine t l) := by
  unfold devWriteLine
  split
  · exact h
  · refine devView_performBytes_congr ?_ _
    split
    · exact devView_retag_congr h _ _
    · exact h

theorem devView_wait_congr (h : devView s = devView t) (l : List (List (Nat × Byte))) :
    devView { s with devWait := l } = devView { t with devWait := l } :=
  congrArg (fun v : DevView => { v with devWait := l }) h

theorem devView_devWrite_congr (h : devView s = devView t) (l : List (Nat × Byte)) : devView (devWrite s l) = devView (devWrite t l) := by
  have hwait : s.devWait = t.devWait := congrArg DevView.devWait h
  have hmay (line : Nat) : devMayWrite s line = devMayWrite t line := by
    unfold devMayWrite
    rw [show hostHolds s = hostHolds t from congrArg DevView.holds h, show s.fifos = t.fifos from congrArg DevView.fifos h]
  unfold devWrite
  split
  · exact h
  · rw [hwait, hmay]
    split
    · exact devView_devWriteLine_congr h _
    · rw [devView_askHost, devView_askHost]
      exact devView_wait_congr h _

/-- A device's write depends on nothing else. -/
theorem devView_devicePut_congr (h : devView s = devView t) (a : Nat) (l : List Nat) : devView (devicePut s a l) = devView (devicePut t a l) :=
  foldl_view_congr (view := devView) (fun _ _ x h => devView_devWrite_congr h x) _ h

theorem mem_devicePut_congr (h : devView s = devView t) (a : Nat) (l : List Nat) : (devicePut s a l).mem = (devicePut t a l).mem :=
  congrArg DevView.mem (devView_devicePut_congr h a l)

end

end Sys2Proof.Machine
end

section
/-!
PROOFS. An operation whose effect falls beside its thread, and the register that it tells at its end.
-/
namespace Sys2Proof.Machine

/-! ## The end of an operation whose effect fell beside its thread -/

/-- The issuing thread, and the bundle in hand, stand in u as in s, the checks behind them. -/
structure Beside (s : State) (c : Issue) (u : State) : Prop where
  issue : u.issue = some c.passed
  todo : u.todo = s.todo
  slots : (u.core c.core).slots = (s.core c.core).slots
  rq : ∀ e, c.entry = some e → (u.core c.core).rq.find e = (s.core c.core).rq.find e

section
variable {s u : State} {c : Issue} {i : Instr}

theorem Beside.opened (h : admits s c i) : Beside s c (opened s c i) :=
  ⟨opened_issue s c i h.1, opened_todo s c i, by rw [opened_slots], fun e _ => by rw [opened_rq]⟩

theorem Beside.waveOf_eq (h : Beside s c u) : waveOf u c = waveOf s c := by unfold waveOf; rw [h.slots]

theorem Beside.issThr_eq (h : Beside s c u) : u.issThr c = s.issThr c := by
  unfold State.issThr
  cases he : c.entry with
  | none => simp only [h.slots]
  | some e => simp only [h.rq e he]

theorem Beside.regAt_eq (h : Beside s c u) (r : Nat) : regAt u c r = regAt s c r := by
  unfold regAt
  cases he : c.entry with
  | none => simp only [h.waveOf_eq]
  | some e => simp only [h.rq e he]

theorem Beside.vregAt_eq (h : Beside s c u) (r : Nat) : vregAt u c r = vregAt s c r := by
  unfold vregAt
  rw [h.waveOf_eq]

theorem Beside.here (h : Beside s c u) (hs : threadHere s c) : threadHere u c := by
  unfold threadHere at *
  cases he : c.entry with
  | none =>
    simp only [he] at hs ⊢
    rw [h.waveOf_eq]
    exact hs
  | some e =>
    simp only [he] at hs ⊢
    rw [h.rq e he]
    exact hs

theorem quiet_of_clear (h : clear s c i) : quiet c (flagsWith c 0) := by
  obtain ⟨-, -, hsf, hvf⟩ := h
  unfold quiet flagsWith
  split <;> simp [hsf, hvf]

/-- The operation runs on the state that its effect has left. -/
theorem Beside.runs (h : Beside s c u) (hs : clear s c i) : runs u c.passed i 0 :=
  ⟨⟨h.issue, .inl rfl⟩, h.here hs.2.1, fun _ _ => show quiet c (flagsWith c 0) from quiet_of_clear hs⟩

theorem issThr_setReg_uid (s : State) (c : Issue) (r : Nat) (v : Word) : ((s.setReg c r v).issThr c).uid = (s.issThr c).uid := by
  unfold State.setReg State.issThr
  cases he : c.entry with
  | none =>
    simp only [State.modIssWave, core_modCore]
    cases hw : (s.core c.core).slots.find c.slot with
    | none => simp [hw]
    | some w =>
      simp only [Map.find_put_same]
      unfold waveSet
      split <;> rfl
  | some e =>
    simp only [State.modIssEntry, he, core_modCore]
    cases hx : (s.core c.core).rq.find e with
    | none => simp [hx]
    | some x => simp only [Map.find_put_same]

theorem retireLive_live {d : Issue} (hi : u.issue = some d) (h : (u.issThr d).uid ≠ 0) : retireLive u = retire u := by
  unfold retireLive
  rw [hi]
  simp [h]

/-- The last operation of a bundle tells its thread a value, and nothing else of the state changes. -/
theorem Beside.told (h : Beside s c u) (hs : clear s c i) (hlast : lastOp s) (huid : (s.issThr c).uid ≠ 0) (r : Nat) (v : Word) :
    let t := retireLive (u.setReg c.passed r v)
    toldReg s c r v t ∧ threadOnly u c t ∧ (c.entry = none → (t.core c.core).rq = (u.core c.core).rq) := by
  intro t
  have hruns := h.runs hs
  have ht : t = retire ((Machine.opened u c.passed i).setReg c.passed.passed r v) := by
    refine retireLive_live ((setReg_issue _ _ _ _).trans h.issue) ?_
    rw [issThr_setReg_uid]
    exact (congrArg Thr.uid h.issThr_eq).trans_ne huid
  obtain ⟨⟨hreg, hvreg⟩, honly, htodo, hend, -⟩ := reg_done_plain hruns r v
  rw [← ht] at hreg hvreg honly htodo hend
  obtain ⟨hpc, -, hissue⟩ := hend (h.todo.trans hlast)
  refine ⟨⟨⟨fun x hx => ?_, fun x => (hvreg x).trans (h.vregAt_eq x)⟩, hpc, hissue, htodo.trans (h.todo.trans hlast)⟩, honly, fun he => ?_⟩
  · rw [← h.regAt_eq]
    exact hreg x hx
  · obtain ⟨w, hw⟩ := Option.isSome_iff_exists.mp (show (waveOf u c).isSome = true by
      have := h.here hs.2.1
      unfold threadHere at this
      rwa [he] at this)
    have hset : OnWave u c.passed w (waveSet w r v) (u.setReg c.passed r v) := by
      unfold State.setReg
      rw [passed_entry, he]
      exact (OnWave.refl (c := c.passed) hw).wave (d := c.passed) (fun w => waveSet w r v) rfl rfl
    have hquiet : (c.passed.sflags ||| c.passed.vflags) &&& bits c.passed.fpmode 12 8 = 0 := by
      obtain ⟨-, -, hsf, hvf⟩ := hs
      simp [Issue.passed, hsf, hvf]
    obtain ⟨sv, hdone, -⟩ := hset.retire ((setReg_issue _ _ _ _).trans h.issue) ((setReg_todo _ _ _ _).trans (h.todo.trans hlast)) rfl rfl he hquiet
    rw [ht]
    exact hdone.rq

end

end Sys2Proof.Machine
end

section
/-!
PROOFS. O35: SPAWN, RGEN and VRAYGEN make fibres, which enter the run queue or are spilled (R36, R37, R259, R288).
-/
namespace Sys2Proof.Machine

/-! ## The opened bundle -/

theorem opened_cases (s : State) (c : Issue) (i : Instr) : opened s c i = s ∨ opened s c i = { s with issue := some c.passed } ∨
    ∃ n, opened s c i = { s with issue := some c.passed }.modCore c.core fun k => { k with sfuFree := n } := by
  unfold opened
  split
  · exact .inl rfl
  · refine .inr ?_
    unfold takeSfu
    dsimp only
    split
    · exact .inl rfl
    · exact .inr ⟨_, rfl⟩

/-- A view of the state that the bundle in hand and the special-function pipe do not show. -/
theorem opened_view {γ : Sort*} (view : State → γ) (c : Issue) (hissue : ∀ (s : State) o, view { s with issue := o } = view s)
    (hpipe : ∀ (s : State) n, view (s.modCore c.core fun k => { k with sfuFree := n }) = view s) (s : State) (i : Instr) :
    view (opened s c i) = view s := by
  obtain h | h | ⟨n, h⟩ := opened_cases s c i
  · rw [h]
  · rw [h, hissue]
  · rw [h, hpipe, hissue]

/-- What the core's own threads see of it. -/
theorem selVal_opened (s : State) (c : Issue) (i : Instr) (b : BitVec 8) : selVal (opened s c i) c.passed b = selVal s c b := by
  refine (opened_view (fun s => selVal s c b) c (fun s o => rfl) (fun s n => ?_) s i)
  unfold selVal constWord State.issThr identWord
  simp only [core_modCore]
  rfl

theorem creatorTag_opened (s : State) (c : Issue) (i : Instr) : creatorTag (opened s c i) c.passed = creatorTag s c := by
  refine (opened_view (fun s => creatorTag s c) c (fun s o => rfl) (fun s n => ?_) s i)
  unfold creatorTag
  simp only [core_modCore]

theorem devView_setCore (s : State) (c : Nat) (k : Core) : devView (s.setCore c k) = devView s := rfl

theorem devView_opened (s : State) (c : Issue) (i : Instr) : devView (opened s c i) = devView s :=
  opened_view devView c (fun _ _ => rfl) (fun _ _ => rfl) s i

theorem launches_opened (s : State) (c : Issue) (i : Instr) : (opened s c i).launches = s.launches :=
  opened_view State.launches c (fun _ _ => rfl) (fun _ _ => rfl) s i

/-- The core but for the special-function pipe. -/
theorem core_opened (s : State) (c : Issue) (i : Instr) : ∃ n, (opened s c i).core c.core = { s.core c.core with sfuFree := n } := by
  obtain h | h | ⟨n, h⟩ := opened_cases s c i
  · exact ⟨_, by rw [h]⟩
  · exact ⟨_, by rw [h]; rfl⟩
  · exact ⟨n, by rw [h, core_modCore]; rfl⟩

/-! ## Making a fibre -/

/-- A new fibre of thread t: its start, its registers, its tag. -/
structure Made (t : Thr) (core : Nat) (pc : Word) (f : List Word) (tag : Nat) (ray : Bool) (a : Away) : Prop where
  lid : a.t.lid = t.lid
  wait : a.t.wait = .none
  pc : a.fib.pc = pc
  regs : ∀ k, k < 8 → fibreGet a.fib (k + 1) = f.getD k 0
  ray : a.fib.ray = ray
  sys : a.fib.sys = t.sup
  pin : a.fib.pin = false
  origin : a.fib.origin = core
  tag : a.fib.tag = tag % 2 ^ 24
  seq : a.fib.seq = 0

theorem recordFibre_eq (s : State) (lid : Option Nat) : ∃ p, recordFibre s lid = { s with parts := p } := by
  have hkeep : { recordFibre s lid with parts := [] } = { s with parts := [] } := by
    refine foldl_keeps (fun s : State => { s with parts := [] }) _ (fun s p => ?_) (List.range 6) s
    dsimp only
    split <;> rfl
  exact ⟨(recordFibre s lid).parts, congrArg (fun u : State => { u with parts := (recordFibre s lid).parts }) hkeep⟩

theorem makeFibre_eq (s : State) (core : Nat) (t : Thr) (pc : Word) (f : List Word) (tag : Nat) (ray : Bool) :
    ∃ a p, makeFibre s core t pc f tag ray = (a, { s with fresh := s.fresh + 1, parts := p }) ∧ Made t core pc f tag ray a := by
  obtain ⟨p, hp⟩ := recordFibre_eq { s with fresh := s.fresh + 1 } t.lid
  refine ⟨_, p, Prod.ext rfl hp, ⟨rfl, rfl, rfl, fun k hk => ?_, rfl, rfl, rfl, rfl, rfl, rfl⟩⟩
  unfold fibreGet makeFibre
  simp [hk]

/-! ## Letting it in -/

theorem launchDead_congr {s u : State} {t t' : Thr} (hl : u.launches = s.launches) (ht : t'.lid = t.lid) : launchDead u t' = launchDead s t := by
  unfold launchDead launchOf
  rw [hl, ht]

/-- A core has room for this fibre at once (R36, R37). -/
def hasRoom (k : Core) (a : Away) : Prop :=
  (freeEntry k).isSome = true ∧ (a.fib.sys = true ∨ (k.spill = [] ∧ refetching k = 0 ∧ k.rq.length < k.fadmit))

theorem letIn_room {s : State} {core e : Nat} {a : Away} (hdead : launchDead s a.t = false) (hroom : hasRoom (s.core core) a)
    (he : freeEntry (s.core core) = some e) : letIn s core a = (true, enterEntry s core e a) := by
  have hif : (a.fib.sys || ((s.core core).spill.isEmpty && refetching (s.core core) == 0 && decide ((s.core core).rq.length < (s.core core).fadmit)))
      = true := by
    obtain hsys | ⟨hspill, href, hlen⟩ := hroom.2
    · rw [hsys, Bool.true_or]
    · simp [hspill, href, hlen]
  unfold letIn
  simp only [hdead, he, hif, Bool.false_eq_true, if_false, if_true]

theorem letIn_noRoom {s : State} {core : Nat} {a : Away} (hdead : launchDead s a.t = false) (hroom : ¬hasRoom (s.core core) a) :
    letIn s core a = (false, spillFibre s core a) := by
  unfold letIn
  simp only [hdead, Bool.false_eq_true, if_false]
  cases he : freeEntry (s.core core) with
  | none => rfl
  | some e =>
    refine if_neg fun hif => hroom ⟨by rw [he]; rfl, ?_⟩
    simpa [and_assoc] using hif

theorem enterEntry_ready {s : State} {core e : Nat} {a : Away} (hwait : a.t.wait = .none) :
    ∃ b : Core → Bool, enterEntry s core e a = s.modCore core fun k =>
      { k with rq := k.rq.put e { t := { a.t with wait := .none }, fib := a.fib, st := .ready (readyRank s e), refetch := none }, refetchOn := b k } := by
  refine ⟨fun k => k.refetchOn && (k.rq.put e { t := { a.t with wait := .none }, fib := a.fib, st := .ready (readyRank s e), refetch := none }).length < k.fadmit, ?_⟩
  unfold enterEntry
  rw [hwait]
  rfl

/-- A spilled fibre as its image says it: its SEQ is one more (R27). -/
def spilled (a : Away) : Away := { a with fib := { a.fib with seq := (a.fib.seq + 1) % 2 ^ 32 } }

theorem spillFibre_place {s : State} {core : Nat} {a : Away} (h : (s.core core).spill.length < (s.core core).spillSize) :
    spillFibre s core a = countEvent (devicePut (s.setCore core
      { s.core core with spill := (s.core core).spill ++ [spilled a], spillNext := ((s.core core).spillNext + 1) % (s.core core).spillSize })
      (spillAddr (s.core core) (s.core core).spillNext) (fibreDws (spilled a).fib)) core 7 := by
  unfold spillFibre
  exact if_neg (Nat.not_le.mpr h)

theorem freeEntry_free {k : Core} {e : Nat} (h : freeEntry k = some e) : k.rq.find e = none :=
  Option.isNone_iff_eq_none.mp (List.find?_some (p := fun e => (k.rq.find e).isNone) h)

/-! ## What making and letting in leave of the thread -/

section
variable {s u : State} {c : Issue} {i : Instr}

theorem Beside.modCore (h : Beside s c u) (f : Core → Core) (hslots : ∀ k, (f k).slots = k.slots)
    (hrq : ∀ e, c.entry = some e → (f (u.core c.core)).rq.find e = (u.core c.core).rq.find e) : Beside s c (u.modCore c.core f) :=
  ⟨h.issue, h.todo, by rw [core_modCore, hslots, h.slots], fun e he => by rw [core_modCore, hrq e he, h.rq e he]⟩

theorem Beside.devicePut (h : Beside s c u) (a : Nat) (l : List Nat) : Beside s c (devicePut u a l) := by
  have hstand := standing_devicePut u a l
  simp only [standing, Prod.mk.injEq] at hstand
  obtain ⟨hissue, htodo, -⟩ := hstand
  exact ⟨hissue.trans h.issue, htodo.trans h.todo, by rw [core_devicePut, h.slots], fun e he => by rw [core_devicePut, h.rq e he]⟩

/-- The issuing fibre's entry is not the one that is free. -/
theorem entry_ne_free (hs : threadHere s c) {e f : Nat} (hfree : freeEntry (s.core c.core) = some e) (hf : c.entry = some f) : f ≠ e := by
  rintro rfl
  unfold threadHere at hs
  simp only [hf, freeEntry_free hfree] at hs
  cases hs

/-- The fibre of a has entered entry e of the run queue, ready. -/
structure Entered (u : State) (core e : Nat) (a : Away) (v : State) : Prop where
  free : freeEntry (u.core core) = some e
  mem : v.mem = u.mem
  launches : v.launches = u.launches
  rest : ∃ b : Bool, v.core core = { u.core core with
    rq := (u.core core).rq.put e { t := { a.t with wait := .none }, fib := a.fib, st := .ready (readyRank u e), refetch := none }, refetchOn := b }

/-- The fibre of a has been spilled. -/
structure SpilledTo (u : State) (core : Nat) (a : Away) (v : State) : Prop where
  mem : v.mem = (Machine.devicePut u (spillAddr (u.core core) (u.core core).spillNext) (fibreDws (spilled a).fib)).mem
  launches : v.launches = u.launches
  rest : ∃ m : Map Nat, v.core core = { u.core core with
    spill := (u.core core).spill ++ [spilled a], spillNext := ((u.core core).spillNext + 1) % (u.core core).spillSize, cnts := m }

theorem letIn_entered {a : Away} (h : Beside s c u) (hs : threadHere s c) (hwait : a.t.wait = .none) (hdead : launchDead u a.t = false)
    (hroom : hasRoom (u.core c.core) a) :
    ∃ e v, letIn u c.core a = (true, v) ∧ Entered u c.core e a v ∧ Beside s c v := by
  obtain ⟨e, he⟩ := Option.isSome_iff_exists.mp hroom.1
  obtain ⟨b, hb⟩ := enterEntry_ready (s := u) (core := c.core) (e := e) hwait
  refine ⟨e, _, letIn_room hdead hroom he, ⟨he, ?_, ?_, b (u.core c.core), ?_⟩, ?_⟩
  · rw [hb]
    rfl
  · rw [hb]
    rfl
  · rw [hb, core_modCore]
  · rw [hb]
    exact h.modCore _ (fun _ => rfl) fun f hf => Map.find_put_other _ _ _ _ (entry_ne_free (h.here hs) he hf)

theorem letIn_spilled {a : Away} (h : Beside s c u) (hdead : launchDead u a.t = false) (hroom : ¬hasRoom (u.core c.core) a)
    (hplace : (u.core c.core).spill.length < (u.core c.core).spillSize) :
    ∃ v, letIn u c.core a = (false, v) ∧ SpilledTo u c.core a v ∧ Beside s c v := by
  refine ⟨_, letIn_noRoom hdead hroom, ⟨?_, ?_, ?_⟩, ?_⟩
  · rw [spillFibre_place hplace]
    exact mem_devicePut_congr (devView_setCore _ _ _) _ _
  · rw [spillFibre_place hplace]
    exact launches_devicePut _ _ _
  · rw [spillFibre_place hplace]
    exact ⟨_, by unfold countEvent; rw [core_modCore, core_devicePut, core_setCore]⟩
  · rw [spillFibre_place hplace]
    refine Beside.modCore (Beside.devicePut ?_ _ _) _ (fun _ => rfl) fun _ _ => rfl
    exact ⟨h.issue, h.todo, by rw [core_setCore, h.slots], fun e he => by rw [core_setCore, h.rq e he]⟩

end

/-! ## SPAWN and RGEN -/

theorem exec_of_fibreForm {s : State} {c : Issue} {i : Instr} {sd : BitVec 6} {pc : Word} {ray : Bool} (h : fibreForm s c i = some (sd, pc, ray)) :
    ∃ start, exec i s = createOne i sd start ray s ∧ start c.passed (opened s c i) = pc := by
  unfold fibreForm at h
  split at h
  · cases h
    exact ⟨_, exec_spawn _ _ _, rfl⟩
  · cases h
    exact ⟨_, exec_rgen _ _ _ _, by rw [selVal_opened]; rfl⟩
  · cases h

/-- The state in which a fibre of the issuing thread is let in, and the fibre. -/
theorem createOne_eq {s : State} {c : Issue} {i : Instr} (h : admits s c i) (sd : BitVec 6) (start : Issue → State → Word) (ray : Bool) :
    ∃ a u, createOne i sd start ray s = .next (retireLive ((letIn u c.core a).2.setReg c.passed sd.toNat (if (letIn u c.core a).1 then 0 else 1))) ∧
      Made (s.issThr c) c.core (start c.passed (opened s c i)) ((List.range 8).map fun k => c.reg (k + 1)) (creatorTag s c) ray a ∧
      Beside s c u ∧ u.mem = s.mem ∧ u.launches = s.launches ∧ devView u = devView s ∧
      ∃ n, u.core c.core = { s.core c.core with sfuFree := n } := by
  have hopen := Beside.opened h
  obtain ⟨a, p, hmake, hmade⟩ := makeFibre_eq (opened s c i) c.core (s.issThr c) (start c.passed (opened s c i))
    ((List.range 8).map fun k => c.reg (k + 1)) (creatorTag s c) ray
  refine ⟨a, { opened s c i with fresh := (opened s c i).fresh + 1, parts := p }, ?_, hmade, ⟨hopen.issue, hopen.todo, hopen.slots, hopen.rq⟩,
    opened_mem s c i, launches_opened s c i, devView_opened s c i, core_opened s c i⟩
  have hthr : (opened s c i).issThr c.passed = s.issThr c := hopen.issThr_eq
  unfold createOne
  rw [start_admits _ h]
  simp only [passed_core, hthr, creatorTag_opened, passed_reg, hmake]

theorem threadOnly_mem {s t : State} {c : Issue} (h : threadOnly s c t) : t.mem = s.mem := by
  obtain ⟨hout, -⟩ := h
  have hmem := congrArg State.mem hout
  exact hmem

theorem threadOnly_spill {s t : State} {c : Issue} (h : threadOnly s c t) : (t.core c.core).spill = (s.core c.core).spill := by
  obtain ⟨-, -, hrest, -⟩ := h
  have hspill := congrArg Core.spill hrest
  exact hspill

theorem threadOnly_rq {s t : State} {c : Issue} (h : threadOnly s c t) {e : Nat} (he : c.entry ≠ some e) :
    (t.core c.core).rq.find e = (s.core c.core).rq.find e := by
  obtain ⟨-, -, -, -, hrq, -⟩ := h
  exact hrq e he

theorem madeBy_of_made {s : State} {c : Issue} {pc : Word} {ray : Bool} {a : Away}
    (h : Made (s.issThr c) c.core pc ((List.range 8).map fun k => c.reg (k + 1)) (creatorTag s c) ray a) : madeBy s c pc ray a.fib :=
  ⟨h.pc, fun k hk => by rw [h.regs k hk]; simp [hk], h.ray, h.sys, h.pin, h.origin, h.tag⟩

theorem madeBy_spilled {s : State} {c : Issue} {pc : Word} {ray : Bool} {a : Away} (h : madeBy s c pc ray a.fib) :
    madeBy s c pc ray (spilled a).fib := h

theorem fibreCreates : Claims.FibreCreation := by
  intro i s c sd pc ray hform hclear hlast huid hdead
  obtain ⟨start, hexec, rfl⟩ := exec_of_fibreForm hform
  obtain ⟨a, u, hcreate, hmade, hbeside, hmem, hlaunches, hview, n, hcore⟩ := createOne_eq hclear.1 sd start ray
  rw [hexec, hcreate]
  have hlives : launchDead u a.t = false := (launchDead_congr hlaunches hmade.lid).trans hdead
  have hroom : hasRoom (u.core c.core) a ↔ roomForOne s c := by
    unfold hasRoom roomForOne
    rw [hcore, hmade.sys]
    rfl
  refine ⟨fun h => ?_, fun h hplace => ?_⟩
  · obtain ⟨e, v, hlet, hin, hv⟩ := letIn_entered hbeside hclear.2.1 hmade.wait hlives (hroom.mpr h)
    obtain ⟨b, hrest⟩ := hin.rest
    have hfree : freeEntry (s.core c.core) = some e := by
      have := hin.free
      rw [hcore] at this
      exact this
    obtain ⟨htold, honly, -⟩ := hv.told hclear hlast huid sd.toNat 0
    have hentry {y : Nat} (hy : c.entry ≠ some y) := threadOnly_rq honly hy
    rw [hrest, hcore] at hentry
    rw [hlet]
    refine ⟨_, rfl, htold, (threadOnly_mem honly).trans (hin.mem.trans hmem), ?_, e, _, hfree,
      (hentry fun he => entry_ne_free hclear.2.1 hfree he rfl).trans (Map.find_put_same _ _ _), madeBy_of_made hmade, hmade.lid, ⟨_, rfl⟩,
      fun y hy hyc => (hentry hyc).trans (Map.find_put_other _ _ _ _ hy)⟩
    rw [if_pos rfl, threadOnly_spill honly, hrest, hcore]
  · obtain ⟨v, hlet, hin, hv⟩ := letIn_spilled hbeside hlives (fun hr => h (hroom.mp hr)) (by rw [hcore]; exact hplace)
    obtain ⟨m, hrest⟩ := hin.rest
    obtain ⟨htold, honly, -⟩ := hv.told hclear hlast huid sd.toNat 1
    have hentry {y : Nat} (hy : c.entry ≠ some y) := threadOnly_rq honly hy
    rw [hrest, hcore] at hentry
    rw [hlet]
    refine ⟨_, rfl, htold, spilled a, ?_, madeBy_spilled (madeBy_of_made hmade), hmade.lid, ?_, ?_, fun y hy => hentry hy⟩
    · rw [if_neg Bool.false_ne_true, threadOnly_spill honly, hrest, hcore]
    · show (a.fib.seq + 1) % 2 ^ 32 = 1
      rw [hmade.seq]
      decide
    · rw [if_neg Bool.false_ne_true, threadOnly_mem honly, hin.mem, hcore]
      exact mem_devicePut_congr hview _ _

/-! ## VRAYGEN -/

theorem Map.length_put_new {α : Type} (m : Map α) (n : Nat) (a : α) (h : m.find n = none) : (m.put n a).length = m.length + 1 := by
  induction m with
  | nil => rfl
  | cons x m ih =>
    obtain ⟨k, v⟩ := x
    unfold Map.find at h
    split at h
    · cases h
    · next hk =>
      unfold Map.put
      split
      · rfl
      · rw [if_neg fun he => hk he.symm, List.length_cons, ih h, List.length_cons]

/-- What letting one fibre in does to the fibres that the core holds: one more, and a place of the spill area less at most. -/
theorem letIn_holds {s u : State} {c : Issue} {a : Away} (h : Beside s c u) (hs : threadHere s c) (hwait : a.t.wait = .none)
    (hdead : launchDead u a.t = false) (hplace : (u.core c.core).spill.length < (u.core c.core).spillSize) :
    let v := (letIn u c.core a).2
    Beside s c v ∧ v.launches = u.launches ∧ (v.core c.core).spillSize = (u.core c.core).spillSize ∧
      (v.core c.core).spill.length ≤ (u.core c.core).spill.length + 1 ∧ fibresHeld (v.core c.core) = fibresHeld (u.core c.core) + 1 := by
  by_cases hroom : hasRoom (u.core c.core) a
  · obtain ⟨e, v, hlet, hin, hv⟩ := letIn_entered h hs hwait hdead hroom
    obtain ⟨b, hrest⟩ := hin.rest
    rw [hlet]
    refine ⟨hv, hin.launches, by rw [hrest], by rw [hrest]; exact Nat.le_succ _, ?_⟩
    rw [hrest]
    unfold fibresHeld
    rw [Map.length_put_new _ _ _ (freeEntry_free hin.free), Nat.add_right_comm]
  · obtain ⟨v, hlet, hin, hv⟩ := letIn_spilled h hdead hroom hplace
    obtain ⟨m, hrest⟩ := hin.rest
    rw [hlet]
    refine ⟨hv, hin.launches, by rw [hrest], by rw [hrest]; simp, ?_⟩
    rw [hrest]
    simp [fibresHeld, Nat.add_assoc]

/-- One lane of VRAYGEN. -/
def rayLane (t : Thr) (core : Nat) (pc : Word) (f : Nat → List Word) (tag : Nat → Nat) (s : State) (k : Nat) : State :=
  if launchDead s t then s else (letIn (makeFibre s core t pc (f k) (tag k) true).2 core (makeFibre s core t pc (f k) (tag k) true).1).2

/-- The lanes of VRAYGEN make one fibre each. -/
theorem rayLanes_hold {s : State} {c : Issue} {t : Thr} (pc : Word) (f : Nat → List Word) (tag : Nat → Nat) (hs : threadHere s c)
    (l : List Nat) {u : State} (h : Beside s c u) (hdead : launchDead u t = false)
    (hplace : (u.core c.core).spill.length + l.length ≤ (u.core c.core).spillSize) :
    let v := l.foldl (rayLane t c.core pc f tag) u
    Beside s c v ∧ fibresHeld (v.core c.core) = fibresHeld (u.core c.core) + l.length := by
  induction l generalizing u with
  | nil => exact ⟨h, rfl⟩
  | cons k l ih =>
    obtain ⟨a, p, hmake, hmade⟩ := makeFibre_eq u c.core t pc (f k) (tag k) true
    rw [List.length_cons] at hplace
    obtain ⟨hv, hlaunches, hsize, hspill, hheld⟩ := letIn_holds (u := { u with fresh := u.fresh + 1, parts := p }) (a := a)
      ⟨h.issue, h.todo, h.slots, h.rq⟩ hs hmade.wait ((launchDead_congr rfl hmade.lid).trans hdead)
      (by show (u.core c.core).spill.length < (u.core c.core).spillSize; omega)
    have hlane : rayLane t c.core pc f tag u k = (letIn { u with fresh := u.fresh + 1, parts := p } c.core a).2 := by
      unfold rayLane
      rw [hdead, hmake]
      rfl
    rw [← hlane] at hv hlaunches hsize hspill hheld
    have hsize' : (State.core u c.core).spillSize = ((rayLane t c.core pc f tag u k).core c.core).spillSize := hsize.symm
    have hspill' : ((rayLane t c.core pc f tag u k).core c.core).spill.length ≤ (u.core c.core).spill.length + 1 := hspill
    obtain ⟨hend, hmany⟩ := ih hv ((launchDead_congr hlaunches rfl).trans hdead) (by omega)
    exact ⟨hend, by rw [List.foldl_cons, hmany, hheld, List.length_cons, Nat.add_right_comm, Nat.add_assoc]; rfl⟩

theorem rayCreates : Claims.RayCreation := by
  intro s c vd va vb ms i hclear hentry hlast huid hdead n hplace
  have hopen := Beside.opened hclear.1
  obtain ⟨m, hcore⟩ := core_opened s c i
  have hthr : (opened s c i).issThr c.passed = s.issThr c := hopen.issThr_eq
  obtain ⟨hbeside, hheld⟩ := rayLanes_hold (c.reg vb.toNat)
    (fun k => (List.range 8).map fun j => word (elem 32 (c.vreg (va.toNat + 2 * j)) k + elem 32 (c.vreg (va.toNat + 2 * j + 1)) k * 2 ^ 32))
    (fun k => ((((((opened s c i).core c.core).slots.find c.slot).map Wave.base).getD 0).toNat + k) % 2 ^ 64) hclear.2.1
    (activeElems c.mask 32) hopen ((launchDead_congr (launches_opened s c i) rfl).trans hdead)
    (by rw [hcore]; exact hplace)
  obtain ⟨htold, honly, hrq⟩ := hbeside.told hclear hlast huid vd.toNat (word n)
  refine ⟨_, ?_, htold, ?_⟩
  · show exec (.vraygen vd va vb ms) s = _
    rw [exec_vraygen, execVraygen, start_admits _ hclear.1]
    simp only [passed_core, hthr]
    rfl
  · unfold fibresHeld at hheld ⊢
    rw [hrq hentry, threadOnly_spill honly, hheld, hcore]

/-- Settles O35. -/
theorem fibreCreation : Obligations.FibreCreation := ⟨fibreCreates, rayCreates⟩

end Sys2Proof.Machine
end

section
/-!
PROOFS. O32, barriers: refuted. The claim that a lone member goes on is made of every state, also of one in which two waves bear one uid; the model
finds the wave of a uid by looking through the slots. No rule of the spec speaks of such a state: uids are the model's own.
-/
namespace Sys2Proof.Machine

/-- A wave of uid 7. -/
def twin (task : Nat) : Wave := { Wave.vacant with t := { Thr.vacant with uid := 7 }, task := task }

/-- The bundle of the wave in slot 1, its checks behind it. -/
def twinBundle : Issue :=
  { core := 0, slot := 1, entry := none, pc := 0, next := 8, s := Vector.replicate 64 0, v := Vector.replicate 32 0, mask := BitVec.allOnes 64,
    fpmode := 0, sup := false, sflags := 0, vflags := 0, lanes := 0, checked := true }

/-- Two waves of one uid stand in slots 0 and 1, of different tasks; the one in slot 1 issues. -/
def twins : State :=
  { State.reset with cores := [(0, { Core.reset with slots := [(0, twin 0), (1, twin 1)] })], issue := some twinBundle }

/-- The wave in slot 1 arrives at its barrier, and the arrival is counted. -/
def twinCounted : Out :=
  match exec .barg twins with
  | .next t => exec (.barrierArrivalCount 0 1) t
  | o => o

/-- The arrival is counted for the wave in slot 0: the one in slot 1 goes on waiting. -/
theorem twin_waits : (match twinCounted with | .next u => (u.issThr twinBundle).wait == Wait.none | _ => true) = false := by decide +kernel

theorem not_barriersComplete : ¬ Claims.BarriersComplete := by
  intro h
  obtain ⟨t, ht, u, hu, hwait, -⟩ := h .barg twins twinBundle .barg [] 0 (twin 1) ⟨⟨rfl, .inl rfl⟩, rfl, rfl, rfl⟩ rfl rfl rfl rfl rfl
    (by show List.Pairwise _ _; decide +kernel) (by decide +kernel) (by decide +kernel) (by decide +kernel) (by decide +kernel) (by decide +kernel)
  have hcounted : twinCounted = .next u := by
    unfold twinCounted
    rw [ht]
    exact hu
  have hwaits := twin_waits
  rw [hcounted] at hwaits
  dsimp only at hwaits
  rw [hwait] at hwaits
  exact absurd hwaits (by decide)

/-- Refutes O32: of two waves of one uid, of different tasks, the one in slot 1 is the only member of its BARG's barrier; its arrival is counted
for the other, which stands before it, and it waits on. -/
theorem not_barriers : ¬ Obligations.Barriers := fun h => by
  obtain ⟨-, hcomplete, -⟩ := h
  exact not_barriersComplete hcomplete

end Sys2Proof.Machine
end

section
/-!
PROOFS. O44, replies: refuted. The claim that a reload that misses leaves memory is made of every state, also of one in which the image of a saved wave bears
the uid of the fibre that loads; the model takes the image for the fibre's, and writes it. No rule of the spec speaks of such a state: uids are the
model's own.
-/
namespace Sys2Proof.Machine

/-! ## A write of the device that waits behind its first line -/

theorem byLine_cons (x : Nat × Byte) (l : List (Nat × Byte)) : ∃ g r, byLine (x :: l) = (x :: g) :: r := by
  unfold byLine
  split
  · split
    · exact ⟨_, _, rfl⟩
    · exact ⟨_, _, rfl⟩
  · exact ⟨_, _, rfl⟩

/-- A whole line comes apart from what follows it. -/
theorem byLine_append {n : Nat} (x y : Nat × Byte) (l g : List (Nat × Byte)) (hl : ∀ z ∈ x :: l, lineOf z.1 = n) (hy : lineOf y.1 ≠ n) :
    byLine (x :: l ++ y :: g) = (x :: l) :: byLine (y :: g) := by
  induction l generalizing x with
  | nil =>
    obtain ⟨g', r, hr⟩ := byLine_cons y g
    have hx := hl x (List.mem_singleton_self x)
    rw [List.cons_append, List.nil_append, byLine, hr]
    simp [hx, hy]
  | cons z l ih =>
    have hx := hl x List.mem_cons_self
    have hz := hl z (List.mem_cons_of_mem _ List.mem_cons_self)
    rw [List.cons_append, byLine, ih z fun w hw => hl w (List.mem_cons_of_mem _ hw)]
    simp [hx, hz]

theorem devWait_askHost (s : State) (line : Nat) : (askHost s line).devWait = s.devWait := congrArg DevView.devWait (devView_askHost s line)

/-- Behind a write that waits, the device writes nothing. -/
theorem mem_devWrites_waiting (l : List (List (Nat × Byte))) {s : State} (h : s.devWait ≠ []) : (l.foldl devWrite s).mem = s.mem := by
  induction l generalizing s with
  | nil => rfl
  | cons g l ih =>
    rw [List.foldl_cons]
    cases g with
    | nil => exact ih h
    | cons x g =>
      have hempty : s.devWait.isEmpty = false := by simpa using h
      have hwait : devWrite s (x :: g) = askHost { s with devWait := s.devWait ++ [x :: g] } (lineOf x.1) := by
        simp only [devWrite, hempty, Bool.false_and, Bool.false_eq_true, if_false]
      rw [hwait, ih (by rw [devWait_askHost]; simp), askHost_mem]

/-- A line that may not be written lets nothing behind it be written. -/
theorem mem_devWrites_held {s : State} {x : Nat × Byte} (l : List (Nat × Byte)) (h : devMayWrite s (lineOf x.1) = false) :
    ((byLine (x :: l)).foldl devWrite s).mem = s.mem := by
  obtain ⟨g, r, hr⟩ := byLine_cons x l
  have hwait : devWrite s (x :: g) = askHost { s with devWait := s.devWait ++ [x :: g] } (lineOf x.1) := by
    simp only [devWrite, h, Bool.and_false, Bool.false_eq_true, if_false]
  rw [hr, List.foldl_cons, hwait, mem_devWrites_waiting _ (by rw [devWait_askHost]; simp), askHost_mem]

theorem mem_bytesOf_iff {z : Nat × Byte} {a v n : Nat} (h : z ∈ bytesOf a v n) : a ≤ z.1 ∧ z.1 < a + n := by
  induction n generalizing a v with
  | zero => cases h
  | succ n ih =>
    obtain rfl | h := List.mem_cons.mp h
    · exact ⟨Nat.le_refl _, Nat.lt_add_of_pos_right (Nat.succ_pos n)⟩
    · have := ih h
      omega

/-- The bytes of doublewords from address a on. -/
def dwBytes (a : Nat) (l : List Nat) : List (Nat × Byte) := l.zipIdx.flatMap fun x => bytesOf (a + 8 * x.2) x.1 8

theorem dwBytes_append (a : Nat) (c l : List Nat) : dwBytes a (c ++ l) = dwBytes a c ++ dwBytes (a + 8 * c.length) l := by
  unfold dwBytes
  rw [List.zipIdx_append, List.flatMap_append, Nat.zero_add, List.zipIdx_eq_map_add (l := l), List.flatMap_map]
  simp only [Nat.mul_add, Nat.add_assoc]

/-- Of eight doublewords and more at the start of a line, where the next line may not be written, only the first eight are. -/
theorem mem_devicePut_held {s : State} {a : Nat} {c l : List Nat} (ha : a % 64 = 0) (hc : c.length = 8) (hl : l ≠ [])
    (h : devMayWrite (devWrite s (dwBytes a c)) (lineOf (a + 64)) = false) :
    (devicePut s a (c ++ l)).mem = (devWrite s (dwBytes a c)).mem := by
  have hlines : ∀ z ∈ dwBytes a c, lineOf z.1 = a / 64 := by
    intro z hz
    obtain ⟨⟨v, i⟩, hi, hz⟩ := List.mem_flatMap.mp hz
    have hi := (List.mem_zipIdx hi).2.1
    have hz := mem_bytesOf_iff hz
    simp only [hc] at hi hz
    unfold lineOf
    omega
  have hput : devicePut s a (c ++ l) = (byLine (dwBytes a c ++ dwBytes (a + 64) l)).foldl devWrite s := by
    show (byLine (dwBytes a (c ++ l))).foldl devWrite s = _
    rw [dwBytes_append, hc]
  obtain ⟨x, g, hg⟩ : ∃ x g, dwBytes a c = x :: g := by
    cases c with
    | nil => cases hc
    | cons b c => exact ⟨_, _, rfl⟩
  obtain ⟨b, r, hr⟩ : ∃ b r, dwBytes (a + 64) l = (a + 64, b) :: r := by
    cases l with
    | nil => exact absurd rfl hl
    | cons d l => exact ⟨_, _, rfl⟩
  rw [hput]
  rw [hg] at hlines h ⊢
  rw [hr, byLine_append x _ g r hlines (by unfold lineOf; omega), List.foldl_cons]
  exact mem_devWrites_held r h

/-! ## A reload whose thread has two bearers of its uid -/

/-- A WAITLINE that is to load again, of a thread of uid 7. -/
def reloading : Thr := { Thr.vacant with uid := 7, wait := .waitline 1 0x1000 0 0 none }

/-- Its fibre, in a run-queue entry. -/
def reloadEntry : RqEntry :=
  { t := reloading, fib := { pc := 8, f := Vector.replicate 8 0, tag := 0, prio := 0, sys := false, ray := false, pin := false, seq := 0, launch := 0, origin := 0 },
    st := .parked, refetch := none }

/-- The image of a wave of the same uid, in the cluster's area. -/
def reloadImage : Saved := { core := 0, slot := 0, wave := twin 0, reason := 0, onChip := false, reissue := false, bar := 0 }

/-- The fibre and the image stand on one cluster, whose TLB is empty; of the area, the second line is reserved. -/
def reloads : State :=
  { State.reset with cores := [(0, { Core.reset with rq := [(3, reloadEntry)] })]
                     clusters := [(0, { Cluster.reset with saved := [reloadImage] })]
                     fifos := [(1, [])] }

theorem isThread_reloading : isThread reloads (.fibre 0 3) 0 reloading :=
  ⟨rfl, rfl, .inl (by decide +kernel), fun n w hn => by cases (show slotOfUid (reloads.core 0) 7 = none by decide +kernel).symm.trans hn⟩

/-- The reload's line has no watcher any more. -/
def unwatched : State := { reloads with watchers := reloads.watchers.del 7 }

/-- The image as the reload leaves it: its pc is before the bundle. -/
def reloadedImage : Saved :=
  { reloadImage with wave := { savedWave unwatched reloadImage with
                                 pc := (savedWave unwatched reloadImage).pc - 8, owed := none, passes := 0, passGot := [] }
                     reason := savedReason unwatched reloadImage, reissue := savedReissue unwatched reloadImage }

/-- The state in which the image is written. -/
def reloadState : State :=
  unwatched.modCluster (clusterOf 0) fun q =>
    { q with saved := q.saved.map fun (z : Saved) => if z.wave.t.uid == 7 then reloadedImage else z }

theorem core_writeImage (s : State) (x : Saved) (c : Nat) : (writeImage s x).core c = s.core c := core_devicePut _ _ _ _

theorem modWaveUid_unwatched :
    unwatched.modWaveUid 0 7 (fun w => { w with pc := w.pc - 8, owed := none, passes := 0, passGot := [] }) = writeImage reloadState reloadedImage := by
  have hslot : slotOfUid (unwatched.core 0) 7 = none := rfl
  have himage : ((unwatched.cluster (clusterOf 0)).saved.find? fun x => x.wave.t.uid == 7) = some reloadImage := rfl
  unfold State.modWaveUid
  rw [hslot]
  unfold modSaved
  rw [himage]
  exact if_neg (by decide)

/-- The fibre of entry e is to issue its bundle again. -/
def backOne (e : Nat) (k : Core) : Core :=
  match k.rq.find e with
  | some x => { k with rq := k.rq.put e { x with fib := { x.fib with pc := x.fib.pc - 8 } } }
  | none => k

theorem issueAgain_fibre {s u : State} {core uid e p : Nat} (hwave : State.modWaveUid { s with watchers := s.watchers.del uid } core uid
    (fun w => { w with pc := w.pc - 8, owed := none, passes := 0, passGot := [] }) = u) (he : entryOfUid (u.core core) uid = some e) :
    issueAgain s core uid [p] = (u.modCore core (backOne e)).modThr core uid fun t => { t with wait := .miss [p] 0 } := by
  unfold issueAgain
  dsimp only
  rw [hwave, he]
  rfl

theorem mem_modThr_entry {s : State} {core uid e : Nat} (f : Thr → Thr) (he : entryOfUid (s.core core) uid = some e) :
    (s.modThr core uid f).mem = s.mem := by
  unfold State.modThr
  rw [he]
  rfl

/-- The reload misses, and takes the image for its thread's. -/
theorem mem_issueAgain_reloads (p : Nat) : (issueAgain reloads 0 7 [p]).mem = (writeImage reloadState reloadedImage).mem := by
  have hcore : (writeImage reloadState reloadedImage).core 0 = reloads.core 0 := core_writeImage _ _ _
  have hentry : entryOfUid (reloads.core 0) 7 = some 3 := by decide +kernel
  have hback : entryOfUid (backOne 3 (reloads.core 0)) 7 = some 3 := by decide +kernel
  rw [issueAgain_fibre modWaveUid_unwatched (by rw [hcore, hentry]), mem_modThr_entry _ (by rw [core_modCore, hcore, hback]), modCore_mem]

/-- The first line of the image is written, and no other. -/
theorem reload_writes : (writeImage reloadState reloadedImage).mem.isEmpty = false := by
  have hput : (writeImage reloadState reloadedImage).mem = (devWrite reloadState (dwBytes 0 ((imageDws reloadState reloadedImage).take 8))).mem := by
    unfold writeImage
    rw [show imageAddr reloadState reloadedImage.core reloadedImage.slot = 0 by decide +kernel, ← List.take_append_drop 8 (imageDws _ _), List.append_assoc]
    exact mem_devicePut_held rfl rfl (by simp) (by decide +kernel)
  rw [hput]
  decide +kernel

theorem eachThr_isThread {s : State} {x : Tid} {core : Nat} {th : Thr} (h : isThread s x core th) (f : State → Nat → Thr → State) :
    eachThr s x f = f s core th := by
  obtain ⟨hthreads, hthr, -⟩ := h
  unfold eachThr
  rw [hthreads, List.foldl_cons, List.foldl_nil, hthr]

/-- A WAITLINE whose address has no translation issues again. -/
theorem exec_waitlineReload_miss {s u : State} {x : Tid} {core : Nat} {th : Thr} (h : isThread s x core th) {sd pa : Nat} {va other : Word}
    (hwait : th.wait = .waitline sd va pa other none) (hwatch : s.watchers.find th.uid = none)
    (hmiss : prefLook s (threadWho s core th) .waitline va.toNat = (none, u)) :
    exec (.waitlineReload x) s = .next (issueAgain u core th.uid [va.toNat / 4096]) := by
  rw [exec_waitlineReload, execWaitlineReload, eachThr_isThread h, reloadLine, hwait]
  simp only [hwatch, hmiss, Option.isSome_none, Bool.false_eq_true, if_false]

/-- Refutes O44: a fibre's WAITLINE loads again, and misses, where the image of a saved wave bears its uid; the image is written to memory. -/
theorem not_repliesEnd : ¬ Obligations.RepliesEnd := by
  intro h
  have hwatch : reloads.watchers.find 7 = none := rfl
  have hlook : prefLook reloads (threadWho reloads 0 reloading) .waitline (0x1000 : Word).toNat = (none, reloads) := rfl
  obtain ⟨-, -, -, -, hreload⟩ := h reloads (.fibre 0 3) 0 reloading isThread_reloading
  obtain ⟨-, hmiss⟩ := hreload 1 0x1000 0 0 reloads rfl hwatch
  obtain ⟨t, ht, -, hmem⟩ := hmiss hlook
  have hnext := Host.Outcome.next.inj ((exec_waitlineReload_miss isThread_reloading rfl hwatch hlook).symm.trans ht)
  have hkept : (writeImage reloadState reloadedImage).mem = reloads.mem := by
    rw [← hmem, ← hnext]
    exact (mem_issueAgain_reloads _).symm
  have hwrites := reload_writes
  rw [hkept] at hwrites
  cases hwrites

end Sys2Proof.Machine
end

section
/-!
PROOFS. O51, the events of commands: refuted. COMMAND_START is claimed to leave memory; an FCLK whose time has come completes as it starts (R324), and
the token of a fibre that has been spilled is written where the fibre stands, in the spill area (R302).
-/
namespace Sys2Proof.Machine

/-- The header of an FCLK that leaves its token in register 1. -/
def clockHdr : CmdHdr := { blankHdr with token := 1 }

/-- An FCLK of a fibre of uid 7, queued, for time 0. -/
def clockWait : Cmd :=
  { num := 1, clk := 0, idx := 0, uid := 7, lid := none, sup := false, origin := none, set := (0, 0, none), floors := Floors.zero,
    instr := .fclk clockHdr ⟨0, 0⟩, ops := [0], vecs := [], running := false, started := 0, waited := true, xlat := [], reads := [], out := [],
    got := [], dsts := [], takes := [], wrote := [], phase := 0, token := 0, acc := [], miss := none, tiles := [], marks := [], wid := 0, recIdx := 0 }

/-- The fibre, spilled. -/
def clockFibre : Away :=
  { t := { Thr.vacant with uid := 7 }
    fib := { pc := 0, f := Vector.replicate 8 0, tag := 0, prio := 0, sys := false, ray := false, pin := false, seq := 0, launch := 0, origin := 0 } }

/-- A nanosecond after reset; the time of the FCLK has come, and its fibre stands in its core's spill area. -/
def clockState : State :=
  { State.reset with clk := 3, cores := [(0, { Core.reset with cmdq := [clockWait], spill := [clockFibre], spillNext := 1 })] }

/-- The FCLK completes as it starts; its token goes to the fibre's image. -/
theorem clock_writes : (match exec (.commandStart 0) clockState with | .next t => t.mem.isEmpty | _ => true) = false := by decide +kernel

/-- Refutes O51: an FCLK whose time has come completes at its start, and the token of a fibre that has been spilled is written to its image, in memory. -/
theorem not_commandEvents : ¬ Obligations.CommandEvents := by
  intro h
  obtain ⟨⟨hstart, -⟩, -⟩ := h
  obtain ⟨t, ht, hmem, -⟩ := hstart clockState 0 0 clockWait (by decide +kernel) (by decide +kernel)
  have hwrites := clock_writes
  rw [ht] at hwrites
  dsimp only at hwrites
  rw [hmem] at hwrites
  cases hwrites

end Sys2Proof.Machine
end

section
/-!
PROOFS. The miss tables and the windows of the slices, and the bytes that the host writes back (15 R410-R412, R425).
-/
namespace Sys2Proof.Machine

/-! ## The miss tables of the slices -/

/-- The miss tables. -/
def missTable (s : State) (p : Nat) : List MissLine := (s.slice p).misses

section
variable (s : State)

/-- A change of a slice that leaves its miss table. -/
theorem missTable_modSlice (p : Nat) (f : Slice → Slice) (h : (f (s.slice p)).misses = (s.slice p).misses) :
    missTable (s.modSlice p f) = missTable s := by
  funext q
  by_cases hq : q = p
  · subst hq; rw [missTable, slice_modSlice, h, missTable]
  · rw [missTable, slice_modSlice_other _ _ _ _ hq, missTable]

theorem missTable_sendMsg (vc : VC) (src dst : Node) (gate : Nat) (b : Body) : missTable (sendMsg s vc src dst gate b) = missTable s := rfl

theorem missTable_modReq (id : Nat) (f : Req → Req) : missTable (s.modReq id f) = missTable s := by
  unfold State.modReq; split <;> rfl

theorem missTable_askHost (line : Nat) : missTable (askHost s line) = missTable s := by
  unfold askHost
  split
  · split
    · rfl
    · exact missTable_modSlice s _ (fun q => { q with filter := _ }) rfl
  · rfl

theorem missTable_retag (line tag : Nat) : missTable (retag s line tag) = missTable s := by
  unfold retag; dsimp only; split <;> rfl

theorem missTable_endWindow (line : Nat) : missTable (endWindow s line) = missTable s := by
  unfold endWindow
  split
  · rfl
  · dsimp only
    split
    · rfl
    · refine (foldl_keeps missTable _ (fun s id => ?_) _ _).trans
        (missTable_modSlice s _ (fun q => { q with windows := q.windows.filter fun x => x.line != line }) rfl)
      split
      · rfl
      · exact (missTable_sendMsg _ _ _ _ _ _).trans (missTable_modReq _ _ _)

theorem missTable_notePast (core line : Nat) : missTable (notePast s core line) = missTable s := by
  unfold notePast; dsimp only; split <;> rfl

theorem missTable_writeOne (k : Nat) (x : Nat × Byte) : missTable (writeOne s k x) = missTable s := by
  unfold writeOne
  rcases spadTarget s k x.1 with ⟨a, lat⟩
  cases lat with
  | some lat => cases pwinOf x.1 <;> rfl
  | none =>
    cases pwinOf x.1 with
    | spad q =>
      dsimp only
      split <;> rfl
    | _ => rfl

theorem missTable_soil (line : Nat) (old : List Byte) : missTable (soil s line old) = missTable s := by
  unfold soil; split <;> rfl

theorem missTable_performBytes (core : Nat) (l : List (Nat × Byte)) : missTable (performBytes s core l) = missTable s := by
  unfold performBytes
  split
  · rfl
  · next x l =>
    rw [missTable_soil]
    calc _ = missTable (notePast (endWindow s (lineOf x.1)) core (lineOf x.1)) :=
          foldl_keeps missTable _ (fun s y => missTable_writeOne s _ y) (x :: l) _
      _ = missTable s := by rw [missTable_notePast, missTable_endWindow]

theorem missTable_devWriteLine (l : List (Nat × Byte)) : missTable (devWriteLine s l) = missTable s := by
  unfold devWriteLine
  split
  · rfl
  · rw [missTable_performBytes]
    split
    · exact missTable_retag _ _ _
    · rfl

theorem missTable_devWrite (l : List (Nat × Byte)) : missTable (devWrite s l) = missTable s := by
  unfold devWrite
  split
  · rfl
  · split
    · exact missTable_devWriteLine _ _
    · exact missTable_askHost _ _

theorem missTable_devicePut (a : Nat) (l : List Nat) : missTable (devicePut s a l) = missTable s :=
  foldl_keeps missTable devWrite missTable_devWrite _ _

theorem missTable_setPart (p : Nat) (x : Part) : missTable (s.setPart p x) = missTable s := rfl

theorem missTable_modPart (p : Nat) (f : Part → Part) : missTable (s.modPart p f) = missTable s := rfl

theorem missTable_appendUndo (p line : Nat) : missTable (appendUndo s p line) = missTable s := by
  unfold appendUndo
  dsimp only
  split
  · rfl
  · split
    · rfl
    · rw [missTable_setPart, missTable_devicePut]

theorem missTable_appendOrder (p kind line actor index : Nat) : missTable (appendOrder s p kind line actor index) = missTable s := by
  unfold appendOrder
  dsimp only
  split
  · rfl
  · split
    · rfl
    · rw [missTable_setPart, missTable_devicePut]

/-- Another agent's write of a recorded line is an entry of the order log at most (R398). -/
theorem missTable_recordForeign (line : Nat) : missTable (recordForeign s line) = missTable s := by
  refine foldl_keeps missTable _ (fun s p => ?_) _ _
  dsimp only
  split
  · rfl
  · next hnone =>
    split
    · next hlid =>
      cases hrec : (s.part p).recLaunch with
      | none => rw [hrec] at hnone; exact absurd rfl hnone
      | some l => rw [hrec] at hlid; exact absurd hlid (by simp)
    · split
      · rw [missTable_modPart, missTable_appendOrder]
      · rfl

theorem missTable_hostBytes (line : Nat) (d : List Byte) : missTable (hostBytes s line d) = missTable s := by
  rw [hostBytes, missTable_performBytes, missTable_recordForeign, missTable_retag]

theorem missTable_touchHome (line : Nat) : missTable (touchHome s line) = missTable s := missTable_modSlice s _ _ rfl

theorem missTable_drainWb (p : Nat) : missTable (drainWb s p) = missTable s := by
  have hpop (l : List (Nat × Bool × List Byte)) : missTable (s.modSlice p fun q => { q with wb := l }) = missTable s :=
    missTable_modSlice s _ _ rfl
  unfold drainWb
  split
  · rfl
  · exact hpop _
  · dsimp only
    split
    · rw [missTable_touchHome, missTable_hostBytes, hpop]
    · exact (missTable_hostBytes _ _ _).trans (hpop _)

theorem missTable_pushWb (p line : Nat) (host : Bool) (d : List Byte) : missTable (pushWb s p line host d) = missTable s := by
  unfold pushWb
  dsimp only
  rw [missTable_modSlice _ _ _ rfl]
  split
  · exact missTable_drainWb _ _
  · rfl

/-- Room for a line in its set: the least recently used line of a full set gives way. -/
def makeWay (s : State) (line : Nat) (set : List Nat) : State :=
  let p := sliceOf (64 * line)
  match set with
  | old :: _ =>
    if homeWays s p ≤ set.length then
      let s := s.modSlice p fun q => { q with home := q.home.filter fun x => x != old }
      if (s.dirty.find old).isSome then pushWb s p old false (memBytes s.mem (64 * old) 64) else s
    else s
  | [] => s

/-- The lines of a set that are in home ways, the least recently used first. -/
def homeSet (s : State) (line : Nat) : List Nat := (s.slice (sliceOf (64 * line))).home.filter fun x => lineSet x == lineSet line

theorem fillHome_eq (line : Nat) : fillHome s line = if (homeSet s line).contains line then touchHome s line
    else (makeWay s line (homeSet s line)).modSlice (sliceOf (64 * line)) fun q => { q with home := q.home ++ [line] } := rfl

theorem missTable_makeWay (line : Nat) (set : List Nat) : missTable (makeWay s line set) = missTable s := by
  unfold makeWay
  dsimp only
  split
  · split
    · split
      · rw [missTable_pushWb, missTable_modSlice _ _ _ rfl]
      · exact missTable_modSlice _ _ _ rfl
    · rfl
  · rfl

theorem missTable_fillHome (line : Nat) : missTable (fillHome s line) = missTable s := by
  rw [fillHome_eq]
  split
  · exact missTable_touchHome _ _
  · exact (missTable_modSlice _ _ _ rfl).trans (missTable_makeWay _ _ _)

/-- A line that is filled is in a home way. -/
theorem resident_fillHome (line : Nat) : resident (fillHome s line) line = true := by
  rw [fillHome_eq]
  unfold resident touchHome
  split <;> rw [slice_modSlice] <;> simp

end

/-! ## Windows -/

section
variable (s : State)

/-- The slices, as a view. -/
theorem sliceTab_modReq (id : Nat) (f : Req → Req) : (s.modReq id f).sliceTab = s.sliceTab := by
  unfold State.modReq; split <;> rfl

/-- The end of a line's window leaves no window of the line. -/
theorem windows_endWindow {line : Nat} {w : Window} (hhbm : pwinOf (64 * line) = .hbm)
    (hw : (s.slice (sliceOf (64 * line))).windows.find? (fun w => w.line == line) = some w) :
    ((endWindow s line).slice (sliceOf (64 * line))).windows = (s.slice (sliceOf (64 * line))).windows.filter fun x => x.line != line := by
  have htab : (endWindow s line).sliceTab = (s.modSlice (sliceOf (64 * line)) fun q =>
      { q with windows := q.windows.filter fun x => x.line != line }).sliceTab := by
    unfold endWindow
    rw [if_neg (by simp [hhbm])]
    dsimp only
    rw [show List.find? _ ((s.sliceTab.find (sliceOf (64 * line))).getD Slice.reset).windows = some w from hw]
    refine foldl_keeps State.sliceTab _ (fun s id => ?_) _ _
    split
    · rfl
    · exact sliceTab_modReq _ _ _
  unfold State.slice at hw ⊢
  rw [htab]
  exact congrArg Slice.windows (slice_modSlice s _ _)

theorem endWindow_unopened {line : Nat} (h : (s.slice (sliceOf (64 * line))).windows = []) : endWindow s line = s := by
  unfold endWindow
  split
  · rfl
  · dsimp only
    rw [show ((s.sliceTab.find (sliceOf (64 * line))).getD Slice.reset).windows = [] from h]
    rfl

end

/-! ## A host's line -/

section
variable {s : State}

/-- No partition records or replays: an access is noted nowhere. -/
theorem recordForeign_unrecorded (line : Nat) (h : ∀ q, (s.part q).recLaunch = none) : recordForeign s line = s := by
  unfold recordForeign recordAccess
  refine List.foldl_fixed' (fun p => ?_) _
  rw [if_pos (by rw [h p]; rfl)]

theorem retag_plain {line : Nat} (h : s.lineKeys.find line = none) : retag s line 0 = s := by
  unfold retag
  rw [h]
  rfl

/-- Storing bytes at consecutive addresses. -/
theorem memRead_writeOnes_line (k a n : Nat) (f : Nat → Byte) (h : Memory.wf s.mem = true) (hwin : ∀ i, i < n → pwinOf (a + i) = .hbm) (b : Nat) :
    memRead (((List.range n).map fun i => (a + i, f i)).foldl (fun s x => writeOne s k x) s).mem b =
      if a ≤ b ∧ b < a + n then f (b - a) else memRead s.mem b := by
  induction n with
  | zero => rw [if_neg (by omega)]; rfl
  | succ n ih =>
    have ih := ih fun i hi => hwin i (by omega)
    rw [List.range_succ, List.map_append, List.foldl_append]
    simp only [List.map_cons, List.map_nil, List.foldl_cons, List.foldl_nil]
    rw [writeOne_mem, spadTarget_hbm _ _ _ (hwin n (by omega))]
    have hwf := writeOnes_wf k ((List.range n).map fun i => (a + i, f i)) s h
    by_cases hb : b = a + n
    · subst hb
      rw [memRead_write_same _ _ _ hwf, if_pos (by omega), Nat.add_sub_cancel_left]
    · rw [memRead_write_other _ _ _ _ hwf hb, ih]
      by_cases hin : a ≤ b ∧ b < a + n
      · rw [if_pos hin, if_pos (by omega)]
      · rw [if_neg hin, if_neg (by omega)]

end

end Sys2Proof.Machine
end

section
/-!
PROOFS. The events of slices and the arrivals from the mesh (15 R403-R416; 03 R82).
-/
namespace Sys2Proof.Machine

/-! ## The bytes of a host's line -/

section
variable (s : State)

theorem pwinOf_hbm_iff (pa : Nat) : pwinOf pa = .hbm ↔ pa < 0xC000000000 := by
  unfold pwinOf
  dsimp only
  repeat' split
  all_goals simp_all

/-- A line of HBM is in HBM with all its bytes. -/
theorem pwinOf_line {line i : Nat} (h : pwinOf (64 * line) = .hbm) (hi : i < 64) : pwinOf (64 * line + i) = .hbm := by
  rw [pwinOf_hbm_iff] at h ⊢
  omega

theorem sliceTab_writeOne (k : Nat) (x : Nat × Byte) : (writeOne s k x).sliceTab = s.sliceTab := by
  unfold writeOne
  rcases spadTarget s k x.1 with ⟨a, lat⟩
  cases lat with
  | some lat => cases pwinOf x.1 <;> rfl
  | none =>
    cases pwinOf x.1 with
    | spad q =>
      dsimp only
      split <;> rfl
    | _ => rfl

theorem sliceTab_soil (line : Nat) (old : List Byte) : (soil s line old).sliceTab = s.sliceTab := by
  unfold soil; split <;> rfl

/-- Bytes of a line with no window perform: the slices stand. -/
theorem sliceTab_performBytes {core : Nat} {l : List (Nat × Byte)} (h : ∀ x ∈ l, endWindow s (lineOf x.1) = s) :
    (performBytes s core l).sliceTab = s.sliceTab := by
  unfold performBytes
  split
  · rfl
  · next x l =>
    rw [sliceTab_soil, h x List.mem_cons_self]
    calc _ = (notePast s core (lineOf x.1)).sliceTab :=
          foldl_keeps State.sliceTab _ (fun s y => sliceTab_writeOne s _ y) (x :: l) _
      _ = s.sliceTab := by unfold notePast; dsimp only; split <;> rfl

/-- Bytes at consecutive addresses of HBM perform: they stand in memory, and nothing else changes there. -/
theorem memRead_performBytes_line (core a n : Nat) (f : Nat → Byte) (h : Memory.wf s.mem = true)
    (hwin : ∀ i, i < n → pwinOf (a + i) = .hbm) (b : Nat) :
    memRead (performBytes s core ((List.range n).map fun i => (a + i, f i))).mem b =
      if a ≤ b ∧ b < a + n then f (b - a) else memRead s.mem b := by
  have hmem (l : List (Nat × Byte)) (x : Nat × Byte) : (performBytes s core (x :: l)).mem =
      ((x :: l).foldl (fun s x => writeOne s (clusterOf core) x) (notePast (endWindow s (lineOf x.1)) core (lineOf x.1))).mem := by
    rw [performBytes, soil_mem]
    rfl
  cases hl : (List.range n).map fun i => (a + i, f i) with
  | nil =>
    obtain rfl : n = 0 := by simpa using hl
    rw [if_neg (by omega)]
    rfl
  | cons x l =>
    have hnote : (notePast (endWindow s (lineOf x.1)) core (lineOf x.1)).mem = s.mem := (notePast_mem _ _ _).trans (endWindow_mem _ _)
    rw [hmem, ← hl, memRead_writeOnes_line _ _ _ _ (by rw [hnote]; exact h) hwin, hnote]

end

/-! ## The slices' events -/

theorem hostBytes_slice {s : State} {line : Nat} {d : List Byte} (hwin : (s.slice (sliceOf (64 * line))).windows = [])
    (hkey : s.lineKeys.find line = none) (hrec : ∀ q, (s.part q).recLaunch = none) (q : Nat) : (hostBytes s line d).slice q = s.slice q := by
  unfold hostBytes
  rw [retag_plain hkey, recordForeign_unrecorded line hrec]
  unfold State.slice
  rw [sliceTab_performBytes]
  intro x hx
  obtain ⟨i, hi, rfl⟩ := List.mem_map.mp hx
  have hline : lineOf (64 * line + i) = line := by
    unfold lineOf
    have := List.mem_range.mp hi
    omega
  rw [hline]
  exact endWindow_unopened s hwin

theorem hostBytes_memRead {s : State} {line : Nat} {d : List Byte} (hhbm : pwinOf (64 * line) = .hbm)
    (hkey : s.lineKeys.find line = none) (hrec : ∀ q, (s.part q).recLaunch = none) (hwf : Memory.wf s.mem = true) (a : Nat) :
    memRead (hostBytes s line d).mem a = if 64 * line ≤ a ∧ a < 64 * line + 64 then d.getD (a - 64 * line) 0 else memRead s.mem a := by
  unfold hostBytes
  rw [retag_plain hkey, recordForeign_unrecorded line hrec]
  exact memRead_performBytes_line s noCore (64 * line) 64 (fun i => d.getD i 0) hwf (fun i hi => pwinOf_line hhbm hi) a

theorem missFill_resident (s : State) (line : Nat) (m : MissLine) (hm : (missTable s (sliceOf (64 * line))).find? (fun x => x.line == line) = some m)
    (hreqs : m.reqs = []) : yields (exec (.sliceMissFill (sliceOf (64 * line)) line) s) fun t =>
      resident t line = true ∧ missTable t (sliceOf (64 * line)) = (missTable s (sliceOf (64 * line))).erase m := by
  have hexec : exec (.sliceMissFill (sliceOf (64 * line)) line) s =
      .next (fillHome (s.modSlice (sliceOf (64 * line)) fun q => { q with misses := q.misses.erase m }) line) := by
    rw [exec_sliceMissFill]
    unfold execSliceMissFill
    rw [show List.find? _ (s.slice (sliceOf (64 * line))).misses = some m from hm]
    dsimp only
    rw [hreqs]
    rfl
  refine ⟨_, hexec, resident_fillHome _ _, ?_⟩
  rw [missTable_fillHome, missTable, slice_modSlice]
  rfl

/-- What is newer than HBM once a replaced line's bytes have reached it: the line only where it has been written since. -/
def dirtyAfter (s : State) (line : Nat) (d : List Byte) : Map (List Byte) :=
  match s.dirty.find line with
  | none => s.dirty
  | some _ => if memBytes s.mem (64 * line) 64 == d then s.dirty.del line else s.dirty.put line d

theorem find_dirtyAfter (s : State) (line : Nat) (d : List Byte) : (dirtyAfter s line d).find line =
    if (s.dirty.find line).isSome ∧ memBytes s.mem (64 * line) 64 ≠ d then some d else none := by
  unfold dirtyAfter
  cases hdirty : s.dirty.find line with
  | none => simp [hdirty]
  | some old =>
    by_cases hd : memBytes s.mem (64 * line) 64 = d
    · simp [hd]
    · simp [hd]

/-- The oldest write-back is of a replaced line. -/
theorem drainWb_replaced {s : State} {p line : Nat} {d : List Byte} {l : List (Nat × Bool × List Byte)} (h : (s.slice p).wb = (line, false, d) :: l) :
    ((drainWb s p).slice p).wb = l ∧ (drainWb s p).mem = s.mem ∧
      (drainWb s p).dirty.find line = if (s.dirty.find line).isSome ∧ memBytes s.mem (64 * line) 64 ≠ d then some d else none := by
  have hdrain : drainWb s p = { s.modSlice p fun q => { q with wb := l } with dirty := dirtyAfter s line d } := by
    unfold drainWb
    rw [h]
    rfl
  rw [hdrain]
  exact ⟨congrArg Slice.wb (slice_modSlice s p fun q => { q with wb := l }), rfl, find_dirtyAfter s line d⟩

/-- The oldest write-back is of a host's line. -/
theorem drainWb_host {s : State} {line : Nat} {d : List Byte} {l : List (Nat × Bool × List Byte)}
    (h : (s.slice (sliceOf (64 * line))).wb = (line, true, d) :: l) (hhbm : pwinOf (64 * line) = .hbm) (hkey : s.lineKeys.find line = none)
    (hwin : (s.slice (sliceOf (64 * line))).windows = []) (hrec : ∀ q, (s.part q).recLaunch = none) (hwf : Memory.wf s.mem = true) :
    ((drainWb s (sliceOf (64 * line))).slice (sliceOf (64 * line))).wb = l ∧
      ∀ a, memRead (drainWb s (sliceOf (64 * line))).mem a =
        if 64 * line ≤ a ∧ a < 64 * line + 64 then d.getD (a - 64 * line) 0 else memRead s.mem a := by
  have hdrain : drainWb s (sliceOf (64 * line)) =
      let u := hostBytes (s.modSlice (sliceOf (64 * line)) fun q => { q with wb := l }) line d
      if resident u line then touchHome u line else { u with dirty := u.dirty.del line } := by
    unfold drainWb
    rw [h]
  have hslice := hostBytes_slice (s := s.modSlice (sliceOf (64 * line)) fun q => { q with wb := l }) (line := line) (d := d)
    (by rw [slice_modSlice]; exact hwin) hkey hrec (sliceOf (64 * line))
  have hmem := hostBytes_memRead (s := s.modSlice (sliceOf (64 * line)) fun q => { q with wb := l }) (d := d) hhbm hkey hrec hwf
  rw [slice_modSlice] at hslice
  rw [hdrain]
  dsimp only
  split
  · refine ⟨?_, hmem⟩
    rw [touchHome, slice_modSlice, hslice]
  · exact ⟨congrArg Slice.wb hslice, hmem⟩

theorem windowExpiry_early {s : State} {p line : Nat} {w : Window} (hw : (s.slice p).windows.find? (fun w => w.line == line) = some w)
    (h : s.clk < w.ends) : exec (.multicastWindowExpiry p line) s = .next s := by
  rw [exec_multicastWindowExpiry]
  unfold execMulticastWindowExpiry
  rw [hw]
  dsimp only
  rw [if_neg (by simp [h])]

theorem windowExpiry_due {s : State} {line : Nat} {w : Window}
    (hw : (s.slice (sliceOf (64 * line))).windows.find? (fun w => w.line == line) = some w) (hends : w.ends ≤ s.clk)
    (hheld : heldByMcas s (64 * line) = false) (hhbm : pwinOf (64 * line) = .hbm) :
    yields (exec (.multicastWindowExpiry (sliceOf (64 * line)) line) s) fun t =>
      t.mem = s.mem ∧ ∀ x ∈ (t.slice (sliceOf (64 * line))).windows, x.line ≠ line := by
  refine ⟨endWindow s line, ?_, endWindow_mem s line, fun x hx => ?_⟩
  · rw [exec_multicastWindowExpiry]
    unfold execMulticastWindowExpiry
    rw [hw]
    dsimp only
    rw [if_pos (by simp [hends, hheld])]
  · rw [windows_endWindow s hhbm hw] at hx
    simpa using (List.mem_filter.mp hx).2

theorem refresh_counts {s : State} {n : Nat} {x : Nat × Req} (hx : x ∈ s.reqs) (hhbm : pwinOf x.2.pa = .hbm) (hkind : x.2.kind = .eng n) :
    exec (.hbmRefresh (sliceOf x.2.pa / 48) true) s =
      .next (s.modDie (sliceOf x.2.pa / 48) fun y => { y with refsplit := (y.refsplit + 1) % 2 ^ 48 }) := by
  rw [exec_hbmRefresh]
  unfold execHbmRefresh
  dsimp only
  rw [if_pos]
  rw [Bool.true_and]
  exact List.any_eq_true.mpr ⟨x, hx, by simp [hhbm, hkind]⟩

theorem sliceEvents : Claims.SliceEvents := by
  refine ⟨fun s line m hm hreqs => missFill_resident s line m hm hreqs, fun s p line d l hwb => ?_,
    fun s line d l hwb hhbm hkey hwin hrec hwf => ?_, fun s p line w hw => ⟨windowExpiry_early hw, ?_⟩,
    fun s d n x hx hhbm hdie hkind => ?_, fun s d => ?_⟩
  · exact ⟨_, exec_sliceWriteback s p, drainWb_replaced hwb⟩
  · exact ⟨_, exec_sliceWriteback s _, drainWb_host hwb hhbm hkey hwin hrec hwf⟩
  · rintro hends hheld rfl hhbm
    exact windowExpiry_due hw hends hheld hhbm
  · subst hdie
    exact refresh_counts hx hhbm hkind
  · rw [exec_hbmRefresh]
    rfl

/-! ## Arrivals from the mesh -/

/-- Message n is gone, and stays gone whatever is sent next. -/
def Gone (n : Nat) (s : State) : Prop := n < s.fresh ∧ s.msgs.find n = none

section
variable {s : State} {n : Nat}

theorem Gone.sendMsg (h : Gone n s) (vc : VC) (src dst : Node) (gate : Nat) (b : Body) : Gone n (sendMsg s vc src dst gate b) := by
  obtain ⟨hlt, hnone⟩ := h
  refine ⟨Nat.lt_succ_of_lt hlt, ?_⟩
  exact (Map.find_put_other _ _ _ _ (Nat.ne_of_lt hlt)).trans hnone

theorem Gone.modReq (h : Gone n s) (id : Nat) (f : Req → Req) : Gone n (s.modReq id f) := by
  unfold State.modReq; split <;> exact h

theorem Gone.endWindow (h : Gone n s) (line : Nat) : Gone n (endWindow s line) := by
  unfold Machine.endWindow
  split
  · exact h
  · dsimp only
    split
    · exact h
    · refine List.foldlRecOn _ _ (motive := Gone n) h fun t ht id _ => ?_
      split
      · exact ht
      · exact (ht.modReq _ _).sendMsg _ _ _ _ _

theorem clk_endWindow (s : State) (line : Nat) : (endWindow s line).clk = s.clk := by
  unfold endWindow
  split
  · rfl
  · dsimp only
    split
    · rfl
    · refine foldl_keeps State.clk _ (fun s id => ?_) _ _
      split
      · rfl
      · unfold State.modReq; dsimp only; split <;> rfl

theorem underWay_sendMsg (s : State) (vc : VC) (src dst : Node) (gate : Nat) (b : Body) : underWay (sendMsg s vc src dst gate b) vc src dst gate b :=
  ⟨s.fresh, Map.find_put_same _ _ _⟩

theorem modReq_found {id : Nat} {r : Req} (h : s.reqs.find id = some r) (f : Req → Req) :
    s.modReq id f = { s with reqs := s.reqs.put id (f r) } := by
  unfold State.modReq
  rw [h]

/-- A write that passes the visitor ways drops the line's copy there, and goes on to its home (R409). -/
theorem arriveReq_passing {id : Nat} {r : Req} (hr : s.reqs.find id = some r) (hstage : r.stage = .sentVis) (hkind : needsWrite r.kind = true) :
    arriveReq s id = sendMsg { dropVisitors s (dieOf r.core) (lineOf r.pa) with reqs := s.reqs.put id { r with stage := .sent } } .request
      (.slice (visitorSlice (dieOf r.core) (lineOf r.pa))) (homeNode s r.pa) 0 (.req id) := by
  unfold arriveReq
  rw [hr]
  dsimp only
  rw [if_pos (by rw [hstage, hkind]; rfl), modReq_found (s := dropVisitors s (dieOf r.core) (lineOf r.pa)) hr]
  rfl

/-- Another request stands at its home, or at the visitor ways; a write ends the window of its line (R412). -/
theorem arriveReq_standing {id : Nat} {r : Req} (hr : s.reqs.find id = some r) (hhere : beyond r.pa = false)
    (hkind : r.stage = .sentVis → needsWrite r.kind = false) : ∃ u : State, arriveReq s id =
      { u with reqs := u.reqs.put id { r with stage := if r.stage == .sentVis then .atVis else .atHome, arrived := s.fresh, arrClk := s.clk } } ∧
      u.mem = s.mem ∧ ∀ n, Gone n s → Gone n u := by
  refine ⟨if isWrite r.kind then endWindow (dropVisitors s.new.2 (dieOf r.core) (lineOf r.pa)) (lineOf r.pa) else s.new.2, ?_, ?_, fun n h => ?_⟩
  · have hclk : (if isWrite r.kind then endWindow (dropVisitors s.new.2 (dieOf r.core) (lineOf r.pa)) (lineOf r.pa) else s.new.2).clk = s.clk := by
      split
      · exact clk_endWindow _ _
      · rfl
    unfold arriveReq
    rw [hr]
    dsimp only
    rw [if_neg, hhere]
    · simp only [hclk, Bool.false_eq_true, if_false]
      rfl
    · simpa using hkind
  · split
    · exact endWindow_mem _ _
    · rfl
  · have hnew : Gone n s.new.2 := ⟨Nat.lt_succ_of_lt h.1, h.2⟩
    split
    · exact Gone.endWindow (s := dropVisitors s.new.2 _ _) hnew _
    · exact hnew

end

/-- A message that may not arrive yet does not. -/
theorem delivery_early {s : State} {n : Nat} {m : Msg} (hm : s.msgs.find n = some m) (h : msgReady s n m = false) :
    exec (.meshMessageDelivery n) s = .next s := by
  rw [exec_meshMessageDelivery]
  unfold execMeshMessageDelivery
  rw [hm]
  dsimp only
  rw [h]
  rfl

section
variable {s : State} {n : Nat} {m : Msg}

/-- Without the message. -/
def taken (s : State) (n : Nat) : State := { s with msgs := s.msgs.del n }

theorem gone_taken (h : n < s.fresh) : Gone n (taken s n) := ⟨h, Map.find_del_same _ _⟩

/-- What each kind of message does at its place. -/
def arriveMsg (s : State) (m : Msg) : State :=
  match m.body, m.dst with
  | .req r, _ => arriveReq s r
  | .reply r, _ => arriveReply s r
  | .grant r, _ => s.modReq r fun r => { r with stage := .replied }
  | .release r, _ => arriveRelease s r
  | .seek h, .slice p => s.modSlice p fun q => { q with hops := q.hops ++ [h] }
  | b, .core c => arriveAt s c b
  | _, _ => s

theorem delivery_arrives (hm : s.msgs.find n = some m) (hready : msgReady s n m = true) (hroom : staysOut s m = false) :
    exec (.meshMessageDelivery n) s = .next (arriveMsg (taken s n) m) := by
  rw [exec_meshMessageDelivery]
  unfold execMeshMessageDelivery
  rw [hm]
  dsimp only
  rw [hready, hroom]
  rfl

theorem arriveMsg_fibre {a : Away} {c : Nat} (hbody : m.body = .fibre a) (hdst : m.dst = .core c) (hfenced : (s.core c).fenced = false) :
    arriveMsg s m = s.modCore c fun k => { k with arrivals := k.arrivals ++ [a] } := by
  unfold arriveMsg arriveAt
  rw [hbody, hdst]
  dsimp only
  rw [hfenced]
  rfl

theorem arriveMsg_req {id : Nat} (hbody : m.body = .req id) : arriveMsg s m = arriveReq s id := by
  unfold arriveMsg; rw [hbody]

theorem arriveMsg_reply {id : Nat} (hbody : m.body = .reply id) : arriveMsg s m = arriveReply s id := by
  unfold arriveMsg; rw [hbody]

theorem arriveMsg_grant {id : Nat} (hbody : m.body = .grant id) : arriveMsg s m = s.modReq id fun r => { r with stage := .replied } := by
  unfold arriveMsg; rw [hbody]

theorem arriveReply_wanted {id : Nat} {r : Req} (hr : s.reqs.find id = some r) (hwant : replyWanted s r id = true) :
    arriveReply s id = s.modReq id fun r => { r with stage := .replied } := by
  unfold arriveReply
  rw [hr]
  dsimp only
  rw [if_pos hwant]

end

theorem meshDelivery : Claims.MeshDelivery := by
  intro s n m hm hn
  have hgone := gone_taken hn
  refine ⟨delivery_early hm, fun hready hroom => ?_⟩
  rw [delivery_arrives hm hready hroom]
  refine ⟨fun a c hbody hdst hfenced => ⟨_, rfl, ?_⟩, fun id r hbody hr hstage hkind => ⟨_, rfl, ?_⟩,
    fun id r hbody hr hhere hkind => ⟨_, rfl, ?_⟩, fun id r hbody hr hwant => ⟨_, rfl, ?_⟩, fun id r hbody hr => ⟨_, rfl, ?_⟩⟩
  · rw [arriveMsg_fibre (s := taken s n) hbody hdst hfenced]
    exact ⟨hgone.2, congrArg Core.arrivals (core_modCore _ _ _), rfl⟩
  · rw [arriveMsg_req hbody, arriveReq_passing (s := taken s n) hr hstage hkind]
    refine ⟨(Gone.sendMsg (s := { dropVisitors _ _ _ with reqs := _ }) hgone _ _ _ _ _).2, rfl, underWay_sendMsg _ _ _ _ _ _,
      ⟨_, Map.find_put_same _ _ _, rfl, rfl⟩, fun x hx => ?_⟩
    have := (List.mem_filter.mp hx).2
    simp only [Bool.not_eq_true', Bool.and_eq_false_iff, beq_eq_false_iff_ne] at this
    rintro ⟨hdie, hline⟩
    exact this.elim (fun h => h hdie) fun h => h hline
  · obtain ⟨u, hu, hmem, hkeep⟩ := arriveReq_standing (s := taken s n) hr hhere hkind
    rw [arriveMsg_req hbody, hu]
    refine ⟨(hkeep n hgone).2, hmem, _, Map.find_put_same _ _ _, rfl, rfl, fun h => ?_, fun h => ?_⟩
    · simp [h]
    · simp [h]
  · rw [arriveMsg_reply hbody, arriveReply_wanted (s := taken s n) hr hwant, modReq_found (s := taken s n) hr]
    exact ⟨hgone.2, rfl, Map.find_put_same _ _ _⟩
  · rw [arriveMsg_grant hbody, modReq_found (s := taken s n) hr]
    exact ⟨hgone.2, rfl, Map.find_put_same _ _ _⟩

/-- Settles O53: a miss leaves its table and its line enters its set last, write-backs and windows leave their slice's lists, and a message
that arrives is gone, since whatever its arrival sends has a later number. -/
theorem sliceAndMesh : Obligations.SliceAndMesh := ⟨sliceEvents, meshDelivery⟩

end Sys2Proof.Machine
end

section
/-!
PROOFS. The distributor: the checks of a LAUNCH, the fills of its cores, its completion (01 R44-R46; 02 R72, R74; 13 R354-R357).
-/
namespace Sys2Proof.Machine

/-! ## The command of a launch -/

theorem find_idx_replaced {num : Nat} {q c : Cmd} (hnum : c.num = q.num) (hidx : c.idx = q.idx) (l : List Cmd)
    (h : l.find? (fun x => x.idx == num) = some q) : (l.map fun x => if x.num == c.num then c else x).find? (fun x => x.idx == num) = some c := by
  have hc : (c.idx == num) = true := by rw [hidx]; exact List.find?_some (p := fun x : Cmd => x.idx == num) h
  induction l with
  | nil => simp at h
  | cons x l ih =>
    rw [List.map_cons, List.find?_cons]
    by_cases hx : (x.num == c.num) = true
    · rw [if_pos hx, hc]
    · rw [if_neg hx]
      rw [List.find?_cons] at h
      cases hxi : x.idx == num with
      | true =>
        rw [hxi] at h
        obtain rfl : x = q := by simpa using h
        exact absurd (by simp [hnum]) hx
      | false =>
        rw [hxi] at h
        exact ih h

/-- A running command that has been changed is found where it was. -/
theorem cmdAt_setCmd {s : State} {core num : Nat} {q c : Cmd} (h : cmdAt s core num = some q) (hnum : c.num = q.num) (hidx : c.idx = q.idx) :
    cmdAt (setCmd s core c) core num = some c := by
  unfold cmdAt setCmd
  rw [core_modCore]
  exact find_idx_replaced hnum hidx _ h

theorem setCmd_mem (s : State) (core : Nat) (c : Cmd) : (setCmd s core c).mem = s.mem := rfl

/-- The command once its header has been read. -/
def withHeader (q : Cmd) : Cmd := { q with acc := 0 :: dwsAt q (opAt q.ops 0) 8 }

theorem hdrDw_withHeader (q : Cmd) (i : Nat) : hdrDw (withHeader q) i = (dwsAt q (opAt q.ops 0) 8).getD i 0 := by
  unfold hdrDw withHeader
  rw [Nat.add_comm, List.getD_cons_succ]

section
variable {s : State} {core num p : Nat} {q c : Cmd}

/-- A bad header ends the command with its code. -/
theorem checkHeader_bad {n : Nat} (h : headerCode (hdrDw c) = n) (hn : n ≠ 0) : checkHeader s core p c = rejectLaunch s core p c n := by
  unfold checkHeader
  rw [h]
  cases n with
  | zero => exact absurd rfl hn
  | succ n => rfl

/-- A good header goes on to the head of the placement table. -/
theorem checkHeader_good (h : headerCode (hdrDw c) = 0) (hcores : partCores s p ≠ [])
    (hfit : ∀ x ∈ partCores s p, bits (hdrDw c 4) 63 32 + bits (hdrDw c 4) 31 0 ≤ launchPriv s x) :
    checkHeader s core p c = nextStage s core 1 c [] := by
  have hsmall : ∀ x ∈ partCores s p, tooSmall s c x = false := fun x hx => by simpa [tooSmall] using hfit x hx
  unfold checkHeader
  rw [h]
  refine if_neg ?_
  split
  · simpa using hsmall
  · obtain ⟨x, hx⟩ := List.exists_mem_of_ne_nil _ hcores
    intro hall
    have := List.all_eq_true.mp hall x hx
    rw [hsmall x hx] at this
    cases this

theorem rejected (hq : cmdAt s core num = some q) (hnum : c.num = q.num) (hidx : c.idx = q.idx) (code : Nat) :
    (rejectLaunch s core p c code).mem = s.mem ∧
      ∃ y, cmdAt (rejectLaunch s core p c code) core num = some y ∧ y.phase = 2 ∧ y.token = code :=
  ⟨rfl, _, cmdAt_setCmd (s := remember s _ _) hq hnum hidx, rfl, rfl⟩

theorem nextStaged (hq : cmdAt s core num = some q) (hnum : c.num = q.num) (hidx : c.idx = q.idx) :
    (nextStage s core 1 c []).mem = s.mem ∧ ∃ y, cmdAt (nextStage s core 1 c []) core num = some y ∧ y.phase = 0 ∧ launchStage y = 1 ∧
      y.acc = 1 :: c.acc.drop 1 :=
  ⟨rfl, _, cmdAt_setCmd hq hnum hidx, rfl, rfl, List.append_nil _⟩

/-- LAUNCH_HEADER_CHECK of a command whose reads have been answered. -/
theorem headerCheck_read {h : CmdHdr} {a : RegOp} (hq : cmdAt s core num = some q) (hp : s.partOf core = some p) (hinstr : q.instr = .launch h a)
    (hphase : q.phase = 3) (hout : q.out = []) : exec (.launchHeaderCheck core num) s = .next (checkStage s core p q) := by
  rw [exec_launchHeaderCheck]
  unfold execLaunchHeaderCheck
  rw [hq, hp]
  dsimp only
  rw [if_pos (by rw [hinstr, hphase, hout]; rfl)]

theorem checkStage_header (hphase : q.phase = 3) (hstage : launchStage q = 0) : checkStage s core p q =
    if launchRoom s core p && !earlierDeferred s p q then checkHeader s core p (withHeader q)
    else setCmd s core { withHeader q with phase := 6 } := by
  unfold checkStage
  rw [hstage, hphase]
  rfl

theorem checkStage_accept (hphase : q.phase = 3) (hstage : launchStage q = 3) : checkStage s core p q = acceptLaunch s core p q := by
  unfold checkStage
  rw [hstage, hphase]
  rfl

/-- LAUNCH_DEFERRED of a deferred launch. -/
theorem deferred_waits {h : CmdHdr} {a : RegOp} (hq : cmdAt s core num = some q) (hp : s.partOf core = some p) (hinstr : q.instr = .launch h a)
    (hphase : q.phase = 6) : exec (.launchDeferred core num) s =
      .next (if launchRoom s core p && !earlierDeferred s p q then checkHeader s core p q else s) := by
  rw [exec_launchDeferred]
  unfold execLaunchDeferred
  rw [hq, hp]
  dsimp only
  rw [hinstr, hphase]
  rfl

theorem roomFor_iff : (launchRoom s core p && !earlierDeferred s p q) = true ↔ launchRoom s core p = true ∧ earlierDeferred s p q = false := by simp

theorem recordCheckpoint_frame (s : State) (p lid launchid : Nat) (fibres : Bool) : ∃ x, (recordCheckpoint s p lid launchid fibres) = { s with parts := x } ∧
    ((recordCheckpoint s p lid launchid fibres).part p).lseq = (s.part p).lseq := by
  unfold recordCheckpoint
  dsimp only
  split
  · exact ⟨_, rfl, rfl⟩
  · exact ⟨_, rfl, by simp [State.part, State.setPart]⟩

/-- A launch that is recorded takes the next LSEQ. -/
theorem recorded (hq : cmdAt s core num = some q) : (recordLaunch s core p q).mem = s.mem ∧
    ((recordLaunch s core p q).part p).lseq = nextLseq (s.part p).lseq ∧
    (recordLaunch s core p q).launches.find s.fresh = some (makeLaunch s core p q (nextLseq (s.part p).lseq)) ∧
    ∃ y, cmdAt (recordLaunch s core p q) core num = some y ∧ y.phase = 1 := by
  generalize hl : makeLaunch s core p q (nextLseq (s.part p).lseq) = l
  generalize hu : ({ s.new.2.modPart p fun x => { x with lseq := nextLseq (s.part p).lseq } with launches := s.launches.put s.fresh l } : State) = u
  have hrec : recordLaunch s core p q = setCmd (recordCheckpoint u p s.fresh l.id (l.mode == 1)) core
      { q with phase := 1, xlat := [], acc := 4 :: q.acc.drop 1 } := by
    subst hu hl
    rfl
  obtain ⟨x, hcheck, hlseq⟩ := recordCheckpoint_frame u p s.fresh l.id (l.mode == 1)
  rw [hrec]
  refine ⟨?_, ?_, ?_, _, cmdAt_setCmd (q := q) ?_ rfl rfl, rfl⟩
  · rw [setCmd_mem, hcheck]
    subst hu
    rfl
  · refine hlseq.trans ?_
    subst hu
    simp [State.part, State.modPart, State.setPart]
  · change (recordCheckpoint u p s.fresh l.id (l.mode == 1)).launches.find s.fresh = _
    rw [hcheck]
    subst hu
    exact Map.find_put_same _ _ _
  · rw [hcheck]
    subst hu
    exact hq

theorem acceptLaunch_room (hcheck : earlierCheck s p q = false) (hdef : earlierDeferred s p q = false) (hroom : launchRoom s core p = true) :
    acceptLaunch s core p q = recordLaunch s core p q := by
  unfold acceptLaunch
  rw [hcheck, hdef, hroom]
  rfl

end

theorem launchChecks : Claims.LaunchChecks := by
  intro s core num p q h a hq hp hinstr dws read code
  have hcode : headerCode (hdrDw (withHeader q)) = code := congrArg headerCode (funext (hdrDw_withHeader q))
  have hcheck (hread : read) (hroom : launchRoom s core p = true) (hdef : earlierDeferred s p q = false) :
      exec (.launchHeaderCheck core num) s = .next (checkHeader s core p (withHeader q)) := by
    obtain ⟨hphase, hout, hstage⟩ := hread
    rw [headerCheck_read hq hp hinstr hphase hout, checkStage_header hphase hstage, if_pos (roomFor_iff.mpr ⟨hroom, hdef⟩)]
  have hdeferred (hphase : q.phase = 6) (hroom : launchRoom s core p = true) (hdef : earlierDeferred s p q = false) :
      exec (.launchDeferred core num) s = .next (checkHeader s core p q) := by
    rw [deferred_waits hq hp hinstr hphase, if_pos (roomFor_iff.mpr ⟨hroom, hdef⟩)]
  have hnoRoom (h : launchRoom s core p = false ∨ earlierDeferred s p q = true) :
      ¬(launchRoom s core p && !earlierDeferred s p q) = true := by
    rw [roomFor_iff]
    rintro ⟨hroom, hdef⟩
    simp [hroom, hdef] at h
  refine ⟨fun hread hroom hdef hne => ?_, fun hread hroom hdef hzero hcores hfit => ?_, fun hread hwait => ?_, fun hphase hwait => ?_,
    fun hphase hroom hdef hne => ?_, fun hphase hroom hdef hzero hcores hfit => ?_,
    fun hphase hout hstage hearly hdef hroom => ?_⟩
  · rw [hcheck hread hroom hdef, checkHeader_bad hcode hne]
    exact ⟨_, rfl, rejected (c := withHeader q) hq rfl rfl _⟩
  · rw [hcheck hread hroom hdef, checkHeader_good (hcode.trans hzero) hcores (by rw [hdrDw_withHeader]; exact hfit)]
    obtain ⟨hmem, y, hy, hphase, hstage, hacc⟩ := nextStaged (c := withHeader q) hq rfl rfl
    refine ⟨_, rfl, hmem, y, hy, hphase, hstage, fun i _ => ?_⟩
    rw [← hdrDw_withHeader q i, hdrDw, hdrDw, hacc, Nat.add_comm]
    rfl
  · obtain ⟨hphase, hout, hstage⟩ := hread
    rw [headerCheck_read hq hp hinstr hphase hout, checkStage_header hphase hstage, if_neg (hnoRoom hwait)]
    exact ⟨_, rfl, rfl, _, cmdAt_setCmd (c := { withHeader q with phase := 6 }) hq rfl rfl, rfl, fun i _ => hdrDw_withHeader q i⟩
  · rw [deferred_waits hq hp hinstr hphase, if_neg (hnoRoom hwait)]
  · rw [hdeferred hphase hroom hdef, checkHeader_bad rfl hne]
    exact ⟨_, rfl, rejected (c := q) hq rfl rfl _⟩
  · rw [hdeferred hphase hroom hdef, checkHeader_good hzero hcores hfit]
    obtain ⟨hmem, y, hy, hphase, hstage, -⟩ := nextStaged (c := q) hq rfl rfl
    exact ⟨_, rfl, hmem, y, hy, hphase, hstage⟩
  · rw [headerCheck_read hq hp hinstr hphase hout, checkStage_accept hphase hstage, acceptLaunch_room hearly hdef hroom]
    obtain ⟨hmem, hlseq, hlaunch, hcmd⟩ := recorded (p := p) hq
    exact ⟨_, rfl, hmem, hlseq, _, hlaunch, hcmd⟩

/-! ## Completion -/

/-- What a table holds after a change of its entries. -/
theorem Map.find_map {α β : Type} (f : α → β) (m : Map α) (n : Nat) :
    Map.find (m.map fun k => (k.1, f k.2)) n = (m.find n).map f := by
  induction m with
  | nil => rfl
  | cons x m ih =>
    obtain ⟨k, a⟩ := x
    rw [List.map_cons, Map.find, Map.find]
    split
    · rfl
    · exact ih

/-- Core k without launch lid's banks and code. -/
def releaseCore (lid : Nat) (k : Core) : Core :=
  { k with banks := k.banks.filter fun b => b.2 != lid, codes := k.codes.filter fun x => x.1 != lid }

theorem core_released (s : State) (lid c : Nat) :
    ({ s with cores := s.cores.map fun (k : Nat × Core) => (k.1, releaseCore lid k.2) } : State).core c = releaseCore lid (s.core c) := by
  unfold State.core
  dsimp only
  rw [Map.find_map]
  cases s.cores.find c <;> rfl

/-- The command that launch l came from has its token. -/
def tokenCmd (l : Launch) (c : Cmd) : Cmd := if c.num == l.byCmd then { c with phase := 2, token := l.lseq * 2 ^ 32 } else c

/-- Without what the launch holds, its end remembered, and its record closed. -/
def closedLaunch (s : State) (lid : Nat) (l : Launch) : State :=
  let s := s.modLaunch lid fun l => { l with done := true }
  let s : State := { s with cores := s.cores.map fun (k : Nat × Core) => (k.1, releaseCore lid k.2) }
  let s : State := { s with reqs := s.reqs.filter fun r => !(r.2.stage == .replied && r.2.kind == .fill lid) }
  recordDone (remember s l.die (l.started, l.id, l.part, l.lseq, 0)) l.part lid

section
variable {s : State} {lid : Nat} {l : Launch}

theorem modLaunch_found (h : s.launches.find lid = some l) (f : Launch → Launch) :
    s.modLaunch lid f = { s with launches := s.launches.put lid (f l) } := by
  unfold State.modLaunch
  rw [h]

theorem closedLaunch_mem : (closedLaunch s lid l).mem = s.mem := by
  change (s.modLaunch lid fun l => { l with done := true }).mem = s.mem
  unfold State.modLaunch
  split <;> rfl

theorem closedLaunch_launches (h : s.launches.find lid = some l) : (closedLaunch s lid l).launches.find lid = some { l with done := true } := by
  change (s.modLaunch lid fun l => { l with done := true }).launches.find lid = _
  rw [modLaunch_found h]
  exact Map.find_put_same _ _ _

theorem closedLaunch_core (c : Nat) : (closedLaunch s lid l).core c = releaseCore lid ((s.modLaunch lid fun l => { l with done := true }).core c) :=
  core_released _ _ _

theorem launchComplete_eq (h : s.launches.find lid = some l) (hdone : l.done = false) (htasks : l.tasks ≤ l.written) (hleft : l.left = 0)
    (hfibres : fibresLeft s lid = false) : exec (.launchComplete lid) s =
      .next ((closedLaunch s lid l).modCore l.byCore fun k => { k with running := k.running.map (tokenCmd l) }) := by
  rw [exec_launchComplete]
  unfold execLaunchComplete
  rw [h]
  dsimp only
  rw [if_neg (by simp [hdone, htasks, hleft, hfibres])]
  rfl

end

theorem launchCompletes (s : State) (lid : Nat) (l : Launch) (h : s.launches.find lid = some l) (hdone : l.done = false)
    (htasks : l.tasks ≤ l.written) (hleft : l.left = 0) (hfibres : fibresLeft s lid = false) :
    yields (exec (.launchComplete lid) s) fun t => t.mem = s.mem ∧
      (∃ y, t.launches.find lid = some y ∧ y.done = true) ∧ (∀ c, ∀ b ∈ (t.core c).banks, b.2 ≠ lid) ∧
      ∀ q ∈ (t.core l.byCore).running, q.num = l.byCmd → q.phase = 2 ∧ q.token = l.lseq * 2 ^ 32 := by
  refine ⟨_, launchComplete_eq h hdone htasks hleft hfibres, closedLaunch_mem (l := l), ⟨_, closedLaunch_launches h, rfl⟩, fun c b hb => ?_,
    fun q hq hnum => ?_⟩
  · have hbanks : (((closedLaunch s lid l).modCore l.byCore fun k => { k with running := k.running.map (tokenCmd l) }).core c).banks =
        ((closedLaunch s lid l).core c).banks := by
      by_cases hc : c = l.byCore
      · subst hc; rw [core_modCore]
      · rw [core_modCore_other _ _ _ _ hc]
    rw [hbanks, closedLaunch_core] at hb
    simpa using (List.mem_filter.mp hb).2
  · rw [core_modCore] at hq
    obtain ⟨x, -, rfl⟩ := List.mem_map.mp hq
    unfold tokenCmd at hnum ⊢
    split
    · exact ⟨rfl, rfl⟩
    · next hne =>
      rw [if_neg hne] at hnum
      exact absurd (by simp [hnum]) hne

/-! ## Fills -/

/-- A byte that every write of it in a list agrees on. -/
theorem memRead_putAll_agreed {a : Nat} {b : Byte} (l : List (Nat × Byte)) (m : Memory) (h : Memory.wf m = true) (hmem : (a, b) ∈ l)
    (hagree : ∀ x ∈ l, x.1 = a → x.2 = b) : memRead (memPutAll m l) a = b := by
  induction l generalizing m with
  | nil => cases hmem
  | cons x l ih =>
    change memRead (memPutAll (memWrite m x.1 x.2) l) a = b
    by_cases hl : ∃ y ∈ l, y.1 = a
    · obtain ⟨y, hy, hya⟩ := hl
      have hyb := hagree y (List.mem_cons_of_mem _ hy) hya
      refine ih _ (memWrite_wf m x.1 x.2 h) ?_ fun z hz => hagree z (List.mem_cons_of_mem _ hz)
      rw [← hya, ← hyb]
      exact hy
    · rw [memRead_putAll_other _ _ _ (memWrite_wf m x.1 x.2 h) (fun y hy hya => hl ⟨y, hy, hya⟩)]
      have hx : x = (a, b) := by
        rcases List.mem_cons.mp hmem with hx | hx
        · exact hx.symm
        · exact absurd ⟨_, hx, rfl⟩ hl
      rw [hx]
      exact memRead_write_same m a b h

theorem mem_valBytes_zipIdx {v n : Nat} {x : Byte × Nat} : x ∈ (valBytes v n).zipIdx ↔ x.2 < n ∧ x.1 = BitVec.ofNat 8 (v >>> (8 * x.2)) := by
  obtain ⟨b, i⟩ := x
  rw [List.mem_zipIdx_iff_getElem?, valBytes, List.getElem?_map]
  by_cases hi : i < n
  · simp [hi, eq_comm]
  · simp [hi]

section
variable (core b : Nat) (l : Launch) (rs : List Req)

/-- The bytes that the reads of a fill bring: address, byte, whether code. -/
def fillBytes : List (Nat × Byte × Bool) :=
  rs.flatMap fun r => (valBytes r.val r.n).zipIdx.map fun x => (r.va + x.2, x.1, r.marked)

/-- The places and the bytes of the constants, of the code, and of the rest of the bank. -/
def fillConst : List (Nat × Byte) :=
  (fillBytes rs).filterMap fun x => if x.2.2 then none else some (bankKey core b (x.1 - l.const.toNat), x.2.1)
def fillCode : List (Nat × Byte) :=
  (fillBytes rs).filterMap fun x => if x.2.2 then some (tcmKey core (l.cload + (x.1 - l.code.toNat)), x.2.1) else none
def fillZero : List (Nat × Byte) := (List.range (1408 - 8 * l.ncon)).map fun i => (bankKey core b (8 * l.ncon + i), (0 : Byte))

/-- All that a fill stores. -/
def fillStores : List (Nat × Byte) := fillZero core b l ++ fillConst core b l rs ++ fillCode core l rs

variable {core b l rs}

theorem mem_fillBytes {x : Nat × Byte × Bool} :
    x ∈ fillBytes rs ↔ ∃ r ∈ rs, ∃ i < r.n, x = (r.va + i, BitVec.ofNat 8 (r.val >>> (8 * i)), r.marked) := by
  unfold fillBytes
  rw [List.mem_flatMap]
  refine exists_congr fun r => and_congr_right fun _ => ?_
  rw [List.mem_map]
  constructor
  · rintro ⟨⟨y, i⟩, hy, rfl⟩
    obtain ⟨hi, hb⟩ := mem_valBytes_zipIdx.mp hy
    exact ⟨i, hi, by dsimp only at hb ⊢; rw [hb]⟩
  · rintro ⟨i, hi, rfl⟩
    exact ⟨(_, i), mem_valBytes_zipIdx.mpr ⟨hi, rfl⟩, rfl⟩

theorem mem_fillConst {y : Nat × Byte} : y ∈ fillConst core b l rs ↔
    ∃ r ∈ rs, r.marked = false ∧ ∃ i < r.n, y = (bankKey core b (r.va + i - l.const.toNat), BitVec.ofNat 8 (r.val >>> (8 * i))) := by
  unfold fillConst
  rw [List.mem_filterMap]
  constructor
  · rintro ⟨x, hx, hy⟩
    obtain ⟨r, hr, i, hi, rfl⟩ := mem_fillBytes.mp hx
    cases hm : r.marked with
    | true => simp [hm] at hy
    | false => exact ⟨r, hr, hm, i, hi, by simpa [hm, eq_comm] using hy⟩
  · rintro ⟨r, hr, hm, i, hi, rfl⟩
    exact ⟨_, mem_fillBytes.mpr ⟨r, hr, i, hi, rfl⟩, by simp [hm]⟩

theorem mem_fillCode {y : Nat × Byte} : y ∈ fillCode core l rs ↔
    ∃ r ∈ rs, r.marked = true ∧ ∃ i < r.n, y = (tcmKey core (l.cload + (r.va + i - l.code.toNat)), BitVec.ofNat 8 (r.val >>> (8 * i))) := by
  unfold fillCode
  rw [List.mem_filterMap]
  constructor
  · rintro ⟨x, hx, hy⟩
    obtain ⟨r, hr, i, hi, rfl⟩ := mem_fillBytes.mp hx
    cases hm : r.marked with
    | false => simp [hm] at hy
    | true => exact ⟨r, hr, hm, i, hi, by simpa [hm, eq_comm] using hy⟩
  · rintro ⟨r, hr, hm, i, hi, rfl⟩
    exact ⟨_, mem_fillBytes.mpr ⟨r, hr, i, hi, rfl⟩, by simp [hm]⟩

theorem mem_fillZero {y : Nat × Byte} : y ∈ fillZero core b l ↔ ∃ i, 8 * l.ncon ≤ i ∧ i < 1408 ∧ y = (bankKey core b i, 0) := by
  unfold fillZero
  rw [List.mem_map]
  constructor
  · rintro ⟨i, hi, rfl⟩
    have := List.mem_range.mp hi
    exact ⟨_, by omega, by omega, rfl⟩
  · rintro ⟨i, hlo, hhi, rfl⟩
    exact ⟨i - 8 * l.ncon, List.mem_range.mpr (by omega), by rw [Nat.add_sub_cancel' hlo]⟩

/-- Where the reads of a fill lie: the code's in the code, the constants' among the constants, and two of the same kind apart, or the same. -/
structure FillPlaces (l : Launch) (rs : List Req) : Prop where
  code : ∀ r ∈ rs, r.marked = true → l.code.toNat ≤ r.va ∧ r.va + r.n ≤ l.code.toNat + l.csize
  const : ∀ r ∈ rs, r.marked = false → l.const.toNat ≤ r.va ∧ r.va + r.n ≤ l.const.toNat + 8 * l.ncon
  apart : ∀ r ∈ rs, ∀ r' ∈ rs, r = r' ∨ r.marked ≠ r'.marked ∨ r.va + r.n ≤ r'.va ∨ r'.va + r'.n ≤ r.va

theorem bankKey_ne_tcmKey {core bank off off' : Nat} (hcore : core < 2 ^ 13) (hoff : off' < 2 ^ 19) : bankKey core bank off ≠ tcmKey core off' := by
  unfold bankKey tcmKey
  omega

theorem bankKey_inj {core bank off off' : Nat} (h : bankKey core bank off = bankKey core bank off') : off = off' := by
  unfold bankKey at h
  omega

theorem tcmKey_inj {core off off' : Nat} (h : tcmKey core off = tcmKey core off') : off = off' := by
  unfold tcmKey at h
  omega

/-- Bytes of two reads that lie at the same place are the same byte. -/
theorem FillPlaces.same (h : FillPlaces l rs) {r r' : Req} (hr : r ∈ rs) (hr' : r' ∈ rs) (hm : r.marked = r'.marked) {i j : Nat} (hi : i < r.n)
    (hj : j < r'.n) (ha : r.va + i = r'.va + j) : r.val >>> (8 * i) = r'.val >>> (8 * j) := by
  rcases h.apart r hr r' hr' with rfl | hne | hle | hle
  · rw [Nat.add_left_cancel ha]
  · exact absurd hm hne
  · omega
  · omega

variable {m : Memory} (hplaces : FillPlaces l rs) (hcore : core < 2 ^ 13) (hsize : l.cload + l.csize < 2 ^ 19) (hwf : Memory.wf m = true)
include hplaces hcore hsize hwf

theorem memRead_fill_code {r : Req} {i : Nat} (hr : r ∈ rs) (hm : r.marked = true) (hi : i < r.n) :
    memRead (memPutAll m (fillStores core b l rs)) (tcmKey core (l.cload + (r.va - l.code.toNat + i))) = BitVec.ofNat 8 (r.val >>> (8 * i)) := by
  obtain ⟨hlo, hhi⟩ := hplaces.code r hr hm
  rw [← Nat.sub_add_comm hlo]
  refine memRead_putAll_agreed _ _ hwf (List.mem_append_right _ (mem_fillCode.mpr ⟨r, hr, hm, i, hi, rfl⟩)) fun y hy hkey => ?_
  rcases List.mem_append.mp hy with hy | hy
  · rcases List.mem_append.mp hy with hy | hy
    · obtain ⟨j, -, -, rfl⟩ := mem_fillZero.mp hy
      exact absurd hkey (bankKey_ne_tcmKey hcore (by omega))
    · obtain ⟨r', -, -, j, -, rfl⟩ := mem_fillConst.mp hy
      exact absurd hkey (bankKey_ne_tcmKey hcore (by omega))
  · obtain ⟨r', hr', hm', j, hj, rfl⟩ := mem_fillCode.mp hy
    obtain ⟨hlo', -⟩ := hplaces.code r' hr' hm'
    have hoff := tcmKey_inj hkey
    dsimp only
    rw [hplaces.same hr' hr (hm'.trans hm.symm) hj hi (by omega)]

theorem memRead_fill_const {r : Req} {i : Nat} (hr : r ∈ rs) (hm : r.marked = false) (hi : i < r.n) :
    memRead (memPutAll m (fillStores core b l rs)) (bankKey core b (r.va - l.const.toNat + i)) = BitVec.ofNat 8 (r.val >>> (8 * i)) := by
  obtain ⟨hlo, hhi⟩ := hplaces.const r hr hm
  rw [← Nat.sub_add_comm hlo]
  refine memRead_putAll_agreed _ _ hwf (List.mem_append_left _ (List.mem_append_right _ (mem_fillConst.mpr ⟨r, hr, hm, i, hi, rfl⟩)))
    fun y hy hkey => ?_
  rcases List.mem_append.mp hy with hy | hy
  · rcases List.mem_append.mp hy with hy | hy
    · obtain ⟨j, hj, -, rfl⟩ := mem_fillZero.mp hy
      have hoff := bankKey_inj hkey
      omega
    · obtain ⟨r', hr', hm', j, hj, rfl⟩ := mem_fillConst.mp hy
      obtain ⟨hlo', -⟩ := hplaces.const r' hr' hm'
      have hoff := bankKey_inj hkey
      dsimp only
      rw [hplaces.same hr' hr (hm'.trans hm.symm) hj hi (by omega)]
  · obtain ⟨r', hr', hm', j, hj, rfl⟩ := mem_fillCode.mp hy
    obtain ⟨hlo', hhi'⟩ := hplaces.code r' hr' hm'
    exact absurd hkey.symm (bankKey_ne_tcmKey hcore (by omega))

theorem memRead_fill_zero {i : Nat} (hlo : 8 * l.ncon ≤ i) (hhi : i < 1408) :
    memRead (memPutAll m (fillStores core b l rs)) (bankKey core b i) = 0 := by
  refine memRead_putAll_agreed _ _ hwf (List.mem_append_left _ (List.mem_append_left _ (mem_fillZero.mpr ⟨i, hlo, hhi, rfl⟩))) fun y hy hkey => ?_
  rcases List.mem_append.mp hy with hy | hy
  · rcases List.mem_append.mp hy with hy | hy
    · obtain ⟨j, -, -, rfl⟩ := mem_fillZero.mp hy
      rfl
    · obtain ⟨r', hr', hm', j, hj, rfl⟩ := mem_fillConst.mp hy
      obtain ⟨hlo', hhi'⟩ := hplaces.const r' hr' hm'
      have hoff := bankKey_inj hkey
      omega
  · obtain ⟨r', hr', hm', j, hj, rfl⟩ := mem_fillCode.mp hy
    obtain ⟨hlo', hhi'⟩ := hplaces.code r' hr' hm'
    exact absurd hkey.symm (bankKey_ne_tcmKey hcore (by omega))

end

section
variable {s : State} {core lid b : Nat} {l : Launch} {ids : List Nat}

/-- A fill whose reads have all arrived unspoiled stores their bytes; the core is filled. -/
theorem finishFill_stores (hl : s.launches.find lid = some l) (hpoison : (ids.filterMap s.reqs.find).any (·.poison) = false)
    (hbank : ((s.core core).banks.find? fun x => x.2 == lid) = some (b, lid)) :
    (finishFill s core lid l ids).mem = memPutAll s.mem (fillStores core b l (ids.filterMap s.reqs.find)) ∧
      ∃ y, (finishFill s core lid l ids).launches.find lid = some y ∧ core ∈ y.filled := by
  generalize hrs : ids.filterMap s.reqs.find = rs at hpoison
  generalize hu : ({ s with mem := memPutAll s.mem (fillStores core b l rs),
                            poison := (fillCode core l rs ++ fillConst core b l rs).foldl (fun p x => cleanByte p x.1) s.poison } : State) = u
  have hfill : finishFill s core lid l ids = (ids.foldl State.dropReq u).modLaunch lid fun l =>
      { l with filled := core :: l.filled, fills := l.fills.filter fun x => x.1 != core } := by
    unfold finishFill
    rw [hrs]
    dsimp only
    rw [hpoison, if_neg Bool.false_ne_true, hbank]
    subst hu
    rfl
  have hdrop : ((ids.foldl State.dropReq u).mem, (ids.foldl State.dropReq u).launches) = (u.mem, u.launches) :=
    foldl_keeps (fun s : State => (s.mem, s.launches)) State.dropReq (fun _ _ => rfl) ids u
  obtain ⟨hmem, hlaunches⟩ := Prod.ext_iff.mp hdrop
  dsimp only at hmem hlaunches
  have hfound : (ids.foldl State.dropReq u).launches.find lid = some l := by rw [hlaunches, ← hu]; exact hl
  rw [hfill, modLaunch_found hfound]
  refine ⟨?_, _, Map.find_put_same _ _ _, List.mem_cons_self⟩
  rw [← hrs] at hu ⊢
  exact hmem.trans (by rw [← hu])

theorem launchFill_arrived (hl : s.launches.find lid = some l) (hdead : l.dead = false) (hdone : l.done = false) (hfilled : l.filled.contains core = false)
    (hcores : l.cores.contains core = true) (hfills : (l.fills.find? fun x => x.1 == core) = some (core, ids))
    (hids : ∀ id ∈ ids, ∃ r, s.reqs.find id = some r ∧ r.stage = .replied ∧ r.poison = false) :
    exec (.launchFill core lid) s = .next (finishFill s core lid l ids) := by
  have hall : ids.all (arrivedReq s) = true := List.all_eq_true.mpr fun id hid => by
    obtain ⟨r, hr, hstage, -⟩ := hids id hid
    unfold arrivedReq
    rw [hr]
    dsimp only
    rw [hstage]
    rfl
  rw [exec_launchFill]
  unfold execLaunchFill
  rw [hl]
  dsimp only
  rw [if_neg (by rw [hdead, hdone, hfilled, hcores]; decide), hfills]
  dsimp only
  rw [if_pos hall]

end

theorem launchFills : Claims.LaunchFills := by
  refine ⟨fun s core lid b l ids hl hdead hdone hfilled hcores hfills hids _ hcore hbank hin hapart _ hsize hwf => ?_, launchCompletes⟩
  have hread {id : Nat} {r : Req} (hid : id ∈ ids) (hr : s.reqs.find id = some r) : r ∈ ids.filterMap s.reqs.find :=
    List.mem_filterMap.mpr ⟨id, hid, hr⟩
  have hpoison : (ids.filterMap s.reqs.find).any (·.poison) = false := by
    refine Bool.eq_false_iff.mpr fun hany => ?_
    obtain ⟨r, hr, hbad⟩ := List.any_eq_true.mp hany
    obtain ⟨id, hid, hfind⟩ := List.mem_filterMap.mp hr
    obtain ⟨r', hr', -, hclean⟩ := hids id hid
    obtain rfl : r' = r := Option.some.inj (hr'.symm.trans hfind)
    rw [hclean] at hbad
    cases hbad
  have hplaces : FillPlaces l (ids.filterMap s.reqs.find) := by
    refine ⟨fun r hr => ?_, fun r hr => ?_, fun r hr r' hr' => ?_⟩ <;> obtain ⟨id, hid, hfind⟩ := List.mem_filterMap.mp hr
    · exact (hin id hid r hfind).1
    · exact (hin id hid r hfind).2
    · obtain ⟨id', hid', hfind'⟩ := List.mem_filterMap.mp hr'
      by_cases he : id = id'
      · subst he
        exact .inl (Option.some.inj (hfind.symm.trans hfind'))
      · exact .inr (hapart id hid id' hid' r r' he hfind hfind')
  obtain ⟨hmem, hlaunch⟩ := finishFill_stores hl hpoison hbank
  refine ⟨_, launchFill_arrived hl hdead hdone hfilled hcores hfills hids, hlaunch, fun id hid r i hr hi => ?_, fun i hlo hhi => ?_⟩
  · rw [hmem]
    exact ⟨fun hm => memRead_fill_code hplaces hcore hsize hwf (hread hid hr) hm hi,
      fun hm => memRead_fill_const hplaces hcore hsize hwf (hread hid hr) hm hi⟩
  · rw [hmem]
    exact memRead_fill_zero hplaces hcore hsize hwf hlo hhi

/-- Settles O52: the checks stage by stage, and a fill's stores, which agree wherever two of them meet. -/
theorem launches : Obligations.Launches := ⟨launchChecks, launchFills⟩

end Sys2Proof.Machine
end

section
/-!
PROOFS. O25: the checks of one access, in the order of R86.
-/
namespace Sys2Proof.Machine

section
variable {s : State} {w : Who} {k : AccKind} {a : Acc}

theorem lanesOf_singleton (a : Acc) : lanesOf [a] = 2 ^ a.lane := Nat.zero_or _

theorem badAlign_eq_true_iff (a : Acc) : badAlign a = true ↔ a.va % a.n ≠ 0 := bne_iff_ne

theorem badAlign_eq_false_iff (a : Acc) : badAlign a = false ↔ a.va % a.n = 0 := bne_eq_false_iff_eq

/-- Check 1. -/
theorem checkAll_badAddress (h : badAddress s w a = true) : checkAll s w k [a] = .trap cADDRESS (2 ^ a.lane) := by
  simp [checkAll, h, lanesOf_singleton]

/-- Check 2. -/
theorem checkAll_badAlign (h1 : badAddress s w a = false) (h2 : badAlign a = true) : checkAll s w k [a] = .trap cALIGN (2 ^ a.lane) := by
  simp [checkAll, h1, h2, lanesOf_singleton]

/-- Check 3. -/
theorem checkAll_badRangeV (h1 : badAddress s w a = false) (h2 : badAlign a = false) (h3 : badRangeV s w k a = true) :
    checkAll s w k [a] = .trap cRANGE (2 ^ a.lane) := by
  simp [checkAll, h1, h2, h3, lanesOf_singleton]

/-- Check 4. -/
theorem checkAll_untranslated (h1 : badAddress s w a = false) (h2 : badAlign a = false) (h3 : badRangeV s w k a = false)
    (h4 : placeOf s w k a = none) : checkAll s w k [a] = .miss [a.va / 0x1000] := by
  simp [checkAll, h1, h2, h3, h4, List.eraseDups_cons]

/-- Behind the physical map there is no range to fail and no target to want. -/
theorem checkAll_near {key : Nat} (h1 : badAddress s w a = false) (h2 : badAlign a = false) (h3 : badRangeV s w k a = false)
    (h4 : placeOf s w k a = some (.near key)) (hkey : 2 ^ 47 ≤ key) : checkAll s w k [a] = .ok [(a, .near key)] := by
  have hbeyond : ¬key < 140737488355328 := Nat.not_lt_of_le hkey
  simp [checkAll, h1, h2, h3, h4, hbeyond]

theorem placeOf_tcm {o : Nat} (hwin : winOf a.va = .tcm o) (ho : 0x600 ≤ o) : placeOf s w k a = some (.near (tcmKey w.core o)) := by
  have hbank : ¬o < 0x600 := Nat.not_lt_of_le ho
  simp [placeOf, hwin, hbank]

theorem le_tcmKey (core o : Nat) : 2 ^ 47 ≤ tcmKey core o := by
  unfold tcmKey
  omega

end

/-- Settles O25, check by check. -/
theorem accessCheckOrder : Obligations.AccessCheckOrder := by
  intro s w k a
  simp only [← badAlign_eq_true_iff, ← badAlign_eq_false_iff]
  exact ⟨checkAll_badAddress, checkAll_badAlign, checkAll_badRangeV, checkAll_untranslated, fun o h1 h2 h3 hwin ho =>
    checkAll_near h1 h2 h3 (placeOf_tcm hwin ho) (le_tcmKey w.core o)⟩

end Sys2Proof.Machine
end

section
/-!
PROOFS. O49, the settings of a core (R68, R69, R78, R359).
-/
namespace Sys2Proof.Machine

/-! ## A core leaves a treelet's directory entry -/

/-- The state but for its slices. -/
def besideSlices (s : State) : State := { s with sliceTab := [] }

/-- No entry of the treelet names the core as an owner. -/
def NotOwner (core p tbase id : Nat) (s : State) : Prop := ∀ e ∈ (s.slice (dirSlice id)).dir, e.isKey p tbase id = true → core ∉ e.owners

theorem isKey_without (e : DirEntry) (core p tbase id : Nat) : (e.without core).isKey p tbase id = e.isKey p tbase id := rfl

theorem mem_owners_without {e : DirEntry} {core c : Nat} : c ∈ (e.without core).owners ↔ c ∈ e.owners ∧ c ≠ core := by
  simp [DirEntry.without]

section
variable {s : State} {core p tbase id : Nat}

theorem besideSlices_withdraw (s : State) (core tbase id : Nat) : besideSlices (writeLsplit.withdraw s core tbase id) = besideSlices s := by
  unfold writeLsplit.withdraw
  split <;> rfl

/-- The entries of a directory after a withdrawal: those of the treelet without the core, and others as they were. -/
theorem mem_dir_withdraw {q : Nat} {e : DirEntry} (hp : s.partOf core = some p)
    (he : e ∈ ((writeLsplit.withdraw s core tbase id).slice q).dir) :
    (∃ x ∈ (s.slice q).dir, e = x.without core) ∨ (e ∈ (s.slice q).dir ∧ (q = dirSlice id → e.isKey p tbase id = false)) := by
  unfold writeLsplit.withdraw at he
  rw [hp] at he
  dsimp only [dropCold, modEntry] at he
  by_cases hq : q = dirSlice id
  · subst hq
    rw [slice_modSlice, slice_modSlice] at he
    obtain ⟨x, hx, rfl⟩ := List.mem_map.mp (List.mem_of_mem_filter he)
    split
    · exact .inl ⟨x, hx, rfl⟩
    · next hkey => exact .inr ⟨hx, fun _ => Bool.eq_false_iff.mpr hkey⟩
  · rw [slice_modSlice_other _ _ _ _ hq, slice_modSlice_other _ _ _ _ hq] at he
    exact .inr ⟨he, fun h => absurd h hq⟩

theorem notOwner_withdraw_same (hp : s.partOf core = some p) : NotOwner core p tbase id (writeLsplit.withdraw s core tbase id) := by
  intro e he hkey
  obtain ⟨x, -, rfl⟩ | ⟨-, hother⟩ := mem_dir_withdraw hp he
  · exact fun howner => (mem_owners_without.mp howner).2 rfl
  · rw [hother rfl] at hkey
    cases hkey

theorem notOwner_withdraw {tbase' id' : Nat} (hp : s.partOf core = some p) (h : NotOwner core p tbase id s) :
    NotOwner core p tbase id (writeLsplit.withdraw s core tbase' id') := by
  intro e he hkey
  obtain ⟨x, hx, rfl⟩ | ⟨he, -⟩ := mem_dir_withdraw hp he
  · exact fun howner => (mem_owners_without.mp howner).2 rfl
  · exact h e he hkey

end

/-! ## The treelets that a core loses -/

/-- The core leaves the entries of all these treelets. -/
def withdrawAll (core : Nat) (l : List Treelet) (s : State) : State :=
  l.foldl (fun s t => writeLsplit.withdraw s core t.tbase t.id) s

theorem besideSlices_withdrawAll (core : Nat) (l : List Treelet) (s : State) : besideSlices (withdrawAll core l s) = besideSlices s :=
  foldl_keeps besideSlices _ (fun s _ => besideSlices_withdraw s core _ _) l s

theorem partOf_withdraw (s : State) (core tbase id c : Nat) : (writeLsplit.withdraw s core tbase id).partOf c = s.partOf c :=
  (congrArg (State.partOf · c) (besideSlices_withdraw s core tbase id) :)

theorem core_withdrawAll (core : Nat) (l : List Treelet) (s : State) (c : Nat) : (withdrawAll core l s).core c = s.core c :=
  (congrArg (State.core · c) (besideSlices_withdrawAll core l s) :)

theorem mem_withdrawAll (core : Nat) (l : List Treelet) (s : State) : (withdrawAll core l s).mem = s.mem :=
  (congrArg State.mem (besideSlices_withdrawAll core l s) :)

theorem notOwner_withdrawAll {core p tbase id : Nat} (l : List Treelet) {s : State} (hp : s.partOf core = some p)
    (h : NotOwner core p tbase id s) : NotOwner core p tbase id (withdrawAll core l s) := by
  induction l generalizing s with
  | nil => exact h
  | cons x l ih => exact ih ((partOf_withdraw ..).trans hp) (notOwner_withdraw hp h)

/-- Of the treelets withdrawn, the core owns none. -/
theorem notOwner_withdrawAll_mem {core p : Nat} {l : List Treelet} {s : State} {x : Treelet} (hp : s.partOf core = some p) (hx : x ∈ l) :
    NotOwner core p x.tbase x.id (withdrawAll core l s) := by
  induction l generalizing s with
  | nil => cases hx
  | cons y l ih =>
    have hp' : (writeLsplit.withdraw s core y.tbase y.id).partOf core = some p := (partOf_withdraw ..).trans hp
    obtain rfl | hx := List.mem_cons.mp hx
    · exact notOwner_withdrawAll l hp' (notOwner_withdraw_same hp)
    · exact ih hp' hx

/-! ## LSPLIT -/

/-- The fields of LSPLIT that a write of v gives. -/
def lsplitOf (v : Word) : Nat := keep v 16 16 + keep v 11 8 + keep v 4 0

/-- The sizes are outside the limits of R68. -/
def badSizes (n : Nat) : Prop := privUnits n < 4 ∨ 24 < privUnits n ∨ 12 < treeUnits n ∨ 24 < privUnits n + treeUnits n

/-- All of a treelet's units are in the treelet store before and after. -/
def staysIn (old n : Nat) (x : Treelet) : Bool := x.units.all fun u => unitRole old u == 1 && unitRole n u == 1

/-- What a core whose sizes change keeps of its local SRAM (R69). -/
def resized (k : Core) (n : Nat) : Core := { k with lsplit := n, treelets := k.treelets.filter (staysIn k.lsplit n), cache := [] }

/-- The state after a change of sizes: the treelets lost are withdrawn, and the bytes above the new size are undefined. -/
def lsplitResized (s : State) (core n : Nat) : State :=
  writeLsplit.clobber (withdrawAll core ((s.core core).treelets.filter fun x => !staysIn (s.core core).lsplit n x)
    (s.setCore core (resized (s.core core) n))) core (privSize n) (privSize (s.core core).lsplit)

section
variable {s : State} {core : Nat} {v : Word}

theorem writeLsplit_eq (s : State) (core : Nat) (v : Word) : writeLsplit s core v =
    if privUnits (lsplitOf v) < 4 || 24 < privUnits (lsplitOf v) || 12 < treeUnits (lsplitOf v) ||
      24 < privUnits (lsplitOf v) + treeUnits (lsplitOf v) then s
    else if privUnits (lsplitOf v) == privUnits (s.core core).lsplit && treeUnits (lsplitOf v) == treeUnits (s.core core).lsplit then
      s.setCore core { s.core core with lsplit := lsplitOf v }
    else lsplitResized s core (lsplitOf v) := rfl

theorem writeLsplit_refused (h : badSizes (lsplitOf v)) : writeLsplit s core v = s := by
  rw [writeLsplit_eq, if_pos]
  simpa only [Bool.or_eq_true, decide_eq_true_eq, or_assoc, badSizes] using h

theorem writeLsplit_accepted (h : ¬badSizes (lsplitOf v)) : writeLsplit s core v =
    if privUnits (lsplitOf v) = privUnits (s.core core).lsplit ∧ treeUnits (lsplitOf v) = treeUnits (s.core core).lsplit then
      s.setCore core { s.core core with lsplit := lsplitOf v }
    else lsplitResized s core (lsplitOf v) := by
  rw [writeLsplit_eq, if_neg]
  · simp only [Bool.and_eq_true, beq_iff_eq]
  · simpa only [Bool.or_eq_true, decide_eq_true_eq, or_assoc, badSizes] using h

theorem memRead_clobber_other {lo hi a : Nat} (h : Memory.wf s.mem = true) (ha : ∀ o, lo ≤ o → o < hi → a ≠ tcmKey core o) :
    memRead (writeLsplit.clobber s core lo hi).mem a = memRead s.mem a := by
  refine memRead_putAll_other _ _ _ h fun x hx heq => ?_
  obtain ⟨i, hi, rfl⟩ := List.mem_map.mp hx
  exact ha (lo + i) (Nat.le_add_right _ _) (Nat.add_lt_of_lt_sub' (List.mem_range.mp hi)) heq.symm

end

/-- What an accepted write of the sizes n leaves in t (R68, R69). -/
def LsplitTaken (s : State) (core n : Nat) (t : State) : Prop :=
  let old := (s.core core).lsplit
  (t.core core).lsplit = n ∧ (t.core core).slots = (s.core core).slots ∧
  (∀ a, (∀ o, privSize n ≤ o → o < privSize old → a ≠ tcmKey core o) → memRead t.mem a = memRead s.mem a) ∧
  (privUnits n ≠ privUnits old ∨ treeUnits n ≠ treeUnits old → (t.core core).cache = [] ∧
    (t.core core).treelets = (s.core core).treelets.filter (staysIn old n) ∧
    ∀ p, s.partOf core = some p → ∀ x ∈ (s.core core).treelets, staysIn old n x = false → NotOwner core p x.tbase x.id t)

theorem lsplitTaken_same {s : State} {core n : Nat} (h : privUnits n = privUnits (s.core core).lsplit ∧ treeUnits n = treeUnits (s.core core).lsplit) :
    LsplitTaken s core n (s.setCore core { s.core core with lsplit := n }) := by
  unfold LsplitTaken
  rw [core_setCore]
  exact ⟨rfl, rfl, fun _ _ => rfl, fun hchange => absurd h (not_and_or.mpr hchange)⟩

theorem lsplitTaken_resized {s : State} {core n : Nat} (hwf : Memory.wf s.mem = true) :
    LsplitTaken s core n (lsplitResized s core n) := by
  unfold lsplitResized
  generalize hlost : (s.core core).treelets.filter (fun x => !staysIn (s.core core).lsplit n x) = lost
  have hcore : (writeLsplit.clobber (withdrawAll core lost (s.setCore core (resized (s.core core) n))) core (privSize n)
      (privSize (s.core core).lsplit)).core core = resized (s.core core) n := (core_withdrawAll ..).trans (core_setCore ..)
  have hmem : (withdrawAll core lost (s.setCore core (resized (s.core core) n))).mem = s.mem := mem_withdrawAll ..
  unfold LsplitTaken
  rw [hcore]
  refine ⟨rfl, rfl, fun a ha => ?_, fun _ => ⟨rfl, rfl, fun p hp x hx hgone => ?_⟩⟩
  · rw [memRead_clobber_other (by rw [hmem]; exact hwf) ha, hmem]
  · have hx : x ∈ lost := hlost ▸ List.mem_filter.mpr ⟨hx, by rw [hgone]; rfl⟩
    exact notOwner_withdrawAll_mem (s := s.setCore core _) hp hx

theorem lsplitTaken_writeLsplit {s : State} {core : Nat} {v : Word} (h : ¬badSizes (lsplitOf v)) (hwf : Memory.wf s.mem = true) :
    LsplitTaken s core (lsplitOf v) (writeLsplit s core v) := by
  rw [writeLsplit_accepted h]
  split
  · next hsame => exact lsplitTaken_same hsame
  · exact lsplitTaken_resized hwf

/-! ## PHASEWIN and the trim table -/

theorem writePhasewin_refused {s : State} {k : Nat} {v : Word} (h : 1024 < pwBase (keep v 19 0) + 2 * pwCount (keep v 19 0)) :
    writePhasewin s k v = s := if_pos h

theorem writePhasewin_accepted {s : State} {k : Nat} {v : Word} (h : pwBase (keep v 19 0) + 2 * pwCount (keep v 19 0) ≤ 1024) :
    writePhasewin s k v = s.modCluster k fun q => { q with phasewin := keep v 19 0, written := [], early := [] } := if_neg (Nat.not_lt_of_le h)

/-- The table that a core reads on the clk of a write stands. -/
theorem tableNow_writeTrimtab (s : State) (core : Nat) (hi : Bool) (v : Word) :
    tableNow ((writeTrimtab s core hi v).core core) s.clk = tableNow (s.core core) s.clk := by
  rw [writeTrimtab, core_modCore]
  exact if_neg (Nat.lt_irrefl _)

/-- From the next clk it reads the table written. -/
theorem tableNow_writeTrimtab_next (s : State) (core : Nat) (hi : Bool) (v : Word) :
    tableNow ((writeTrimtab s core hi v).core core) (s.clk + 1) = tableWrite (tableNow (s.core core) (s.clk + 1)) (hi, v) := by
  rw [writeTrimtab, core_modCore]
  exact if_pos (Nat.lt_succ_self _)

/-- The first half of O49. -/
theorem coreSettings_written : Claims.CoreSettings := by
  refine ⟨fun s core v => ⟨fun hbad => ?_, fun hok hwf => ⟨_, rfl, lsplitTaken_writeLsplit hok hwf⟩⟩, fun s k v => ⟨fun h => ?_, fun h => ?_⟩, fun s core hi v => ⟨_, rfl, rfl, ?_, ?_, ?_⟩⟩
  · exact congrArg Host.Outcome.next (writeLsplit_refused hbad)
  · exact congrArg Host.Outcome.next (writePhasewin_refused h)
  · exact congrArg Host.Outcome.next (writePhasewin_accepted h)
  · exact tableNow_writeTrimtab s core hi v
  · exact tableNow_writeTrimtab_next s core hi v
  · rw [writeTrimtab, core_modCore]

end Sys2Proof.Machine
end

section
/-!
PROOFS. A thread that stands in a slot or a run-queue entry: changes of it reach it, and its resumption ends its wait (R30).
-/
namespace Sys2Proof

/-- The first bearer of a property keeps its key when what the key gives is replaced by a bearer. -/
theorem Map.key_find?_put {α : Type} {p : α → Bool} {m : Map α} {n : Nat} {a b : α} (hfirst : (m.find? fun x => p x.2).map (·.1) = some n)
    (hfind : Map.find m n = some a) (ha : p a = true) (hb : p b = true) : ((m.put n b).find? fun x => p x.2).map (·.1) = some n := by
  induction m with
  | nil => cases hfind
  | cons x m ih =>
    obtain ⟨k, c⟩ := x
    by_cases hc : p c = true
    · obtain rfl : k = n := by simpa [List.find?_cons, hc] using hfirst
      simp [Map.put, hb]
    · have hkn : k ≠ n := by
        rintro rfl
        obtain rfl : c = a := by simpa [Map.find] using hfind
        exact hc ha
      have hfirst' : (m.find? fun x => p x.2).map (·.1) = some n := by simpa [List.find?_cons, hc] using hfirst
      have hfind' : Map.find m n = some a := by simpa [Map.find, hkn] using hfind
      by_cases hlt : n < k
      · simp [Map.put, hlt, hb]
      · simpa [Map.put, hlt, hkn.symm, List.find?_cons, hc] using ih hfirst' hfind'

end Sys2Proof

namespace Sys2Proof.Machine

/-- Thread th stands on the core: it is what its uid finds, a fibre of the run queue, or the wave of a slot, which owes no trap. -/
inductive Stands (k : Core) (th : Thr) : Prop
  | fibre (e : Nat) (x : RqEntry) (huid : entryOfUid k th.uid = some e) (hentry : k.rq.find e = some x) (hthr : x.t = th)
  | wave (n : Nat) (w : Wave) (hnone : entryOfUid k th.uid = none) (huid : slotOfUid k th.uid = some n) (hslot : k.slots.find n = some w)
      (hthr : w.t = th) (howed : w.owed = none)

/-- The cores differ in their waves and in their run queues alone. -/
def SameButThreads (k k' : Core) : Prop := { k' with slots := k.slots, rq := k.rq } = k

/-- The state t is s but for the waves and the run queue of the core, on which now stands y. -/
def NowStands (s : State) (core : Nat) (y : Thr) (t : State) : Prop :=
  ∃ k, t = s.setCore core k ∧ SameButThreads (s.core core) k ∧ Stands k y

section
variable {s t : State} {core : Nat} {th y : Thr}

theorem stands_of_isThread {x : Tid} (h : isThread s x core th) : Stands (s.core core) th := by
  obtain ⟨-, hthr, hplace, howes⟩ := h
  unfold State.thrOf at hthr
  cases he : entryOfUid (s.core core) th.uid with
  | some e =>
    rw [he] at hthr
    obtain ⟨x, hx, hxt⟩ := Option.map_eq_some_iff.mp hthr
    exact .fibre e x he hx hxt
  | none =>
    obtain ⟨n, hn⟩ : ∃ n, slotOfUid (s.core core) th.uid = some n := by
      rw [he] at hplace
      exact Option.isSome_iff_exists.mp (hplace.resolve_left Bool.false_ne_true)
    simp only [he, hn] at hthr
    obtain ⟨w, hw, hwt⟩ := Option.map_eq_some_iff.mp hthr
    exact .wave n w he hn hw hwt (howes n w hn hw)

theorem thrOf_of_stands (h : Stands (s.core core) th) : s.thrOf core th.uid = some th := by
  unfold State.thrOf
  cases h with
  | fibre e x huid hentry hthr => simp [huid, hentry, hthr]
  | wave n w hnone huid hslot hthr => simp [hnone, huid, hslot, hthr]

/-- Where a thread stands is a matter of the waves and the run queue. -/
theorem Stands.congr {k k' : Core} (h : Stands k th) (hslots : k'.slots = k.slots) (hrq : k'.rq = k.rq) : Stands k' th := by
  have hentry : entryOfUid k' th.uid = entryOfUid k th.uid := by rw [entryOfUid, entryOfUid, hrq]
  have hslot : slotOfUid k' th.uid = slotOfUid k th.uid := by rw [slotOfUid, slotOfUid, hslots]
  cases h with
  | fibre e x huid hx hthr => exact .fibre e x (hentry.trans huid) (hrq ▸ hx) hthr
  | wave n w hnone huid hw hthr howed => exact .wave n w (hentry.trans hnone) (hslot.trans huid) (hslots ▸ hw) hthr howed

theorem Stands.putEntry {k : Core} {e : Nat} {x x' : RqEntry} (huid : entryOfUid k x.t.uid = some e) (hentry : k.rq.find e = some x)
    (hsame : x'.t.uid = x.t.uid) : Stands { k with rq := k.rq.put e x' } x'.t :=
  .fibre e x' (Map.key_find?_put (p := fun y : RqEntry => y.t.uid == x'.t.uid) (hsame ▸ huid) hentry (beq_iff_eq.mpr hsame.symm) (beq_self_eq_true _))
    (Map.find_put_same ..) rfl

theorem Stands.putSlot {k : Core} {n : Nat} {w w' : Wave} (hnone : entryOfUid k w.t.uid = none) (huid : slotOfUid k w.t.uid = some n)
    (hslot : k.slots.find n = some w) (hsame : w'.t.uid = w.t.uid) (howed : w'.owed = none) :
    Stands { k with slots := k.slots.put n w' } w'.t :=
  .wave n w' (hsame ▸ hnone)
    (Map.key_find?_put (p := fun y : Wave => y.t.uid == w'.t.uid) (hsame ▸ huid) hslot (beq_iff_eq.mpr hsame.symm) (beq_self_eq_true _))
    (Map.find_put_same ..) rfl howed

/-- A change of a thread reaches it where it stands. -/
theorem modThr_stands (h : Stands (s.core core) th) {f : Thr → Thr} (hf : (f th).uid = th.uid) :
    NowStands s core (f th) (s.modThr core th.uid f) := by
  cases h with
  | fibre e x huid hentry hthr =>
    subst hthr
    refine ⟨{ s.core core with rq := (s.core core).rq.put e { x with t := f x.t } }, ?_, rfl, Stands.putEntry huid hentry hf⟩
    simp only [State.modThr, huid, State.modCore, hentry]
  | wave n w hnone huid hslot hthr howed =>
    subst hthr
    refine ⟨{ s.core core with slots := (s.core core).slots.put n { w with t := f w.t } }, ?_, rfl, Stands.putSlot hnone huid hslot hf howed⟩
    simp only [State.modThr, hnone, State.modWaveUid, huid, State.modCore, hslot]

theorem payOwed_stands (h : Stands (s.core core) th) (hnone : entryOfUid (s.core core) th.uid = none) : payOwed s core th.uid = s := by
  cases h with
  | fibre e x huid => cases hnone.symm.trans huid
  | wave n w _ huid hslot _ howed => simp only [payOwed, huid, hslot, howed]

theorem NowStands.stands (h : NowStands s core y t) : Stands (t.core core) y := by
  obtain ⟨k, rfl, -, hk⟩ := h
  rwa [core_setCore]

theorem NowStands.sameButThreads (h : NowStands s core y t) : SameButThreads (s.core core) (t.core core) := by
  obtain ⟨k, rfl, hk, -⟩ := h
  rwa [core_setCore]

/-- A resumed thread waits for nothing, and takes no trap. -/
theorem resume_stands (h : Stands (s.core core) th) : ∃ y, NowStands s core y (s.resume core th.uid) ∧ y.uid = th.uid ∧ y.wait = .none := by
  refine ⟨{ th with wait := .none, since := s.clk + 1 }, ?_, rfl, rfl⟩
  obtain ⟨k, hk, hsame, hstands⟩ := modThr_stands h (f := fun t => { t with wait := .none, since := s.clk + 1 }) rfl
  unfold State.resume
  rw [hk]
  dsimp only
  rw [core_setCore]
  have hstands' := hstands
  cases hstands with
  | fibre e x huid hentry hthr =>
    refine ⟨{ k with rq := k.rq.put e { x with st := .ready (readyRank (s.setCore core k) e) } }, ?_, hsame, ?_⟩
    · simp only [huid, State.modCore, core_setCore, hentry, setCore_setCore]
    · have hput := Stands.putEntry (x' := { x with st := .ready (readyRank (s.setCore core k) e) }) (hthr ▸ huid) hentry rfl
      rwa [← hthr]
  | wave n w hnone huid hslot hthr howed =>
    have hpaid : payOwed (s.setCore core k) core th.uid = s.setCore core k :=
      payOwed_stands (th := { th with wait := .none, since := s.clk + 1 }) (by rw [core_setCore]; exact hstands') (by rw [core_setCore]; exact hnone)
    simp only [hnone, hpaid]
    exact ⟨k, rfl, hsame, hstands'⟩

theorem nowWaits_of_stands {uid : Nat} (h : Stands (t.core core) y) (huid : y.uid = uid) : nowWaits t core uid y.wait :=
  ⟨y, huid ▸ thrOf_of_stands h, rfl⟩

end

end Sys2Proof.Machine
end

section
/-!
PROOFS. O49, the writes that a thread waits for (R93, R363, R365 to R368).
-/
namespace Sys2Proof.Machine

/-! ## What the events leave alone -/

/-- Asking the host changes its filter and what is sent, nothing else. -/
theorem askHost_frame (s : State) (line : Nat) : { askHost s line with sliceTab := s.sliceTab, sent := s.sent } = s := by
  unfold askHost
  split
  · split <;> rfl
  · rfl

theorem devHeld_askHost (s : State) (line a n : Nat) : devHeld (askHost s line) a n = devHeld s a n := by
  unfold devHeld
  rw [show hostHolds (askHost s line) = hostHolds s from congrArg DevView.holds (devView_askHost s line)]

section
variable {s t : State} {core : Nat} {th y : Thr}

/-- What a state keeps, while its threads change. -/
theorem NowStands.frame (h : NowStands s core y t) : t.mem = s.mem ∧ t.parts = s.parts ∧ t.rigs = s.rigs := by
  obtain ⟨k, rfl, -⟩ := h
  exact ⟨rfl, rfl, rfl⟩

/-- The thread of this uid goes on in t, which is u but for the threads of the core. -/
def GoneOn (core uid : Nat) (u t : State) : Prop :=
  nowWaits t core uid .none ∧ SameButThreads (u.core core) (t.core core) ∧ t.mem = u.mem ∧ t.parts = u.parts ∧ t.rigs = u.rigs

theorem goneOn_resume {uid : Nat} (h : Stands (s.core core) th) (huid : th.uid = uid) : GoneOn core uid s (s.resume core uid) := by
  subst huid
  obtain ⟨y, hy, huid, hwait⟩ := resume_stands h
  exact ⟨hwait ▸ nowWaits_of_stands hy.stands huid, hy.sameButThreads, hy.frame⟩

theorem part_congr (h : t.parts = s.parts) (p : Nat) : t.part p = s.part p := by rw [State.part, State.part, h]

theorem pendingWrite_isThread {x : Tid} {n : Nat} {v : Word} {ok : Nat → Bool} (h : isThread s x core th) (hw : th.wait = .sysop n v)
    (hok : ok n = true) : pendingWrite s x ok = some (core, th, n, v) := by
  obtain ⟨hthreads, -⟩ := h
  simp [pendingWrite, hthreads, hw, hok]

end

section
variable {s : State} {x : Tid} {core n : Nat} {th : Thr} {v : Word}

/-! ## STEALRING -/

/-- The core with the victims of the image at a for its ring. -/
def withRing (k : Core) (l : List Nat) (a : Nat) : Core := { k with ring := some l, ringPos := 0, ringBase := word a }

theorem exec_stealringLoad_eq (h : isThread s x core th) (hw : th.wait = .sysop 0x18 v) :
    exec (.stealringLoad x) s = .next (devRead s (keep v 46 6) (2 + 2 * (devGet s (keep v 46 6) 2 % 256)) fun s =>
      (s.modCore core fun k => withRing k (ringAt s (keep v 46 6)) (keep v 46 6)).resume core th.uid) := by
  rw [exec_stealringLoad, execStealringLoad, pendingWrite_isThread h hw rfl]
  rfl

theorem stealringLoad_reads (h : isThread s x core th) (hw : th.wait = .sysop 0x18 v)
    (hheld : devHeld s (keep v 46 6) (2 + 2 * (devGet s (keep v 46 6) 2 % 256)) = none) :
    yields (exec (.stealringLoad x) s) fun t => (nowWaits t core th.uid .none ∧ t.mem = s.mem) ∧ (t.core core).ringPos = 0 ∧
      (t.core core).ring = some (ringAt s (keep v 46 6)) := by
  refine ⟨_, exec_stealringLoad_eq h hw, ?_⟩
  rw [devRead, hheld]
  have hstands : Stands ((s.modCore core fun k => withRing k (ringAt s (keep v 46 6)) (keep v 46 6)).core core) th := by
    rw [core_modCore]
    exact (stands_of_isThread h).congr rfl rfl
  obtain ⟨hgo, hcore, hmem, -⟩ := goneOn_resume hstands rfl
  rw [core_modCore] at hcore
  exact ⟨⟨hgo, hmem⟩, congrArg Core.ringPos hcore, congrArg Core.ring hcore⟩

theorem stealringLoad_asks {l : Nat} (h : isThread s x core th) (hw : th.wait = .sysop 0x18 v)
    (hheld : devHeld s (keep v 46 6) (2 + 2 * (devGet s (keep v 46 6) 2 % 256)) = some l) :
    exec (.stealringLoad x) s = .next (askHost s l) := by
  rw [exec_stealringLoad_eq h hw, devRead, hheld]

/-! ## The scope registers -/

/-- A scope register n of the partition, written with v. -/
def writeScope (n : Nat) (v : Word) (r : Part) : Part :=
  if n < 0x40 then { r with scopes := r.scopes.put (n - 0x30) (word (keep v 31 16 + keep v 5 0)) }
  else { r with scopesC := r.scopesC.put (n - 0x40) v }

theorem scopeWrite_writes {p : Nat} (h : isThread s x core th) (hw : th.wait = .sysop n v) (hp : s.partOf core = some p)
    (hn : (isRange n 0x36 0x3F || isRange n 0x46 0x4F) = true) :
    yields (exec (.scopeWrite x) s) fun t => (nowWaits t core th.uid .none ∧ t.mem = s.mem) ∧ t.part p = writeScope n v (s.part p) := by
  have heq : exec (.scopeWrite x) s = .next ((s.modPart p (writeScope n v)).resume core th.uid) := by
    rw [exec_scopeWrite, execScopeWrite, pendingWrite_isThread h hw hn]
    simp only [hp]
    rfl
  obtain ⟨hgo, -, hmem, hparts, -⟩ := goneOn_resume (s := s.modPart p (writeScope n v)) (stands_of_isThread h) rfl
  exact ⟨_, heq, ⟨hgo, hmem⟩, (part_congr hparts p).trans (part_modPart ..)⟩

/-! ## RIGLOAD -/

/-- The entry may be loaded: its old instruction is over and the host does not own its lines. -/
def rigReady (s : State) (p i : Nat) : Bool := rigIdle s (rigKey p i) && (devHeld s (rigImage s p i) 128).isNone

/-- The host is asked for the first line of the entry that it owns. -/
def askRig (s : State) (p i : Nat) : State := (devHeld s (rigImage s p i) 128).elim s (askHost s)

theorem askRig_frame (s : State) (p i : Nat) : { askRig s p i with sliceTab := s.sliceTab, sent := s.sent } = s := by
  unfold askRig
  cases devHeld s (rigImage s p i) 128 with
  | none => rfl
  | some l => exact askHost_frame s l

theorem core_askRig (s : State) (p i c : Nat) : (askRig s p i).core c = s.core c := (congrArg (State.core · c) (askRig_frame s p i) :)
theorem mem_askRig (s : State) (p i : Nat) : (askRig s p i).mem = s.mem := (congrArg State.mem (askRig_frame s p i) :)
theorem rigs_askRig (s : State) (p i : Nat) : (askRig s p i).rigs = s.rigs := (congrArg State.rigs (askRig_frame s p i) :)

theorem rigReady_askRig (s : State) (p i : Nat) : rigReady (askRig s p i) p i = rigReady s p i := by
  have hidle : rigIdle (askRig s p i) = rigIdle s := (congrArg rigIdle (askRig_frame s p i) :)
  have himage : rigImage (askRig s p i) = rigImage s := (congrArg rigImage (askRig_frame s p i) :)
  have hheld : devHeld (askRig s p i) (rigImage s p i) 128 = devHeld s (rigImage s p i) 128 := by
    cases hl : devHeld s (rigImage s p i) 128 with
    | none => rw [askRig, hl]; exact hl
    | some l => rw [askRig, hl]; exact (devHeld_askHost ..).trans hl
  rw [rigReady, rigReady, hidle, himage, hheld]

/-- The thread, with these entries left to load behind their count of refusals. -/
def withLatch (l : List Nat) (t : Thr) : Thr := { t with latch := l }

/-- With one entry left, RIGLOAD loads it or waits. -/
theorem exec_rigload_eq {p i : Nat} (h : isThread s x core th) (hw : th.wait = .sysop 0x51 v) (hp : s.partOf core = some p)
    (hlatch : th.latch = [0, i]) : exec (.rigload x) s = .next (
      if rigReady s p i then
        (rigloadDone ((loadRig (askRig s p i) p i).2.modThr core th.uid (withLatch [])) core v
          (bit (loadRig (askRig s p i) p i).1)).resume core th.uid
      else (askRig s p i).modThr core th.uid (withLatch [0, i])) := by
  have hask : ([i].filterMap fun i => devHeld s (rigImage s p i) 128).foldl askHost s = askRig s p i := by
    unfold askRig
    cases hl : devHeld s (rigImage s p i) 128 <;> simp [hl]
  have hready : (rigIdle (askRig s p i) (rigKey p i) && (devHeld (askRig s p i) (rigImage (askRig s p i) p i) 128).isNone) = rigReady s p i :=
    rigReady_askRig s p i
  rw [exec_rigload, execRigload, pendingWrite_isThread h hw rfl]
  simp only [hp, hlatch, List.drop_one, List.tail_cons, List.headD_cons, hask]
  cases hr : rigReady s p i <;> simp [hready, hr] <;> rfl

theorem loadRig_frame (s : State) (p i : Nat) : { (loadRig s p i).2 with rigs := s.rigs } = s := by
  unfold loadRig
  split <;> rfl

theorem loadRig_refused (s : State) (p i : Nat) : (loadRig s p i).1 = (rigEntryAt s p i (rigImage s p i)).isNone := by
  unfold loadRig
  cases rigEntryAt s p i (rigImage s p i) <;> rfl

theorem find_rigs_loadRig (s : State) (p i : Nat) :
    (loadRig s p i).2.rigs.find (rigKey p i) = (rigEntryAt s p i (rigImage s p i)).map Rig.fresh := by
  unfold loadRig
  cases rigEntryAt s p i (rigImage s p i) with
  | none => exact Map.find_del_same ..
  | some l => exact Map.find_put_same ..

theorem core_loadRig (s : State) (p i c : Nat) : (loadRig s p i).2.core c = s.core c := (congrArg (State.core · c) (loadRig_frame s p i) :)
theorem mem_loadRig (s : State) (p i : Nat) : (loadRig s p i).2.mem = s.mem := (congrArg State.mem (loadRig_frame s p i) :)
theorem partOf_loadRig (s : State) (p i c : Nat) : (loadRig s p i).2.partOf c = s.partOf c := (congrArg (State.partOf · c) (loadRig_frame s p i) :)

/-- RIGLOAD of a partition, as a write of v leaves it. -/
def withRigload (v : Word) (bad : Nat) (r : Part) : Part := { r with rigload := keep v 16 0, rigbad := bad }

theorem rigloadDone_of_partOf {p bad : Nat} (hp : s.partOf core = some p) :
    rigloadDone s core v bad = s.modPart p (withRigload v bad) := by
  unfold rigloadDone
  rw [hp]
  rfl

/-- The last entry is loaded: the thread goes on, the entry is what its image has, and an image that is no entry is counted. -/
theorem rigload_loads {p i : Nat} (h : isThread s x core th) (hw : th.wait = .sysop 0x51 v) (hp : s.partOf core = some p)
    (hlatch : th.latch = [0, i]) (hidle : rigIdle s (rigKey p i) = true) (hheld : devHeld s (rigImage s p i) 128 = none) :
    yields (exec (.rigload x) s) fun t => (nowWaits t core th.uid .none ∧ t.mem = s.mem) ∧
      t.rigs.find (rigKey p i) = (rigEntryAt s p i (rigImage s p i)).map Rig.fresh ∧
      (t.part p).rigbad = bit (rigEntryAt s p i (rigImage s p i)).isNone := by
  have hready : rigReady s p i = true := by rw [rigReady, hidle, hheld]; rfl
  have hask : askRig s p i = s := by rw [askRig, hheld]; rfl
  refine ⟨_, exec_rigload_eq h hw hp hlatch, ?_⟩
  rw [if_pos hready, hask, loadRig_refused]
  have hstands : Stands ((loadRig s p i).2.core core) th := core_loadRig s p i core ▸ stands_of_isThread h
  obtain ⟨k, hk, -, hstands⟩ := modThr_stands hstands (f := withLatch []) rfl
  have hpart : ((loadRig s p i).2.setCore core k).partOf core = some p := (partOf_loadRig s p i core).trans hp
  rw [hk, rigloadDone_of_partOf hpart]
  obtain ⟨hgo, -, hmem, hparts, hrigs⟩ := goneOn_resume (th := withLatch [] th) (uid := th.uid)
    (s := ((loadRig s p i).2.setCore core k).modPart p (withRigload v (bit (rigEntryAt s p i (rigImage s p i)).isNone)))
    (by rw [core_modPart, core_setCore]; exact hstands) rfl
  refine ⟨⟨hgo, hmem.trans (mem_loadRig s p i)⟩, ?_, ?_⟩
  · exact (congrArg (Map.find · (rigKey p i)) hrigs).trans (find_rigs_loadRig s p i)
  · exact congrArg Part.rigbad ((part_congr hparts p).trans (part_modPart ..))

/-- An entry whose old instruction runs, or whose lines the host owns, is left, and the thread waits on. -/
theorem rigload_waits {p i : Nat} (h : isThread s x core th) (hw : th.wait = .sysop 0x51 v) (hp : s.partOf core = some p)
    (hlatch : th.latch = [0, i]) (hnot : rigReady s p i = false) :
    yields (exec (.rigload x) s) fun t => nowWaits t core th.uid (.sysop 0x51 v) ∧ t.rigs = s.rigs ∧ t.mem = s.mem := by
  refine ⟨_, exec_rigload_eq h hw hp hlatch, ?_⟩
  rw [if_neg (Bool.eq_false_iff.mp hnot)]
  have hstands : Stands ((askRig s p i).core core) th := core_askRig s p i core ▸ stands_of_isThread h
  have hnow := modThr_stands hstands (f := withLatch [0, i]) rfl
  obtain ⟨hmem, -, hrigs⟩ := hnow.frame
  have hwaits := nowWaits_of_stands (uid := th.uid) hnow.stands rfl
  rw [show (withLatch [0, i] th).wait = .sysop 0x51 v from hw] at hwaits
  exact ⟨hwaits, hrigs.trans (rigs_askRig s p i), hmem.trans (mem_askRig s p i)⟩

end

/-! ## O49 -/

/-- The second half of O49. -/
theorem slowWrites : Claims.SlowWrites := by
  intro s x core n th v hthread hwait
  refine ⟨?_, ?_, ?_, ?_, ?_⟩
  · rintro rfl hheld
    exact stealringLoad_reads hthread hwait hheld
  · rintro l rfl hheld
    exact stealringLoad_asks hthread hwait hheld
  · intro p hlo hhi hp
    have hrange : (isRange n 0x36 0x3F || isRange n 0x46 0x4F) = true := by simp [isRange, hlo, hhi]
    obtain ⟨t, ht, hgo, hpart⟩ := scopeWrite_writes hthread hwait hp hrange
    refine ⟨t, ht, hgo, ?_⟩
    rw [hpart, writeScope, if_pos (Nat.lt_succ_of_le hhi)]
    exact Map.find_put_same ..
  · intro p hlo hhi hp
    have hrange : (isRange n 0x36 0x3F || isRange n 0x46 0x4F) = true := by simp [isRange, hlo, hhi]
    obtain ⟨t, ht, hgo, hpart⟩ := scopeWrite_writes hthread hwait hp hrange
    refine ⟨t, ht, hgo, ?_⟩
    rw [hpart, writeScope, if_neg (by omega)]
    exact Map.find_put_same ..
  · rintro p i rfl hp hlatch
    refine ⟨fun hidle hheld => ?_, fun hnot => rigload_waits hthread hwait hp hlatch ?_⟩
    · obtain ⟨t, ht, hgo, hrig, hbad⟩ := rigload_loads hthread hwait hp hlatch hidle hheld
      exact ⟨t, ht, hgo, hrig, fun hnone => by rw [hbad, hnone]; rfl, fun hsome => by
        rw [hbad, Option.isNone_eq_false_iff.mpr hsome]; rfl⟩
    · obtain hbusy | hheld := hnot
      · rw [rigReady, hbusy, Bool.false_and]
      · rw [rigReady, Option.isNone_eq_false_iff.mpr hheld, Bool.and_false]

/-- Settles O49: an accepted LSPLIT withdraws the lost treelets one by one, and none of them gains the core as an owner again; the writes that
a thread waits for change its core, its partition or its rig, and then end its wait where it stands. -/
theorem coreSettings : Obligations.CoreSettings := ⟨coreSettings_written, slowWrites⟩

end Sys2Proof.Machine
end

section
/-!
PROOFS. What the effect of an operation leaves alone while its bundle is in hand (the other threads, the settings of the core, the trap registers), and
what the end of the bundle adds.
-/
namespace Sys2Proof.Machine

section
variable {s u v : State} {c : Issue} {i : Instr}

theorem othersKept.refl : othersKept s c s := ⟨fun _ _ => rfl, rfl, fun _ _ => rfl, fun _ _ => rfl, rfl⟩

theorem othersKept.trans (h : othersKept s c u) (h' : othersKept u c v) : othersKept s c v := by
  obtain ⟨hcores, hregs, hslots, hrq, htrap⟩ := h
  obtain ⟨hcores', hregs', hslots', hrq', htrap'⟩ := h'
  exact ⟨fun n hn => (hcores' n hn).trans (hcores n hn), hregs'.trans hregs, fun n hn => (hslots' n hn).trans (hslots n hn),
    fun e he => (hrq' e he).trans (hrq e he), htrap'.trans htrap⟩

theorem noReg.trans (h : noReg s c u) (h' : noReg u c v) : noReg s c v :=
  ⟨fun x => (h'.1 x).trans (h.1 x), fun x => (h'.2 x).trans (h.2 x)⟩

theorem clear.admits (h : clear s c i) : admits s c i := h.1
theorem clear.here (h : clear s c i) : threadHere s c := h.2.1

/-! ## An effect beside the core's threads -/

/-- From u to v the core's threads and settings, the other cores and the bundle in hand stand. -/
structure Aside (c : Issue) (u v : State) : Prop where
  issue : v.issue = u.issue
  todo : v.todo = u.todo
  others : ∀ n, n ≠ c.core → v.core n = u.core n
  settings : coreRegs (v.core c.core) = coreRegs (u.core c.core)
  slots : (v.core c.core).slots = (u.core c.core).slots
  rq : (v.core c.core).rq = (u.core c.core).rq

theorem Aside.refl : Aside c u u := ⟨rfl, rfl, fun _ _ => rfl, rfl, rfl, rfl⟩

theorem Aside.trans {w : State} (h : Aside c u v) (h' : Aside c v w) : Aside c u w :=
  ⟨h'.issue.trans h.issue, h'.todo.trans h.todo, fun n hn => (h'.others n hn).trans (h.others n hn), h'.settings.trans h.settings,
    h'.slots.trans h.slots, h'.rq.trans h.rq⟩

/-- An effect outside the cores. -/
theorem Aside.of_cores (hcores : v.cores = u.cores) (hissue : v.issue = u.issue) (htodo : v.todo = u.todo) : Aside c u v := by
  have hcore (n : Nat) : v.core n = u.core n := by unfold State.core; rw [hcores]
  exact ⟨hissue, htodo, fun n _ => hcore n, by rw [hcore], by rw [hcore], by rw [hcore]⟩

/-- An effect on the core's queues, copies and counters. -/
theorem Aside.of_modCore (u : State) (f : Core → Core) (hsettings : ∀ k, coreRegs (f k) = coreRegs k) (hslots : ∀ k, (f k).slots = k.slots)
    (hrq : ∀ k, (f k).rq = k.rq) : Aside c u (u.modCore c.core f) :=
  ⟨rfl, rfl, fun _ hn => core_modCore_other _ _ _ _ hn, by rw [core_modCore, hsettings], by rw [core_modCore, hslots], by rw [core_modCore, hrq]⟩

theorem Aside.waveOf_eq (h : Aside c u v) : waveOf v c = waveOf u c := by unfold waveOf; rw [h.slots]

theorem Aside.issThr_eq (h : Aside c u v) : v.issThr c = u.issThr c := by unfold State.issThr; rw [h.slots, h.rq]

theorem Aside.here (h : Aside c u v) (hu : threadHere u c) : threadHere v c := by
  unfold threadHere at *
  rwa [h.waveOf_eq, h.rq]

theorem Aside.kept (h : Aside c u v) : othersKept u c v :=
  ⟨h.others, h.settings, fun _ _ => by rw [h.slots], fun _ _ => by rw [h.rq], by rw [h.waveOf_eq]⟩

theorem Aside.regs (h : Aside c u v) : noReg u c v :=
  ⟨fun x => by unfold regAt; rw [h.waveOf_eq, h.rq], fun x => by unfold vregAt; rw [h.waveOf_eq]⟩

/-! ## An effect of an operation -/

/-- The bundle is in hand in u with its checks behind it, its thread is there, and the others are kept from s on. -/
structure Touched (s : State) (c : Issue) (u : State) : Prop where
  issue : u.issue = some c.passed
  todo : u.todo = s.todo
  here : threadHere u c
  kept : othersKept s c u

theorem Touched.aside (h : Touched s c u) (h' : Aside c u v) : Touched s c v :=
  ⟨h'.issue.trans h.issue, h'.todo.trans h.todo, h'.here h.here, h.kept.trans h'.kept⟩

theorem coreRegs_rest (k : Core) : coreRegs (coreRest k) = coreRegs k := rfl

/-- The trap registers of a wave are among what a bundle's end keeps, FPFLAGS apart. -/
theorem trapRegs_rest (w : Wave) : trapRegs w =
    ((waveRest w).trappc, (waveRest w).trapcause, (waveRest w).traplanes, (waveRest w).utvec, (waveRest w).fpmode, w.fpflags) := rfl

/-- A finished operation that raised no flag has kept the others. -/
theorem othersKept_of_completed (h : completed u c 0 v) (hflags : flagsWith c 0 = 0) : othersKept u c v := by
  obtain ⟨⟨-, hcores, hrest, hslots, hrq, hwave, -⟩, -, hlast, hmore⟩ := h
  have hfp : flagsAt v c = flagsAt u c := by
    by_cases hl : lastOp u
    · obtain ⟨-, hfl, -⟩ := hlast hl
      rw [hfl, hflags, Nat.or_zero]
    · obtain ⟨-, hfl, -⟩ := hmore hl
      exact hfl
  refine ⟨hcores, ?_, hslots, hrq, ?_⟩
  · rw [← coreRegs_rest, hrest, coreRegs_rest]
  · cases he : c.entry with
    | some e => rw [waveOf, waveOf, hslots _ (.inl (by rw [he]; rfl))]
    | none =>
      unfold flagsAt at hfp
      rw [he] at hfp
      generalize waveOf v c = x at hfp hwave ⊢
      generalize waveOf u c = y at hfp hwave ⊢
      cases x with
      | none => cases y with
        | none => rfl
        | some w => simp at hwave
      | some w' => cases y with
        | none => simp at hwave
        | some w =>
          have hrestw : waveRest w' = waveRest w := Option.some.inj hwave
          have hf : w'.fpflags = w.fpflags := hfp
          simp only [Option.map_some, trapRegs_rest, hrestw, hf]

theorem issThr_of_threadOnly (h : threadOnly u c v) : v.issThr c = u.issThr c := by
  obtain ⟨-, -, -, -, -, hwave, hentry⟩ := h
  unfold State.issThr
  cases he : c.entry with
  | none =>
    unfold waveOf at hwave
    dsimp only
    cases hv : (v.core c.core).slots.find c.slot <;> cases hu : (u.core c.core).slots.find c.slot <;> rw [hv, hu] at hwave
    · cases hwave
    · cases hwave
    · have hw := congrArg Wave.t (Option.some.inj hwave)
      exact hw
  | some e =>
    have hx := hentry e he
    dsimp only
    cases hv : (v.core c.core).rq.find e <;> cases hu : (u.core c.core).rq.find e <;> rw [hv, hu] at hx
    · cases hx
    · cases hx
    · have hw := congrArg RqEntry.t (Option.some.inj hx)
      exact hw

/-- What the end of an operation's bundle keeps of the state u that its effect has left. -/
structure Retired (s : State) (c : Issue) (u t : State) : Prop where
  went : went s c t
  regs : noReg u c t
  thr : t.issThr c = u.issThr c
  outside : outside t = outside u
  rest : coreRest (t.core c.core) = coreRest (u.core c.core)

/-- A bundle that has raised no flag ends. -/
theorem Touched.retire (h : Touched s c u) (hs : clear s c i) : Retired s c u (retire u) := by
  obtain ⟨-, -, hsf, hvf⟩ := hs
  have hflags : flagsWith c 0 = 0 := by unfold flagsWith; split <;> simp [hsf, hvf]
  have hruns : runs u c.passed i 0 := ⟨⟨h.issue, .inl rfl⟩, h.here, fun _ _ => show quiet c (flagsWith c 0) by rw [hflags]; exact Nat.zero_and _⟩
  have hopened : opened u c.passed i = u := rfl
  obtain ⟨hregs, hdone⟩ := none_done hruns
  rw [hopened] at hregs hdone
  have hdone : completed u c 0 (Machine.retire u) := hdone
  obtain ⟨honly, htodo, hlast, -⟩ := id hdone
  obtain ⟨hout, -, hrest, -⟩ := id honly
  refine ⟨⟨h.kept.trans (othersKept_of_completed hdone hflags), htodo.trans h.todo, fun hl => ?_⟩, hregs, issThr_of_threadOnly honly, hout, hrest⟩
  obtain ⟨hpc, -, hissue⟩ := hlast (h.todo.trans hl)
  exact ⟨hpc, hissue⟩

theorem Retired.mem {t : State} (h : Retired s c u t) : t.mem = u.mem := (congrArg State.mem h.outside :)
theorem Retired.reqs {t : State} (h : Retired s c u t) : t.reqs = u.reqs := (congrArg State.reqs h.outside :)

/-! ## Changes of the issuing thread -/

/-- A change of the thread's own data that leaves its registers. -/
structure Rethreaded (c : Issue) (f : Thr → Thr) (u v : State) : Prop where
  issue : v.issue = u.issue
  todo : v.todo = u.todo
  kept : othersKept u c v
  regs : noReg u c v
  here : threadHere v c
  thr : v.issThr c = f (u.issThr c)
  outside : outside v = outside u

theorem Touched.rethreaded {f : Thr → Thr} (h : Touched s c u) (h' : Rethreaded c f u v) : Touched s c v :=
  ⟨h'.issue.trans h.issue, h'.todo.trans h.todo, h'.here, h.kept.trans h'.kept⟩

theorem Rethreaded.aside {f : Thr → Thr} {w : State} (h : Rethreaded c f u v) (h' : Aside c v w) (hout : Machine.outside w = Machine.outside v) :
    Rethreaded c f u w :=
  ⟨h'.issue.trans h.issue, h'.todo.trans h.todo, h.kept.trans h'.kept, h.regs.trans h'.regs, h'.here h.here, h'.issThr_eq.trans h.thr,
    hout.trans h.outside⟩

section
variable {w w' : Wave} {e : Nat} {x x' : RqEntry} {f : Thr → Thr}

/-- A wave that keeps its trap registers. -/
theorem OnWave.kept (h : OnWave u c w w' v) (he : c.entry = none) (htrap : trapRegs w' = trapRegs w) : othersKept u c v := by
  refine ⟨h.other, ?_, fun n hn => h.slots n (by simpa [he] using hn), fun e _ => by rw [h.rq], ?_⟩
  · rw [← coreRegs_rest, h.rest, coreRegs_rest]
  · rw [waveOf, waveOf, h.was, h.is, Option.map_some, Option.map_some, htrap]

theorem OnEntry.kept (h : OnEntry u c e x x' v) (he : c.entry = some e) : othersKept u c v := by
  refine ⟨h.other, ?_, fun n _ => by rw [h.slots], fun n hn => h.rq n fun heq => hn (he.trans (congrArg some heq.symm)), by rw [waveOf, waveOf, h.slots]⟩
  rw [← coreRegs_rest, h.rest, coreRegs_rest]

theorem OnWave.here (h : OnWave u c w w' v) (he : c.entry = none) : threadHere v c := by
  unfold threadHere waveOf
  simp only [he, h.is, Option.isSome_some]

theorem OnEntry.here (h : OnEntry u c e x x' v) (he : c.entry = some e) : threadHere v c := by
  unfold threadHere
  simp only [he, h.is, Option.isSome_some]

theorem OnWave.issThr_eq (h : OnWave u c w w' v) (he : c.entry = none) : u.issThr c = w.t ∧ v.issThr c = w'.t := by
  unfold State.issThr
  simp only [he, h.was, h.is, and_self]

theorem OnEntry.issThr_eq (h : OnEntry u c e x x' v) (he : c.entry = some e) : u.issThr c = x.t ∧ v.issThr c = x'.t := by
  unfold State.issThr
  simp only [he, h.was, h.is, and_self]

theorem OnWave.regAt_eq (h : OnWave u c w w' v) (he : c.entry = none) (r : Nat) : regAt u c r = waveGet w r ∧ regAt v c r = waveGet w' r := by
  unfold regAt waveOf
  simp only [he, h.was, h.is, and_self]

theorem OnEntry.regAt_eq (h : OnEntry u c e x x' v) (he : c.entry = some e) (r : Nat) :
    regAt u c r = fibreGet x.fib r ∧ regAt v c r = fibreGet x'.fib r := by
  unfold regAt
  simp only [he, h.was, h.is, and_self]

theorem OnWave.vregAt_eq (h : OnWave u c w w' v) (hv : w'.v = w.v) (r : Nat) : vregAt v c r = vregAt u c r := by
  unfold vregAt waveOf
  simp only [h.was, h.is, hv]

theorem OnEntry.vregAt_eq (h : OnEntry u c e x x' v) (r : Nat) : vregAt v c r = vregAt u c r := by
  unfold vregAt waveOf
  rw [h.slots]

/-- A wave's data change. -/
theorem OnWave.rethreaded (h : OnWave u c w { w with t := f w.t } v) (he : c.entry = none) (hissue : v.issue = u.issue) (htodo : v.todo = u.todo) :
    Rethreaded c f u v := by
  obtain ⟨hwas, his⟩ := h.issThr_eq he
  refine ⟨hissue, htodo, h.kept he rfl, ⟨fun r => ?_, h.vregAt_eq rfl⟩, h.here he, by rw [hwas, his], h.out⟩
  obtain ⟨hru, hrv⟩ := h.regAt_eq he r
  rw [hru, hrv]
  rfl

/-- The data of a fibre, or where it stands in its run queue, change. -/
theorem OnEntry.rethreaded (h : OnEntry u c e x x' v) (ht : x'.t = f x.t) (hf : x'.fib = x.fib) (he : c.entry = some e) (hissue : v.issue = u.issue)
    (htodo : v.todo = u.todo) : Rethreaded c f u v := by
  obtain ⟨hwas, his⟩ := h.issThr_eq he
  refine ⟨hissue, htodo, h.kept he, ⟨fun r => ?_, h.vregAt_eq⟩, h.here he, by rw [hwas, his, ht], h.out⟩
  obtain ⟨hru, hrv⟩ := h.regAt_eq he r
  rw [hru, hrv, hf]

end

theorem exists_wave (h : threadHere u c) (he : c.entry = none) : ∃ w, (u.core c.core).slots.find c.slot = some w := by
  unfold threadHere waveOf at h
  rw [he] at h
  exact Option.isSome_iff_exists.mp h

theorem exists_entry (h : threadHere u c) {e : Nat} (he : c.entry = some e) : ∃ x, (u.core c.core).rq.find e = some x := by
  unfold threadHere at h
  rw [he] at h
  exact Option.isSome_iff_exists.mp h

theorem modIssThr_wave (f : Thr → Thr) (he : c.entry = none) : u.modIssThr c f = u.modIssWave c fun w => { w with t := f w.t } := by
  unfold State.modIssThr State.modIssWave
  rw [he]

theorem modIssThr_entry (f : Thr → Thr) {e : Nat} (he : c.entry = some e) : u.modIssThr c f = u.modIssEntry c fun x => { x with t := f x.t } := by
  unfold State.modIssThr State.modIssEntry
  rw [he]

theorem modIssEntry_hand (f : RqEntry → RqEntry) : (u.modIssEntry c f).issue = u.issue ∧ (u.modIssEntry c f).todo = u.todo := by
  unfold State.modIssEntry
  split <;> exact ⟨rfl, rfl⟩

theorem rethreaded_modIssEntry {f : Thr → Thr} (g : RqEntry → RqEntry) (ht : ∀ x, (g x).t = f x.t) (hf : ∀ x, (g x).fib = x.fib) {e : Nat}
    (he : c.entry = some e) (h : threadHere u c) : Rethreaded c f u (u.modIssEntry c.passed g) := by
  obtain ⟨x, hx⟩ := exists_entry h he
  obtain ⟨hissue, htodo⟩ := modIssEntry_hand (u := u) (c := c.passed) g
  exact ((OnEntry.refl hx).entry (d := c.passed) g rfl he).rethreaded (ht x) (hf x) he hissue htodo

theorem rethreaded_modIssThr (f : Thr → Thr) (h : threadHere u c) : Rethreaded c f u (u.modIssThr c.passed f) := by
  cases he : c.entry with
  | none =>
    obtain ⟨w, hw⟩ := exists_wave h he
    rw [modIssThr_wave f ((passed_entry c).trans he)]
    exact ((OnWave.refl hw).wave (d := c.passed) (fun w => { w with t := f w.t }) rfl rfl).rethreaded he rfl rfl
  | some e =>
    rw [modIssThr_entry f ((passed_entry c).trans he)]
    exact rethreaded_modIssEntry _ (fun _ => rfl) (fun _ => rfl) he h

end

end Sys2Proof.Machine
end

section
/-!
PROOFS. The state on which the effect of an operation falls: its bundle opened, its banks taken, its access counted.
-/
namespace Sys2Proof.Machine

/-- A put that shows no more than what stood there leaves a test of the entries as it was. -/
theorem Map.any_put {α : Type} {p : Nat × α → Bool} {m : Map α} {n : Nat} {a : α} (h : p (n, a) = ((m.find n).map fun b => p (n, b)).getD false) :
    (m.put n a).any p = m.any p := by
  induction m with
  | nil => simpa [Map.put, Map.find] using h
  | cons y m ih =>
    obtain ⟨k, b⟩ := y
    unfold Map.put
    split
    · cases hp : p (n, a) with
      | false => simp [hp]
      | true =>
        rw [hp] at h
        cases hb : Map.find ((k, b) :: m) n with
        | none => rw [hb] at h; cases h
        | some b' =>
          rw [hb] at h
          rw [List.any_cons, hp, Bool.true_or]
          exact (List.any_eq_true.mpr ⟨_, Map.mem_of_find hb, h.symm⟩).symm
    · split
      · next heq =>
        subst heq
        simpa [Map.find] using congrArg (· || m.any p) h
      · next hne =>
        rw [List.any_cons, List.any_cons, ih]
        simpa [Map.find, Ne.symm hne] using h

section
variable {s u v : State} {c : Issue} {i : Instr}

/-- A change of a core that keeps its commands. -/
theorem heldByCmd_modCore (core : Nat) (f : Core → Core) (hf : ∀ k, (f k).commands = k.commands) (uid va n order : Nat) :
    heldByCmd (u.modCore core f) uid va n order = heldByCmd u uid va n order := by
  unfold heldByCmd
  congr 1
  refine Map.any_put ?_
  unfold State.core
  cases h : Map.find u.cores core with
  | none => simp only [Option.getD_none, Option.map_none, hf]; rfl
  | some k => simp only [Option.getD_some, Option.map_some, hf]

/-- Everything but the cores, the clusters and the bundle in hand. -/
def outer (s : State) : State := { s with cores := [], clusters := [], issue := none, todo := [] }

/-- A thread but for the count of its accesses. -/
def bareThr (t : Thr) : Thr := { t with recIdx := 0 }

/-- A core but for its threads, its counters and the special-function pipe. -/
def coreStill (k : Core) : Core := { coreRest k with scopeMiss := 0 }

/-- The effect of the operation is still to fall. -/
structure Begun (s : State) (c : Issue) (u : State) : Prop where
  touched : Touched s c u
  regs : noReg s c u
  outer : outer u = outer s
  thr : bareThr (u.issThr c) = bareThr (s.issThr c)
  still : coreStill (u.core c.core) = coreStill (s.core c.core)
  cmds : ∀ uid va n order, heldByCmd u uid va n order = heldByCmd s uid va n order

theorem Aside.opened (h : admits s c i) : Aside c { s with issue := some c.passed } (opened s c i) := by
  obtain ⟨n, hn⟩ := core_opened s c i
  refine ⟨opened_issue s c i h.1, opened_todo s c i, fun m hm => ?_, ?_, ?_, ?_⟩
  · obtain ho | ho | ⟨k, ho⟩ := opened_cases s c i
    · rw [ho]; rfl
    · rw [ho]
    · rw [ho, core_modCore_other _ _ _ _ hm]
  · rw [hn]; rfl
  · rw [hn]; rfl
  · rw [hn]; rfl

theorem Begun.opened (h : admits s c i) (hs : threadHere s c) : Begun s c (opened s c i) := by
  have ha := Aside.opened (s := s) (i := i) h
  obtain ⟨n, hn⟩ := core_opened s c i
  exact ⟨Touched.aside (u := { s with issue := some c.passed }) ⟨rfl, rfl, hs, othersKept.refl⟩ ha, ha.regs,
    opened_view Machine.outer c (fun _ _ => rfl) (fun _ _ => rfl) s i, congrArg bareThr ha.issThr_eq, by rw [hn]; rfl,
    fun uid va n order => opened_view (fun s => heldByCmd s uid va n order) c (fun _ _ => rfl)
      (fun _ n => heldByCmd_modCore _ (fun k => { k with sfuFree := n }) (fun _ => rfl) uid va _ order) s i⟩

theorem clear.begun (h : clear s c i) : Begun s c (Machine.opened s c i) := Begun.opened h.admits h.here

theorem Begun.modCore (h : Begun s c u) (f : Core → Core) (hsettings : ∀ k, coreRegs (f k) = coreRegs k) (hslots : ∀ k, (f k).slots = k.slots)
    (hrq : ∀ k, (f k).rq = k.rq) (hstill : ∀ k, coreStill (f k) = coreStill k) (hcmds : ∀ k, (f k).commands = k.commands) :
    Begun s c (u.modCore c.core f) := by
  have ha := Aside.of_modCore (c := c) u f hsettings hslots hrq
  exact ⟨h.touched.aside ha, h.regs.trans ha.regs, h.outer, (congrArg bareThr ha.issThr_eq).trans h.thr, by rw [core_modCore, hstill, h.still],
    fun uid va n order => (heldByCmd_modCore _ f hcmds uid va n order).trans (h.cmds uid va n order)⟩

theorem Begun.countEvent (h : Begun s c u) (ev : Nat) : Begun s c (countEvent u c.core ev) :=
  h.modCore _ (fun _ => rfl) (fun _ => rfl) (fun _ => rfl) (fun _ => rfl) fun _ => rfl

theorem Begun.countScopeMiss (h : Begun s c u) : Begun s c (countScopeMiss u c.core) :=
  h.modCore _ (fun _ => rfl) (fun _ => rfl) (fun _ => rfl) (fun _ => rfl) fun _ => rfl

theorem Begun.countMissIf (h : Begun s c u) (b : Bool) : Begun s c (if b then Machine.countScopeMiss u c.core else u) := by
  cases b with
  | false => exact h
  | true => exact h.countScopeMiss

theorem Begun.useBanks (h : Begun s c u) (k n : Nat) (l : List Nat) : Begun s c (useBanks u k n l) := by
  unfold Machine.useBanks
  split
  · exact h
  · exact ⟨h.touched.aside (.of_cores rfl rfl rfl), h.regs, h.outer, h.thr, h.still, h.cmds⟩

theorem rethreaded_still (f : Thr → Thr) (u : State) : coreStill ((u.modIssThr c.passed f).core c.core) = coreStill (u.core c.core) := by
  unfold State.modIssThr
  rw [passed_core, core_modCore]
  split <;> split <;> rfl

theorem heldByCmd_modIssThr (f : Thr → Thr) (u : State) (uid va n order : Nat) :
    heldByCmd (u.modIssThr c f) uid va n order = heldByCmd u uid va n order :=
  heldByCmd_modCore _ _ (fun k => by split <;> split <;> rfl) uid va n order

theorem Begun.noteAccess (h : Begun s c u) : Begun s c (noteAccess u c.passed) := by
  have hr := rethreaded_modIssThr (fun t => { t with recIdx := t.recIdx + 1 }) h.touched.here
  exact ⟨h.touched.rethreaded hr, h.regs.trans hr.regs, h.outer, (congrArg bareThr hr.thr).trans h.thr, (rethreaded_still _ _).trans h.still,
    fun uid va n order => (heldByCmd_modIssThr _ _ uid va n order).trans (h.cmds uid va n order)⟩

/-! ## What the effect finds -/

theorem Begun.mem (h : Begun s c u) : u.mem = s.mem := (congrArg State.mem h.outer :)
theorem Begun.reqs (h : Begun s c u) : u.reqs = s.reqs := (congrArg State.reqs h.outer :)
theorem Begun.fresh (h : Begun s c u) : u.fresh = s.fresh := (congrArg State.fresh h.outer :)
theorem Begun.writesOut (h : Begun s c u) (uid : Nat) : writesOut u uid = writesOut s uid :=
  (congrArg (fun s => Machine.writesOut s uid) h.outer :)
theorem Begun.poisoned (h : Begun s c u) (key n : Nat) : poisoned u key n = poisoned s key n :=
  (congrArg (fun s => Machine.poisoned s key n) h.outer :)
theorem Begun.marksAt (h : Begun s c u) (key n : Nat) : marksAt u key n = marksAt s key n :=
  (congrArg (fun s => Machine.marksAt s key n) h.outer :)
theorem Begun.scopeLevel (h : Begun s c u) (core n : Nat) : scopeLevel u core n = scopeLevel s core n :=
  (congrArg (fun s => Machine.scopeLevel s core n) h.outer :)
theorem Begun.acqOf (h : Begun s c u) (core n : Nat) : acqOf u core n = acqOf s core n :=
  (congrArg (fun s => Machine.acqOf s core n) h.outer :)
theorem Begun.markOf (h : Begun s c u) (core : Nat) (t : Thr) (n : Nat) (b : Bool) : markOf u core t n b = markOf s core t n b :=
  (congrArg (fun s => Machine.markOf s core t n b) h.outer :)
theorem Begun.marksMeet (h : Begun s c u) (core : Nat) (a : Acq) (m : RelMark) : marksMeet u core a m = marksMeet s core a m :=
  (congrArg (fun s => Machine.marksMeet s core a m) h.outer :)
theorem Begun.sbuf (h : Begun s c u) : (u.core c.core).sbuf = (s.core c.core).sbuf := (congrArg Core.sbuf h.still :)
theorem Begun.cache (h : Begun s c u) : (u.core c.core).cache = (s.core c.core).cache := (congrArg Core.cache h.still :)

theorem Begun.nearLoadWaits (h : Begun s c u) (core uid va key n : Nat) : nearLoadWaits u core uid va key n = nearLoadWaits s core uid va key n := by
  have hhome : heldAtHome u key = heldAtHome s key := (congrArg (fun s => heldAtHome s key) h.outer :)
  have hearlier (order : Nat) : earlierStore u core key order = earlierStore s core key order :=
    (congrArg (fun s => earlierStore s core key order) h.outer :)
  unfold Machine.nearLoadWaits
  rw [h.cmds, h.fresh, hhome, hearlier]

theorem Begun.nearStoreWaits (h : Begun s c u) (core uid va key n : Nat) :
    nearStoreWaits u core uid va key n = nearStoreWaits s core uid va key n := by
  have hfifos : u.fifos = s.fifos := (congrArg State.fifos h.outer :)
  have hearlier (order : Nat) : earlierStore u core key order = earlierStore s core key order :=
    (congrArg (fun s => earlierStore s core key order) h.outer :)
  unfold Machine.nearStoreWaits
  rw [h.cmds, h.fresh, hfifos, hearlier]

/-- The checks of an access do not see the pipe. -/
theorem checkAll_opened (s : State) (c : Issue) (i : Instr) (k : AccKind) (l : List Acc) :
    checkAll (opened s c i) (issWho (opened s c i) c.passed) k l = checkAll s (issWho s c) k l := by
  refine opened_view (fun s => checkAll s (issWho s c) k l) c (fun _ _ => rfl) (fun s n => ?_) s i
  unfold checkAll placeOf badAddress badRangeV lookup bankOf issWho State.issThr
  simp only [core_modCore]
  rfl

theorem memAddr_opened (s : State) (c : Issue) (i : Instr) (sa : BitVec 6) (y : Opb) : memAddr (opened s c i) c.passed sa y = memAddr s c sa y := by
  unfold memAddr opb
  cases y with
  | _ => simp only [passed_reg, selVal_opened]

theorem issThr_opened (s : State) (c : Issue) (i : Instr) : (opened s c i).issThr c.passed = s.issThr c := by
  refine opened_view (fun s => s.issThr c) c (fun _ _ => rfl) (fun s n => ?_) s i
  unfold State.issThr
  simp only [core_modCore]

end

end Sys2Proof.Machine
end

section
/-!
PROOFS. A thread that its operation suspends (R28): what its wait leaves as it was, and the request that it waits for.
-/
namespace Sys2Proof.Machine

section
variable {s u v : State} {c : Issue} {i : Instr}

theorem Rethreaded.trans {f g : Thr → Thr} {w : State} (h : Rethreaded c f u v) (h' : Rethreaded c g v w) : Rethreaded c (fun t => g (f t)) u w :=
  ⟨h'.issue.trans h.issue, h'.todo.trans h.todo, h.kept.trans h'.kept, h.regs.trans h'.regs, h'.here, h'.thr.trans (congrArg g h.thr),
    h'.outside.trans h.outside⟩

theorem rethreaded_suspend (h : threadHere u c) (w : Wait) : Rethreaded c (fun t => { t with wait := w }) u (suspend u c.passed w) := by
  have hwait := rethreaded_modIssThr (fun t => { t with wait := w }) h
  unfold suspend
  cases he : c.entry with
  | none =>
    simp only [passed_entry, he]
    exact hwait
  | some e =>
    simp only [passed_entry, he]
    have hparked := rethreaded_modIssEntry (f := id) (fun x => { x with st := .parked }) (fun _ => rfl) (fun _ => rfl) he hwait.here
    exact (hwait.trans hparked).aside (.of_modCore _ _ (fun _ => rfl) (fun _ => rfl) fun _ => rfl) rfl

/-- A suspended thread at the end of its bundle. -/
structure Parked (s : State) (c : Issue) (u : State) (w : Wait) (t : State) : Prop where
  waits : waitsOn s c w t
  regs : noReg u c t
  mem : t.mem = u.mem
  reqs : t.reqs = u.reqs

theorem Touched.retireInto (h : Touched s c u) (hs : clear s c i) (w : Wait) : Parked s c u w (retireInto u w) := by
  have hp := rethreaded_suspend h.here w
  have hr := (h.rethreaded hp).retire hs
  have heq : Machine.retireInto u w = Machine.retire (suspend u c.passed w) := by
    unfold Machine.retireInto
    rw [h.issue]
  rw [heq]
  exact ⟨⟨by rw [hr.thr, hp.thr], hr.went⟩, hp.regs.trans hr.regs, hr.mem.trans (congrArg State.mem hp.outside :),
    hr.reqs.trans (congrArg State.reqs hp.outside :)⟩

/-! ## A request leaves -/

theorem Aside.newReq (u : State) (core uid : Nat) (parts : List (Nat × Nat × Nat)) (va pa n : Nat) (k : ReqKind) (st : Stage) (fwd : List (Nat × Byte)) :
    Aside c u (newReq u core uid parts va pa n k st fwd).2 := .of_cores rfl rfl rfl

theorem Aside.sendReq (u : State) (id : Nat) : Aside c u (sendReq u id) := by
  unfold Machine.sendReq State.modReq
  cases h : u.reqs.find id with
  | none => exact .refl
  | some r => dsimp only; split <;> exact .of_cores rfl rfl rfl

/-- A request that has left has the stage of R87 or R82, and is otherwise the one that was made. -/
theorem sendReq_find (u : State) (id : Nat) (r : Req) (h : u.reqs.find id = some r) :
    (sendReq u id).reqs.find id = some { r with stage := if looksInVisitor r then .sentVis else .sent } := by
  unfold sendReq State.modReq
  simp only [h]
  split
  · next hl => simp only [sendMsg, State.new, Map.find_put_same]
  · next hl => simp only [sendMsg, State.new, Map.find_put_same]

theorem sendReq_mem (u : State) (id : Nat) : (sendReq u id).mem = u.mem := by
  unfold sendReq State.modReq
  cases h : u.reqs.find id with
  | none => rfl
  | some r => dsimp only; split <;> rfl

/-- The new request of a thread leaves at once. -/
theorem isSent_newReq (u : State) (core uid : Nat) (parts : List (Nat × Nat × Nat)) (va pa n : Nat) (k : ReqKind) (st : Stage) (fwd : List (Nat × Byte))
    {t : State} (ht : t.reqs = (sendReq (newReq u core uid parts va pa n k st fwd).2 u.fresh).reqs) :
    isSent t u.fresh fun r => r.core = core ∧ r.pa = pa ∧ r.n = n ∧ r.parts = parts ∧ r.kind = k := by
  have hfound : (newReq u core uid parts va pa n k st fwd).2.reqs.find u.fresh = some _ := Map.find_put_same ..
  have hsent := sendReq_find _ _ _ hfound
  rw [← ht] at hsent
  exact ⟨_, hsent, rfl, rfl, rfl, rfl, rfl, rfl⟩

theorem isSent.mono {t : State} {id : Nat} {p q : Req → Prop} (h : isSent t id p) (hpq : ∀ r, p r → q r) : isSent t id q := by
  obtain ⟨r, hfind, hstage, hr⟩ := h
  exact ⟨r, hfind, hstage, hpq r hr⟩

end

end Sys2Proof.Machine
end

section
/-!
PROOFS. O26: scalar loads, beside the core and from elsewhere (R87, R96, R206, R210, R211, R212).
-/
namespace Sys2Proof.Machine

section
variable {s u v t : State} {c : Issue} {i : Instr} {f : MemForm}

/-! ## A register written -/

theorem wroteReg.trans {w : State} {r : Nat} {x : Word} (h : noReg s c u) (h' : wroteReg u c r x v) (h'' : noReg v c w) : wroteReg s c r x w := by
  obtain ⟨hreg, hvreg⟩ := h
  obtain ⟨hreg', hvreg'⟩ := h'
  obtain ⟨hreg'', hvreg''⟩ := h''
  refine ⟨fun y hy => ?_, fun y => (hvreg'' y).trans ((hvreg' y).trans (hvreg y))⟩
  rw [hreg'', hreg' y hy, hreg]

/-- A write to a scalar register of the issuing thread. -/
structure RegWritten (c : Issue) (r : Nat) (x : Word) (u v : State) : Prop where
  issue : v.issue = u.issue
  todo : v.todo = u.todo
  kept : othersKept u c v
  wrote : wroteReg u c r x v
  here : threadHere v c
  thr : v.issThr c = u.issThr c
  outside : outside v = outside u

theorem regWritten_setReg (h : threadHere u c) (r : Nat) (x : Word) : RegWritten c r x u (u.setReg c.passed r x) := by
  cases he : c.entry with
  | none =>
    obtain ⟨w, hw⟩ := exists_wave h he
    have hset : OnWave u c w (waveSet w r x) (u.setReg c.passed r x) := by
      unfold State.setReg
      rw [passed_entry, he]
      exact (OnWave.refl hw).wave (d := c.passed) (fun w => waveSet w r x) rfl rfl
    obtain ⟨hv, htrap, ht⟩ : (waveSet w r x).v = w.v ∧ trapRegs (waveSet w r x) = trapRegs w ∧ (waveSet w r x).t = w.t := by
      unfold waveSet
      split <;> exact ⟨rfl, rfl, rfl⟩
    obtain ⟨hwas, his⟩ := hset.issThr_eq he
    refine ⟨setReg_issue .., setReg_todo .., hset.kept he htrap, ⟨fun y hy => ?_, hset.vregAt_eq hv⟩, hset.here he, by rw [hwas, his, ht], hset.out⟩
    obtain ⟨hpos, hlt⟩ := hy
    rw [he] at hlt
    obtain ⟨hu, hv⟩ := hset.regAt_eq he y
    rw [hu, hv]
    exact waveGet_set w r y x hpos hlt
  | some e =>
    obtain ⟨q, hq⟩ := exists_entry h he
    have hset : OnEntry u c e q { q with fib := fibreSet q.fib r x } (u.setReg c.passed r x) := by
      unfold State.setReg
      rw [passed_entry, he]
      exact (OnEntry.refl hq).entry (d := c.passed) (fun q => { q with fib := fibreSet q.fib r x }) rfl he
    obtain ⟨hwas, his⟩ := hset.issThr_eq he
    refine ⟨setReg_issue .., setReg_todo .., hset.kept he, ⟨fun y hy => ?_, hset.vregAt_eq⟩, hset.here he, by rw [hwas, his], hset.out⟩
    obtain ⟨hpos, hlt⟩ := hy
    rw [he] at hlt
    obtain ⟨hu, hv⟩ := hset.regAt_eq he y
    rw [hu, hv]
    exact fibreGet_set q.fib r y x hpos hlt

theorem Touched.regWritten {r : Nat} {x : Word} (h : Touched s c u) (h' : RegWritten c r x u v) : Touched s c v :=
  ⟨h'.issue.trans h.issue, h'.todo.trans h.todo, h'.here, h.kept.trans h'.kept⟩

/-! ## The forms of a load -/

theorem exec_of_loadForm (h : loadForm i = some f) : exec i s = scalarLoad i (.scalar f.reg.toNat f.n f.signed) f.lax f.scope s := by
  unfold loadForm at h
  split at h <;> cases h <;> rfl

theorem accessesOf_of_loadForm (h : loadForm i = some f) (s : State) (c : Issue) : accessesOf s c i = some (.load, [f.acc s c]) := by
  unfold loadForm at h
  split at h <;> cases h <;> rfl

theorem loadForm_bytes (h : loadForm i = some f) : 0 < f.n := by
  unfold loadForm at h
  split at h <;> cases h <;> exact Nat.succ_pos _

theorem acc_opened (s : State) (c : Issue) (i : Instr) (f : MemForm) : f.acc (opened s c i) c.passed = f.acc s c := by
  unfold MemForm.acc
  rw [memAddr_opened]

/-- What a load of n bytes leaves in its register (R210). -/
theorem word_destVal (f : MemForm) (r x : Nat) (hn : 0 < f.n) : word (destVal (.scalar r f.n f.signed) x) = extended f x := by
  unfold destVal extended
  cases f.signed with
  | false =>
    apply BitVec.eq_of_toNat_eq
    simp only [Bool.false_eq_true, if_false, word, BitVec.toNat_ofNat, BitVec.toNat_setWidth, Nat.pow_mul]
  | true =>
    simp only [if_true, word, toSigned_eq _ _ (show 0 < 8 * f.n by omega), ofSigned_eq, BitVec.ofNat_toNat, BitVec.setWidth_eq]
    rfl

/-! ## The load at its issue -/

/-- The state in which a load that has passed its checks reads. -/
def loadStart (s : State) (c : Issue) (i : Instr) (pl : List (Acc × Place)) : State :=
  noteAccess (useBanks (opened s c i) (clusterOf c.core) (threadPos (opened s c i) c.core) (banksOf (pl.map (·.2)))) c.passed

theorem begun_loadStart (hs : clear s c i) (pl : List (Acc × Place)) : Begun s c (loadStart s c i pl) := by
  exact (hs.begun.useBanks ..).noteAccess

theorem exec_load (hf : loadForm i = some f) (hs : clear s c i) {p : Place}
    (hcheck : checkAll s (issWho s c) .load [f.acc s c] = .ok [(f.acc s c, p)]) :
    exec i s = .next (let x := loadAll c.passed (s.issThr c) f.lax (loadStart s c i [(f.acc s c, p)]) [(0, f.acc s c, p)]
      finishLoad c.passed (s.issThr c) x.1 x.2 (.scalar f.reg.toNat f.n f.signed) f.scope) := by
  rw [exec_of_loadForm hf, scalarLoad, start_admits _ hs.admits, accessesOf_of_loadForm hf]
  dsimp only
  rw [checkAll_opened, acc_opened, hcheck]
  dsimp only [issWho]
  rw [issThr_opened]
  rfl

/-- A load that is served beside the core is done at its issue. -/
theorem exec_nearLoad (hf : loadForm i = some f) (hs : clear s c i) {key : Nat}
    (hcheck : checkAll s (issWho s c) .load [f.acc s c] = .ok [(f.acc s c, .near key)])
    (hwaits : nearLoadWaits s c.core (s.issThr c).uid (f.acc s c).va key f.n = false) (hpoison : poisoned s key f.n = false) :
    let d := Dest.scalar f.reg.toNat f.n f.signed
    exec i s = .next (retire (acquireLocal ((loadStart s c i [(f.acc s c, .near key)]).setReg c.passed f.reg.toNat (word (destVal d (memGet s.mem key f.n))))
      c.passed f.scope [marksAt s key f.n])) := by
  have hb := begun_loadStart hs [(f.acc s c, Place.near key)]
  rw [exec_load hf hs hcheck]
  unfold loadAll
  simp only [List.foldl_cons, List.foldl_nil, loadOne, passed_core, hb.nearLoadWaits, hb.poisoned, hb.mem, hb.marksAt]
  rw [show (f.acc s c).n = f.n from rfl, hwaits]
  simp only [Bool.false_eq_true, if_false, hpoison, LoadAcc.empty, List.nil_append, Bool.or_false]
  rfl

theorem Aside.rethreaded {g : Thr → Thr} {w : State} (h : Aside c u v) (hout : outside v = outside u) (h' : Rethreaded c g v w) :
    Rethreaded c g u w :=
  ⟨h'.issue.trans h.issue, h'.todo.trans h.todo, h.kept.trans h'.kept, h.regs.trans h'.regs, h'.here, h'.thr.trans (congrArg g h.issThr_eq),
    h'.outside.trans hout⟩

theorem Aside.scopeMissed (u : State) : Aside c u (countScopeMiss u c.core) := .of_modCore _ _ (fun _ => rfl) (fun _ => rfl) fun _ => rfl

theorem Aside.counted (u : State) (ev : Nat) : Aside c u (countEvent u c.core ev) := .of_modCore _ _ (fun _ => rfl) (fun _ => rfl) fun _ => rfl

theorem Aside.scopeMissedIf (u : State) (b : Bool) : Aside c u (if b then countScopeMiss u c.core else u) := by
  cases b with
  | false => exact .refl
  | true => exact .scopeMissed u

theorem outside_countScopeMissIf (u : State) (b : Bool) : outside (if b then countScopeMiss u c.core else u) = outside u := by
  cases b <;> rfl

/-- A change of the thread beside a scope miss that its core counts. -/
theorem rethreaded_missed (h : threadHere u c) (b : Bool) (g : Thr → Thr) :
    Rethreaded c g u ((if b then countScopeMiss u c.core else u).modIssThr c.passed g) := by
  have ha := Aside.scopeMissedIf (c := c) u b
  exact ha.rethreaded (outside_countScopeMissIf u b) (rethreaded_modIssThr g (ha.here h))

/-- What the end of a load does to its thread. -/
theorem rethreaded_acquireLocal (h : threadHere u c) (acq : Option Nat) (marks : List (List RelMark)) :
    Rethreaded c (loadEnds u c.core (acq.map (acqOf u c.core)) marks).1 u (acquireLocal u c.passed acq marks) :=
  rethreaded_missed h _ _

/-- The destination of a near load holds its bytes, and its thread has come to the end of the load. -/
theorem nearLoad_loads (hf : loadForm i = some f) (hs : clear s c i) {key : Nat}
    (hcheck : checkAll s (issWho s c) .load [f.acc s c] = .ok [(f.acc s c, .near key)])
    (hwaits : nearLoadWaits s c.core (s.issThr c).uid (f.acc s c).va key f.n = false) (hpoison : poisoned s key f.n = false) :
    yields (exec i s) fun t => wroteReg s c f.reg.toNat (extended f (memGet s.mem key f.n)) t ∧ t.mem = s.mem ∧ went s c t ∧
      ∃ w th, outer w = outer s ∧ t.issThr c = (loadEnds w c.core (f.scope.map (acqOf w c.core)) [marksAt s key f.n]).1 th := by
  have hb := begun_loadStart hs [(f.acc s c, Place.near key)]
  refine ⟨_, exec_nearLoad hf hs hcheck hwaits hpoison, ?_⟩
  rw [word_destVal f _ _ (loadForm_bytes hf)]
  have hw := regWritten_setReg hb.touched.here f.reg.toNat (extended f (memGet s.mem key f.n))
  have hr := rethreaded_acquireLocal hw.here f.scope [marksAt s key f.n]
  have ht := ((hb.touched.regWritten hw).rethreaded hr).retire hs
  have hout := hr.outside.trans hw.outside
  refine ⟨wroteReg.trans hb.regs hw.wrote (hr.regs.trans ht.regs), ht.mem.trans ((congrArg State.mem hout :).trans hb.mem), ht.went,
    _, _, (congrArg outer hw.outside :).trans hb.outer, ht.thr.trans hr.thr⟩

theorem localLoads : Claims.LocalLoads := by
  intro i s c f key hf _ hs a hcheck hwaits hpoison
  obtain ⟨t, ht, hreg, hmem, hwent, -⟩ := nearLoad_loads hf hs hcheck hwaits hpoison
  exact ⟨t, ht, hreg, hmem, hwent⟩

/-- An acquire that has read no release. -/
theorem acquireThr_readFloor (fresh : Nat) (lv : Level) (t : Thr) : (acquireThr fresh lv t).readFloor = fresh := by
  cases lv <;> rfl

theorem acquireThr_locFloor (fresh : Nat) {lv : Level} (h : lv.isWide = true) (t : Thr) : (acquireThr fresh lv t).locFloor = fresh := by
  cases lv with
  | thread | core => cases h
  | cluster | die | package | system => rfl

theorem loadEnds_no_marks (w : State) (core : Nat) (a : Acq) (th : Thr) :
    (loadEnds w core (some a) [[]]).1 th = acquireThr w.fresh (levelOf w core a.scope a.set).1 th := rfl

/-- LDA loads its doubleword as it is. -/
theorem extended_doubleword (hn : f.n = 8) (hsigned : f.signed = false) (x : Nat) : extended f x = word x := by
  simp [extended, word, hn, hsigned]

theorem localAcquire : Claims.LocalAcquire := by
  intro sd sa y sc s c key hs a hcheck hwaits hpoison
  obtain ⟨t, ht, hreg, hmem, hwent, w, th, hw, hthr⟩ := nearLoad_loads (f := ⟨sd, sa, y, 8, false, false, some sc.toNat⟩) rfl hs hcheck hwaits hpoison
  refine ⟨t, ht, ?_, hmem, hwent, fun hmarks _ => ?_⟩
  · rwa [extended_doubleword rfl rfl] at hreg
  · have hfresh : w.fresh = s.fresh := (congrArg State.fresh hw :)
    have hlevel : scopeLevel w c.core sc.toNat = scopeLevel s c.core sc.toNat := (congrArg (fun s => scopeLevel s c.core sc.toNat) hw :)
    rw [hmarks] at hthr
    have hthr : t.issThr c = acquireThr w.fresh (scopeLevel w c.core sc.toNat).1 th := hthr.trans (loadEnds_no_marks ..)
    rw [hthr, hfresh, hlevel]
    exact ⟨acquireThr_readFloor .., fun hwide => acquireThr_locFloor _ hwide _⟩

/-! ## A load from elsewhere -/

/-- Everything but the requests and the messages that carry them. -/
def unsent (s : State) : State := { s with reqs := [], msgs := [], fresh := 0 }

theorem unsent_sendReq (u : State) (id : Nat) : unsent (sendReq u id) = unsent u := by
  unfold sendReq State.modReq
  cases h : Map.find u.reqs id with
  | none => rfl
  | some r => dsimp only; split <;> rfl

theorem localCopy_none {core : Nat} {th : Thr} {pa : Nat}
    (h : (u.core core).cache.find? (fun x => x.line == lineOf pa && th.locFloor ≤ x.filled) = none) : localCopy u core th pa = (none, u) := by
  have hnone : (u.core core).cache.find? (fun x => x.line == lineOf pa && copyUsable u th.locFloor ((th.lineFloors.find (lineOf pa)).getD 0) x) = none := by
    rw [List.find?_eq_none] at h ⊢
    intro x hx husable
    refine h x hx ?_
    simp only [copyUsable, Bool.and_eq_true] at husable ⊢
    obtain ⟨hline, hfilled, -⟩ := husable
    exact ⟨hline, hfilled⟩
  unfold localCopy
  rw [hnone]

/-- One far access goes out as a request of its own. -/
theorem loadAll_far {th : Thr} {lax : Bool} {a : Acc} {pa : Nat}
    (hcopy : lax = true → pwinOf pa = .hbm → (u.core c.core).cache.find? (fun x => x.line == lineOf pa && th.locFloor ≤ x.filled) = none) :
    ∃ fwd, loadAll c.passed th lax u [(0, a, .far pa)] =
      (sendReq (newReq u c.core th.uid [(0, pa, a.n)] a.va pa a.n (.load (lax && pwinOf pa == .hbm)) .buffered fwd).2 u.fresh,
        { LoadAcc.empty with out := [(0, a, pa)], reqs := [u.fresh] }) := by
  have hone : loadOne c.passed th lax (u, LoadAcc.empty) (0, a, .far pa) = (u, { LoadAcc.empty with out := [(0, a, pa)] }) := by
    unfold loadOne
    dsimp only
    split
    · next h =>
      simp only [Bool.and_eq_true, beq_iff_eq] at h
      obtain ⟨⟨⟨hlax, hwin⟩, -⟩, -⟩ := h
      rw [passed_core, localCopy_none (hcopy hlax hwin)]
      rfl
    · rfl
  unfold loadAll
  rw [List.foldl_cons, hone]
  simp only [List.foldl_nil, List.length_cons, List.length_nil, sendLoads, sameLine, List.filter_cons, beq_self_eq_true, if_true, List.filter_nil,
    List.foldl_cons, List.map_cons, List.map_nil, Nat.min_self, Nat.max_self, Nat.add_sub_cancel_left, List.nil_append]
  exact ⟨_, rfl⟩

theorem sharedLoads : Claims.SharedLoads := by
  intro i s c f pa hf hs a hcheck hcopy
  have hb := begun_loadStart hs [(a, Place.far pa)]
  obtain ⟨fwd, hload⟩ := loadAll_far (u := loadStart s c i [(a, .far pa)]) (c := c) (th := s.issThr c) (lax := f.lax) (a := a) (pa := pa)
    (by rwa [hb.cache])
  generalize hu : loadStart s c i [(a, .far pa)] = u at hb hload
  let v := sendReq (newReq u c.core (s.issThr c).uid [(0, pa, a.n)] a.va pa a.n (.load (f.lax && pwinOf pa == .hbm)) .buffered fwd).2 u.fresh
  have hv : unsent v = unsent u := unsent_sendReq _ _
  have haside : Aside c u v := (Aside.newReq ..).trans (Aside.sendReq ..)
  have hacq (n : Nat) : acqOf v c.core n = acqOf s c.core n := (congrArg (fun s => acqOf s c.core n) hv :).trans (hb.acqOf _ _)
  have hp := ((hb.touched.aside haside).aside (.counted v 4)).retireInto hs
    (.access [u.fresh] [] (.scalar f.reg.toNat f.n f.signed) (f.scope.map (acqOf v c.core)) [])
  refine ⟨_, ?_, u.fresh, ?_, ?_, (hb.regs.trans (haside.regs.trans (Aside.counted v 4).regs)).trans hp.regs, ?_⟩
  · rw [exec_load hf hs hcheck, hu, hload]
    rfl
  · rw [show acqOf s c.core = acqOf v c.core from (funext hacq).symm]
    exact hp.waits
  · refine (isSent_newReq _ _ _ _ _ _ _ _ _ _ hp.reqs).mono ?_
    rintro r ⟨hcore, hpa, hn, -, hkind⟩
    exact ⟨hcore, hpa, hn, hkind⟩
  · exact hp.mem.trans ((congrArg State.mem hv :).trans hb.mem)

end

/-- Settles O26: a load beside the core reads and ends at its issue, one from elsewhere leaves as one request. -/
theorem scalarLoads : Obligations.ScalarLoads := ⟨localLoads, localAcquire, sharedLoads⟩

end Sys2Proof.Machine
end

section
/-!
PROOFS. O27: scalar stores, the bytes they store, their waits, the store buffer (R90, R95, R208, R210, R211, R213).
-/
namespace Sys2Proof.Machine

section
variable {s u v t : State} {c : Issue} {i : Instr} {f : MemForm}

/-! ## Bytes of a number in memory -/

theorem bytesOf_eq_map (a v n : Nat) : bytesOf a v n = (List.range n).map fun k => (a + k, BitVec.ofNat 8 (v >>> (8 * k))) := by
  induction n generalizing a v with
  | zero => rfl
  | succ n ih =>
    have hshift (k : Nat) : (v / 256) >>> (8 * k) = v >>> (8 * (k + 1)) := by
      rw [Nat.mul_succ, Nat.add_comm, Nat.shiftRight_add, Nat.shiftRight_eq_div_pow v 8]
    rw [bytesOf, ih, List.range_succ_eq_map, List.map_cons, List.map_map]
    congr 1
    refine List.map_congr_left fun k _ => ?_
    simp only [Function.comp, hshift, Nat.succ_eq_add_one, Nat.add_assoc, Nat.add_comm 1 k]

/-- The bytes that a store of a register takes from it. -/
theorem bytesOf_reg (a : Nat) (v : Word) (n : Nat) : bytesOf a v.toNat n = (List.range n).map fun k => (a + k, byteAt v k) := bytesOf_eq_map ..

theorem stored_of_putAll {key n : Nat} {v : Word} (hwf : Memory.wf s.mem = true) (h : t.mem = memPutAll s.mem (bytesOf key v.toNat n)) :
    stored s key n v t := by
  intro a
  rw [h, bytesOf_reg]
  split
  · next ha =>
    refine memRead_putAll_agreed _ _ hwf (List.mem_map.mpr ⟨a - key, List.mem_range.mpr (by omega), ?_⟩) fun x hx hxa => ?_
    · rw [show key + (a - key) = a by omega]
    · obtain ⟨k, -, rfl⟩ := List.mem_map.mp hx
      rw [← hxa, Nat.add_sub_cancel_left]
  · next ha =>
    refine memRead_putAll_other _ _ _ hwf fun x hx hxa => ?_
    obtain ⟨k, hk, rfl⟩ := List.mem_map.mp hx
    have := List.mem_range.mp hk
    dsimp only at hxa
    omega

/-! ## A store that performs at its issue -/

theorem Aside.of_views (hres : residents v = residents u) (hst : standing v = standing u) : Aside c u v :=
  .of_cores (congrArg Prod.fst hres :) (congrArg Prod.fst hst :) (congrArg (fun x => x.2.1) hst :)

theorem Aside.notePast (u : State) (line : Nat) : Aside c u (notePast u c.core line) := by
  have hseen : Aside c u (if c.core < 6528 then u.new.2.modCore c.core fun k => { k with seen := k.seen.put line u.fresh } else u.new.2) := by
    have hnew : Aside c u u.new.2 := .of_cores rfl rfl rfl
    split
    · exact hnew.trans (.of_modCore _ _ (fun _ => rfl) (fun _ => rfl) fun _ => rfl)
    · exact hnew
  exact hseen.trans (.of_cores rfl rfl rfl)

/-- The performance of bytes reaches no thread. -/
theorem Aside.performBytes (u : State) (l : List (Nat × Byte)) : Aside c u (performBytes u c.core l) := by
  cases l with
  | nil => exact .refl
  | cons x l =>
    have hwindow : Aside c u (endWindow u (lineOf x.1)) := .of_views (residents_endWindow ..) (standing_endWindow ..)
    have hpast := hwindow.trans (Aside.notePast (endWindow u (lineOf x.1)) (lineOf x.1))
    refine hpast.trans (.of_views ?_ ?_)
    · unfold Machine.performBytes
      rw [residents_soil]
      exact foldl_keeps residents _ (fun s y => residents_writeOne s _ y) (x :: l) _
    · rw [standing_performBytes, standing_notePast, standing_endWindow]

theorem spadTarget_own {a k : Nat} (h : pwinOf a = .spad k) : spadTarget u k a = (a, none) := by simp [spadTarget, h]

/-- Bytes of the own scratchpad are written where they are. -/
theorem mem_writeOnes_own (k : Nat) (l : List (Nat × Byte)) (u : State) (h : ∀ x ∈ l, pwinOf x.1 = .spad k) :
    (l.foldl (fun s x => writeOne s k x) u).mem = memPutAll u.mem l := by
  induction l generalizing u with
  | nil => rfl
  | cons x l ih =>
    rw [List.foldl_cons, ih _ fun y hy => h y (List.mem_cons_of_mem _ hy), writeOne_mem, spadTarget_own (h x List.mem_cons_self)]
    rfl

theorem mem_performBytes_own (core : Nat) (l : List (Nat × Byte)) (h : ∀ x ∈ l, pwinOf x.1 = .spad (clusterOf core)) :
    (performBytes u core l).mem = memPutAll u.mem l := by
  cases l with
  | nil => rfl
  | cons x l =>
    unfold performBytes
    rw [soil_mem]
    exact (mem_writeOnes_own _ _ _ h).trans (by rw [notePast_mem, endWindow_mem])

theorem Aside.storeNear (u : State) (l : List (Nat × Byte)) (ms : List RelMark) : Aside c u (storeNear u c.core l ms) := by
  unfold Machine.storeNear
  cases l with
  | nil => exact .refl
  | cons x l =>
    dsimp only
    split
    · refine (Aside.performBytes u (x :: l)).trans ?_
      unfold putMarks
      split
      · exact .refl
      · exact .of_cores rfl rfl rfl
    · exact .of_cores rfl rfl rfl

/-- A store beside the core writes its bytes at their keys. -/
theorem mem_storeNear {key v n : Nat} (ms : List RelMark)
    (hkey : key < 2 ^ 47 → ∀ k, k < n → pwinOf (key + k) = .spad (clusterOf c.core)) :
    (storeNear u c.core (bytesOf key v n) ms).mem = memPutAll u.mem (bytesOf key v n) := by
  cases n with
  | zero => rfl
  | succ n =>
    unfold storeNear
    rw [bytesOf]
    dsimp only
    split
    · next hlow =>
      have hperform := mem_performBytes_own (u := u) c.core (bytesOf key v (n + 1)) fun x hx => by
        rw [bytesOf_eq_map] at hx
        obtain ⟨k, hk, rfl⟩ := List.mem_map.mp hx
        exact hkey hlow k (List.mem_range.mp hk)
      unfold putMarks
      split <;> exact hperform
    · rfl

/-! ## The forms of a store -/

theorem exec_of_storeForm (h : storeForm i = some f) : (f.scope = none ∧ ∀ s, exec i s = scalarStore i f.n f.reg s) ∨
    ∃ sc : BitVec 4, f.scope = some sc.toNat ∧ f.n = 8 ∧ i = .stl f.reg f.base f.off sc := by
  unfold storeForm at h
  split at h <;> cases h
  case h_5 => exact .inr ⟨_, rfl, rfl, rfl⟩
  all_goals exact .inl ⟨rfl, fun _ => rfl⟩

theorem accessesOf_of_storeForm (h : storeForm i = some f) (s : State) (c : Issue) : accessesOf s c i = some (.store, [f.acc s c]) := by
  unfold storeForm at h
  split at h <;> cases h <;> rfl

theorem storeForm_bytes (h : storeForm i = some f) : 0 < f.n := by
  unfold storeForm at h
  split at h <;> cases h <;> exact Nat.succ_pos _

/-- The state in which a plain store that has passed its checks writes. -/
def storeStart (s : State) (c : Issue) (i : Instr) (p : Place) : State :=
  useBanks (noteAccess (opened s c i) c.passed) (clusterOf c.core) (threadPos (noteAccess (opened s c i) c.passed) c.core) (banksOf [p])

theorem begun_storeStart (hs : clear s c i) (p : Place) : Begun s c (storeStart s c i p) := by
  exact hs.begun.noteAccess.useBanks ..

/-- What a plain store at a place then does. -/
def plainStore (u : State) (c : Issue) (th : Thr) (va n : Nat) (v : Word) : Place → State
  | .near key =>
    if nearStoreWaits u c.core th.uid va key n then retire (pushStore u c.core th.uid va (bytesOf key v.toNat n) none)
    else retire (storeNear u c.core (bytesOf key v.toNat n) th.fenceRel)
  | .far pa => retire (pushStore u c.core th.uid va (bytesOf pa v.toNat n) none)
  | .ident _ => u

theorem exec_scalarStore (hacc : ∀ s c, accessesOf s c i = some (.store, [f.acc s c])) (hs : clear s c i) {p : Place}
    (hcheck : checkAll s (issWho s c) .store [f.acc s c] = .ok [(f.acc s c, p)]) (n : Nat) (sd : BitVec 6) :
    scalarStore i n sd s = .next (plainStore (storeStart s c i p) c (s.issThr c) (f.acc s c).va n (c.reg sd.toNat) p) := by
  rw [scalarStore, start_admits _ hs.admits, hacc]
  dsimp only
  rw [checkAll_opened, acc_opened, hcheck]
  rw [← issThr_opened s c i]
  cases p <;> rfl

/-- The state in which an STL that has passed its checks acts. -/
def stlStart (s : State) (c : Issue) (i : Instr) (n : Nat) : State :=
  noteAccess (if (scopeLevel (opened s c i) c.core n).2 then countScopeMiss (opened s c i) c.core else opened s c i) c.passed

theorem begun_stlStart (hs : clear s c i) (n : Nat) : Begun s c (stlStart s c i n) := by
  exact (hs.begun.countMissIf _).noteAccess

/-- What an STL at a place then does, with its mark. -/
def releaseStore (u : State) (c : Issue) (uid va : Nat) (v : Word) (wide : Bool) (m : RelMark) : Place → State
  | .near key =>
    if wide then
      if writesOut u uid || nearStoreWaits u c.core uid va key 8 then
        retireInto (countEvent u c.core 4) (.release (.store (bytesOf key v.toNat 8) m))
      else retire (storeRelease u c.core uid (bytesOf key v.toNat 8) m)
    else
      if nearStoreWaits u c.core uid va key 8 then retire (pushStore u c.core uid va (bytesOf key v.toNat 8) (some m))
      else retire (storeRelease u c.core uid (bytesOf key v.toNat 8) m)
  | .far pa => retire (pushStore u c.core uid va (bytesOf pa v.toNat 8) (some m))
  | .ident _ => u

theorem exec_releaseStore {sd sa : BitVec 6} {y : Opb} {sc : BitVec 4} (hs : clear s c (.stl sd sa y sc)) {p : Place}
    (hcheck : checkAll s (issWho s c) .store [⟨0, (memAddr s c sa y).toNat, 8⟩] = .ok [(⟨0, (memAddr s c sa y).toNat, 8⟩, p)]) :
    exec (.stl sd sa y sc) s = .next (releaseStore (stlStart s c (.stl sd sa y sc) sc.toNat) c (s.issThr c).uid (memAddr s c sa y).toNat
      (c.reg sd.toNat) (scopeLevel s c.core sc.toNat).1.isWide (markOf s c.core (s.issThr c) sc.toNat false) p) := by
  have hb := hs.begun
  rw [exec_stl, execStl, start_admits _ hs.admits]
  simp only [accessesOf, memAddr_opened]
  rw [checkAll_opened, hcheck]
  rw [← issThr_opened s c (.stl sd sa y sc), ← hb.markOf, ← hb.scopeLevel]
  cases p <;> rfl

/-! ## Stores beside the core -/

theorem storeRelease_eq (u : State) (core uid : Nat) (l : List (Nat × Byte)) (m : RelMark) :
    ∃ k n b ms, storeRelease u core uid l m = storeNear (useBanks u k n b) core l ms := ⟨_, _, _, _, rfl⟩

theorem nearStore_stores (hf : storeForm i = some f) (hs : clear s c i) {key : Nat}
    (hcheck : checkAll s (issWho s c) .store [f.acc s c] = .ok [(f.acc s c, .near key)])
    (hwaits : nearStoreWaits s c.core (s.issThr c).uid (f.acc s c).va key f.n = false)
    (hrel : ∀ n, f.scope = some n → (scopeLevel s c.core n).1.isWide = false ∨ writesOut s (s.issThr c).uid = false) :
    ∃ u ms, Begun s c u ∧ exec i s = .next (retire (storeNear u c.core (bytesOf key (c.reg f.reg.toNat).toNat f.n) ms)) := by
  obtain ⟨-, hexec⟩ | ⟨sc, hscope, hn, rfl⟩ := exec_of_storeForm hf
  · have hb := begun_storeStart hs (.near key)
    refine ⟨_, (s.issThr c).fenceRel, hb, ?_⟩
    rw [hexec, exec_scalarStore (accessesOf_of_storeForm hf) hs hcheck, plainStore, hb.nearStoreWaits, hwaits]
    rfl
  · have hb := begun_stlStart hs sc.toNat
    have hacc : f.acc s c = ⟨0, (memAddr s c f.base f.off).toNat, 8⟩ := by unfold MemForm.acc; rw [hn]
    rw [hacc] at hcheck hwaits
    rw [hn] at hwaits ⊢
    obtain ⟨k, n, l, ms, heq⟩ := storeRelease_eq (stlStart s c (.stl f.reg f.base f.off sc) sc.toNat) c.core (s.issThr c).uid
      (bytesOf key (c.reg f.reg.toNat).toNat 8) (markOf s c.core (s.issThr c) sc.toNat false)
    refine ⟨_, ms, hb.useBanks k n l, ?_⟩
    rw [← heq, exec_releaseStore hs hcheck, releaseStore, hb.nearStoreWaits, hwaits, hb.writesOut]
    obtain hcore | hout := hrel _ hscope
    · simp only [hcore, Bool.false_eq_true, if_false]
    · simp only [hout, Bool.false_eq_true, if_false, Bool.or_self, ite_self]

theorem localStores : Claims.LocalStores := by
  intro i s c f key hf hs hwf a hcheck hwaits hspad hrel
  obtain ⟨u, ms, hb, hexec⟩ := nearStore_stores hf hs hcheck hwaits hrel
  have haside := Aside.storeNear (c := c) u (bytesOf key (c.reg f.reg.toNat).toNat f.n) ms
  have ht := (hb.touched.aside haside).retire hs
  have hmem := ht.mem.trans (mem_storeNear ms fun hlow => (hspad hlow).2)
  rw [hb.mem] at hmem
  exact ⟨_, hexec, stored_of_putAll hwf hmem, by rw [hmem]; exact memPutAll_wf _ _ hwf, (hb.regs.trans haside.regs).trans ht.regs, ht.went⟩

theorem localReleaseWaits : Claims.LocalReleaseWaits := by
  intro sd sa y sc s c key hs a hcheck hwide hout
  have hb := begun_stlStart hs sc.toNat
  have hp := (hb.touched.aside (.counted _ 4)).retireInto hs
    (.release (.store (bytesOf key (c.reg sd.toNat).toNat 8) (markOf s c.core (s.issThr c) sc.toNat false)))
  refine ⟨_, ?_, hp.waits, hp.mem.trans hb.mem, (hb.regs.trans (Aside.counted _ 4).regs).trans hp.regs⟩
  rw [exec_releaseStore hs hcheck, releaseStore, hwide, hb.writesOut, hout]
  rfl

/-! ## Stores to elsewhere -/

/-- A write of the core reaches its copies, and the requests that are to bring one; a core keeps all but its copies. -/
theorem updateCopy_cons (core : Nat) (x : Nat × Byte) (l : List (Nat × Byte)) (ms : List RelMark) :
    ∃ (note : Req → Req) (copies : Core → List Copy), (∀ q, refills q.kind = false → note q = q) ∧
      updateCopy u core (x :: l) ms =
        { u with reqs := u.reqs.map fun (y : Nat × Req) => (y.1, note y.2) }.modCore core fun k => { k with cache := copies k } :=
  ⟨fun q => if q.core == core && lineOf q.pa == lineOf x.1 && refills q.kind then
      { q with later := laterBytes q.later (x :: l), laterMarks := markBytes q.laterMarks (x :: l) ms } else q,
    fun k => k.cache.map fun c => if c.line == lineOf x.1 then { c with data := patchData c.data (x :: l) c.line, marks := markBytes c.marks (x :: l) ms } else c,
    fun q hq => by simp [hq], rfl⟩

theorem Aside.updateCopy (u : State) (l : List (Nat × Byte)) (ms : List RelMark) : Aside c u (updateCopy u c.core l ms) := by
  cases l with
  | nil => exact .refl
  | cons x l =>
    obtain ⟨note, copies, -, heq⟩ := updateCopy_cons (u := u) c.core x l ms
    rw [heq]
    exact (Aside.of_cores (u := u) (v := { u with reqs := u.reqs.map fun (y : Nat × Req) => (y.1, note y.2) }) rfl rfl rfl).trans
      (.of_modCore (c := c) _ (fun k => { k with cache := copies k }) (fun _ => rfl) (fun _ => rfl) fun _ => rfl)

theorem updateCopy_mem (core : Nat) (l : List (Nat × Byte)) (ms : List RelMark) : (updateCopy u core l ms).mem = u.mem := by
  cases l <;> rfl

/-- Requests that bring no copy are as they were. -/
theorem updateCopy_find (core : Nat) (l : List (Nat × Byte)) (ms : List RelMark) {id : Nat} {r : Req} (h : u.reqs.find id = some r)
    (hr : refills r.kind = false) : (updateCopy u core l ms).reqs.find id = some r := by
  cases l with
  | nil => exact h
  | cons x l =>
    obtain ⟨note, copies, hnote, heq⟩ := updateCopy_cons (u := u) core x l ms
    rw [heq]
    exact (Map.find_map note u.reqs id).trans (by rw [h, Option.map_some, hnote r hr])

theorem updateCopy_sbuf (core : Nat) (l : List (Nat × Byte)) (ms : List RelMark) : ((updateCopy u core l ms).core core).sbuf = (u.core core).sbuf := by
  cases l with
  | nil => rfl
  | cons x l =>
    obtain ⟨note, copies, -, heq⟩ := updateCopy_cons (u := u) core x l ms
    rw [heq, core_modCore]
    rfl

/-- A store that has entered the store buffer. -/
structure Pushed (u : State) (core : Nat) (l : List (Nat × Byte)) (rel : Option RelMark) (v : State) : Prop where
  mem : v.mem = u.mem
  sbuf : (v.core core).sbuf = (u.core core).sbuf ++ [u.fresh]
  req : ∃ r, v.reqs.find u.fresh = some r ∧ r.stage = .buffered ∧ r.core = core ∧ r.kind = .store l rel ∧ l.head?.map (·.1) = some r.pa

theorem pushStore_cons (core uid va : Nat) (x : Nat × Byte) (l : List (Nat × Byte)) (rel : Option RelMark) :
    ∃ ms, pushStore u core uid va (x :: l) rel = updateCopy ((newReq u core uid [] va x.1 (x :: l).length (.store (x :: l) rel) .buffered []).2.modCore core
      fun k => { k with sbuf := k.sbuf ++ [u.fresh] }) core (x :: l) ms := ⟨_, rfl⟩

theorem pushed_pushStore (core uid va : Nat) {l : List (Nat × Byte)} (hl : l ≠ []) (rel : Option RelMark) :
    Pushed u core l rel (pushStore u core uid va l rel) := by
  cases l with
  | nil => exact absurd rfl hl
  | cons x l =>
    obtain ⟨ms, heq⟩ := pushStore_cons (u := u) core uid va x l rel
    rw [heq]
    refine ⟨updateCopy_mem .., ?_, _, updateCopy_find _ _ _ (Map.find_put_same ..) rfl, rfl, rfl, rfl, rfl⟩
    rw [updateCopy_sbuf, core_modCore]
    rfl

theorem Aside.pushStore (u : State) (uid va : Nat) (l : List (Nat × Byte)) (rel : Option RelMark) : Aside c u (pushStore u c.core uid va l rel) := by
  cases l with
  | nil => exact .refl
  | cons x l =>
    obtain ⟨ms, heq⟩ := pushStore_cons (u := u) c.core uid va x l rel
    rw [heq]
    exact ((Aside.newReq ..).trans (.of_modCore (c := c) _ (fun k => { k with sbuf := k.sbuf ++ [u.fresh] }) (fun _ => rfl) (fun _ => rfl) fun _ => rfl)).trans
      (Aside.updateCopy ..)

theorem farStore_pushes (hf : storeForm i = some f) (hs : clear s c i) {pa : Nat}
    (hcheck : checkAll s (issWho s c) .store [f.acc s c] = .ok [(f.acc s c, .far pa)]) :
    ∃ u, Begun s c u ∧ exec i s = .next (retire (pushStore u c.core (s.issThr c).uid (f.acc s c).va (bytesOf pa (c.reg f.reg.toNat).toNat f.n)
      (f.scope.map fun n => markOf s c.core (s.issThr c) n false))) := by
  obtain ⟨hscope, hexec⟩ | ⟨sc, hscope, hn, rfl⟩ := exec_of_storeForm hf
  · refine ⟨_, begun_storeStart hs (.far pa), ?_⟩
    rw [hexec, exec_scalarStore (accessesOf_of_storeForm hf) hs hcheck, hscope]
    rfl
  · have hacc : f.acc s c = ⟨0, (memAddr s c f.base f.off).toNat, 8⟩ := by unfold MemForm.acc; rw [hn]
    rw [hacc] at hcheck ⊢
    refine ⟨_, begun_stlStart hs sc.toNat, ?_⟩
    rw [exec_releaseStore hs hcheck, hscope, hn]
    rfl

theorem sharedStores : Claims.SharedStores := by
  intro i s c f pa hf hs a hcheck
  obtain ⟨u, hb, hexec⟩ := farStore_pushes hf hs hcheck
  have hbytes := bytesOf_reg pa (c.reg f.reg.toNat) f.n
  obtain ⟨l, hrange⟩ : ∃ l, List.range f.n = 0 :: l := by
    obtain ⟨n, hn⟩ := Nat.exists_eq_succ_of_ne_zero (storeForm_bytes hf).ne'
    rw [hn, List.range_succ_eq_map]
    exact ⟨_, rfl⟩
  have hne : bytesOf pa (c.reg f.reg.toNat).toNat f.n ≠ [] := by
    rw [hbytes, hrange]
    exact List.cons_ne_nil _ _
  obtain ⟨hmem, hsbuf, r, hfind, hstage, hcore, hkind, hpa⟩ := pushed_pushStore (u := u) c.core (s.issThr c).uid a.va hne
    (f.scope.map fun n => markOf s c.core (s.issThr c) n false)
  have haside := Aside.pushStore (c := c) u (s.issThr c).uid a.va (bytesOf pa (c.reg f.reg.toNat).toNat f.n)
    (f.scope.map fun n => markOf s c.core (s.issThr c) n false)
  have ht := (hb.touched.aside haside).retire hs
  refine ⟨_, hexec, ⟨u.fresh, r, ?_, by rw [ht.reqs]; exact hfind, hstage, hcore, ?_, by rw [hkind, hbytes]⟩, (ht.mem.trans hmem).trans hb.mem,
    (hb.regs.trans haside.regs).trans ht.regs, ht.went⟩
  · exact (congrArg Core.sbuf ht.rest :).trans (hsbuf.trans (by rw [hb.sbuf]))
  · rw [hbytes, hrange, List.map_cons, List.head?_cons] at hpa
    exact (Option.some.inj hpa).symm

end

/-- Settles O27: a store beside the core performs at its issue, behind its release waits; one to elsewhere enters the store buffer. -/
theorem scalarStores : Obligations.ScalarStores := ⟨localStores, localReleaseWaits, sharedStores⟩

end Sys2Proof.Machine
end

section
/-!
PROOFS. O28, its FENCE and its PREF: a fence ends at its issue or waits for its release (R97, R99, R101, R219), a prefetch ends at once (R214).
-/
namespace Sys2Proof.Machine

section
variable {s u v t : State} {c : Issue} {i : Instr}

theorem Aside.rethreaded_id (h : Aside c u v) (hout : outside v = outside u) (hu : threadHere u c) : Rethreaded c id u v :=
  ⟨h.issue, h.todo, h.kept, h.regs, h.here hu, h.issThr_eq, hout⟩

/-! ## What an acquire does to its thread -/

/-- An acquire leaves the thread's wait and the FENCE.rels that its stores carry. -/
theorem acquireThr_kept (fresh : Nat) (lv : Level) (t : Thr) :
    (acquireThr fresh lv t).wait = t.wait ∧ (acquireThr fresh lv t).fenceRel = t.fenceRel := by
  cases lv <;> exact ⟨rfl, rfl⟩

/-- Floors taken over only rise, and only the copies' floors. -/
theorem raiseFloors_foldl (core : Nat) (l : List RelMark) (t : Thr) :
    let r := l.foldl (fun t m => raiseFloors core m.core m.floors t) t
    r.wait = t.wait ∧ r.fenceRel = t.fenceRel ∧ r.readFloor = t.readFloor ∧ t.locFloor ≤ r.locFloor := by
  induction l generalizing t with
  | nil => exact ⟨rfl, rfl, rfl, Nat.le_refl _⟩
  | cons m l ih =>
    obtain ⟨hwait, hrel, hread, hloc⟩ := ih (raiseFloors core m.core m.floors t)
    refine ⟨hwait, hrel, hread, Nat.le_trans ?_ hloc⟩
    unfold raiseFloors
    dsimp only
    split
    · exact Nat.le_max_left ..
    · exact Nat.le_refl _

/-- What the acquire of a FENCE at scope n does to its thread. -/
def fenceAcquireThr (u : State) (core n : Nat) (seen : List RelMark) (t : Thr) : Thr :=
  let x := match (acquireOutcome u core (acqOf u core n) seen).1 with | some f => f t | none => t
  { x with fenceSeen := t.fenceSeen.filter fun m => !marksMeet u core (acqOf u core n) m
           readFloor := if (scopeLevel u core n).1.isWide then x.readFloor else t.readFloor }

theorem fenceAcquireThr_kept (core n : Nat) (seen : List RelMark) (t : Thr) :
    (fenceAcquireThr u core n seen t).wait = t.wait ∧ (fenceAcquireThr u core n seen t).fenceRel = t.fenceRel := by
  unfold fenceAcquireThr acquireOutcome
  dsimp only
  split
  · next f hf =>
    split at hf
    · cases hf
    · obtain rfl := Option.some.inj hf
      obtain ⟨hwait, hrel, -⟩ := raiseFloors_foldl core (seen.filter (marksMeet u core (acqOf u core n))) (acquireFn u core (acqOf u core n) t)
      obtain ⟨hwait', hrel'⟩ := acquireThr_kept u.fresh (scopeLevel u core n).1 t
      exact ⟨hwait.trans hwait', hrel.trans hrel'⟩
  · exact ⟨rfl, rfl⟩

/-- An acquire beyond the core that no read release, or one that meets it, asks for: the copies filled so far are set aside. -/
theorem fenceAcquireThr_floors {core n : Nat} {seen : List RelMark} (t : Thr) (hwide : (scopeLevel u core n).1.isWide = true)
    (hseen : seen = [] ∨ ∃ m ∈ seen, marksMeet u core (acqOf u core n) m = true) :
    u.fresh ≤ (fenceAcquireThr u core n seen t).locFloor ∧ (fenceAcquireThr u core n seen t).readFloor = u.fresh := by
  have hmet : (!seen.isEmpty && (seen.filter (marksMeet u core (acqOf u core n))).isEmpty) = false := by
    obtain rfl | ⟨m, hm, hmeet⟩ := hseen
    · rfl
    · have hne := List.ne_nil_of_mem (List.mem_filter.mpr ⟨hm, hmeet⟩)
      rw [List.isEmpty_eq_false_iff.mpr hne, Bool.and_false]
  obtain ⟨-, -, hread, hloc⟩ := raiseFloors_foldl core (seen.filter (marksMeet u core (acqOf u core n))) (acquireFn u core (acqOf u core n) t)
  have hread' : (acquireFn u core (acqOf u core n) t).readFloor = u.fresh := acquireThr_readFloor ..
  have hloc' : (acquireFn u core (acqOf u core n) t).locFloor = u.fresh := acquireThr_locFloor _ hwide t
  unfold fenceAcquireThr acquireOutcome
  simp only [hmet, Bool.false_eq_true, if_false, hwide, if_true]
  exact ⟨hloc' ▸ hloc, hread.trans hread'⟩

/-! ## FENCE -/

theorem fenceAcquire_eq (u : State) (c : Issue) (n : Nat) :
    fenceAcquire u c.passed n = (if (acquireOutcome u c.core (acqOf u c.core n) (u.issThr c).fenceSeen).2 then countScopeMiss u c.core else u).modIssThr
      c.passed (fenceAcquireThr u c.core n (u.issThr c).fenceSeen) := by
  unfold fenceAcquire fenceAcquireThr
  dsimp only
  rw [passed_core, show u.issThr c.passed = u.issThr c from rfl]
  split <;> rfl

/-- What the acquire of a FENCE, if it has one, does to its thread. -/
def fenceThr (u : State) (core : Nat) (o : Ord) (n : Nat) (seen : List RelMark) : Thr → Thr :=
  if ordAcq o then fenceAcquireThr u core n seen else id

theorem fenceThr_kept (core : Nat) (o : Ord) (n : Nat) (seen : List RelMark) (t : Thr) :
    (fenceThr u core o n seen t).wait = t.wait ∧ (fenceThr u core o n seen t).fenceRel = t.fenceRel := by
  unfold fenceThr
  split
  · exact fenceAcquireThr_kept ..
  · exact ⟨rfl, rfl⟩

/-- The state once the acquire of a FENCE, if it has one, is over. -/
def fenceAcquired (u : State) (c : Issue) (o : Ord) (n : Nat) : State :=
  if ordAcq o then fenceAcquire u c n else if (scopeLevel u c.core n).2 then countScopeMiss u c.core else u

theorem rethreaded_fenceAcquired (h : threadHere u c) (o : Ord) (n : Nat) :
    Rethreaded c (fenceThr u c.core o n (u.issThr c).fenceSeen) u (fenceAcquired u c.passed o n) := by
  unfold fenceAcquired fenceThr
  split
  · rw [fenceAcquire_eq]
    exact rethreaded_missed h _ _
  · exact (Aside.scopeMissedIf u _).rethreaded_id (outside_countScopeMissIf u _) h

theorem exec_fence_eq {o : Ord} {sc : BitVec 4} (hs : clear s c (.fence o sc)) :
    let n := sc.toNat
    let u := fenceAcquired (opened s c (.fence o sc)) c.passed o n
    let m := markOf s c.core (s.issThr c) n true
    exec (.fence o sc) s = .next (
      if ordRel o = false ∨ (scopeLevel s c.core n).1.isWide = false ∨ writesOut s (s.issThr c).uid = false then
        retire (u.modIssThr c.passed (fenceEnd u.fresh (ordRel o) (o == .ar && (scopeLevel s c.core n).1.isWide) m))
      else retireInto (countEvent u c.core 4) (.release (.fence m (ordAcq o)))) := by
  have hb := hs.begun
  have hdone : (!ordRel o || releaseDone (opened s c (.fence o sc)) c.core (s.issThr c).uid sc.toNat) = true ↔
      (ordRel o = false ∨ (scopeLevel s c.core sc.toNat).1.isWide = false ∨ writesOut s (s.issThr c).uid = false) := by
    unfold releaseDone
    rw [hb.scopeLevel, hb.writesOut]
    simp only [Bool.or_eq_true, Bool.not_eq_true']
  intro n u m
  rw [exec_fence, execFence, start_admits _ hs.admits]
  dsimp only
  rw [issThr_opened, passed_core, hb.markOf]
  simp only [hdone]
  congr 1
  split
  · have hwide : (scopeLevel (opened s c (.fence o sc)) c.core sc.toNat).1 = (scopeLevel s c.core sc.toNat).1 := by rw [hb.scopeLevel]
    exact congrArg (fun l => retire (u.modIssThr c.passed (fenceEnd u.fresh (ordRel o) (o == .ar && l.isWide) m))) hwide
  · rfl

theorem fences : Claims.Fences := by
  intro s c o sc hs ends
  have hb := hs.begun
  have hthr : (opened s c (.fence o sc)).issThr c = s.issThr c := issThr_opened ..
  have hr := rethreaded_fenceAcquired hb.touched.here o sc.toNat
  rw [hthr] at hr
  have hexec := exec_fence_eq hs
  dsimp only at hexec
  generalize fenceAcquired (opened s c (.fence o sc)) c.passed o sc.toNat = u at hr hexec
  have hfresh : u.fresh = s.fresh := (congrArg State.fresh hr.outside :).trans hb.fresh
  obtain ⟨hwait, hrel⟩ := fenceThr_kept (u := opened s c (.fence o sc)) c.core o sc.toNat (s.issThr c).fenceSeen (s.issThr c)
  have hmem : u.mem = s.mem := (congrArg State.mem hr.outside :).trans hb.mem
  refine ⟨fun h => ?_, fun h => ?_⟩
  · have hend := rethreaded_modIssThr (fenceEnd u.fresh (ordRel o) (o == .ar && (scopeLevel s c.core sc.toNat).1.isWide)
      (markOf s c.core (s.issThr c) sc.toNat true)) hr.here
    have ht := ((hb.touched.rethreaded hr).rethreaded hend).retire hs
    have hlast := ht.thr.trans (hend.thr.trans (by rw [hr.thr, hthr]))
    refine ⟨_, by rw [hexec, if_pos h], ht.went, ((hb.regs.trans hr.regs).trans hend.regs).trans ht.regs,
      (ht.mem.trans (congrArg State.mem hend.outside :)).trans hmem,
      ?_, fun ho => ?_, fun ho => ?_, fun ho hwide => ?_, fun ho hwide hseen => ?_⟩
    · rw [hlast]
      exact hwait
    · rw [hlast, fenceEnd, ho, ← hrel]
      rfl
    · rw [hlast, fenceEnd, ho, ← hrel]
      rfl
    · rw [hlast, fenceEnd, ho, hwide, hfresh]
      rfl
    · obtain ⟨hloc, hread⟩ := fenceAcquireThr_floors (u := opened s c (.fence o sc)) (s.issThr c) (by rwa [hb.scopeLevel])
        (by simpa only [hb.acqOf, hb.marksMeet] using hseen)
      rw [hb.fresh] at hloc hread
      rw [hlast, fenceThr, if_pos ho, fenceEnd, hfresh]
      refine ⟨hloc, ?_⟩
      dsimp only
      split
      · rfl
      · exact hread
  · have hp := ((hb.touched.rethreaded hr).aside (.counted u 4)).retireInto hs (.release (.fence (markOf s c.core (s.issThr c) sc.toNat true) (ordAcq o)))
    exact ⟨_, by rw [hexec, if_neg h], hp.waits, ((hb.regs.trans hr.regs).trans (Aside.counted u 4).regs).trans hp.regs, hp.mem.trans hmem⟩

/-! ## PREF -/

/-- An operation ends whose effect fell beside its thread, and that has raised no flag. -/
theorem Beside.retire (h : Beside s c u) (hs : clear s c i) : noReg s c (Machine.retire u) ∧ completed u c 0 (Machine.retire u) := by
  obtain ⟨⟨hregs, hvregs⟩, hdone⟩ := none_done (h.runs hs)
  exact ⟨⟨fun x => (hregs x).trans (h.regAt_eq x), fun x => (hvregs x).trans (h.vregAt_eq x)⟩, hdone⟩

/-- What a prefetch that ends leaves. -/
theorem Beside.prefetched (h : Beside s c u) (hs : clear s c i) (hmem : u.mem = s.mem) :
    let t := Machine.retire u
    noReg s c t ∧ t.mem = s.mem ∧ t.todo = s.todo ∧ (t.issThr c).wait = (s.issThr c).wait ∧ (lastOp s → pcAt t c = c.next ∧ t.issue = none) := by
  obtain ⟨hregs, honly, htodo, hlast, -⟩ := h.retire hs
  obtain ⟨hout, -⟩ := id honly
  refine ⟨hregs, (congrArg State.mem hout :).trans hmem, htodo.trans h.todo, ?_, fun hl => ?_⟩
  · rw [issThr_of_threadOnly honly, h.issThr_eq]
  · obtain ⟨hpc, -, hissue⟩ := hlast (h.todo.trans hl)
    exact ⟨hpc, hissue⟩

/-- A change of the micro-TLB and what lies outside the cores. -/
theorem Beside.sendReq (h : Beside s c u) (id : Nat) : Beside s c (sendReq u id) := by
  have ha := Aside.sendReq (c := c) u id
  exact ⟨ha.issue.trans h.issue, ha.todo.trans h.todo, ha.slots.trans h.slots, fun e he => by rw [ha.rq]; exact h.rq e he⟩

theorem Beside.prefLook (h : Beside s c u) (w : Who) (hw : w.core = c.core) (k : AccKind) (va : Nat) :
    Beside s c (prefLook u w k va).2 ∧ (prefLook u w k va).2.mem = u.mem := by
  unfold Machine.prefLook
  split
  · exact ⟨h, rfl⟩
  · split
    · exact ⟨h, rfl⟩
    · next e he =>
      have hcore : ((microFill u w.core e).core c.core).slots = (u.core c.core).slots ∧ ((microFill u w.core e).core c.core).rq = (u.core c.core).rq := by
        unfold microFill
        rw [hw]
        dsimp only
        rw [core_modCluster, core_modCore]
        exact ⟨rfl, rfl⟩
      obtain ⟨hslots, hrq⟩ := hcore
      exact ⟨⟨h.issue, h.todo, hslots.trans h.slots, fun e he => by dsimp only; rw [hrq]; exact h.rq e he⟩, rfl⟩

theorem prefetches : Claims.Prefetches := by
  intro s c sa y lax hs
  have hopen := Beside.opened (s := s) (i := .pref sa y lax) hs.admits
  have hmem := opened_mem s c (.pref sa y lax)
  rw [exec_pref, execPref, start_admits _ hs.admits]
  refine ⟨_, rfl, ?_⟩
  dsimp only
  split
  · exact hopen.prefetched hs hmem
  · obtain ⟨hb, hlook⟩ := hopen.prefLook (issWho (opened s c (.pref sa y lax)) c.passed) rfl .load
      (memAddr (opened s c (.pref sa y lax)) c.passed sa y).toNat
    rw [hmem] at hlook
    split
    · exact hb.prefetched hs hlook
    · split
      · exact hb.prefetched hs hlook
      · refine Beside.prefetched (Beside.sendReq ?_ _) hs ((sendReq_mem _ _).trans hlook)
        exact ⟨hb.issue, hb.todo, hb.slots, hb.rq⟩

end

end Sys2Proof.Machine
end

section
/-!
PROOFS. The reply to a thread that stands on its core: what its registers hold as its copies, its marks and its wait change (R30, R82, R99).
-/
namespace Sys2Proof.Machine

section
variable {s t u v : State} {core : Nat} {th y : Thr}

/-! ## Registers of a thread that stands -/

theorem regOfUid_putEntry {k : Core} {uid e : Nat} {x x' : RqEntry} (huid : entryOfUid k uid = some e) (hentry : k.rq.find e = some x)
    (hx : x.t.uid = uid) (hx' : x'.t.uid = uid) (r : Nat) :
    regOfUid (s.setCore core { k with rq := k.rq.put e x' }) core uid r = fibreGet x'.fib r := by
  have hkey : entryOfUid { k with rq := k.rq.put e x' } uid = some e :=
    Map.key_find?_put (p := fun y : RqEntry => y.t.uid == uid) huid hentry (beq_iff_eq.mpr hx) (beq_iff_eq.mpr hx')
  unfold regOfUid
  rw [core_setCore, hkey]
  dsimp only
  rw [Map.find_put_same]

theorem regOfUid_putSlot {k : Core} {uid n : Nat} {w w' : Wave} (hnone : entryOfUid k uid = none) (huid : slotOfUid k uid = some n)
    (hslot : k.slots.find n = some w) (hw : w.t.uid = uid) (hw' : w'.t.uid = uid) (r : Nat) :
    regOfUid (s.setCore core { k with slots := k.slots.put n w' }) core uid r = waveGet w' r := by
  have hkey : slotOfUid { k with slots := k.slots.put n w' } uid = some n :=
    Map.key_find?_put (p := fun y : Wave => y.t.uid == uid) huid hslot (beq_iff_eq.mpr hw) (beq_iff_eq.mpr hw')
  have hnone' : entryOfUid { k with slots := k.slots.put n w' } uid = none := hnone
  unfold regOfUid
  rw [core_setCore, hnone', hkey]
  dsimp only
  rw [Map.find_put_same]

/-- A change of the thread leaves its registers. -/
theorem regOfUid_modThr (h : Stands (s.core core) th) {f : Thr → Thr} (hf : (f th).uid = th.uid) (r : Nat) :
    regOfUid (s.modThr core th.uid f) core th.uid r = regOfUid s core th.uid r := by
  cases h with
  | fibre e x huid hentry hthr =>
    subst hthr
    have hput := regOfUid_putEntry (s := s) (core := core) (x' := { x with t := f x.t }) huid hentry rfl hf r
    simp only [State.modThr, huid, State.modCore, hentry, hput]
    simp only [regOfUid, huid, hentry]
  | wave n w hnone huid hslot hthr howed =>
    subst hthr
    have hput := regOfUid_putSlot (s := s) (core := core) (w' := { w with t := f w.t }) hnone huid hslot rfl hf r
    simp only [State.modThr, hnone, State.modWaveUid, huid, State.modCore, hslot, hput]
    simp only [regOfUid, hnone, huid, hslot]
    rfl

/-- A write of a register that the thread has. -/
theorem setRegUid_stands (h : Stands (s.core core) th) {r : Nat} (hr : uidHasReg s core th.uid r) (x : Word) :
    NowStands s core th (s.setRegUid core th.uid r x) ∧ regOfUid (s.setRegUid core th.uid r x) core th.uid r = x := by
  obtain ⟨hpos, hlt⟩ := hr
  cases h with
  | fibre e q huid hentry hthr =>
    subst hthr
    rw [huid] at hlt
    have hput := regOfUid_putEntry (s := s) (core := core) (x' := { q with fib := fibreSet q.fib r x }) huid hentry rfl rfl r
    have heq : s.setRegUid core q.t.uid r x = s.setCore core { s.core core with rq := (s.core core).rq.put e { q with fib := fibreSet q.fib r x } } := by
      simp only [State.setRegUid, huid, State.modCore, hentry]
    rw [heq]
    refine ⟨⟨_, rfl, rfl, Stands.putEntry (x' := { q with fib := fibreSet q.fib r x }) huid hentry rfl⟩, hput.trans ?_⟩
    rw [fibreGet_set _ _ _ _ hpos hlt, if_pos rfl]
  | wave n w hnone huid hslot hthr howed =>
    subst hthr
    rw [hnone] at hlt
    obtain ⟨ht, ho⟩ : (waveSet w r x).t = w.t ∧ (waveSet w r x).owed = w.owed := by unfold waveSet; split <;> exact ⟨rfl, rfl⟩
    have hput := regOfUid_putSlot (s := s) (core := core) (w' := waveSet w r x) hnone huid hslot rfl (congrArg Thr.uid ht) r
    have heq : s.setRegUid core w.t.uid r x = s.setCore core { s.core core with slots := (s.core core).slots.put n (waveSet w r x) } := by
      simp only [State.setRegUid, hnone, State.modWaveUid, huid, State.modCore, hslot]
    rw [heq]
    have hstands := Stands.putSlot (w' := waveSet w r x) hnone huid hslot (congrArg Thr.uid ht) (ho.trans howed)
    rw [ht] at hstands
    refine ⟨⟨_, rfl, rfl, hstands⟩, hput.trans ?_⟩
    rw [waveGet_set _ _ _ _ hpos hlt, if_pos rfl]

/-- A resumed thread keeps its registers. -/
theorem regOfUid_resume (h : Stands (s.core core) th) (r : Nat) : regOfUid (s.resume core th.uid) core th.uid r = regOfUid s core th.uid r := by
  have hwait := regOfUid_modThr h (f := fun t => { t with wait := .none, since := s.clk + 1 }) rfl r
  have hnow := (modThr_stands h (f := fun t => { t with wait := .none, since := s.clk + 1 }) rfl).stands
  refine Eq.trans ?_ hwait
  unfold State.resume
  dsimp only
  generalize s.modThr core th.uid (fun t => { t with wait := .none, since := s.clk + 1 }) = u at hnow
  have hnow' := hnow
  cases hnow with
  | fibre e x huid hentry hthr =>
    have huid : entryOfUid (u.core core) th.uid = some e := huid
    have hx : x.t.uid = th.uid := by rw [hthr]
    have hput := regOfUid_putEntry (s := u) (core := core) (x' := { x with st := .ready (readyRank u e) }) huid hentry hx hx r
    simp only [huid, State.modCore, hentry, hput]
    simp only [regOfUid, huid, hentry]
  | wave n w hnone huid hslot hthr howed =>
    have hnone : entryOfUid (u.core core) th.uid = none := hnone
    simp only [hnone]
    rw [payOwed_stands (th := { th with wait := .none, since := s.clk + 1 }) hnow' hnone]

/-! ## What a reply leaves alone -/

/-- Memory, the waves, the run queues and the saved images stand. -/
structure ThreadsKept (u v : State) : Prop where
  mem : v.mem = u.mem
  clusters : v.clusters = u.clusters
  slots : ∀ n, (v.core n).slots = (u.core n).slots
  rq : ∀ n, (v.core n).rq = (u.core n).rq

theorem ThreadsKept.refl : ThreadsKept u u := ⟨rfl, rfl, fun _ => rfl, fun _ => rfl⟩

theorem ThreadsKept.trans {w : State} (h : ThreadsKept u v) (h' : ThreadsKept v w) : ThreadsKept u w :=
  ⟨h'.mem.trans h.mem, h'.clusters.trans h.clusters, fun n => (h'.slots n).trans (h.slots n), fun n => (h'.rq n).trans (h.rq n)⟩

theorem ThreadsKept.of_cores (hmem : v.mem = u.mem) (hclusters : v.clusters = u.clusters) (hcores : v.cores = u.cores) : ThreadsKept u v := by
  have hcore (n : Nat) : v.core n = u.core n := by unfold State.core; rw [hcores]
  exact ⟨hmem, hclusters, fun n => by rw [hcore], fun n => by rw [hcore]⟩

theorem ThreadsKept.modCore (u : State) (m : Nat) (f : Core → Core) (hslots : ∀ k, (f k).slots = k.slots) (hrq : ∀ k, (f k).rq = k.rq) :
    ThreadsKept u (u.modCore m f) := by
  have hcore (n : Nat) : ((u.modCore m f).core n).slots = (u.core n).slots ∧ ((u.modCore m f).core n).rq = (u.core n).rq := by
    by_cases h : n = m
    · subst h
      rw [core_modCore]
      exact ⟨hslots _, hrq _⟩
    · rw [core_modCore_other _ _ _ _ h]
      exact ⟨rfl, rfl⟩
  exact ⟨rfl, rfl, fun n => (hcore n).1, fun n => (hcore n).2⟩

theorem ThreadsKept.stands (h : ThreadsKept u v) (hu : Stands (u.core core) th) : Stands (v.core core) th := hu.congr (h.slots core) (h.rq core)

theorem ThreadsKept.entryOfUid_eq (h : ThreadsKept u v) (core uid : Nat) : entryOfUid (v.core core) uid = entryOfUid (u.core core) uid := by
  unfold entryOfUid
  rw [h.rq]

theorem ThreadsKept.hasReg {uid r : Nat} (h : ThreadsKept u v) (hu : uidHasReg u core uid r) : uidHasReg v core uid r := by
  unfold uidHasReg at *
  rwa [h.entryOfUid_eq]

theorem threadsKept_fillVisitor (u : State) (die line n : Nat) (d : List Byte) (ms : Map (Nat × List RelMark)) :
    ThreadsKept u (fillVisitor u die line n d ms) := by
  unfold fillVisitor
  dsimp only
  split
  · exact .refl
  · split <;> exact .of_cores rfl rfl rfl

theorem threadsKept_fillLocal (u : State) (m line n : Nat) (d : List Byte) (ms : Map (Nat × List RelMark)) :
    ThreadsKept u (fillLocal u m line n d ms) := by
  have hnew : ThreadsKept u u.new.2 := .of_cores rfl rfl rfl
  unfold fillLocal
  dsimp only
  refine hnew.trans (.modCore _ _ _ (fun k => ?_) fun k => ?_) <;> split <;> rfl

theorem threadsKept_fillCopies (u : State) (r : Req) : ThreadsKept u (fillCopies u r) := by
  unfold fillCopies
  split
  · exact .refl
  · dsimp only
    split
    · exact threadsKept_fillVisitor ..
    · exact (threadsKept_fillVisitor ..).trans (threadsKept_fillLocal ..)

/-- A reply changes copies alone. -/
theorem threadsKept_takeReply (u : State) (id : Nat) : ThreadsKept u (takeReply u id) := by
  unfold takeReply
  split
  · exact .refl
  · next r _ =>
    have hdrop : ThreadsKept u (u.dropReq id) := .of_cores rfl rfl rfl
    dsimp only
    split
    · exact hdrop.trans (threadsKept_fillCopies _ r)
    · split
      · exact hdrop
      · exact hdrop.trans (.modCore _ _ _ (fun _ => rfl) fun _ => rfl)
    · split
      · exact hdrop
      · exact hdrop.trans (.modCore _ _ _ (fun _ => rfl) fun _ => rfl)
    · exact hdrop

/-! ## A thread followed through changes -/

/-- Thread th of u is thread y of v, where it stands with the same registers. -/
structure Follows (u : State) (core : Nat) (th : Thr) (v : State) (y : Thr) : Prop where
  stands : Stands (v.core core) y
  uid : y.uid = th.uid
  mem : v.mem = u.mem
  regs : ∀ r, regOfUid v core th.uid r = regOfUid u core th.uid r
  has : ∀ r, uidHasReg u core th.uid r → uidHasReg v core th.uid r

theorem Follows.trans {w : State} {z : Thr} (h : Follows u core th v y) (h' : Follows v core y w z) : Follows u core th w z := by
  obtain ⟨-, huid, hmem, hregs, hhas⟩ := h
  obtain ⟨hstands', huid', hmem', hregs', hhas'⟩ := h'
  rw [huid] at huid' hregs' hhas'
  exact ⟨hstands', huid', hmem'.trans hmem, fun r => (hregs' r).trans (hregs r), fun r hr => hhas' r (hhas r hr)⟩

theorem ThreadsKept.follows (h : ThreadsKept u v) (hu : Stands (u.core core) th) : Follows u core th v th := by
  refine ⟨h.stands hu, rfl, h.mem, fun r => ?_, fun _ => h.hasReg⟩
  unfold regOfUid slotOfUid
  rw [h.entryOfUid_eq, h.slots, h.rq, State.cluster, State.cluster, h.clusters]

theorem entryOfUid_modThr (h : Stands (u.core core) th) {f : Thr → Thr} (hf : (f th).uid = th.uid) :
    entryOfUid ((u.modThr core th.uid f).core core) th.uid = entryOfUid (u.core core) th.uid := by
  cases h with
  | fibre e x huid hentry hthr =>
    subst hthr
    simp only [State.modThr, huid, core_modCore, hentry]
    exact Map.key_find?_put (p := fun y : RqEntry => y.t.uid == x.t.uid) huid hentry (beq_self_eq_true _) (beq_iff_eq.mpr hf)
  | wave n w hnone huid hslot hthr howed =>
    subst hthr
    simp only [State.modThr, hnone, State.modWaveUid, huid, core_modCore, hslot]
    exact hnone

theorem follows_modThr (h : Stands (u.core core) th) {f : Thr → Thr} (hf : (f th).uid = th.uid) :
    Follows u core th (u.modThr core th.uid f) (f th) := by
  have hnow := modThr_stands h hf
  obtain ⟨hmem, -⟩ := hnow.frame
  refine ⟨hnow.stands, hf, hmem, regOfUid_modThr h hf, fun r hr => ?_⟩
  unfold uidHasReg at *
  rwa [entryOfUid_modThr h hf]

theorem noteFences_uid (ms : List (List RelMark)) (t : Thr) : (noteFences ms t).uid = t.uid := by
  unfold noteFences
  dsimp only
  split <;> rfl

/-- The end of a load, and of its acquire, is the same thread's. -/
theorem loadEnds_uid (core : Nat) (acq : Option Acq) (ms : List (List RelMark)) (t : Thr) : ((loadEnds u core acq ms).1 t).uid = t.uid := by
  unfold loadEnds
  cases acq with
  | none => exact noteFences_uid ms t
  | some a =>
    dsimp only
    rw [List.foldl_map]
    refine (foldl_keeps Thr.uid _ (fun t m => ?_) _ _).trans (noteFences_uid ms t)
    unfold acquireOutcome
    dsimp only
    split
    · next f hf =>
      split at hf
      · cases hf
      · obtain rfl := Option.some.inj hf
        have hfloors : (acquireFn u core a t).uid = t.uid := by
          unfold acquireFn acquireThr
          split <;> rfl
        exact (foldl_keeps Thr.uid (fun t (m : RelMark) => raiseFloors core m.core m.floors t) (fun _ _ => rfl) _ _).trans hfloors
    · rfl

theorem follows_acquireMarks (h : Stands (u.core core) th) (acq : Option Acq) (ms : List (List RelMark)) :
    ∃ y, Follows u core th (acquireMarks u core th.uid acq ms) y := by
  have hmiss : ThreadsKept u (if (loadEnds u core acq ms).2 then countScopeMiss u core else u) := by
    split
    · exact .modCore _ _ _ (fun _ => rfl) fun _ => rfl
    · exact .refl
  exact ⟨_, (hmiss.follows h).trans (follows_modThr (hmiss.stands h) (loadEnds_uid core acq ms th))⟩

/-- A thread whose destination takes a value, and that goes on. -/
theorem goesOn_written (h : Follows u core th v y) {r : Nat} (hr : uidHasReg u core th.uid r) (x : Word) {w : State}
    (hw : Stands ((v.setRegUid core th.uid r x).core core) y → ∃ z, Follows (v.setRegUid core th.uid r x) core y w z) :
    nowWaits (w.resume core th.uid) core th.uid .none ∧ regOfUid (w.resume core th.uid) core th.uid r = x ∧ (w.resume core th.uid).mem = u.mem := by
  obtain ⟨hnow, hreg⟩ := setRegUid_stands h.stands (h.uid ▸ h.has r hr) x
  rw [h.uid] at hnow hreg
  obtain ⟨hmem, -⟩ := hnow.frame
  obtain ⟨z, hfollow⟩ := hw hnow.stands
  have huid : z.uid = th.uid := hfollow.uid.trans h.uid
  obtain ⟨z', hz, hzuid, hzwait⟩ := resume_stands hfollow.stands
  have hkept := regOfUid_resume hfollow.stands r
  have hsame := hfollow.regs r
  rw [huid] at hz hzuid hkept
  rw [h.uid] at hsame
  obtain ⟨hzmem, -⟩ := hz.frame
  exact ⟨hzwait ▸ nowWaits_of_stands hz.stands hzuid, hkept.trans (hsame.trans hreg), hzmem.trans (hfollow.mem.trans (hmem.trans h.mem))⟩

end

end Sys2Proof.Machine
end

section
/-!
PROOFS. O28, its WAITLINE: it asks for its doubleword, and ends with the reply that brings another value (R193, R206).
-/
namespace Sys2Proof.Machine

section
variable {s u v t : State} {c : Issue} {i : Instr} {core : Nat} {th : Thr}

/-! ## The request -/

theorem word_toNat (v : Word) : word v.toNat = v := by simp [word]

theorem exec_waitline_eq {sd sa : BitVec 6} {b : BitVec 8} {pa : Nat} (hs : clear s c (.waitline sd sa b))
    (hcheck : checkAll s (issWho s c) .waitline [⟨0, (c.reg sa.toNat).toNat, 8⟩] = .ok [(⟨0, (c.reg sa.toNat).toNat, 8⟩, .far pa)]) :
    let u := noteAccess (opened s c (.waitline sd sa b)) c.passed
    ∃ fwd, exec (.waitline sd sa b) s = .next (retireInto (countEvent (sendReq (newReq u c.core (s.issThr c).uid [(0, pa, 8)] (c.reg sa.toNat).toNat pa 8
      .watch .buffered fwd).2 u.fresh) c.core 4) (.waitline sd.toNat (c.reg sa.toNat) pa (selVal s c b) (some u.fresh))) := by
  intro u
  rw [exec_waitline, execWaitline, start_admits _ hs.admits]
  simp only [accessesOf, selVal_opened, passed_reg]
  rw [checkAll_opened, hcheck]
  dsimp only
  rw [← issThr_opened s c (.waitline sd sa b), word_toNat]
  exact ⟨_, rfl⟩

/-! ## The reply -/

theorem replies_whole {id n : Nat} {r : Req} (hfind : u.reqs.find id = some r) (hparts : r.parts = [(0, r.pa, n)]) (hpoison : r.poison = false) :
    replies u [id] = ([(0, replyVal r % 256 ^ n)], [r.marks ++ r.fwdMarks], false) := by
  simp [replies, hfind, replyParts, hparts, hpoison]

theorem arrivedReq_replied {id : Nat} {r : Req} (hfind : u.reqs.find id = some r) (hstage : r.stage = .replied) : arrivedReq u id = true := by
  simp [arrivedReq, hfind, hstage]

/-- A doubleword is whole in a register. -/
theorem word_mod_doubleword (x : Nat) : word (x % 256 ^ 8) = word x := by
  apply BitVec.eq_of_toNat_eq
  simp only [word, BitVec.toNat_ofNat]
  omega

/-- The reply to a WAITLINE that brings a value other than its operand. -/
theorem accessEnd_waitline {sd pa id : Nat} {va other : Word} {r : Req} (hwait : th.wait = .waitline sd va pa other (some id))
    (hfind : u.reqs.find id = some r) (hstage : r.stage = .replied) (hpoison : r.poison = false) (hparts : r.parts = [(0, r.pa, 8)])
    (hne : word (replyVal r) ≠ other) :
    let v := acquireMarks (takeReply u id) core th.uid none [r.marks ++ r.fwdMarks]
    accessEnd u core th = { v.setRegUid core th.uid sd (word (replyVal r)) with watchers := v.watchers.del th.uid }.resume core th.uid := by
  unfold accessEnd
  simp only [hwait, arrivedReq_replied hfind hstage, replies_whole hfind hparts hpoison, Bool.not_true, Bool.false_eq_true, if_false, List.headD_cons,
    word_mod_doubleword, beq_eq_false_iff_ne.mpr hne]

theorem waitline_goesOn {x : Tid} (hthread : isThread u x core th) {sd pa id : Nat} {va other : Word} {r : Req}
    (hwait : th.wait = .waitline sd va pa other (some id)) (hfind : u.reqs.find id = some r) (hstage : r.stage = .replied) (hpoison : r.poison = false)
    (hparts : r.parts = [(0, r.pa, 8)]) (hreg : uidHasReg u core th.uid sd) (hne : word (replyVal r) ≠ other) :
    yields (exec (.longAccessReply x) u) fun v => nowWaits v core th.uid .none ∧ regOfUid v core th.uid sd = word (replyVal r) ∧ v.mem = u.mem := by
  have htaken := (threadsKept_takeReply u id).follows (stands_of_isThread hthread)
  obtain ⟨y, hended⟩ := follows_acquireMarks htaken.stands none [r.marks ++ r.fwdMarks]
  let v := acquireMarks (takeReply u id) core th.uid none [r.marks ++ r.fwdMarks]
  have hwatch : ThreadsKept (v.setRegUid core th.uid sd (word (replyVal r)))
      { v.setRegUid core th.uid sd (word (replyVal r)) with watchers := v.watchers.del th.uid } := .of_cores rfl rfl rfl
  refine ⟨_, ?_, goesOn_written (htaken.trans hended) hreg (word (replyVal r)) fun h => ⟨_, hwatch.follows h⟩⟩
  rw [exec_longAccessReply, execLongAccessReply, eachThr_isThread hthread, accessEnd_waitline hwait hfind hstage hpoison hparts hne]

theorem waitLines : Claims.WaitLines := by
  intro s c sd sa b pa hs a hcheck
  obtain ⟨fwd, hexec⟩ := exec_waitline_eq hs hcheck
  have hb := (hs.begun).noteAccess
  generalize noteAccess (opened s c (.waitline sd sa b)) c.passed = u at hexec hb
  have haside : Aside c u (countEvent (sendReq (newReq u c.core (s.issThr c).uid [(0, pa, 8)] (c.reg sa.toNat).toNat pa 8 .watch .buffered fwd).2 u.fresh)
    c.core 4) := ((Aside.newReq ..).trans (Aside.sendReq ..)).trans (Aside.counted _ 4)
  have hp := (hb.touched.aside haside).retireInto hs (.waitline sd.toNat (c.reg sa.toNat) pa (selVal s c b) (some u.fresh))
  obtain ⟨hwait, hwent⟩ := hp.waits
  refine ⟨_, hexec, u.fresh, ⟨hwait, hwent⟩, ?_, (hb.regs.trans haside.regs).trans hp.regs, hp.mem.trans ((sendReq_mem ..).trans hb.mem), ?_⟩
  · refine (isSent_newReq _ _ _ _ _ _ _ _ _ _ hp.reqs).mono ?_
    rintro r ⟨hcore, hpa, hn, -, hkind⟩
    exact ⟨hcore, hpa, hn, hkind⟩
  · intro u' x th r hthread _ hthwait hfind hstage hpoison hparts _ hreg hne
    exact waitline_goesOn hthread (hthwait.trans hwait) hfind hstage hpoison hparts hreg hne

end

/-- Settles O28: a FENCE ends or waits for its release, PREF ends, WAITLINE asks and ends with its reply. -/
theorem fencesAndWatches : Obligations.FencesAndWatches := ⟨fences, prefetches, waitLines⟩

end Sys2Proof.Machine
end

section
/-!
PROOFS. O29: scalar atomics, their requests, the values that they bring back and what they write (R95, R215, R216, R217).
-/
namespace Sys2Proof.Machine

section
variable {s u v t : State} {c : Issue} {i : Instr} {core : Nat} {th y : Thr}

/-! ## The functions of Table 7.3 -/

theorem toNat_ite {w : Nat} (p : Prop) [Decidable p] (x y : BitVec w) : (if p then x else y).toNat = if p then x.toNat else y.toNat :=
  apply_ite BitVec.toNat p x y

theorem toSigned_toNat {w : Nat} (hw : 0 < w) (x : BitVec w) : toSigned w x.toNat = x.toInt := by
  rw [toSigned_eq w x.toNat hw, BitVec.ofNat_toNat, BitVec.setWidth_eq]

theorem atomicFunctions : Claims.AtomicFunctions := by
  intro n x y old hn fm
  have hw : 0 < 8 * n := by omega
  have hx : x.toNat % 2 ^ (8 * n) = x.toNat := Nat.mod_eq_of_lt x.isLt
  have hy : y.toNat % 2 ^ (8 * n) = y.toNat := Nat.mod_eq_of_lt y.isLt
  refine ⟨?_, ?_, ?_, ?_, ?_, ?_, ?_, ?_, ?_, ?_, ?_, ?_, ?_⟩
  · simp only [atomApply, hx, BitVec.toNat_add]
  · simp only [atomApply, hx, BitVec.toNat_and]
  · simp only [atomApply, hx, BitVec.toNat_or]
  · simp only [atomApply, hx, BitVec.toNat_xor]
  · simp only [atomApply, hx]
  · simp only [atomApply, hx, toSigned_toNat hw, toNat_ite, BitVec.slt, decide_eq_true_eq]
  · simp only [atomApply, hx, toSigned_toNat hw, toNat_ite, BitVec.slt, decide_eq_true_eq]
  · simp only [atomApply, hx, toNat_ite, BitVec.ult, decide_eq_true_eq]
    exact congrArg some ((Nat.min_comm _ _).trans (min_def_lt _ _))
  · simp only [atomApply, hx, toNat_ite, BitVec.ult, decide_eq_true_eq]
    exact congrArg some (max_def_lt _ _)
  · simp only [atomApply, hx]
    rfl
  · simp only [atomApply, hx]
    rfl
  · simp only [atomApply, hx]
    rfl
  · simp only [atomApply, hx, hy, beq_iff_eq, BitVec.toNat_inj]

/-! ## The forms of an atomic -/

theorem exec_of_atomForm {sd sa : BitVec 6} {n : Nat} {fn : AtomFn} {o : Ord} {sc : BitVec 4} (h : atomForm c i = some (sd, sa, n, fn, o, sc)) :
    ∃ g : Issue → AtomFn, g c.passed = fn ∧ exec i s = scalarAtomic i sd n o sc.toNat g s := by
  unfold atomForm at h
  split at h <;> cases h <;> exact ⟨_, rfl, rfl⟩

theorem accessesOf_of_atomForm {sd sa : BitVec 6} {n : Nat} {fn : AtomFn} {o : Ord} {sc : BitVec 4}
    (h : atomForm c i = some (sd, sa, n, fn, o, sc)) (u : State) : accessesOf u c.passed i = some (.atomic, [⟨0, (c.reg sa.toNat).toNat, n⟩]) := by
  unfold atomForm at h
  split at h <;> cases h <;> rfl

/-- The state in which an atomic that has passed its checks begins. -/
def atomStart (s : State) (c : Issue) (i : Instr) (o : Ord) (n : Nat) : State :=
  let u := opened s c i
  noteAccess (countEvent (countEvent (if ordRel o && !ordAcq o && (scopeLevel u c.core n).2 then countScopeMiss u c.core else u) c.core 4) c.core 12) c.passed

theorem begun_atomStart (hs : clear s c i) (o : Ord) (n : Nat) : Begun s c (atomStart s c i o n) := by
  exact (((hs.begun.countMissIf _).countEvent 4).countEvent 12).noteAccess

/-- The acquire and the release of an atomic. -/
def atomAcq (s : State) (core : Nat) (o : Ord) (n : Nat) : Option Acq := if ordAcq o then some (acqOf s core n) else none
def atomRel (s : State) (core : Nat) (th : Thr) (o : Ord) (n : Nat) : Option RelMark := if ordRel o then some (markOf s core th n false) else none

theorem exec_atomic_eq {sd sa : BitVec 6} {n : Nat} {fn : AtomFn} {o : Ord} {sc : BitVec 4} {pa : Nat} (hf : atomForm c i = some (sd, sa, n, fn, o, sc))
    (hs : clear s c i) (hcheck : checkAll s (issWho s c) .atomic [⟨0, (c.reg sa.toNat).toNat, n⟩] = .ok [(⟨0, (c.reg sa.toNat).toNat, n⟩, .far pa)]) :
    let u := atomStart s c i o sc.toNat
    let g := [((c.reg sa.toNat).toNat, [(0, pa, n)], [fn])]
    let d := Dest.scalar sd.toNat n false
    let acq := atomAcq s c.core o sc.toNat
    let rel := atomRel s c.core (s.issThr c) o sc.toNat
    exec i s = .next (if !ordRel o || releaseDone u c.core (s.issThr c).uid sc.toNat then issueAtomics u c.core (s.issThr c).uid g d acq rel
      else retireInto u (.release (.atomic g d acq rel))) := by
  have hb := hs.begun
  obtain ⟨f, rfl, hexec⟩ := exec_of_atomForm (s := s) hf
  intro u g d acq rel
  rw [hexec, scalarAtomic, start_admits _ hs.admits, accessesOf_of_atomForm hf]
  dsimp only
  rw [checkAll_opened, hcheck]
  simp only [acq, rel, atomAcq, atomRel, ← hb.acqOf, ← hb.markOf, ← issThr_opened s c i]
  rfl

/-- A group of one function leaves as one request. -/
theorem sendAtomics_one (core uid va pa n : Nat) (fn : AtomFn) (rel : Option RelMark) :
    sendAtomics u core uid [(va, [(0, pa, n)], [fn])] rel =
      (sendReq (newReq u core uid [(0, pa, n)] va pa n (.atomic [fn] rel) .buffered []).2 u.fresh, [u.fresh]) := rfl

/-! ## Names of threads -/

/-- The uids on every slot, in every run-queue entry and of every saved image stand. -/
structure NamesKept (u v : State) : Prop where
  slots : ∀ c n, ((v.core c).slots.find n).map (·.t.uid) = ((u.core c).slots.find n).map (·.t.uid)
  rq : ∀ c e, ((v.core c).rq.find e).map (·.t.uid) = ((u.core c).rq.find e).map (·.t.uid)
  clusters : v.clusters = u.clusters

theorem NamesKept.trans {w : State} (h : NamesKept u v) (h' : NamesKept v w) : NamesKept u w :=
  ⟨fun c n => (h'.slots c n).trans (h.slots c n), fun c e => (h'.rq c e).trans (h.rq c e), h'.clusters.trans h.clusters⟩

theorem ThreadsKept.names (h : ThreadsKept u v) : NamesKept u v := ⟨fun c n => by rw [h.slots], fun c e => by rw [h.rq], h.clusters⟩

/-- An entry of a table takes the place of one of the same name. -/
theorem Map.find_put_named {α : Type} (name : α → Nat) {m : Map α} {n : Nat} {a b : α} (h : Map.find m n = some a) (hab : name b = name a) (k : Nat) :
    (Map.find (m.put n b) k).map name = (Map.find m k).map name := by
  by_cases hk : k = n
  · subst hk
    rw [Map.find_put_same, h, Option.map_some, Option.map_some, hab]
  · rw [Map.find_put_other _ _ _ _ hk]

theorem namesKept_setCore {k : Core} (hslots : ∀ n, (k.slots.find n).map (·.t.uid) = ((u.core core).slots.find n).map (·.t.uid))
    (hrq : ∀ e, (k.rq.find e).map (·.t.uid) = ((u.core core).rq.find e).map (·.t.uid)) : NamesKept u (u.setCore core k) := by
  refine ⟨fun c n => ?_, fun c e => ?_, rfl⟩ <;> by_cases hc : c = core
  · rw [hc, core_setCore, hslots]
  · rw [core_setCore_other _ _ _ _ hc]
  · rw [hc, core_setCore, hrq]
  · rw [core_setCore_other _ _ _ _ hc]

theorem namesKept_modThr (h : Stands (u.core core) th) {f : Thr → Thr} (hf : (f th).uid = th.uid) : NamesKept u (u.modThr core th.uid f) := by
  cases h with
  | fibre e x huid hentry hthr =>
    subst hthr
    have heq : u.modThr core x.t.uid f = u.setCore core { u.core core with rq := (u.core core).rq.put e { x with t := f x.t } } := by
      simp only [State.modThr, huid, State.modCore, hentry]
    rw [heq]
    exact namesKept_setCore (fun _ => rfl) fun e => Map.find_put_named (fun x : RqEntry => x.t.uid) hentry hf e
  | wave n w hnone huid hslot hthr howed =>
    subst hthr
    have heq : u.modThr core w.t.uid f = u.setCore core { u.core core with slots := (u.core core).slots.put n { w with t := f w.t } } := by
      simp only [State.modThr, hnone, State.modWaveUid, huid, State.modCore, hslot]
    rw [heq]
    exact namesKept_setCore (fun n => Map.find_put_named (fun w : Wave => w.t.uid) hslot hf n) fun _ => rfl

/-- An identifier names threads of the same uids. -/
theorem NamesKept.threadsOf_map (h : NamesKept u v) (x : Tid) :
    (threadsOf v x).map (fun y => (y.1, y.2.uid)) = (threadsOf u x).map fun y => (y.1, y.2.uid) := by
  have hmap {α : Type} (g : α → Thr) (c : Nat) (o : Option α) :
      (o.toList.map fun a => (c, (g a).uid)) = ((o.map fun a => (g a).uid).toList.map fun n => (c, n)) := by
    cases o <;> rfl
  unfold threadsOf
  cases x with
  | cmd => rfl
  | fibre c e =>
    simp only [Option.toList_map, List.map_map]
    exact (hmap RqEntry.t c _).trans (by rw [h.rq]; exact (hmap RqEntry.t c _).symm)
  | wave c n =>
    unfold wavesAt
    simp only [List.map_append, List.map_map, State.cluster, h.clusters]
    congr 1
    exact (hmap Wave.t c _).trans (by rw [h.slots]; exact (hmap Wave.t c _).symm)

/-- What happens to the one thread that an identifier named happens to it as it is now. -/
theorem eachThr_named {x : Tid} (hthread : isThread u x core th) (h : NamesKept u v) (huid : y.uid = th.uid) (hv : Stands (v.core core) y)
    (f : State → Nat → Thr → State) : eachThr v x f = f v core y := by
  obtain ⟨hnamed, -⟩ := hthread
  have hmap := h.threadsOf_map x
  rw [hnamed] at hmap
  obtain ⟨z, hz, hname⟩ := List.map_eq_singleton_iff.mp hmap
  obtain ⟨hcore, hzuid⟩ := Prod.mk.inj hname
  unfold eachThr
  rw [hz, List.foldl_cons, List.foldl_nil, hcore, hzuid, ← huid, thrOf_of_stands hv]

/-! ## The value granted -/

/-- The thread of an atomic, once its value has been granted. -/
def grantedThr (id : Nat) (got : List (Nat × Nat)) (marks : List RelMark) (t : Thr) : Thr :=
  match t.wait with
  | .access ids g d acq ms => { t with wait := .access (ids.filter fun i => i != id) (g ++ got) d acq (ms ++ [marks]) }
  | _ => t

theorem threadsKept_updateCopy (u : State) (core : Nat) (l : List (Nat × Byte)) (ms : List RelMark) : ThreadsKept u (updateCopy u core l ms) := by
  cases l with
  | nil => exact .refl
  | cons x l =>
    obtain ⟨note, copies, -, heq⟩ := updateCopy_cons (u := u) core x l ms
    rw [heq]
    exact (ThreadsKept.of_cores (u := u) (v := { u with reqs := u.reqs.map fun (y : Nat × Req) => (y.1, note y.2) }) rfl rfl rfl).trans
      (.modCore _ _ (fun k => { k with cache := copies k }) (fun _ => rfl) fun _ => rfl)

theorem threadsKept_modReq (u : State) (id : Nat) (f : Req → Req) : ThreadsKept u (u.modReq id f) := by
  unfold State.modReq
  split
  · exact .of_cores rfl rfl rfl
  · exact .refl

/-- The grant of a reservation gives its thread the old value, and releases the line. -/
theorem exec_reservationGrant_eq {id : Nat} {r : Req} {pa n : Nat} {fn : AtomFn} {rel : Option RelMark} (hfind : u.reqs.find id = some r)
    (hkind : r.kind = .atomic [fn] rel) (hstage : r.stage = .replied) (hparts : r.parts = [(0, pa, n)]) (hpoison : r.poison = false) :
    ∃ w, exec (.reservationGrant id) u = .next w ∧ ThreadsKept (u.modThr r.core r.uid (grantedThr id [(0, r.val)] r.marks)) w := by
  let v := u.modThr r.core r.uid (grantedThr id [(0, r.val)] r.marks)
  let l := bytesOf r.pa (atomAll r.n [fn] r.val).2.1 r.n
  let ms := rel.toList ++ r.marks.filter fun m => !m.fence
  refine ⟨sendMsg ((updateCopy v r.core l ms).modReq id fun r => { r with stage := .releasing }) .request (.core r.core)
    (homeNode ((updateCopy v r.core l ms).modReq id fun r => { r with stage := .releasing }) r.pa) 0 (.release id), ?_,
    ((threadsKept_updateCopy v r.core l ms).trans (threadsKept_modReq _ _ _)).trans (.of_cores rfl rfl rfl)⟩
  rw [exec_reservationGrant, execReservationGrant, hfind]
  simp only [hkind, hstage, hparts, hpoison]
  rfl

/-- The end of an access whose values are all there. -/
theorem accessEnd_granted {sd n val : Nat} {acq : Option Acq} {ms : List (List RelMark)} (hwait : th.wait = .access [] [(0, val)] (.scalar sd n false) acq ms) :
    accessEnd u core th = (acquireMarks (u.setRegUid core th.uid sd (word (val % 256 ^ n))) core th.uid acq ms).resume core th.uid := by
  unfold accessEnd
  simp only [hwait]
  simp only [List.all_nil, Bool.not_true, Bool.false_eq_true, if_false, replies, List.filterMap_nil, List.any_nil, List.foldl_nil, List.flatMap_nil,
    List.map_nil, List.append_nil]
  rfl

theorem atomic_goesOn {x : Tid} (hthread : isThread u x core th) {sd pa n id : Nat} {fn : AtomFn} {acq : Option Acq} {rel : Option RelMark} {r : Req}
    (hwait : th.wait = .access [id] [] (.scalar sd n false) acq []) (hfind : u.reqs.find id = some r) (hcore : r.core = core) (huid : r.uid = th.uid)
    (hparts : r.parts = [(0, pa, n)]) (hkind : r.kind = .atomic [fn] rel) (hstage : r.stage = .replied) (hpoison : r.poison = false)
    (hreg : uidHasReg u core th.uid sd) :
    yields (exec (.reservationGrant id) u) fun v => yields (exec (.longAccessReply x) v) fun w =>
      nowWaits w core th.uid .none ∧ regOfUid w core th.uid sd = word (r.val % 256 ^ n) ∧ w.mem = u.mem := by
  obtain ⟨v, hv, hkept⟩ := exec_reservationGrant_eq hfind hkind hstage hparts hpoison
  rw [hcore, huid] at hkept
  have hstands := stands_of_isThread hthread
  let y := grantedThr id [(0, r.val)] r.marks th
  have hy : y = { th with wait := .access [] [(0, r.val)] (.scalar sd n false) acq [r.marks] } := by
    unfold y grantedThr
    simp only [hwait, bne_self_eq_false, List.filter_cons, Bool.false_eq_true, if_false, List.filter_nil, List.nil_append]
  have huid : y.uid = th.uid := by rw [hy]
  have hgranted := follows_modThr hstands (f := grantedThr id [(0, r.val)] r.marks) huid
  have hfollow := hgranted.trans (hkept.follows hgranted.stands)
  have hnames := (namesKept_modThr hstands huid).trans hkept.names
  have hgo := goesOn_written hfollow hreg (word (r.val % 256 ^ n)) fun h => follows_acquireMarks h acq [r.marks]
  refine ⟨v, hv, _, ?_, hgo⟩
  rw [exec_longAccessReply, execLongAccessReply, eachThr_named hthread hnames huid hfollow.stands, accessEnd_granted (th := y) (by rw [hy]), huid]

theorem scalarAtomics_complete : Claims.ScalarAtomics := by
  intro i s c sd sa n fn o sc pa hf hs a acq rel hcheck
  have hexec := exec_atomic_eq hf hs hcheck
  dsimp only at hexec
  have hb := begun_atomStart hs o sc.toNat
  generalize atomStart s c i o sc.toNat = u at hexec hb
  have hdone : (!ordRel o || releaseDone u c.core (s.issThr c).uid sc.toNat) = true ↔
      (rel = none ∨ (scopeLevel s c.core sc.toNat).1.isWide = false ∨ writesOut s (s.issThr c).uid = false) := by
    unfold releaseDone
    rw [hb.scopeLevel, hb.writesOut]
    cases ho : ordRel o <;> simp [rel, ho]
  refine ⟨fun hends => ?_, fun hrel hwide hout => ?_⟩
  · rw [if_pos (hdone.mpr hends), issueAtomics, sendAtomics_one] at hexec
    have haside : Aside c u (sendReq (newReq u c.core (s.issThr c).uid [(0, pa, n)] (c.reg sa.toNat).toNat pa n (.atomic [fn] rel) .buffered []).2 u.fresh) :=
      (Aside.newReq ..).trans (Aside.sendReq ..)
    have hp := (hb.touched.aside haside).retireInto hs (.access [u.fresh] [] (.scalar sd.toNat n false) acq [])
    obtain ⟨hwait, hwent⟩ := hp.waits
    refine ⟨_, hexec, u.fresh, ⟨hwait, hwent⟩, ?_, (hb.regs.trans haside.regs).trans hp.regs, hp.mem.trans ((sendReq_mem ..).trans hb.mem), ?_⟩
    · exact isSent_newReq _ _ _ _ _ _ _ _ _ _ hp.reqs
    · intro u' x th r hthread _ hthwait hfind hcore huid hparts hn hkind hstage hpoison hreg
      exact atomic_goesOn hthread (hthwait.trans hwait) hfind hcore huid hparts hkind hstage hpoison hreg
  · have hends : ¬(rel = none ∨ (scopeLevel s c.core sc.toNat).1.isWide = false ∨ writesOut s (s.issThr c).uid = false) := by simp [hrel, hwide, hout]
    rw [if_neg fun h => hends (hdone.mp h)] at hexec
    have hp := hb.touched.retireInto hs (.release (.atomic [(a.va, [(0, pa, n)], [fn])] (.scalar sd.toNat n false) acq rel))
    exact ⟨_, hexec, hp.waits, hb.regs.trans hp.regs, hp.mem.trans hb.mem⟩

end

/-- Settles O29: an atomic leaves as one request, or waits for its release, and ends with the old value; Table 7.3 on bit vectors. -/
theorem scalarAtomics : Obligations.ScalarAtomics := ⟨scalarAtomics_complete, atomicFunctions⟩

end Sys2Proof.Machine
end

section
/-!
PROOFS. O37: GO and HOP send their fibre away, or wait for its writes (R112, R267, R281, R286, R287).
-/
namespace Sys2Proof.Machine

section
variable {s t u v : State} {c : Issue} {i : Instr} {e : Nat} {x : RqEntry}

/-! ## A fibre that leaves -/

/-- The fibre at the end of its bundle. -/
def RqEntry.ended (x : RqEntry) (c : Issue) : RqEntry := { x with fib := { x.fib with pc := c.next } }

/-- What a core hands over of a fibre that leaves it. -/
def RqEntry.away (x : RqEntry) : Away := { t := { x.t with wait := .none, acqOnTake := true }, fib := { x.fib with seq := (x.fib.seq + 1) % 2 ^ 32 } }

theorem issThr_of_entry (he : c.entry = some e) (hx : (s.core c.core).rq.find e = some x) : s.issThr c = x.t := by
  unfold State.issThr
  rw [he]
  dsimp only
  rw [hx]

theorem fibre_retired (hs : clear s c i) (hl : lastOp s) (he : c.entry = some e) (hx : (s.core c.core).rq.find e = some x) :
    OnEntry s c e x (x.ended c) (retire (opened s c i)) ∧ atRest (retire (opened s c i)) := by
  obtain ⟨hentry, htodo, hissue⟩ := (OnEntry.opened i hx).retire (opened_issue s c i hs.admits.1) ((opened_todo s c i).trans hl) rfl he
  exact ⟨hentry, hissue, htodo⟩

theorem takeAway_found (h : (s.core c.core).rq.find e = some x) : takeAway s c.core e = some (x.away, freeFibre s c.core e) := by
  unfold takeAway
  rw [h]
  rfl

/-- The entry that a fibre has left is free, and nothing but that has changed beside the bundle and its counters. -/
structure Left (s : State) (c : Issue) (e : Nat) (t : State) : Prop where
  free : (t.core c.core).rq.find e = none
  rest : atRest t
  outside : outside t = outside s
  others : ∀ n, n ≠ c.core → t.core n = s.core n
  settings : coreRegs (t.core c.core) = coreRegs (s.core c.core)

theorem left_freeFibre (h : OnEntry s c e x (x.ended c) t) (ht : atRest t) : Left s c e (freeFibre t c.core e) := by
  refine ⟨?_, ht, h.out, fun n hn => (core_modCore_other _ _ _ _ hn).trans (h.other n hn), ?_⟩
  · unfold freeFibre
    rw [core_modCore]
    exact Map.find_del_same ..
  · unfold freeFibre
    rw [core_modCore]
    exact (coreRegs_rest (t.core c.core)).symm.trans (by rw [h.rest, coreRegs_rest])

theorem Left.countEvent (h : Left s c e t) (ev : Nat) : Left s c e (countEvent t c.core ev) := by
  refine ⟨?_, h.rest, h.outside, fun n hn => (core_modCore_other _ _ _ _ hn).trans (h.others n hn), ?_⟩
  · unfold Machine.countEvent
    rw [core_modCore]
    exact h.free
  · unfold Machine.countEvent
    rw [core_modCore]
    exact h.settings

theorem Left.mem (h : Left s c e t) : t.mem = s.mem := (congrArg State.mem h.outside :)

theorem Left.fenced (h : Left s c e t) (n : Nat) : (t.core n).fenced = (s.core n).fenced := by
  by_cases hn : n = c.core
  · rw [hn]
    exact (congrArg Core.fenced h.settings :)
  · rw [h.others n hn]

/-- A fibre goes where it would have gone before it left. -/
theorem Left.goDest (h : Left s c e t) (core pa : Nat) : goDest t core pa = goDest s core pa := by
  have hdies (d : Nat) : t.sameDies core d = s.sameDies core d := (congrArg (fun s => State.sameDies s core d) h.outside :)
  unfold Machine.goDest nearestDie
  simp only [hdies, h.fenced]

/-! ## GO -/

theorem exec_go_eq {sa : BitVec 6} {b : BitVec 8} {pa : Nat} (hs : clear s c (.go sa b)) (he : c.entry = some e) (hx : (s.core c.core).rq.find e = some x)
    (hcheck : checkAll s (issWho s c) .goTarget [⟨0, (c.reg sa.toNat + selVal s c b).toNat, 1⟩] =
      .ok [(⟨0, (c.reg sa.toNat + selVal s c b).toNat, 1⟩, .far pa)]) :
    exec (.go sa b) s = .next (if writesOut s x.t.uid then retireInto (opened s c (.go sa b)) (.release (.go pa))
      else leaveByGo (retire (opened s c (.go sa b))) c.core e pa) := by
  have hb := hs.begun
  rw [exec_go, execGo, start_admits _ hs.admits]
  dsimp only
  rw [selVal_opened, passed_reg, checkAll_opened, hcheck]
  dsimp only
  rw [passed_entry, he, ← issThr_of_entry he hx, ← hb.writesOut, ← issThr_opened s c (.go sa b)]
  rfl

theorem fibreGo : Claims.FibreGo := by
  intro s c sa b e x pa hs he hx a hcheck
  have hb := hs.begun
  have hexec := exec_go_eq hs he hx hcheck
  refine ⟨fun hout => ?_, fun d hl hout hdest => ?_⟩
  · have hp := hb.touched.retireInto hs (.release (.go pa))
    exact ⟨_, by rw [hexec, if_pos hout], hp.waits, hb.regs.trans hp.regs, hp.mem.trans hb.mem⟩
  · obtain ⟨hentry, hrest⟩ := fibre_retired hs hl he hx
    have hleft := left_freeFibre hentry hrest
    refine ⟨_, by rw [hexec, hout, if_neg Bool.false_ne_true, leaveByGo, takeAway_found hentry.is], ?_⟩
    dsimp only
    rw [hleft.goDest, hdest]
    exact ⟨hleft.free, hleft.mem, hleft.rest, (x.ended c).away, underWay_sendMsg .., rfl, rfl⟩

/-! ## HOP -/

theorem exec_hop_eq (hs : clear s c .hop) (he : c.entry = some e) (hx : (s.core c.core).rq.find e = some x) :
    exec .hop s = .next (
      if (sceneOf s x.t).getD 1 0 % 2 ^ 24 ≤ fibTop x.fib then (fatalFibre (opened s c .hop) c.core e x 0x45 (fibTop x.fib) 0).closeIssue
      else if writesOut s x.t.uid then retireInto (opened s c .hop) (.release .hop)
      else leaveByHop (retire (opened s c .hop)) c.core e) := by
  have hb := hs.begun
  have hscene : sceneOf (opened s c .hop) x.t = sceneOf s x.t := by unfold sceneOf; rw [launches_opened]
  rw [exec_hop, execHop, start_admits _ hs.admits]
  dsimp only
  rw [passed_entry, he, passed_core, opened_rq, Option.bind_some, hx, Option.map_some]
  dsimp only
  rw [hscene, hb.writesOut]

/-- Where a fibre that hops is sent, and what is sent, as the location cache has found its treelet or not. -/
def hopTo (found : Option (Nat × Nat × List Nat)) (core : Nat) (a : Away) (p tb : Nat) : Node × Body :=
  match found with
  | some (_, _, o :: l) => (.core (leaveByHop.pickOwner a.fib (o :: l)), .hop a)
  | _ => (dirNode (fibTop a.fib), .seek { a := a, part := p, tbase := tb, id := fibTop a.fib, src := core, evict := none })

theorem hop_leaves {p tb : Nat} (hs : clear s c .hop) (he : c.entry = some e) (hx : (s.core c.core).rq.find e = some x)
    (hscene : fibTop x.fib < (sceneOf s x.t).getD 1 0 % 2 ^ 24) (hout : writesOut s x.t.uid = false) (hl : lastOp s)
    (hp : s.partOf c.core = some p) (htb : tbaseOf s x.t = some tb) :
    let sent := hopTo ((s.core c.core).locs.find? fun y => y.1 == tb && y.2.1 == fibTop x.fib) c.core (x.ended c).away p tb
    yields (exec .hop s) fun t => (t.core c.core).rq.find e = none ∧ t.mem = s.mem ∧ atRest t ∧
      underWay t .fibre (.core c.core) sent.1 0 sent.2 := by
  obtain ⟨hentry, hrest⟩ := fibre_retired hs hl he hx
  have hleft := (left_freeFibre hentry hrest).countEvent 11
  refine ⟨_, by rw [exec_hop_eq hs he hx, if_neg (Nat.not_le_of_lt hscene), hout, if_neg Bool.false_ne_true, leaveByHop, takeAway_found hentry.is], ?_⟩
  dsimp only
  generalize countEvent (freeFibre (retire (opened s c .hop)) c.core e) c.core 11 = u at hleft
  have hpart : u.partOf c.core = some p := (congrArg (fun s => State.partOf s c.core) hleft.outside :).trans hp
  have hbase : tbaseOf u (x.ended c).away.t = some tb := (congrArg (fun s => tbaseOf s x.t) hleft.outside :).trans htb
  have hlocs : (u.core c.core).locs = (s.core c.core).locs := (congrArg Core.locs hleft.settings :)
  rw [hpart, hbase]
  dsimp only
  rw [hlocs, show fibTop (x.ended c).away.fib = fibTop x.fib from rfl]
  generalize (s.core c.core).locs.find? (fun y => y.1 == tb && y.2.1 == fibTop x.fib) = found
  obtain _ | ⟨_, _, _ | ⟨o, l⟩⟩ := found <;> exact ⟨hleft.free, hleft.mem, hleft.rest, underWay_sendMsg ..⟩

/-- An owner that is picked is one of those named. -/
theorem pickOwner_mem (f : Fibre) (o : Nat) (l : List Nat) : leaveByHop.pickOwner f (o :: l) ∈ o :: l := by
  unfold leaveByHop.pickOwner
  have hlt : hash32 ((fibreGet f 8).toNat % 2 ^ 32) (fibTop f) % (o :: l).length < (o :: l).length := Nat.mod_lt _ (Nat.succ_pos _)
  rw [List.getD_eq_getElem _ _ hlt]
  exact List.getElem_mem hlt

theorem fibreHop : Claims.FibreHop := by
  intro s c e p tb x hs he hx id gone
  have hb := hs.begun
  refine ⟨fun hscene hout => ?_, fun hscene hout hl hp htb hfound => ?_, fun o l hscene hout hl hp htb hfound => ?_, fun hscene => ?_⟩
  · have hparked := hb.touched.retireInto hs (.release .hop)
    exact ⟨_, by rw [exec_hop_eq hs he hx, if_neg (Nat.not_le_of_lt hscene), if_pos hout], hparked.waits, hb.regs.trans hparked.regs,
      hparked.mem.trans hb.mem⟩
  · obtain ⟨t, ht, hfree, hmem, hrest, hsent⟩ := hop_leaves hs he hx hscene hout hl hp htb
    rw [hfound] at hsent
    exact ⟨t, ht, hfree, hmem, hrest, (x.ended c).away, rfl, rfl, hsent⟩
  · obtain ⟨t, ht, hfree, hmem, hrest, hsent⟩ := hop_leaves hs he hx hscene hout hl hp htb
    rw [hfound] at hsent
    exact ⟨t, ht, hfree, hmem, hrest, (x.ended c).away, _, pickOwner_mem (x.ended c).away.fib o l, rfl, hsent⟩
  · rw [exec_hop_eq hs he hx, if_pos hscene]

end

/-- Settles O37: a fibre that leaves frees its entry and is under way, with its SEQ one more; one whose writes are outstanding waits. -/
theorem fibreMigration : Obligations.FibreMigration := ⟨fibreGo, fibreHop⟩

end Sys2Proof.Machine
end

section
/-!
PROOFS. O13: scalar floating-point operations, their results and flags (R128, R181 to R185).
-/
namespace Sys2Proof.Machine

section
variable {s : State} {c : Issue} {i : Instr} {sd sa : BitVec 6} {fl : Nat}

theorem opbPart_opened (s : State) (c : Issue) (i : Instr) (t : FpT) (p : Nat) (y : Opb) :
    opbPart (opened s c i) c.passed t p y = opbPart s c t p y := by
  cases y with
  | sel b => exact congrArg (partOf t p) (selVal_opened s c i b)
  | imm x => rfl

/-- The fold of `fpOp` over the parts of T, as Table 6.2 lists them. -/
theorem fold_parts (t : FpT) (f : Nat → FR) :
    (word (((fptParts t).map fun p => (p, f p)).foldl (fun a x => a + x.2.1 <<< x.1) 0),
      ((fptParts t).map fun p => (p, f p)).foldl (fun a x => a ||| x.2.2) 0) = joinParts t f := by
  cases t with
  | f64 => exact Prod.ext (congrArg word ((Nat.zero_add _).trans (Nat.shiftLeft_zero))) (Nat.zero_or _)
  | f32 => exact Prod.ext (congrArg word ((Nat.zero_add _).trans (Nat.shiftLeft_zero))) (Nat.zero_or _)
  | f32x2 =>
    refine Prod.ext (congrArg word (congrArg₂ (· + ·) ((Nat.zero_add _).trans Nat.shiftLeft_zero) (Nat.shiftLeft_eq _ _))) ?_
    exact congrArg (· ||| _) (Nat.zero_or _)

/-- What an operation with the result r, when it runs, comes to. -/
def Meets (s : State) (c : Issue) (i : Instr) : Option (BitVec 6 × Word × Nat) → Prop
  | some (sd, v, fl) => runs s c i fl → yields (exec i s) fun t => wroteReg s c sd.toNat v t ∧ completed s c fl t
  | none => True

/-- An operation that writes a value and raises flags, and does nothing else. -/
theorem scalarFp_meets {r : Issue → State → Word × Nat}
    (hexec : exec i s = start i s fun d u => retire (raiseScalar (u.setReg d sd.toNat (r d u).1) (r d u).2)) :
    Meets s c i (some (sd, r c.passed (opened s c i))) := fun h =>
  ⟨_, hexec.trans (start_admits _ h.1),
    reg_done h sd.toNat _ (fun d => if d.entry.isSome then d else { d with sflags := d.sflags ||| _ }) (Raised.scalar c _)⟩

/-- `fpOp` computes the parts of T as Table 6.2 lists them, and does nothing else. -/
theorem fpOp_meets {y : Issue → State → Nat → Nat} {z : Nat → Nat} {t : FpT} {f : RMode → Nat → Nat → Nat → FR}
    (hexec : exec i s = fpOp i sd sa y t f s) (hy : y c.passed (opened s c i) = z) :
    Meets s c i (some (sd, joinParts t fun p => f (issRm c) (partOf t p (c.reg sa.toNat)) (z p) (partOf t p (c.reg sd.toNat)))) := by
  subst hy
  rw [← fold_parts]
  exact scalarFp_meets (r := fun d u =>
    let rs := (fptParts t).map fun p => (p, f (issRm d) (partOf t p (d.reg sa.toNat)) (y d u p) (partOf t p (d.reg sd.toNat)))
    (word (rs.foldl (fun a x => a + x.2.1 <<< x.1) 0), rs.foldl (fun a x => a ||| x.2.2) 0)) hexec

theorem fpOp2_meets {y : Opb} {t : FpT} {f : RMode → Nat → Nat → Nat → FR} (hexec : exec i s = fpOp2 i sd sa y t f s) :
    Meets s c i (some (sd, joinParts t fun p => f (issRm c) (partOf t p (c.reg sa.toNat)) (opbPart s c t p y) (partOf t p (c.reg sd.toNat)))) :=
  fpOp_meets hexec (funext fun p => opbPart_opened s c i t p y)

end

/-- Every operation that has a result comes to it; of the others nothing is asked. -/
theorem meets_fpResult (s : State) (c : Issue) (i : Instr) : Meets s c i (fpResult s c i) := by
  induction i with
  | fadd sd sa y t => exact fpOp2_meets (f := fun m x y _ => fpAdd (fptFmt t) m x y) (exec_fadd ..)
  | fsub sd sa y t => exact fpOp2_meets (f := fun m x y _ => fpSub (fptFmt t) m x y) (exec_fsub ..)
  | fmul sd sa y t => exact fpOp2_meets (f := fun m x y _ => fpMul (fptFmt t) m x y) (exec_fmul ..)
  | ffma sd sa y t => exact fpOp2_meets (f := fun m x y d => fpFma (fptFmt t) m false false x y d) (exec_ffma ..)
  | fdiv sd sa y t => exact fpOp2_meets (f := fun m x y _ => fpDiv (fptFmt t) m x y) (exec_fdiv ..)
  | fmin sd sa y t => exact fpOp2_meets (f := fun _ x y _ => minMax (fptFmt t) false false x y) (exec_fmin ..)
  | fmax sd sa y t => exact fpOp2_meets (f := fun _ x y _ => minMax (fptFmt t) true false x y) (exec_fmax ..)
  | fset sd sa y cd t => exact fpOp2_meets (exec_fset ..)
  | fsqrt sd sa t => exact fpOp_meets (f := fun m x _ _ => fpSqrt (fptFmt t) m x) (exec_fsqrt ..) rfl
  | fabs sd sa t => exact fpOp_meets (f := fun _ x _ _ => (fpAbs (fptFmt t) x, 0)) (exec_fabs ..) rfl
  | fcvt sd sa code =>
    exact scalarFp_meets (r := fun d _ => (word (fcvtVal (issRm d) code.toNat (d.reg sa.toNat).toNat).1,
      (fcvtVal (issRm d) code.toNat (d.reg sa.toNat).toNat).2)) (exec_fcvt ..)
  | _ => trivial

/-- Settles O13: each operation with a result is `fpOp` with the function that R182 and R183 give its parts, or FCVT. -/
theorem scalarFloatResults : Obligations.ScalarFloatResults := by
  intro i s c sd v fl hres
  have h := meets_fpResult s c i
  rw [hres] at h
  exact h

end Sys2Proof.Machine
end

section
/-!
PROOFS. O34, the matrix state: refuted. A MATRIX_STEP_COMPLETE is claimed to leave every other command of its context in the queue; where the wave that waits
for the step owes an FPEXC and has no handler, the end of the wait is fatal, and the launch's other commands leave with it (R200, R301). No rule of the spec
speaks of such a state: a matrix command is the only operation of its bundle, so no run reaches it, and the statement does not exclude it.
The kernel evaluates the state; no code is compiled for it.
-/
namespace Sys2Proof.Machine

/-- An MZERO of launch 1, issued by the wave of uid 7, under this number. -/
noncomputable def zeroing (num : Nat) : Cmd :=
  { num := num, clk := 0, idx := 0, uid := 7, lid := some 1, sup := false, origin := none, set := (0, 0, none), floors := Floors.zero,
    instr := .mzero blankHdr 1 false, ops := [], vecs := [], running := true, started := 0, waited := true, xlat := [], reads := [], out := [],
    got := [], dsts := [], takes := [], wrote := [], phase := 1, token := 0, acc := [0], miss := none, tiles := [], marks := [], wid := 0, recIdx := 0 }

/-- The wave: it waits for command 1, owes an FPEXC, and its handler is not enabled. -/
noncomputable def zeroingWave : Wave :=
  { Wave.vacant with t := { Thr.vacant with uid := 7, lid := some 1, wait := .matrix 1 }, owed := some (Trap.simple 7 0x608) }

/-- Its launch, which is running. -/
noncomputable def zeroingLaunch : Launch :=
  { started := 1, part := 0, die := 0, lseq := 1, id := 9, mode := 0, prio := 1, eff := 1, accepted := 0, widths := 0, slots := 1, ncon := 0, n := 0, code := 0,
    csize := 32, cload := 0x600, const := 0, place := 0, entry := 0, arg := 0, tasks := 1, written := 1, keep := false, gang := false,
    targets := [0], cores := [0], filled := [0], left := 1, entries := [], fills := [], words := [], dead := false, done := false, failed := false,
    byCore := 0, byCmd := 0, scene := none }

/-- Command 1 has run for its 16 clks; command 2 stands behind it. -/
noncomputable def zeroingState : State :=
  { State.reset with
    clk := 16
    cores := [(0, { Core.reset with
      slots := [(0, zeroingWave)], running := [zeroing 1], mat0 := { elems := [], queue := [zeroing 1, zeroing 2] } })]
    launches := [(1, zeroingLaunch)] }

theorem exec_zeroing : exec (.matrixStepComplete 0 false) zeroingState = .next (endStep zeroingState 0 false (zeroing 1)) := rfl

/-- The completion ends the wave with UNHANDLED, and its launch; command 2 goes too. -/
theorem zeroing_clears : (matCtxOf ((endStep zeroingState 0 false (zeroing 1)).core 0) false).queue.length = 0 := by decide +kernel

theorem of_yields_next {o : Out} {u : State} {p : State → Prop} (hy : yields o p) (ho : o = .next u) : p u := by
  obtain ⟨t, ht, hp⟩ := hy
  exact Host.Outcome.next.inj (ht.symm.trans ho) ▸ hp

/-- Refutes O34: the wave owes an FPEXC that is fatal as its matrix command completes, and the context's other command does not stay in its queue. -/
theorem not_matrixState : ¬ Obligations.MatrixState := by
  intro h
  obtain ⟨-, -, hresults⟩ := h
  have hend := of_yields_next (hresults zeroingState 0 false (zeroing 1) (by decide +kernel) rfl (by decide +kernel)) exec_zeroing
  have hempty := zeroing_clears
  rw [hend.1] at hempty
  exact absurd hempty (by decide +kernel)

end Sys2Proof.Machine
end

section
/-!
PROOFS. O23: VQMX writes the register image of R250, its elements from byte 0 and its scales from byte 224.
The definitions here only name what the statement speaks of; nothing runs them, and no code is compiled for them.
-/
namespace Sys2Proof.Machine

/-! ## An image of elements and scales -/

theorem ofElems_lt_two_pow {w n : Nat} {l : List Nat} (h : w * l.length ≤ n) : ofElems w l < 2 ^ n :=
  (ofElems_lt w l).trans_le (Nat.pow_le_pow_right Nat.two_pos h)

theorem div_two_pow_append {a b n : Nat} (ha : a < 2 ^ n) : (a + 2 ^ n * b) / 2 ^ n = b := by
  rw [Nat.add_mul_div_left _ _ (Nat.two_pow_pos n), Nat.div_eq_of_lt ha, Nat.zero_add]

theorem append_lt_two_pow {a b m n : Nat} (ha : a < 2 ^ m) (hb : b < 2 ^ n) : a + 2 ^ m * b < 2 ^ (m + n) := by
  rw [Nat.pow_add, Nat.mul_comm (2 ^ m) (2 ^ n), ← Nat.div_lt_iff_lt_mul (Nat.two_pow_pos m), div_two_pow_append ha]
  exact hb

/-- A field below bit n reads as if nothing stood above. -/
theorem field_append_low {a b n p w : Nat} (h : p + w ≤ n) : (a + 2 ^ n * b) / 2 ^ p % 2 ^ w = a / 2 ^ p % 2 ^ w := by
  obtain ⟨r, rfl⟩ := Nat.exists_eq_add_of_le h
  rw [Nat.pow_add, Nat.pow_add, Nat.mul_assoc, Nat.mul_assoc, Nat.add_mul_div_left _ _ (Nat.two_pow_pos p), Nat.add_mul_mod_self_left]

theorem field_append_high {a b n p w : Nat} (ha : a < 2 ^ n) : (a + 2 ^ n * b) / 2 ^ (n + p) % 2 ^ w = b / 2 ^ p % 2 ^ w := by
  rw [Nat.pow_add, ← Nat.div_div_eq_div_mul, div_two_pow_append ha]

/-- Elements of width ew from byte 0, scales from byte 224 (R250). -/
noncomputable def mxImage (ew : Nat) (qs scales : List Nat) : VReg := BitVec.ofNat 2048 (ofElems ew qs + ofElems 8 scales <<< (8 * 224))

section
variable {ew : Nat} {qs scales : List Nat} (hq : ew * qs.length ≤ 1792) (hs : scales.length ≤ 32)
include hq hs

theorem elem_mxImage_eq (w k : Nat) : elem w (mxImage ew qs scales) k = (ofElems ew qs + 2 ^ 1792 * ofElems 8 scales) / 2 ^ (w * k) % 2 ^ w := by
  have hlt := append_lt_two_pow (n := 256) (ofElems_lt_two_pow hq) (ofElems_lt_two_pow (Nat.mul_le_mul_left 8 hs))
  rw [elem, mxImage, BitVec.toNat_ofNat, Nat.shiftLeft_eq, Nat.mul_comm (ofElems 8 scales), Nat.mod_eq_of_lt hlt, Nat.shiftRight_eq_div_pow]

/-- Below byte 224 the image reads as its elements do. -/
theorem elem_mxImage_low {w k : Nat} (hk : w * (k + 1) ≤ 1792) : elem w (mxImage ew qs scales) k = ofElems ew qs / 2 ^ (w * k) % 2 ^ w :=
  (elem_mxImage_eq hq hs w k).trans (field_append_low hk)

/-- From byte 224 on the image reads as its scales do. -/
theorem elem_mxImage_high (b : Nat) : elem 8 (mxImage ew qs scales) (224 + b) = ofElems 8 scales / 2 ^ (8 * b) % 2 ^ 8 := by
  rw [elem_mxImage_eq hq hs, Nat.mul_add]
  exact field_append_high (ofElems_lt_two_pow hq)

/-- Between the elements and the scales, and behind the scales, the image is zero. -/
theorem zero_mxImage {b : Nat} (hb : ew * qs.length ≤ 8 * b) (hout : b < 224 ∨ 224 + scales.length ≤ b) :
    elem 8 (mxImage ew qs scales) b = 0 := by
  obtain hlow | hhigh := hout
  · rw [elem_mxImage_low hq hs (Nat.mul_le_mul_left 8 hlow), Nat.div_eq_of_lt (ofElems_lt_two_pow hb), Nat.zero_mod]
  · obtain ⟨d, rfl⟩ := Nat.exists_eq_add_of_le ((Nat.le_add_right ..).trans hhigh)
    rw [elem_mxImage_high hq hs, Nat.div_eq_of_lt (ofElems_lt_two_pow (Nat.mul_le_mul_left 8 (Nat.le_of_add_le_add_left hhigh))), Nat.zero_mod]

end

/-! ## The blocks of VQMX -/

/-- Blocks of 32 one behind the other. -/
theorem flatMap_blocks {α : Type} (h : Nat → α) (n : Nat) :
    ((List.range n).flatMap fun b => (List.range 32).map fun j => h (32 * b + j)) = (List.range (32 * n)).map h := by
  induction n with
  | zero => rfl
  | succ n ih =>
    rw [List.range_succ (n := n), List.flatMap_append, ih, Nat.mul_succ, List.range_add, List.map_append, List.flatMap_singleton, List.map_map]
    rfl

/-- Block b of the source. -/
noncomputable def mxScaleOf (f src : Fmt) (v : VReg) (b : Nat) : Option Nat := mxScale f src (blockOf (fmtBits src) v b)

/-- Element k of VQMX before it is cut to its width: 0 in a block without a scale. -/
noncomputable def mxElement (f src : Fmt) (v : VReg) (k : Nat) : Nat :=
  match mxScaleOf f src v (k / 32) with
  | none => 0
  | some sc => mxQuant f src sc (elem (fmtBits src) v k)

/-- The blocks' elements are those of the register, in source order. -/
theorem flatMap_mxElement (f src : Fmt) (v : VReg) (n : Nat) :
    ((List.range n).flatMap fun b => match mxScaleOf f src v b with
      | none => List.replicate 32 0
      | some sc => (blockOf (fmtBits src) v b).map (mxQuant f src sc)) = (List.range (32 * n)).map (mxElement f src v) := by
  rw [← flatMap_blocks]
  refine List.flatMap_congr fun b _ => ?_
  have hdiv (j : Nat) (hj : j ∈ List.range 32) : (32 * b + j) / 32 = b :=
    (Nat.mul_add_div (Nat.zero_lt_succ 31) b j).trans (by rw [Nat.div_eq_of_lt (List.mem_range.mp hj)]; rfl)
  have helem : ((List.range 32).map fun j => mxElement f src v (32 * b + j)) = (List.range 32).map fun j =>
      match mxScaleOf f src v b with
      | none => 0
      | some sc => mxQuant f src sc (elem (fmtBits src) v (32 * b + j)) :=
    List.map_congr_left fun j hj => by rw [mxElement, hdiv j hj]
  rw [helem]
  cases mxScaleOf f src v b with
  | none => rfl
  | some sc => exact List.map_map

section
variable (f src : Fmt) (v : VReg) (m : Word)

/-- The elements and the scales that VQMX writes, and the register that holds them. -/
noncomputable def mxElements : List Nat := (List.range (32 * (numElems (fmtBits src) / 32))).map (mxElement f src v)
noncomputable def mxScales : List Nat := (List.range (numElems (fmtBits src) / 32)).map fun b => (mxScaleOf f src v b).getD 0xFF
noncomputable def mxRegister : VReg := mxImage (fmtBits f) (mxElements f src v) (mxScales f src v)

theorem getD_map_range (F : Nat → Nat) {k n d : Nat} (hk : k < n) : ((List.range n).map F).getD k d = F k :=
  (List.getD_eq_getElem _ _ (by rw [List.length_map, List.length_range]; exact hk)).trans
    ((List.getElem_map _).trans (congrArg F (List.getElem_range _)))

/-- A clamped exponent is no more than 254, and 255 stands for no scale. -/
theorem clamped_le (p : Bool) (top : Option Int) (e : Int) : ((if p then none else match top with
    | none => some 0
    | some t => some (if t - e + 127 < 0 then 0 else if 254 < t - e + 127 then 254 else (t - e + 127).toNat)) : Option Nat).getD 0xFF ≤ 255 := by
  cases p with
  | true => exact Nat.le_refl 255
  | false =>
    cases top with
    | none => exact Nat.zero_le 255
    | some t =>
      show (if t - e + 127 < 0 then 0 else if 254 < t - e + 127 then 254 else (t - e + 127).toNat) ≤ 255
      generalize t - e + 127 = x
      split
      · exact Nat.zero_le 255
      · split
        · decide
        · exact Int.toNat_le.mpr ((not_lt.mp ‹_›).trans (by decide))

theorem mxScale_le (l : List Nat) : (mxScale f src l).getD 0xFF ≤ 255 := clamped_le _ _ _

end

/-! ## The flags of the lanes -/

section
variable {s : State} {c d : Issue} {fl : Nat}

theorem Raised.addLane (he : c.entry = none) (h : Raised c d fl) (lane x : Nat) : Raised c (addLane d lane x) (fl ||| x) := by
  refine ⟨h.core, h.slot, h.entry, h.next, h.mode,
    congrArg (fun e : Issue => { e with vflags := d.vflags ||| x, lanes := (Machine.addLane d lane x).lanes }) h.same, fun _ => ?_⟩
  have hflags : flagsWith c (fl ||| x) = flagsWith c fl ||| x := by unfold flagsWith; rw [he]; exact (Nat.or_assoc ..).symm
  rw [hflags, ← h.flags he, Nat.or_assoc]
  rfl

theorem Raised.addLanes (he : c.entry = none) (h : Raised c d fl) (l : List (Nat × Nat)) :
    Raised c (l.foldl (fun d x => Machine.addLane d x.1 x.2) d) (l.foldl (fun a x => a ||| x.2) fl) := by
  induction l generalizing d fl with
  | nil => exact h
  | cons x l ih => exact ih (h.addLane he x.1 x.2)

theorem invalid_or (b : Bool) : (fIV ||| if b then fIV else 0) = fIV := by cases b <;> decide

/-- IV at a lane that p picks. -/
noncomputable def invalidAt (p : Nat → Bool) (lane : Nat → Nat) (x : Nat) : Option (Nat × Nat) := if p x then some (lane x, fIV) else none

theorem foldl_invalid (p : Nat → Bool) (lane : Nat → Nat) (l : List Nat) (fl : Nat) :
    (l.filterMap (invalidAt p lane)).foldl (fun a x => a ||| x.2) fl = fl ||| if l.any p then fIV else 0 := by
  induction l generalizing fl with
  | nil => exact (Nat.or_zero fl).symm
  | cons x l ih =>
    rw [List.any_cons]
    cases hp : p x with
    | false =>
      have hnone : invalidAt p lane x = none := by rw [invalidAt, hp]; rfl
      rw [List.filterMap_cons_none hnone]
      exact ih fl
    | true =>
      have hsome : invalidAt p lane x = some (lane x, fIV) := by rw [invalidAt, hp]; rfl
      rw [List.filterMap_cons_some hsome]
      exact (ih _).trans ((Nat.or_assoc ..).trans (congrArg (fl ||| ·) (invalid_or _)))

end

/-! ## VQMX -/

section
variable {s : State} {c : Issue} {vd va : BitVec 5} {ty : BitVec 4} {ms : BitVec 6} {et : BitVec 3} {fl : Nat}

/-- Block b has no scale, and the lane of its first element is active. -/
noncomputable def mxBad (f src : Fmt) (v : VReg) (m : Word) (b : Nat) : Bool :=
  (mxScaleOf f src v b).isNone && active m (fmtBits src) (32 * b)

/-- The blocks of VQMX: number, elements, scale. -/
noncomputable def mxBlocks (f src : Fmt) (v : VReg) : List (Nat × List Nat × Option Nat) :=
  (List.range (numElems (fmtBits src) / 32)).map fun b => (b, blockOf (fmtBits src) v b, mxScaleOf f src v b)

/-- The flags of VQMX, by lane. -/
noncomputable def mxFlags (f src : Fmt) (v : VReg) (m : Word) : List (Nat × Nat) :=
  (mxBlocks f src v).filterMap fun x =>
    if x.2.2.isNone && (activeElems m (fmtBits src)).contains (32 * x.1) then some (laneOf (fmtBits src) (32 * x.1), fIV) else none

theorem mxBlocks_elements (f src : Fmt) (v : VReg) : (mxBlocks f src v).flatMap (fun x => match x.2.2 with
    | none => List.replicate 32 0
    | some sc => x.2.1.map (mxQuant f src sc)) = mxElements f src v :=
  (List.flatMap_map ..).trans (flatMap_mxElement f src v _)

theorem mxBlocks_scales (f src : Fmt) (v : VReg) : (mxBlocks f src v).map (fun x => x.2.2.getD 0xFF) = mxScales f src v := List.map_map

theorem mxFlags_eq (f src : Fmt) (v : VReg) (m : Word) : mxFlags f src v m =
    (List.range (numElems (fmtBits src) / 32)).filterMap (invalidAt (mxBad f src v m) fun b => laneOf (fmtBits src) (32 * b)) := by
  refine List.filterMap_map.trans (List.filterMap_congr fun b hb => ?_)
  have hb : 32 * b < numElems (fmtBits src) :=
    (Nat.mul_lt_mul_of_pos_left (List.mem_range.mp hb) (Nat.zero_lt_succ 31)).trans_le (Nat.mul_div_le _ 32)
  have hactive : (activeElems m (fmtBits src)).contains (32 * b) = active m (fmtBits src) (32 * b) := by simp [activeElems, hb]
  exact congrArg (fun a : Bool => if (mxScaleOf f src v b).isNone && a then some (laneOf (fmtBits src) (32 * b), fIV) else none) hactive

theorem exec_vqmx_admits (h : admits s c (.vqmx vd va ty ms et)) : exec (.vqmx vd va ty ms et) s = .next (retire (raiseLanes
    ((opened s c (.vqmx vd va ty ms et)).setVReg c.passed vd.toNat (mxRegister (mxElem ty) (mxSrc et) (c.vreg va.toNat)))
    (mxFlags (mxElem ty) (mxSrc et) (c.vreg va.toNat) c.mask))) := by
  rw [mxRegister, ← mxBlocks_elements, ← mxBlocks_scales]
  exact (exec_vqmx ..).trans (start_admits _ h)

theorem raised_mxFlags (he : c.entry = none) (f src : Fmt) (v : VReg) :
    Raised c ((mxFlags f src v c.mask).foldl (fun d x => Machine.addLane d x.1 x.2) c.passed)
      (if (List.range (numElems (fmtBits src) / 32)).any (mxBad f src v c.mask) then fIV else 0) := by
  have h := (Raised.passed c).addLanes he (mxFlags f src v c.mask)
  rw [mxFlags_eq, foldl_invalid, Nat.zero_or, ← mxFlags_eq] at h
  exact h

/-- A wave's operation that writes a vector register, with flags by lane. -/
theorem lanes_done {i : Instr} (h : runs s c i fl) (he : c.entry = none) (vd : BitVec 5) (v : VReg) (l : List (Nat × Nat))
    (hl : Raised c (l.foldl (fun d x => Machine.addLane d x.1 x.2) c.passed) fl) :
    let t := retire (raiseLanes ((opened s c i).setVReg c.passed vd.toNat v) l)
    vregAt t c vd.toNat = v ∧ onlyVReg s c vd.toNat t ∧ completed s c fl t :=
  vreg_done h he vd.toNat v (fun d : Issue => l.foldl (fun (d : Issue) (x : Nat × Nat) => Machine.addLane d x.1 x.2) d) hl vd.isLt

end

/-! ## What the register holds -/

/-- The source types of VQMX have whole blocks. -/
theorem mx_blocks : ∀ et : BitVec 3, 32 * (numElems (fmtBits (mxSrc et)) / 32) = numElems (fmtBits (mxSrc et)) := by decide

theorem mx_blocks_le : ∀ et : BitVec 3, numElems (fmtBits (mxSrc et)) / 32 ≤ 32 := by decide

/-- The elements leave room for the scales. -/
theorem mx_room : ∀ (ty : BitVec 4) (et : BitVec 3), fmtBits (mxElem ty) * numElems (fmtBits (mxSrc et)) ≤ 1792 := by decide

/-- The elements fill whole bytes. -/
theorem mx_bytes : ∀ (ty : BitVec 4) (et : BitVec 3), fmtBits (mxElem ty) * numElems (fmtBits (mxSrc et)) ≤
    8 * (numElems (fmtBits (mxSrc et)) * fmtBits (mxElem ty) / 8) := by decide

section
variable (ty : BitVec 4) (et : BitVec 3) (v : VReg)

theorem length_mxElements : (mxElements (mxElem ty) (mxSrc et) v).length = numElems (fmtBits (mxSrc et)) :=
  ((List.length_map _).trans List.length_range).trans (mx_blocks et)

theorem length_mxScales : (mxScales (mxElem ty) (mxSrc et) v).length = numElems (fmtBits (mxSrc et)) / 32 :=
  (List.length_map _).trans List.length_range

theorem mxElements_le : fmtBits (mxElem ty) * (mxElements (mxElem ty) (mxSrc et) v).length ≤ 1792 :=
  (congrArg _ (length_mxElements ty et v)).trans_le (mx_room ty et)

theorem mxScales_le : (mxScales (mxElem ty) (mxSrc et) v).length ≤ 32 := (length_mxScales ty et v).trans_le (mx_blocks_le et)

theorem elem_mxRegister {k : Nat} (hk : k < numElems (fmtBits (mxSrc et))) :
    elem (fmtBits (mxElem ty)) (mxRegister (mxElem ty) (mxSrc et) v) k = mxElement (mxElem ty) (mxSrc et) v k % 2 ^ fmtBits (mxElem ty) := by
  rw [mxRegister, elem_mxImage_low (mxElements_le ty et v) (mxScales_le ty et v) ((Nat.mul_le_mul_left _ hk).trans (mx_room ty et)),
    ofElems_get _ _ k ((length_mxElements ty et v).symm ▸ hk), mxElements, getD_map_range _ ((mx_blocks et).symm ▸ hk)]

theorem scale_mxRegister {b : Nat} (hb : b < numElems (fmtBits (mxSrc et)) / 32) :
    elem 8 (mxRegister (mxElem ty) (mxSrc et) v) (224 + b) = (mxScaleOf (mxElem ty) (mxSrc et) v b).getD 0xFF := by
  rw [mxRegister, elem_mxImage_high (mxElements_le ty et v) (mxScales_le ty et v),
    ofElems_get _ _ b ((length_mxScales ty et v).symm ▸ hb), mxScales, getD_map_range _ hb]
  exact Nat.mod_eq_of_lt (Nat.lt_succ_of_le (mxScale_le ..))

theorem zero_mxRegister {b : Nat} (hb : numElems (fmtBits (mxSrc et)) * fmtBits (mxElem ty) / 8 ≤ b)
    (hout : b < 224 ∨ 224 + numElems (fmtBits (mxSrc et)) / 32 ≤ b) : elem 8 (mxRegister (mxElem ty) (mxSrc et) v) b = 0 :=
  zero_mxImage (mxElements_le ty et v) (mxScales_le ty et v)
    ((congrArg _ (length_mxElements ty et v)).trans_le ((mx_bytes ty et).trans (Nat.mul_le_mul_left 8 hb)))
    ((length_mxScales ty et v).symm ▸ hout)

/-- An element of a block without a scale is 0 before the cut and after it. -/
theorem mxElement_mod (f src : Fmt) (v : VReg) (k m : Nat) : mxElement f src v k % m = match mxScaleOf f src v (k / 32) with
    | none => 0
    | some sc => mxQuant f src sc (elem (fmtBits src) v k) % m := by
  unfold mxElement
  cases mxScaleOf f src v (k / 32) with
  | none => exact Nat.zero_mod m
  | some sc => rfl

end

/-- Settles O23: what the register holds, element by element and byte by byte. -/
theorem vectorQuantise : Obligations.VectorQuantise := by
  intro s c vd va ty ms et fl he i w ew block bad _ h hfl
  subst hfl
  obtain ⟨hv, honly, hdone⟩ := lanes_done h he vd (mxRegister (mxElem ty) (mxSrc et) (c.vreg va.toNat)) _ (raised_mxFlags he ..)
  exact ⟨_, exec_vqmx_admits h.1, honly, hdone,
    fun k hk => (congrArg (elem ew · k) hv).trans ((elem_mxRegister ty et _ hk).trans (mxElement_mod ..)),
    fun b hb => (congrArg (elem 8 · (224 + b)) hv).trans (scale_mxRegister ty et _ hb),
    fun b hb _ hout => (congrArg (elem 8 · b) hv).trans (zero_mxRegister ty et _ hb hout)⟩

end Sys2Proof.Machine
end

section
/-!
PROOFS. O1 and O3: words that the decoder reads as their tables say (R143-R146), and two empty slots that it does not read back as named.
-/
namespace Sys2Proof

/-- Settles O1: the decoder evaluates each word. -/
theorem decodedWords : Obligations.DecodedWords := ⟨rfl, rfl, rfl, rfl, rfl, rfl, rfl, rfl, rfl, rfl⟩

/-- Refutes O3: NOP named as the vector operation encodes to the empty slot, which decodes to VNOP. -/
theorem not_dualEncodeDecode : ¬ Obligations.DualEncodeDecode := by
  intro h
  have hnamed : decodeBundle 0 0 0 0 = .ok (.dual .nop .nop) :=
    h .nop .nop 0 0 0 0 0 0 rfl rfl rfl rfl rfl rfl rfl (fun hn => absurd hn Bool.false_ne_true)
      (fun r _ => (Option.some_ne_none r).symm) rfl
  have hread : decodeBundle 0 0 0 0 = .ok (.dual .nop .vnop) := rfl
  obtain ⟨-, hslot⟩ := Bundle.dual.inj (Except.ok.inj (hread.symm.trans hnamed))
  exact Instr.noConfusion hslot

end Sys2Proof
end
